-- ==== Sys2Proof/Word.lean ====
section
/-! DEFINITION. The word types of the Lystal 7196 and the field types of its instructions. -/

namespace Sys2Proof

/-- A scalar register, the PC and every 64-bit register (R97). -/
abbrev Word := BitVec 64

/-- The unit of memory (R2). -/
abbrev Byte := BitVec 8

/-- A 5-bit scalar register field of the 32-bit forms (R55). -/
abbrev SReg := BitVec 5

/-- The fields of a 64-bit instruction that name operands (R57): four 6-bit register fields,
`sa`, `mz`, the mask field and imm16. What a field names depends on the instruction (R58). -/
structure VF where
  d : BitVec 6
  a : BitVec 6
  b : BitVec 6
  c : BitVec 6
  sa : Bool
  m : BitVec 4
  mz : Bool
  imm : BitVec 16
  deriving DecidableEq, Repr

end Sys2Proof
end

