-- ==== Sys2Proof/Syntax.lean ====
section
/-! DEFINITION. The abstract syntax: one constructor per row of the opcode table. The first 93 are
the 32-bit forms (R64), then the convoy header (R60), the 113 forms of 64 bits (R65), and the 92
steps that no instruction encodes. A step's operands, the numbers of the agents and objects it acts on,
are given by the turn that runs it and stand in the state while it runs (`State.args`). -/

namespace Sys2Proof

/-- An instruction or a step of the part. Among the operands of a step, `h` is a hart number (core number times 8 plus slot),
`core` a physical core number (die times 72 plus core), `lu` a memory unit (the line number of a
device line, R240; for host memory 2^42 plus the number of the 64-byte half). -/
inductive Instr where
  /-- ADD (R101): Writes the 64-bit wrapping sum of s[a] and s[b] into s[d]. -/
  | add (d a b : SReg)
  /-- SUB (R101): Writes s[a] minus s[b], wrapping modulo 2^64, into s[d]. -/
  | sub (d a b : SReg)
  /-- AND (R101): Writes the bitwise AND of s[a] and s[b] into s[d]. -/
  | and (d a b : SReg)
  /-- OR (R101): Writes the bitwise OR of s[a] and s[b] into s[d]. -/
  | or (d a b : SReg)
  /-- XOR (R101): Writes the bitwise XOR of s[a] and s[b] into s[d]. -/
  | xor (d a b : SReg)
  /-- SLL (R101): Shifts s[a] left by the low six bits of s[b] into s[d]. -/
  | sll (d a b : SReg)
  /-- SRL (R101): Shifts s[a] right logically by the low six bits of s[b] into s[d]. -/
  | srl (d a b : SReg)
  /-- SRA (R101): Shifts s[a] right arithmetically by the low six bits of s[b] into s[d]. -/
  | sra (d a b : SReg)
  /-- SLT (R101): Writes 1 into s[d] when s[a] is less than s[b] as signed values, else 0. -/
  | slt (d a b : SReg)
  /-- SLTU (R101): Writes 1 into s[d] when s[a] is less than s[b] as unsigned values, else 0. -/
  | sltu (d a b : SReg)
  /-- MIN (R101): Writes the signed minimum of s[a] and s[b] into s[d]. -/
  | min (d a b : SReg)
  /-- MAX (R101): Writes the signed maximum of s[a] and s[b] into s[d]. -/
  | max (d a b : SReg)
  /-- MINU (R101): Writes the unsigned minimum of s[a] and s[b] into s[d]. -/
  | minu (d a b : SReg)
  /-- MAXU (R101): Writes the unsigned maximum of s[a] and s[b] into s[d]. -/
  | maxu (d a b : SReg)
  /-- MUL (R101): Writes the low 64 bits of the product of s[a] and s[b] into s[d]. -/
  | mul (d a b : SReg)
  /-- MULH (R101): Writes the high 64 bits of the signed product into s[d]. -/
  | mulh (d a b : SReg)
  /-- MULHU (R101): Writes the high 64 bits of the unsigned product into s[d]. -/
  | mulhu (d a b : SReg)
  /-- DIV (R102): Writes the signed quotient truncated toward zero into s[d], without trapping. -/
  | div (d a b : SReg)
  /-- DIVU (R102): Writes the unsigned quotient into s[d], all ones for a zero divisor. -/
  | divu (d a b : SReg)
  /-- REM (R102): Writes the signed remainder, with the sign of the dividend, into s[d]. -/
  | rem (d a b : SReg)
  /-- REMU (R102): Writes the unsigned remainder into s[d]. -/
  | remu (d a b : SReg)
  /-- CLZ (R101): Writes the number of leading zero bits of s[a] into s[d]. -/
  | clz (d a : SReg)
  /-- CTZ (R101): Writes the number of trailing zero bits of s[a] into s[d]. -/
  | ctz (d a : SReg)
  /-- POPC (R101): Writes the number of one bits of s[a] into s[d]. -/
  | popc (d a : SReg)
  /-- ADDI (R103): Writes s[a] plus the sign-extended immediate into s[d]. -/
  | addi (d a : SReg) (imm : BitVec 15)
  /-- ANDI (R103): Writes s[a] AND the sign-extended immediate into s[d]. -/
  | andi (d a : SReg) (imm : BitVec 15)
  /-- ORI (R103): Writes s[a] OR the sign-extended immediate into s[d]. -/
  | ori (d a : SReg) (imm : BitVec 15)
  /-- XORI (R103): Writes s[a] XOR the sign-extended immediate into s[d]. -/
  | xori (d a : SReg) (imm : BitVec 15)
  /-- SLTI (R103): Writes 1 into s[d] when s[a] is signed-less than the immediate. -/
  | slti (d a : SReg) (imm : BitVec 15)
  /-- SLTIU (R103): Writes 1 into s[d] when s[a] is unsigned-less than the sign-extended immediate. -/
  | sltiu (d a : SReg) (imm : BitVec 15)
  /-- SLLI (R104): Shifts s[a] left by an immediate amount into s[d]. -/
  | slli (d a : SReg) (sh : BitVec 6)
  /-- SRLI (R104): Shifts s[a] right logically by an immediate amount into s[d]. -/
  | srli (d a : SReg) (sh : BitVec 6)
  /-- SRAI (R104): Shifts s[a] right arithmetically by an immediate amount into s[d]. -/
  | srai (d a : SReg) (sh : BitVec 6)
  /-- LIHI (R105): Writes the sign-extended 20-bit immediate shifted left by 14 into s[d]. -/
  | lihi (d : SReg) (imm : BitVec 20)
  /-- PCADD (R105): Writes PC plus the sign-extended 20-bit immediate shifted left by 14 into s[d]. -/
  | pcadd (d : SReg) (imm : BitVec 20)
  /-- LDB (R251): Loads a byte, sign-extended, into s[d]. -/
  | ldb (d a : SReg) (imm : BitVec 15)
  /-- LDBU (R251): Loads a byte, zero-extended, into s[d]. -/
  | ldbu (d a : SReg) (imm : BitVec 15)
  /-- LDH (R251): Loads a halfword, sign-extended, into s[d]. -/
  | ldh (d a : SReg) (imm : BitVec 15)
  /-- LDHU (R251): Loads a halfword, zero-extended, into s[d]. -/
  | ldhu (d a : SReg) (imm : BitVec 15)
  /-- LDW (R251): Loads a word, sign-extended, into s[d]. -/
  | ldw (d a : SReg) (imm : BitVec 15)
  /-- LDWU (R251): Loads a word, zero-extended, into s[d]. -/
  | ldwu (d a : SReg) (imm : BitVec 15)
  /-- LDD (R251): Loads a doubleword into s[d], popping an entry from a FIFO-mode bank. -/
  | ldd (d a : SReg) (imm : BitVec 15)
  /-- STB (R251): Stores the low byte of s[b]. -/
  | stb (a b : SReg) (imm : BitVec 15)
  /-- STH (R251): Stores the low halfword of s[b]. -/
  | sth (a b : SReg) (imm : BitVec 15)
  /-- STW (R251): Stores the low word of s[b]. -/
  | stw (a b : SReg) (imm : BitVec 15)
  /-- STD (R251): Stores the doubleword s[b], pushing an entry to a FIFO-mode bank. -/
  | std (a b : SReg) (imm : BitVec 15)
  /-- BEQ (R106): Branches when s[a] equals s[b]. -/
  | beq (a b : SReg) (off : BitVec 15)
  /-- BNE (R106): Branches when s[a] differs from s[b]. -/
  | bne (a b : SReg) (off : BitVec 15)
  /-- BLT (R106): Branches when s[a] is signed-less than s[b]. -/
  | blt (a b : SReg) (off : BitVec 15)
  /-- BGE (R106): Branches when s[a] is signed-greater or equal to s[b]. -/
  | bge (a b : SReg) (off : BitVec 15)
  /-- BLTU (R106): Branches when s[a] is unsigned-less than s[b]. -/
  | bltu (a b : SReg) (off : BitVec 15)
  /-- BGEU (R106): Branches when s[a] is unsigned-greater or equal to s[b]. -/
  | bgeu (a b : SReg) (off : BitVec 15)
  /-- CALL (R107): Jumps PC-relative and writes the return address into s[d]. -/
  | call (d : SReg) (off : BitVec 20)
  /-- CALLR (R107): Jumps to s[a] plus an offset with bits [1:0] cleared and writes the link into s[d]. -/
  | callr (d a : SReg) (imm : BitVec 15)
  /-- AMO_ADD (R253): Atomically adds s[b] to memory at s[a] and returns the old value in s[d]. -/
  | amoAdd (scope : BitVec 3) (aq rl wide : Bool) (d a b : SReg)
  /-- AMO_SWAP (R253): Atomically swaps s[b] with memory at s[a], returning the old value. -/
  | amoSwap (scope : BitVec 3) (aq rl wide : Bool) (d a b : SReg)
  /-- AMO_CAS (R253): Atomically compares memory with s[d] and writes s[b] on a match, returning the old value. -/
  | amoCas (scope : BitVec 3) (aq rl wide : Bool) (d a b : SReg)
  /-- AMO_MIN (R253): Atomically writes the signed minimum of memory and s[b], returning the old value. -/
  | amoMin (scope : BitVec 3) (aq rl wide : Bool) (d a b : SReg)
  /-- AMO_MAX (R253): Atomically writes the signed maximum of memory and s[b], returning the old value. -/
  | amoMax (scope : BitVec 3) (aq rl wide : Bool) (d a b : SReg)
  /-- AMO_AND (R253): Atomically ANDs s[b] into memory, returning the old value. -/
  | amoAnd (scope : BitVec 3) (aq rl wide : Bool) (d a b : SReg)
  /-- AMO_OR (R253): Atomically ORs s[b] into memory, returning the old value. -/
  | amoOr (scope : BitVec 3) (aq rl wide : Bool) (d a b : SReg)
  /-- AMO_XOR (R253): Atomically XORs s[b] into memory, returning the old value. -/
  | amoXor (scope : BitVec 3) (aq rl wide : Bool) (d a b : SReg)
  /-- TRAP (R212): Traps with cause 0x10 and the code in trapval. -/
  | trap (code : BitVec 10)
  /-- ERET (R213): Returns from a trap, replaying a partially faulted head entry when status.partial is set. -/
  | eret
  /-- FENCE (R325): Orders earlier reads and/or writes before later accesses for the observers of a scope. -/
  | fence (kind scope : BitVec 5)
  /-- WFA (R214): Waits while the doubleword at s[a] equals s[b], ending on change, interrupt or pre-emption. -/
  | wfa (a b : SReg)
  /-- SNAP (R215): Fires the package snapshot trigger when its die's snapctl.en is set. -/
  | snap
  /-- CFGRD (R203): Reads a CSR into s[d]. -/
  | cfgrd (d : SReg) (csr : BitVec 12)
  /-- CFGWR (R203): Writes s[a] into a CSR and returns the old value in s[d]. -/
  | cfgwr (d a : SReg) (csr : BitVec 12)
  /-- CFGSET (R203): Sets the CSR bits given in s[a] and returns the old value. -/
  | cfgset (d a : SReg) (csr : BitVec 12)
  /-- CFGCLR (R203): Clears the CSR bits given in s[a] and returns the old value. -/
  | cfgclr (d a : SReg) (csr : BitVec 12)
  /-- SETTLE (R269): Carries dirty bytes of a range down to the arrays and draws a settle number for its region. -/
  | settle (d a b : SReg)
  /-- RENEW (R271): Drops clean copies of a range so that later loads of the hart see the arrays. -/
  | renew (a b : SReg)
  /-- DISCARD (R273): Invalidates every cached copy of a range without write-back. -/
  | discard (a b : SReg)
  /-- PREF (R272): Hints a fill of a range into the core's L1 and local level-2 slices. -/
  | pref (a b : SReg)
  /-- REGDEF (R274): Defines a pinned memory region, or releases one when the length is zero. -/
  | regdef (d a b : SReg)
  /-- TLBINV (R392): Broadcasts an invalidation of translations of a range and ASID across the package. -/
  | tlbinv (d a b : SReg)
  /-- TLBWAIT (R393): Waits for every acknowledgement of the hart's earlier TLBINVs, then acquires. -/
  | tlbwait
  /-- BANKCFG (R390): Changes a core SRAM bank's mode among cache, scratchpad and FIFO. -/
  | bankcfg (d a b : SReg)
  /-- CBLD (R391): Loads the core's 1 KiB codebook table. -/
  | cbld (a : SReg)
  /-- RDCNT (R382): Reads a counter into s[d]. -/
  | rdcnt (space : BitVec 6) (d a : SReg)
  /-- WAITC (R383): Waits until a counter reaches a threshold or waitlim expires, returning its value. -/
  | waitc (space : BitVec 6) (d a b : SReg)
  /-- BARARV (R384): Arrives at a barrier, releasing, and closes the round on the last arrival. -/
  | bararv (d a b : SReg)
  /-- BARWAIT (R384): Waits until a barrier's generation exceeds s[b], then acquires it. -/
  | barwait (d a b : SReg)
  /-- RLAUNCH (R403): Checks an RCB and launches its region, returning a result code. -/
  | rlaunch (d a : SReg)
  /-- RWAIT (R403): Waits until a child region has ended and returns its status word. -/
  | rwait (d a : SReg)
  /-- RYIELD (R403): Stops the hart as a pre-emption does and gives up its slot to waiting regions. -/
  | ryield
  /-- REXIT (R403): Ends the hart after its earlier work, or ends the whole region faulted when bit 63 is set. -/
  | rexit (a : SReg)
  /-- NEXTIT (R403): Takes the next loop-nest iteration into s4-s9, or returns 0 when none remain. -/
  | nextit (d : SReg)
  /-- CPGO (R352): Releases, checks a loop-nest record and pushes it as a copy command to a channel. -/
  | cpgo (d a b : SReg)
  /-- IPGO (R276): Releases and pushes an in-place command record into the hart's in-place FIFO. -/
  | ipgo (d a : SReg)
  /-- EPUSH (R348): Pushes s[b] as one entry into a FIFO-mode bank. -/
  | epush (a b : SReg)
  /-- EPOP (R349): Pops one entry from a FIFO-mode bank, or one word of a fault or error record. -/
  | epop (d a : SReg)
  /-- CONVOY_HEADER (R60): Declares that the next k 64-bit instructions form a convoy and names each member's unit. -/
  | convoyHeader (s6 s5 s4 s3 s2 s1 : BitVec 4) (k : BitVec 3)
  /-- VCFG (R209): Writes vcfg, adopts L, recomputes vlmax and clears vl and vlpad. -/
  | vcfg (f : VF)
  /-- SETVL (R210): Sets format and block length and grants a vector length into vl and s[d]. -/
  | setvl (f : VF)
  /-- VADD (R121): Element-wise integer add. -/
  | vadd (f : VF)
  /-- VSUB (R121): Element-wise integer subtract. -/
  | vsub (f : VF)
  /-- VMUL (R121): Element-wise integer multiply, low bits. -/
  | vmul (f : VF)
  /-- VMULH (R121): Element-wise signed multiply, high bits. -/
  | vmulh (f : VF)
  /-- VMULHU (R121): Element-wise unsigned multiply, high bits. -/
  | vmulhu (f : VF)
  /-- VMIN (R121): Element-wise signed minimum. -/
  | vmin (f : VF)
  /-- VMAX (R121): Element-wise signed maximum. -/
  | vmax (f : VF)
  /-- VMINU (R121): Element-wise unsigned minimum. -/
  | vminu (f : VF)
  /-- VMAXU (R121): Element-wise unsigned maximum. -/
  | vmaxu (f : VF)
  /-- VAND (R121): Element-wise bitwise AND. -/
  | vand (f : VF)
  /-- VOR (R121): Element-wise bitwise OR. -/
  | vor (f : VF)
  /-- VXOR (R121): Element-wise bitwise XOR. -/
  | vxor (f : VF)
  /-- VSLL (R121): Element-wise logical left shift. -/
  | vsll (f : VF)
  /-- VSRL (R121): Element-wise logical right shift. -/
  | vsrl (f : VF)
  /-- VSRA (R121): Element-wise arithmetic right shift. -/
  | vsra (f : VF)
  /-- VADDSAT (R121): Element-wise saturating signed add, setting SAT when clamped. -/
  | vaddsat (f : VF)
  /-- VSUBSAT (R121): Element-wise saturating signed subtract, setting SAT when clamped. -/
  | vsubsat (f : VF)
  /-- VCMPEQ (R121): Writes a mask bit per element where the integer sources are equal. -/
  | vcmpeq (f : VF)
  /-- VCMPLT (R121): Writes a mask bit per element where a is signed-less than b. -/
  | vcmplt (f : VF)
  /-- VCMPLTU (R121): Writes a mask bit per element where a is unsigned-less than b. -/
  | vcmpltu (f : VF)
  /-- VFADD (R122): Element-wise floating-point add. -/
  | vfadd (rm : BitVec 3) (f : VF)
  /-- VFSUB (R122): Element-wise floating-point subtract. -/
  | vfsub (rm : BitVec 3) (f : VF)
  /-- VFMUL (R122): Element-wise floating-point multiply. -/
  | vfmul (rm : BitVec 3) (f : VF)
  /-- VFMA (R122): Element-wise fused multiply-add a×b+c. -/
  | vfma (rm : BitVec 3) (f : VF)
  /-- VFMS (R122): Element-wise fused multiply-subtract a×b−c. -/
  | vfms (rm : BitVec 3) (f : VF)
  /-- VFNMA (R122): Element-wise negated fused multiply-add −a×b+c. -/
  | vfnma (rm : BitVec 3) (f : VF)
  /-- VFMIN (R122): Element-wise floating-point minimum. -/
  | vfmin (rm : BitVec 3) (f : VF)
  /-- VFMAX (R122): Element-wise floating-point maximum. -/
  | vfmax (rm : BitVec 3) (f : VF)
  /-- VFABS (R122): Clears the sign bit of each element. -/
  | vfabs (rm : BitVec 3) (f : VF)
  /-- VFNEG (R122): Inverts the sign bit of each element. -/
  | vfneg (rm : BitVec 3) (f : VF)
  /-- VFCMPEQ (R122): Writes a mask bit per element where the floats are equal. -/
  | vfcmpeq (rm : BitVec 3) (f : VF)
  /-- VFCMPLT (R122): Writes a mask bit per element where a < b. -/
  | vfcmplt (rm : BitVec 3) (f : VF)
  /-- VFCMPLE (R122): Writes a mask bit per element where a ≤ b. -/
  | vfcmple (rm : BitVec 3) (f : VF)
  /-- VFCLASS (R122): Writes the class bits of each float element as an integer. -/
  | vfclass (rm : BitVec 3) (f : VF)
  /-- VFRCP (R92): Element-wise reciprocal rounded to 12 significant bits. -/
  | vfrcp (f : VF)
  /-- VFRSQ (R92): Element-wise reciprocal square root rounded to 12 significant bits. -/
  | vfrsq (f : VF)
  /-- VFRCPS (R93): One Newton step refining a reciprocal estimate. -/
  | vfrcps (f : VF)
  /-- VFRSQS (R93): One Newton step refining a reciprocal square root estimate. -/
  | vfrsqs (f : VF)
  /-- VFEXP2 (R123): Element-wise correctly rounded 2^a. -/
  | vfexp2 (f : VF)
  /-- VFLOG2 (R123): Element-wise correctly rounded log2 a. -/
  | vflog2 (f : VF)
  /-- VFTANH (R123): Element-wise correctly rounded tanh a. -/
  | vftanh (f : VF)
  /-- VCVT (R124): Converts each element from the captured format to the target format. -/
  | vcvt (rm : BitVec 3) (sat : Bool) (f : VF)
  /-- VQNT (R125): Quantises FP32 blocks into a blocked format, writing scales and zero points. -/
  | vqnt (rm : BitVec 3) (sat : Bool) (f : VF)
  /-- VDQNT (R126): Dequantises blocked elements into FP32, BF16 or FP16. -/
  | vdqnt (rm : BitVec 3) (sat : Bool) (f : VF)
  /-- VCBDEC (R127): Decodes CB2 codebook indices into BF16 weights. -/
  | vcbdec (rm : BitVec 3) (sat : Bool) (f : VF)
  /-- VREDSUM (R128): Integer tree sum per segment. -/
  | vredsum (f : VF)
  /-- VREDMIN (R128): Integer minimum per segment. -/
  | vredmin (f : VF)
  /-- VREDMAX (R128): Integer maximum per segment. -/
  | vredmax (f : VF)
  /-- VFREDSUM (R128): Floating-point pairwise-tree sum per segment. -/
  | vfredsum (f : VF)
  /-- VFREDMIN (R128): Floating-point minimum per segment. -/
  | vfredmin (f : VF)
  /-- VFREDMAX (R128): Floating-point maximum per segment. -/
  | vfredmax (f : VF)
  /-- VPERM (R143): Permutes elements by an index vector. -/
  | vperm (f : VF)
  /-- VSLIDEUP (R144): Slides elements up by a scalar offset. -/
  | vslideup (f : VF)
  /-- VSLIDEDN (R144): Slides elements down by a scalar offset. -/
  | vslidedn (f : VF)
  /-- VCOMPRESS (R145): Packs the selected elements to the bottom of the destination. -/
  | vcompress (f : VF)
  /-- VEXPAND (R145): Spreads consecutive source elements to the selected positions. -/
  | vexpand (f : VF)
  /-- VGTRN (R146): Transposes a group of registers. -/
  | vgtrn (f : VF)
  /-- VQTRN (R147): Transposes a blocked register group, re-expressing blocks at a common scale. -/
  | vqtrn (f : VF)
  /-- VBSLL (R148): Shifts a vector's whole bit string left. -/
  | vbsll (f : VF)
  /-- VBSRL (R148): Shifts a vector's whole bit string right. -/
  | vbsrl (f : VF)
  /-- VBFSL (R148): Funnel-shifts two vector bit strings left. -/
  | vbfsl (f : VF)
  /-- VBFSR (R148): Funnel-shifts two vector bit strings right. -/
  | vbfsr (f : VF)
  /-- MAND (R137): ANDs two mask registers. -/
  | mand (f : VF)
  /-- MOR (R137): ORs two mask registers. -/
  | mor (f : VF)
  /-- MXOR (R137): XORs two mask registers. -/
  | mxor (f : VF)
  /-- MANDN (R137): ANDs a mask with the complement of another. -/
  | mandn (f : VF)
  /-- MSET (R137): Sets mask bits below a scalar count. -/
  | mset (f : VF)
  /-- MPOPC (R138): Counts selected mask bits and delivers the count through the read-back queue. -/
  | mpopc (f : VF)
  /-- MFIRST (R138): Delivers the lowest selected mask bit position through the read-back queue. -/
  | mfirst (f : VF)
  /-- VMV (R139): Copies vector elements. -/
  | vmv (f : VF)
  /-- VMVS (R140): Delivers one vector element to a scalar register through the read-back queue. -/
  | vmvs (f : VF)
  /-- VINS (R140): Inserts a scalar into one vector element. -/
  | vins (f : VF)
  /-- VBCAST (R139): Broadcasts a scalar or one element to every element. -/
  | vbcast (f : VF)
  /-- VIOTA (R141): Writes the count of set mask bits below each position. -/
  | viota (f : VF)
  /-- VMERGE (R142): Selects each element from a or b by the mask. -/
  | vmerge (f : VF)
  /-- VLD (R257): Unit-stride vector load. -/
  | vld (hint : BitVec 2) (f : VF)
  /-- VLDS (R257): Strided vector load. -/
  | vlds (hint : BitVec 2) (f : VF)
  /-- VLDX (R257): Indexed vector gather load. -/
  | vldx (hint : BitVec 2) (f : VF)
  /-- VST (R259): Unit-stride vector store. -/
  | vst (f : VF)
  /-- VSTS (R259): Strided vector store. -/
  | vsts (f : VF)
  /-- VSTX (R259): Indexed vector scatter store. -/
  | vstx (f : VF)
  /-- VAMO (R260): Per-element atomic read-modify-write at the home slice, one locked pass set per line. -/
  | vamo (op : BitVec 4) (old : Bool) (f : VF)
  /-- VUPD (R261): Adds each element into the core's update-only partial under an operator tag. -/
  | vupd (tag : BitVec 4) (f : VF)
  /-- SMLD (R157): Loads each instance's small-matrix block from memory. -/
  | smld (f : VF)
  /-- SMST (R157): Stores each instance's small-matrix block to memory. -/
  | smst (f : VF)
  /-- SMGET (R158): Copies one row of a small matrix to a vector. -/
  | smget (f : VF)
  /-- SMPUT (R158): Copies a vector into one row of a small matrix. -/
  | smput (f : VF)
  /-- SMID (R158): Writes an identity block. -/
  | smid (f : VF)
  /-- SMADD (R158): Adds two small matrices. -/
  | smadd (f : VF)
  /-- SMSCL (R158): Scales a small matrix by an FP32 scalar. -/
  | smscl (f : VF)
  /-- SMMUL (R159): Multiplies two small matrices. -/
  | smmul (f : VF)
  /-- SMMA (R159): Multiplies and accumulates into a small matrix. -/
  | smma (f : VF)
  /-- SMTR (R158): Transposes a small matrix. -/
  | smtr (f : VF)
  /-- SMMV (R159): Multiplies a small matrix by a vector. -/
  | smmv (f : VF)
  /-- SMCHOL (R160): Computes the Cholesky factor of each instance, flagging non-positive-definite ones. -/
  | smchol (f : VF)
  /-- SMLU (R161): Computes a pivoted LU factorisation of each instance. -/
  | smlu (f : VF)
  /-- SMSOLV (R162): Solves a triangular system per instance. -/
  | smsolv (f : VF)
  /-- MCFG (R169): Sets the streamed-row and plane-load formats of the matrix engine. -/
  | mcfg (f : VF)
  /-- MLDW (R172): Loads 4096 weights into the shadow plane. -/
  | mldw (f : VF)
  /-- MSWAP (R180): Exchanges the active and shadow weight planes. -/
  | mswap (f : VF)
  /-- MSTRM (R174): Streams rows through the active plane, accumulating into an accumulator. -/
  | mstrm (f : VF)
  /-- MDRN (R177): Drains an accumulator into vector registers, optionally through a projection. -/
  | mdrn (f : VF)
  /-- MZERO (R180): Sets every entry of an accumulator to +0. -/
  | mzero (f : VF)
  /-- MSPL (R181): Spills an engine object to memory. -/
  | mspl (f : VF)
  /-- MFIL (R181): Fills an engine object from memory after checking it. -/
  | mfil (f : VF)
  /-- VPROJ (R196): Projects rows held in vector registers onto a convex set and writes row records. -/
  | vproj (f : VF)
  /-- VPJADJ (R198): Carries a gradient back through a recorded projection. -/
  | vpjadj (f : VF)
  /-- VSAVE (R219): Saves vector, mask, small-matrix and configuration state into the save area. -/
  | vsave (f : VF)
  /-- VREST (R219): Restores vector, mask, small-matrix and configuration state from the save area. -/
  | vrest (f : VF)
  /-- VQSAVE (R344): Writes the frozen vector queue image to the save area and empties the queue. -/
  | vqsave (f : VF)
  /-- VQREST (R344): Refills the vector queue from a saved image after checking it. -/
  | vqrest (f : VF)
  /-- READ_BACK_DELIVERY (R335): A value produced by the vector side is written into its pending scalar destination. Operands: h. -/
  | readBackDelivery
  /-- TAKE_INTERRUPT (R368): Takes the lowest pending interrupt at a scalar boundary while ie is 1. Operands: h. -/
  | takeInterrupt
  /-- SCHEDULER_ENTRY (R343): An accepted pre-emption request stops the head and enters SCHEDENT with cause 0x11. Operands: h. -/
  | schedulerEntry
  /-- REGION_BIND (R399): The scheduler gives a region a whole core, setting modes, budgets and engine owner. Operands: core, rcb. -/
  | regionBind
  /-- CORE_TAKEOVER (R400): A higher-priority or quantum-expired waiting region takes a core, pre-empting its harts. Operands: core. -/
  | coreTakeover
  /-- BUDGET_STOP (R401): A region whose used count reaches its cycle budget stops with its descendants. Operands: rcb. -/
  | budgetStop
  /-- PARK (R30): A hart blocked in WAITC for waityield cycles is parked and its partition freed. Operands: h. -/
  | park
  /-- PARKED_RESUME (R30): A freed partition goes to the longest-parked hart whose wait condition holds. Operands: core. -/
  | parkedResume
  /-- ITERATION_DISPATCH (R402): The walker hands the next iteration to a free logical hart. Operands: rcb, lh. -/
  | iterationDispatch
  /-- REGION_COMPLETE (R403): An ending region whose harts, FIFOs, copies and children have finished writes its final state. Operands: rcb. -/
  | regionComplete
  /-- FILL_REQUEST (R286): A core's fill or renewal request reaches the die slice, which extends rts and replies. Operands: core, lu. -/
  | fillRequest
  /-- GETW (R287): A core asks its die slice for a write lease on a line. Operands: core, lu. -/
  | getw
  /-- RECALL (R288): A die slice recalls a write lease; the holder writes back and keeps an S copy. Operands: die, lu. -/
  | recall
  /-- DIE_GETU (R291): A core asks its die slice for update-only permission under a tag. Operands: core, lu, tag. -/
  | dieGetu
  /-- MERGE_REQUEST (R297): A die slice asks a U holder core for its partial, which it returns and drops to I. Operands: die, lu. -/
  | mergeRequest
  /-- U_COPY_EVICTION (R299): A core evicts a U copy and the slice combines its partial into the base. Operands: core, lu. -/
  | uCopyEviction
  /-- LEASE_RENEWAL (R292): At half a lease window a live holder renews its copy with the die slice. Operands: core, lu. -/
  | leaseRenewal
  /-- LEASE_HOLDER_TIMEOUT (R292): A holder without a reply by seven eighths of the window drops its copy. Operands: core, lu. -/
  | leaseHolderTimeout
  /-- LEASE_EXPIRY (R293): A W or U holder's full window lapses at the die slice; the slice drops it and reports. Operands: die, lu. -/
  | leaseExpiry
  /-- TIMESTAMP_ROLLOVER (R289): A die whose timestamps would pass 2^47 writes back and resets every timestamp. Operands: die. -/
  | timestampRollover
  /-- GETS (R307): A die asks the home for a read copy of a line. Operands: die, lu. -/
  | gets
  /-- GETM (R307): A die asks the home for an exclusive copy with data. Operands: die, lu. -/
  | getm
  /-- UPG (R307): A die in S or O asks the home for exclusive rights without data. Operands: die, lu. -/
  | upg
  /-- PUTM (R307): An M owner writes back its dirty bytes to the home. Operands: die, lu. -/
  | putm
  /-- PUTO (R307): An O owner writes back its data to the home. Operands: die, lu. -/
  | puto
  /-- PUTE (R307): An E owner drops its clean line at the home. Operands: die, lu. -/
  | pute
  /-- PUTU (R306): A die evicting a U line sends its partial to the home unasked. Operands: die, lu. -/
  | putu
  /-- FWDGETS (R306): The home asks the owner to send read data to a requester. Operands: die, lu. -/
  | fwdgets
  /-- FWDGETM (R306): The home asks the owner to send exclusive data to a requester and drop its copy. Operands: die, lu. -/
  | fwdgetm
  /-- INV (R306): The home tells a holder die to drop its copy, with RENEW and DISCARD forms. Operands: die, lu. -/
  | inv
  /-- INVACK (R306): A die acknowledges an invalidation to the requester or home. Operands: die, lu. -/
  | invack
  /-- DATA (R306): Line data with exclusive bit and InvAck count reaches a requester. Operands: die, lu. -/
  | data
  /-- ACK_TO_DIE (R306): The home grants an Upg or GetU or accepts a Put. Operands: die, lu. -/
  | ackToDie
  /-- ACK_TO_HOME (R307): A requester tells the home its transaction is complete, ending the home's busy state. Operands: die, lu. -/
  | ackToHome
  /-- GETU (R307): A die asks the home for update-only permission under a tag. Operands: die, lu, tag. -/
  | getu
  /-- MRGREQ (R310): The home asks a U holder die to merge its cores' partials. Operands: die, lu. -/
  | mrgreq
  /-- MRGDATA (R311): A U holder die returns its die result with touched bits to the home. Operands: die, lu. -/
  | mrgdata
  /-- HOST_MEMRD (R314): A host CXL.mem read of a device half, setting it shared. Operands: half. -/
  | hostMemrd
  /-- HOST_OWNERSHIP_REQUEST (R314): A host request for ownership of a half invalidates every die copy of the line. Operands: half. -/
  | hostOwnershipRequest
  /-- HOST_MEMWR (R314): A host write-back of an owned half into the home copy. Operands: half, val. -/
  | hostMemwr
  /-- HOST_SNPDATA (R316): A host snoop for data of a cached host half. Operands: half. -/
  | hostSnpdata
  /-- HOST_SNPINV (R316): A host snoop invalidating a cached host half. Operands: half. -/
  | hostSnpinv
  /-- HOST_SNPCUR (R316): A host snoop for the current value of a cached host half. Operands: half. -/
  | hostSnpcur
  /-- HOST_BAR2_READ (R424): A host BAR2 read performed as a home operation at system scope. Operands: off, n, and for one that
  waits 1 more than the address it named. -/
  | hostBar2Read
  /-- HOST_BAR2_WRITE (R424): A host BAR2 write performed in the live image at system scope. Operands: off, n, val, relaxed
  ordering, and for one that waits 1 more than the address it named. -/
  | hostBar2Write
  /-- PEER_REQUEST (R312): A remote load, store or atomic from a fabric peer performed at the home slice. Operands: op, addr, n, val, expected, then
  address and value of each further element of an atomic on the line. -/
  | peerRequest
  /-- SETTLE_COMPLETE (R270): A settle's lines reach the arrays and the region watermark advances. Operands: region, num. -/
  | settleComplete
  /-- IPCMD_DISPATCH (R360): The next in-place command leaves a hart's FIFO to the base-die units. Operands: h. -/
  | ipcmdDispatch
  /-- IPCMD_COMPLETE (R276): An in-place command's destination granules are written and the watermark advances. Operands: h, id. -/
  | ipcmdComplete
  /-- COPY_CHUNK (R353): A copy channel translates and moves or fills one chunk. Operands: core, ch. -/
  | copyChunk
  /-- COPY_COMMAND_COMPLETE (R354): A copy command's writes perform and the channel watermark advances. Operands: core, ch. -/
  | copyCommandComplete
  /-- CPCTL_ABORT (R357): A supervisor aborts a halted channel's command, advancing the watermark. Operands: h, ch. -/
  | cpctlAbort
  /-- CPCTL_RETRY (R357): A supervisor retries a halted channel's faulted chunk. Operands: h, ch. -/
  | cpctlRetry
  /-- TLBINV_ACKNOWLEDGE (R392): A core, channel or walker drops matching translations, drains and acknowledges. Operands: h, agent. -/
  | tlbinvAcknowledge
  /-- FIFO_BANK_WAKE (R347): A waiting push or pop on a FIFO-mode bank proceeds when room or an entry appears. Operands: h. -/
  | fifoBankWake
  /-- SCRUB_ROW (R432): A base-die unit scrubs a row, correcting or poisoning granules and scoring the row. Operands: stack, row. -/
  | scrubRow
  /-- SCORE_HALVING (R394): Every hot-list score halves once each half-life. Operands: die. -/
  | scoreHalving
  /-- LAUNCH_WRITE (R225): A host write to LAUNCH is accepted, refused or counted as an overrun. Operands: die, val. -/
  | launchWrite
  /-- LTAKE_LOAD (R225): A device load of LTAKE returns LAUNCH and clears it in one step. Operands: h, die, d. -/
  | ltakeLoad
  /-- LSTAT_OVERRUN_CLEAR (R225): A host write of 1 clears the overrun bit of LSTAT. Operands: die. -/
  | lstatOverrunClear
  /-- LDONE_WRITE (R225): Firmware writes LDONE with the next count, raising the die's MSI-X vector. Operands: die, val. -/
  | ldoneWrite
  /-- ERROWN_WRITE (R227): Selects the error queue consumer, signalling MSI-X 8 on a change to host with records queued. Operands: die, val, by a hart. -/
  | errownWrite
  /-- ERRPOP_WRITE (R227): A host write removes the head error record when ERROWN is 1. Operands: die. -/
  | errpopWrite
  /-- HOSTERR_WRITE (R223): A host write that takes effect resets the ignored-access count to 0. Operands: val. -/
  | hosterrWrite
  /-- BISTCTL_GO (R229): Starts a self-test of a retired unit or an unbound die. Operands: die, val. -/
  | bistctlGo
  /-- BIST_COMPLETE (R229): A self-test ends, writing BISTSTAT and raising MSI-X 10. Operands: die, fails. -/
  | bistComplete
  /-- RETREQ_LANE_GROUP (R231): Retires a lane group without reset. Operands: die, val. -/
  | retreqLaneGroup
  /-- RETREQ_SLICE_WAY (R433): Retires a level-2 slice way after writing back and merging its lines. Operands: die, val. -/
  | retreqSliceWay
  /-- RETREQ_LINK_PORT (R433): Retires a Gulkel link port and moves its traffic. Operands: die, val. -/
  | retreqLinkPort
  /-- RETROW_GO (R230): Forces the retirement of a DRAM row. Operands: die, val. -/
  | retrowGo
  /-- SNAPTRIG_WRITE (R232): A host write fires the package snapshot trigger. Operands: val. -/
  | snaptrigWrite
  /-- SNAPIN_TRIGGER (R434): A low pulse on SNAPIN fires the snapshot trigger when a die enables the pin. -/
  | snapinTrigger
  /-- SNAPSHOT_LATCH (R434): Every block latches its snapshot data 1 µs after a trigger. -/
  | snapshotLatch
  /-- PORTCTL_RETIRE (R233): Writing 0 to PORTCTL retires the port. Operands: p. -/
  | portctlRetire
  /-- PORTCTL_TRAIN (R233): Writing 1 to a retired port starts training. Operands: p. -/
  | portctlTrain
  /-- PORT_TRAINING_DONE (R430): A port finishes training up, learning its peer's FABID, or falls back down. Operands: p, up, dev, peer. -/
  | portTrainingDone
  /-- PORT_DOWN (R430): A port goes down and its in-flight messages resend on another port to the peer. Operands: p. -/
  | portDown
  /-- FLIT_CRC_RETRY (R429): A flit failing CRC is resent from the replay buffer and counted. Operands: p. -/
  | flitCrcRetry
  /-- FWCTL_RESTORE (R428): Copies the recovery image into the bank not last booted. -/
  | fwctlRestore
  /-- FWCTL_PROGRAM (R428): Verifies an image and writes it into the bank not last booted. -/
  | fwctlProgram
  /-- FWCTL_ENROL (R428): Writes an owner key into the next free owner slot. -/
  | fwctlEnrol
  /-- FWCTL_REVOKE (R428): Blows the vendor key's revocation fuse. -/
  | fwctlRevoke
  /-- FWCTL_COMPLETE (R428): A firmware operation finishes and FWSTAT shows its result. Operand: 1 for a flash error
  (R425), else 0. -/
  | fwctlComplete
  /-- REGISTER_WRITE (R221): A write to a host register without behaviour of its own, ignored and counted when invalid. Operands: off, n, val. -/
  | registerWrite
  /-- CLOCK_THROTTLE_STEP (R234): Every 1 ms over a power or heat limit the clock drops 100 MHz, or rises once under. -/
  | clockThrottleStep
  /-- POWER_ON (R426): The module runs its power-on phases through self-test, training and firmware load. Operands: recov, enrol, then the failures. -/
  | powerOn
  /-- POWER_DOMAIN_LOSS (R435): Loss of a power domain resets what it powers and restarts the power-on sequence. Operands: dom, then the failures. -/
  | powerDomainLoss
  /-- THERMAL_SHUTDOWN (R435): A die reaching 115 °C removes power from the compute and stack domains. Operands: die. -/
  | thermalShutdown
  /-- WAITLIM_EXPIRY (R383): A WAITC whose waitlim runs out before the counter reaches the threshold returns the last value read. Operands: h. -/
  | waitlimExpiry
  /-- PEER_RESPONSE (R312): A fabric peer's acknowledgement or data for this device's remote load, store or atomic arrives and the outstanding remote write count falls. Operands: id, val. -/
  | peerResponse
  /-- HOST_CACHE_RESPONSE (R316): The host's CXL.cache response or data for a RdShared, RdOwn, DirtyEvict or CleanEvict of a host-memory half arrives at the bridge. Operands: half, val. -/
  | hostCacheResponse
  /-- BACK_INVALIDATION_RESPONSE (R315): The host answers a BISnpInv or BISnpData, completing the back-invalidation so the half-state changes and waiting host requests proceed. Operands: half, val. -/
  | backInvalidationResponse
  deriving DecidableEq, Repr

end Sys2Proof
end

