-- ==== Sys2Proof/WellFormed.lean ====
section
/-! DEFINITION. Which instruction terms have an encoding: the field rules of R54, R58, R59 and the
role tables of the instruction chapters, as one table of roles and one check. -/

namespace Sys2Proof

/-- What a register field of a 64-bit instruction names (R58). -/
inductive Role where
  /-- Not used: must be zero. -/
  | zero
  /-- A vector register; an index at or above N faults with cause 0x03, not here. -/
  | vec
  /-- A scalar register: bit 5 of the field is zero. -/
  | scal
  /-- A mask register 0–15. -/
  | mask
  /-- A destination mask register 1–15. -/
  | maskDst
  /-- A small-matrix register 0–7 (R155). -/
  | gmat
  /-- An accumulator 0–3 (R168). -/
  | acc
  deriving DecidableEq, Repr

/-- Whether field a may or must be a scalar register (R58). -/
inductive SaRule where
  | no | required | optional
  deriving DecidableEq, Repr

/-- Whether an instruction takes a mask and `mz` (R59). -/
inductive MaskRule where
  | no | mask | maskZero
  deriving DecidableEq, Repr

/-- The roles of the fields of one 64-bit instruction; `imm` has a one at each bit of imm16 that the
instruction gives a meaning. -/
structure Roles where
  d : Role := .zero
  a : Role := .zero
  b : Role := .zero
  c : Role := .zero
  sa : SaRule := .no
  mask : MaskRule := .no
  imm : BitVec 16 := 0
  deriving DecidableEq, Repr

/-- A field value its role admits. -/
def roleOk (r : Role) (x : BitVec 6) : Bool :=
  match r with
  | .zero => x == 0
  | .vec => true
  | .scal => decide (x.toNat < 32)
  | .mask => decide (x.toNat < 16)
  | .maskDst => decide (x.toNat < 16) && x != 0
  | .gmat => decide (x.toNat < 8)
  | .acc => decide (x.toNat < 4)

/-- The encoding checks of one 64-bit instruction (R58, R59). -/
def rolesOk (r : Roles) (f : VF) : Bool :=
  roleOk r.d f.d && roleOk r.b f.b && roleOk r.c f.c &&
  (match r.sa with
   | .no => !f.sa && roleOk r.a f.a
   | .required => f.sa && roleOk .scal f.a
   | .optional => roleOk (if f.sa then .scal else r.a) f.a) &&
  (match r.mask with
   | .no => f.m == 0 && !f.mz
   | .mask => !f.mz
   | .maskZero => !(f.mz && f.m == 0)) &&
  (f.imm &&& ~~~r.imm) == 0

/-- Field c under a rounding field: the bias base for rm 6 and 7, else unused (R122, R124). -/
def biasRole (rm : BitVec 3) : Role := if rm.toNat < 6 then .zero else .vec

/-- The CSR numbers that R202 lists. -/
def csrListed (n : BitVec 12) : Bool :=
  [0x000, 0x001, 0x002, 0x010, 0x011, 0x012, 0x013, 0x014, 0x015, 0x016, 0x020, 0x021, 0x030,
   0x031, 0x032, 0x033, 0x034, 0x035, 0x036, 0x037, 0x040, 0x041, 0x050, 0x051, 0x060, 0x061,
   0x070, 0x071, 0x072, 0x080, 0x090, 0x0A0, 0x0A1].contains n.toNat

/-- The role table of the 64-bit instructions: R120, R133, R155, R168, R186, R209, R210, R216, R255. -/
def rolesOf : Instr → Option (Roles × VF)
  | .vcfg f => some ({ imm := 0xffff }, f)
  | .setvl f => some ({ d := .scal, a := .scal, sa := .required, imm := 0xffff }, f)
  | .vadd f => some ({ d := .vec, a := .vec, b := .vec, sa := .optional, mask := .maskZero }, f)
  | .vsub f => some ({ d := .vec, a := .vec, b := .vec, sa := .optional, mask := .maskZero }, f)
  | .vmul f => some ({ d := .vec, a := .vec, b := .vec, sa := .optional, mask := .maskZero }, f)
  | .vmulh f => some ({ d := .vec, a := .vec, b := .vec, sa := .optional, mask := .maskZero }, f)
  | .vmulhu f => some ({ d := .vec, a := .vec, b := .vec, sa := .optional, mask := .maskZero }, f)
  | .vmin f => some ({ d := .vec, a := .vec, b := .vec, sa := .optional, mask := .maskZero }, f)
  | .vmax f => some ({ d := .vec, a := .vec, b := .vec, sa := .optional, mask := .maskZero }, f)
  | .vminu f => some ({ d := .vec, a := .vec, b := .vec, sa := .optional, mask := .maskZero }, f)
  | .vmaxu f => some ({ d := .vec, a := .vec, b := .vec, sa := .optional, mask := .maskZero }, f)
  | .vand f => some ({ d := .vec, a := .vec, b := .vec, sa := .optional, mask := .maskZero }, f)
  | .vor f => some ({ d := .vec, a := .vec, b := .vec, sa := .optional, mask := .maskZero }, f)
  | .vxor f => some ({ d := .vec, a := .vec, b := .vec, sa := .optional, mask := .maskZero }, f)
  | .vsll f => some ({ d := .vec, a := .vec, b := .vec, sa := .optional, mask := .maskZero }, f)
  | .vsrl f => some ({ d := .vec, a := .vec, b := .vec, sa := .optional, mask := .maskZero }, f)
  | .vsra f => some ({ d := .vec, a := .vec, b := .vec, sa := .optional, mask := .maskZero }, f)
  | .vaddsat f => some ({ d := .vec, a := .vec, b := .vec, sa := .optional, mask := .maskZero }, f)
  | .vsubsat f => some ({ d := .vec, a := .vec, b := .vec, sa := .optional, mask := .maskZero }, f)
  | .vcmpeq f => some ({ d := .maskDst, a := .vec, b := .vec, sa := .optional, mask := .maskZero }, f)
  | .vcmplt f => some ({ d := .maskDst, a := .vec, b := .vec, sa := .optional, mask := .maskZero }, f)
  | .vcmpltu f => some ({ d := .maskDst, a := .vec, b := .vec, sa := .optional, mask := .maskZero }, f)
  | .vfadd rm f => some ({ d := .vec, a := .vec, b := .vec, c := biasRole rm, sa := .optional, mask := .maskZero }, f)
  | .vfsub rm f => some ({ d := .vec, a := .vec, b := .vec, c := biasRole rm, sa := .optional, mask := .maskZero }, f)
  | .vfmul rm f => some ({ d := .vec, a := .vec, b := .vec, c := biasRole rm, sa := .optional, mask := .maskZero }, f)
  | .vfma _ f => some ({ d := .vec, a := .vec, b := .vec, c := .vec, sa := .optional, mask := .maskZero }, f)
  | .vfms _ f => some ({ d := .vec, a := .vec, b := .vec, c := .vec, sa := .optional, mask := .maskZero }, f)
  | .vfnma _ f => some ({ d := .vec, a := .vec, b := .vec, c := .vec, sa := .optional, mask := .maskZero }, f)
  | .vfmin rm f => some ({ d := .vec, a := .vec, b := .vec, c := biasRole rm, sa := .optional, mask := .maskZero }, f)
  | .vfmax rm f => some ({ d := .vec, a := .vec, b := .vec, c := biasRole rm, sa := .optional, mask := .maskZero }, f)
  | .vfabs rm f => some ({ d := .vec, a := .vec, c := biasRole rm, sa := .optional, mask := .maskZero }, f)
  | .vfneg rm f => some ({ d := .vec, a := .vec, c := biasRole rm, sa := .optional, mask := .maskZero }, f)
  | .vfcmpeq rm f => some ({ d := .maskDst, a := .vec, b := .vec, c := biasRole rm, sa := .optional, mask := .maskZero }, f)
  | .vfcmplt rm f => some ({ d := .maskDst, a := .vec, b := .vec, c := biasRole rm, sa := .optional, mask := .maskZero }, f)
  | .vfcmple rm f => some ({ d := .maskDst, a := .vec, b := .vec, c := biasRole rm, sa := .optional, mask := .maskZero }, f)
  | .vfclass rm f => some ({ d := .vec, a := .vec, c := biasRole rm, sa := .optional, mask := .maskZero }, f)
  | .vfrcp f => some ({ d := .vec, a := .vec, mask := .maskZero }, f)
  | .vfrsq f => some ({ d := .vec, a := .vec, mask := .maskZero }, f)
  | .vfrcps f => some ({ d := .vec, a := .vec, b := .vec, mask := .maskZero }, f)
  | .vfrsqs f => some ({ d := .vec, a := .vec, b := .vec, mask := .maskZero }, f)
  | .vfexp2 f => some ({ d := .vec, a := .vec, mask := .maskZero }, f)
  | .vflog2 f => some ({ d := .vec, a := .vec, mask := .maskZero }, f)
  | .vftanh f => some ({ d := .vec, a := .vec, mask := .maskZero }, f)
  | .vcvt rm _ f => some ({ d := .vec, a := .vec, c := biasRole rm, mask := .maskZero, imm := 0xf }, f)
  | .vqnt _ _ f => some ({ d := .vec, a := .vec, c := .vec, imm := 0xf }, f)
  | .vdqnt _ _ f => some ({ d := .vec, a := .vec, c := .vec, mask := .maskZero, imm := 0xf }, f)
  | .vcbdec _ _ f => some ({ d := .vec, a := .vec, mask := .maskZero }, f)
  | .vredsum f => some ({ d := .vec, a := .vec, mask := .mask, imm := 0xffff }, f)
  | .vredmin f => some ({ d := .vec, a := .vec, mask := .mask, imm := 0xffff }, f)
  | .vredmax f => some ({ d := .vec, a := .vec, mask := .mask, imm := 0xffff }, f)
  | .vfredsum f => some ({ d := .vec, a := .vec, mask := .mask, imm := 0xffff }, f)
  | .vfredmin f => some ({ d := .vec, a := .vec, mask := .mask, imm := 0xffff }, f)
  | .vfredmax f => some ({ d := .vec, a := .vec, mask := .mask, imm := 0xffff }, f)
  | .vperm f => some ({ d := .vec, a := .vec, b := .vec, mask := .maskZero }, f)
  | .vslideup f => some ({ d := .vec, a := .vec, b := .scal, mask := .maskZero }, f)
  | .vslidedn f => some ({ d := .vec, a := .vec, b := .scal, mask := .maskZero }, f)
  | .vcompress f => some ({ d := .vec, a := .vec, mask := .maskZero }, f)
  | .vexpand f => some ({ d := .vec, a := .vec, mask := .maskZero }, f)
  | .vgtrn f => some ({ d := .vec, a := .vec, imm := 0xffff }, f)
  | .vqtrn f => some ({ d := .vec, a := .vec, c := .vec, imm := 0xffff }, f)
  | .vbsll f => some ({ d := .vec, a := .vec, b := .scal }, f)
  | .vbsrl f => some ({ d := .vec, a := .vec, b := .scal }, f)
  | .vbfsl f => some ({ d := .vec, a := .vec, b := .scal, c := .vec }, f)
  | .vbfsr f => some ({ d := .vec, a := .vec, b := .scal, c := .vec }, f)
  | .mand f => some ({ d := .maskDst, a := .mask, b := .mask }, f)
  | .mor f => some ({ d := .maskDst, a := .mask, b := .mask }, f)
  | .mxor f => some ({ d := .maskDst, a := .mask, b := .mask }, f)
  | .mandn f => some ({ d := .maskDst, a := .mask, b := .mask }, f)
  | .mset f => some ({ d := .maskDst, a := .scal, sa := .required }, f)
  | .mpopc f => some ({ d := .scal, a := .mask, mask := .mask }, f)
  | .mfirst f => some ({ d := .scal, a := .mask, mask := .mask }, f)
  | .vmv f => some ({ d := .vec, a := .vec, mask := .maskZero }, f)
  | .vmvs f => some ({ d := .scal, a := .vec, imm := 0xffff }, f)
  | .vins f => some ({ d := .vec, a := .scal, sa := .required, imm := 0xffff }, f)
  | .vbcast f => some ({ d := .vec, a := .vec, sa := .optional, mask := .maskZero, imm := if f.sa then 0 else 0xFFFF }, f)
  | .viota f => some ({ d := .vec, a := .mask, mask := .maskZero }, f)
  | .vmerge f => some ({ d := .vec, a := .vec, b := .vec, sa := .optional, mask := .mask }, f)
  | .vld _ f => some ({ d := .vec, a := .scal, sa := .required, mask := .maskZero }, f)
  | .vlds _ f => some ({ d := .vec, a := .scal, b := .scal, sa := .required, mask := .maskZero }, f)
  | .vldx _ f => some ({ d := .vec, a := .scal, b := .vec, sa := .required, mask := .maskZero }, f)
  | .vst f => some ({ a := .scal, c := .vec, sa := .required, mask := .mask }, f)
  | .vsts f => some ({ a := .scal, b := .scal, c := .vec, sa := .required, mask := .mask }, f)
  | .vstx f => some ({ a := .scal, b := .vec, c := .vec, sa := .required, mask := .mask }, f)
  | .vamo _ old f => some ({ d := if old then .vec else .zero, a := .scal, b := .vec, c := .vec, sa := .required, mask := if old then .maskZero else .mask }, f)
  | .vupd _ f => some ({ a := .scal, b := .vec, c := .vec, sa := .required, mask := .mask }, f)
  | .smld f => some ({ d := .gmat, a := .scal, b := .scal, sa := .required, mask := .maskZero, imm := 0x1ff }, f)
  | .smst f => some ({ a := .scal, b := .scal, c := .gmat, sa := .required, mask := .maskZero, imm := 0x1ff }, f)
  | .smget f => some ({ d := .vec, a := .gmat, b := .scal, mask := .maskZero, imm := 0x1ff }, f)
  | .smput f => some ({ d := .gmat, a := .vec, b := .scal, mask := .maskZero, imm := 0x1ff }, f)
  | .smid f => some ({ d := .gmat, mask := .maskZero, imm := 0x1ff }, f)
  | .smadd f => some ({ d := .gmat, a := .gmat, b := .gmat, mask := .maskZero, imm := 0x1ff }, f)
  | .smscl f => some ({ d := .gmat, a := .gmat, b := .scal, mask := .maskZero, imm := 0x1ff }, f)
  | .smmul f => some ({ d := .gmat, a := .gmat, b := .gmat, mask := .maskZero, imm := 0x1ff }, f)
  | .smma f => some ({ d := .gmat, a := .gmat, b := .gmat, mask := .maskZero, imm := 0x1ff }, f)
  | .smtr f => some ({ d := .gmat, a := .gmat, mask := .maskZero, imm := 0x1ff }, f)
  | .smmv f => some ({ d := .vec, a := .gmat, b := .vec, mask := .maskZero, imm := 0x1ff }, f)
  | .smchol f => some ({ d := .gmat, a := .gmat, c := .mask, mask := .maskZero, imm := 0x1ff }, f)
  | .smlu f => some ({ d := .gmat, a := .gmat, b := .vec, c := .mask, mask := .maskZero, imm := 0x1ff }, f)
  | .smsolv f => some ({ d := .vec, a := .gmat, b := .vec, c := .mask, mask := .maskZero, imm := 0x1ff }, f)
  | .mcfg f => some ({ imm := 0xff }, f)
  | .mldw f => some ({ a := .vec, c := .vec, imm := if f.imm == 3 then 0 else 3 }, f)
  | .mswap f => some ({  }, f)
  | .mstrm f => some ({ d := .acc, a := .vec, c := .vec, imm := 0x1 }, f)
  | .mdrn f => some ({ d := .vec, a := .acc, b := .scal, c := .vec, imm := 0x7ff }, f)
  | .mzero f => some ({ d := .acc }, f)
  | .mspl f => some ({ a := .scal, sa := .required, imm := if f.imm == 7 then 0 else 7 }, f)
  | .mfil f => some ({ a := .scal, sa := .required, imm := if f.imm == 7 then 0 else 7 }, f)
  | .vproj f => some ({ d := .vec, a := .vec, b := .scal, c := .vec, imm := 0x3ff }, f)
  | .vpjadj f => some ({ d := .vec, a := .vec, b := .vec, c := .vec, imm := 0x3ff }, f)
  | .vsave f => some ({ a := .scal, sa := .required }, f)
  | .vrest f => some ({ a := .scal, sa := .required }, f)
  | .vqsave f => some ({ a := .scal, sa := .required }, f)
  | .vqrest f => some ({ a := .scal, sa := .required }, f)
  | .add .. => none
  | .sub .. => none
  | .and .. => none
  | .or .. => none
  | .xor .. => none
  | .sll .. => none
  | .srl .. => none
  | .sra .. => none
  | .slt .. => none
  | .sltu .. => none
  | .min .. => none
  | .max .. => none
  | .minu .. => none
  | .maxu .. => none
  | .mul .. => none
  | .mulh .. => none
  | .mulhu .. => none
  | .div .. => none
  | .divu .. => none
  | .rem .. => none
  | .remu .. => none
  | .clz .. => none
  | .ctz .. => none
  | .popc .. => none
  | .addi .. => none
  | .andi .. => none
  | .ori .. => none
  | .xori .. => none
  | .slti .. => none
  | .sltiu .. => none
  | .slli .. => none
  | .srli .. => none
  | .srai .. => none
  | .lihi .. => none
  | .pcadd .. => none
  | .ldb .. => none
  | .ldbu .. => none
  | .ldh .. => none
  | .ldhu .. => none
  | .ldw .. => none
  | .ldwu .. => none
  | .ldd .. => none
  | .stb .. => none
  | .sth .. => none
  | .stw .. => none
  | .std .. => none
  | .beq .. => none
  | .bne .. => none
  | .blt .. => none
  | .bge .. => none
  | .bltu .. => none
  | .bgeu .. => none
  | .call .. => none
  | .callr .. => none
  | .amoAdd .. => none
  | .amoSwap .. => none
  | .amoCas .. => none
  | .amoMin .. => none
  | .amoMax .. => none
  | .amoAnd .. => none
  | .amoOr .. => none
  | .amoXor .. => none
  | .trap .. => none
  | .eret => none
  | .fence .. => none
  | .wfa .. => none
  | .snap => none
  | .cfgrd .. => none
  | .cfgwr .. => none
  | .cfgset .. => none
  | .cfgclr .. => none
  | .settle .. => none
  | .renew .. => none
  | .discard .. => none
  | .pref .. => none
  | .regdef .. => none
  | .tlbinv .. => none
  | .tlbwait => none
  | .bankcfg .. => none
  | .cbld .. => none
  | .rdcnt .. => none
  | .waitc .. => none
  | .bararv .. => none
  | .barwait .. => none
  | .rlaunch .. => none
  | .rwait .. => none
  | .ryield => none
  | .rexit .. => none
  | .nextit .. => none
  | .cpgo .. => none
  | .ipgo .. => none
  | .epush .. => none
  | .epop .. => none
  | .convoyHeader .. => none
  | .readBackDelivery => none
  | .takeInterrupt => none
  | .schedulerEntry => none
  | .regionBind => none
  | .coreTakeover => none
  | .budgetStop => none
  | .park => none
  | .parkedResume => none
  | .iterationDispatch => none
  | .regionComplete => none
  | .fillRequest => none
  | .getw => none
  | .recall => none
  | .dieGetu => none
  | .mergeRequest => none
  | .uCopyEviction => none
  | .leaseRenewal => none
  | .leaseHolderTimeout => none
  | .leaseExpiry => none
  | .timestampRollover => none
  | .gets => none
  | .getm => none
  | .upg => none
  | .putm => none
  | .puto => none
  | .pute => none
  | .putu => none
  | .fwdgets => none
  | .fwdgetm => none
  | .inv => none
  | .invack => none
  | .data => none
  | .ackToDie => none
  | .ackToHome => none
  | .getu => none
  | .mrgreq => none
  | .mrgdata => none
  | .hostMemrd => none
  | .hostOwnershipRequest => none
  | .hostMemwr => none
  | .hostSnpdata => none
  | .hostSnpinv => none
  | .hostSnpcur => none
  | .hostBar2Read => none
  | .hostBar2Write => none
  | .peerRequest => none
  | .settleComplete => none
  | .ipcmdDispatch => none
  | .ipcmdComplete => none
  | .copyChunk => none
  | .copyCommandComplete => none
  | .cpctlAbort => none
  | .cpctlRetry => none
  | .tlbinvAcknowledge => none
  | .fifoBankWake => none
  | .scrubRow => none
  | .scoreHalving => none
  | .launchWrite => none
  | .ltakeLoad => none
  | .lstatOverrunClear => none
  | .ldoneWrite => none
  | .errownWrite => none
  | .errpopWrite => none
  | .hosterrWrite => none
  | .bistctlGo => none
  | .bistComplete => none
  | .retreqLaneGroup => none
  | .retreqSliceWay => none
  | .retreqLinkPort => none
  | .retrowGo => none
  | .snaptrigWrite => none
  | .snapinTrigger => none
  | .snapshotLatch => none
  | .portctlRetire => none
  | .portctlTrain => none
  | .portTrainingDone => none
  | .portDown => none
  | .flitCrcRetry => none
  | .fwctlRestore => none
  | .fwctlProgram => none
  | .fwctlEnrol => none
  | .fwctlRevoke => none
  | .fwctlComplete => none
  | .registerWrite => none
  | .clockThrottleStep => none
  | .powerOn => none
  | .powerDomainLoss => none
  | .thermalShutdown => none
  | .waitlimExpiry => none
  | .peerResponse => none
  | .hostCacheResponse => none
  | .backInvalidationResponse => none

/-- The field rules of the 32-bit forms that a term of `Instr` can break (R64): AMO scope, the CSR
number, the counter space. -/
def fields32Ok : Instr → Bool
  | .add .. => true
  | .sub .. => true
  | .and .. => true
  | .or .. => true
  | .xor .. => true
  | .sll .. => true
  | .srl .. => true
  | .sra .. => true
  | .slt .. => true
  | .sltu .. => true
  | .min .. => true
  | .max .. => true
  | .minu .. => true
  | .maxu .. => true
  | .mul .. => true
  | .mulh .. => true
  | .mulhu .. => true
  | .div .. => true
  | .divu .. => true
  | .rem .. => true
  | .remu .. => true
  | .clz .. => true
  | .ctz .. => true
  | .popc .. => true
  | .addi .. => true
  | .andi .. => true
  | .ori .. => true
  | .xori .. => true
  | .slti .. => true
  | .sltiu .. => true
  | .slli .. => true
  | .srli .. => true
  | .srai .. => true
  | .lihi .. => true
  | .pcadd .. => true
  | .ldb .. => true
  | .ldbu .. => true
  | .ldh .. => true
  | .ldhu .. => true
  | .ldw .. => true
  | .ldwu .. => true
  | .ldd .. => true
  | .stb .. => true
  | .sth .. => true
  | .stw .. => true
  | .std .. => true
  | .beq .. => true
  | .bne .. => true
  | .blt .. => true
  | .bge .. => true
  | .bltu .. => true
  | .bgeu .. => true
  | .call .. => true
  | .callr .. => true
  | .amoAdd scope _ _ _ _ _ _ => decide (scope.toNat < 5)
  | .amoSwap scope _ _ _ _ _ _ => decide (scope.toNat < 5)
  | .amoCas scope _ _ _ _ _ _ => decide (scope.toNat < 5)
  | .amoMin scope _ _ _ _ _ _ => decide (scope.toNat < 5)
  | .amoMax scope _ _ _ _ _ _ => decide (scope.toNat < 5)
  | .amoAnd scope _ _ _ _ _ _ => decide (scope.toNat < 5)
  | .amoOr scope _ _ _ _ _ _ => decide (scope.toNat < 5)
  | .amoXor scope _ _ _ _ _ _ => decide (scope.toNat < 5)
  | .trap .. => true
  | .eret => true
  | .fence .. => true
  | .wfa .. => true
  | .snap => true
  | .cfgrd _ csr => csrListed csr
  | .cfgwr _ _ csr => csrListed csr
  | .cfgset _ _ csr => csrListed csr
  | .cfgclr _ _ csr => csrListed csr
  | .settle .. => true
  | .renew .. => true
  | .discard .. => true
  | .pref .. => true
  | .regdef .. => true
  | .tlbinv .. => true
  | .tlbwait => true
  | .bankcfg .. => true
  | .cbld .. => true
  | .rdcnt space _ _ => decide (space.toNat < 9)
  | .waitc space _ _ _ => decide (space.toNat < 9)
  | .bararv .. => true
  | .barwait .. => true
  | .rlaunch .. => true
  | .rwait .. => true
  | .ryield => true
  | .rexit .. => true
  | .nextit .. => true
  | .cpgo .. => true
  | .ipgo .. => true
  | .epush .. => true
  | .epop .. => true
  | .convoyHeader .. => true
  | .vcfg .. => true
  | .setvl .. => true
  | .vadd .. => true
  | .vsub .. => true
  | .vmul .. => true
  | .vmulh .. => true
  | .vmulhu .. => true
  | .vmin .. => true
  | .vmax .. => true
  | .vminu .. => true
  | .vmaxu .. => true
  | .vand .. => true
  | .vor .. => true
  | .vxor .. => true
  | .vsll .. => true
  | .vsrl .. => true
  | .vsra .. => true
  | .vaddsat .. => true
  | .vsubsat .. => true
  | .vcmpeq .. => true
  | .vcmplt .. => true
  | .vcmpltu .. => true
  | .vfadd .. => true
  | .vfsub .. => true
  | .vfmul .. => true
  | .vfma .. => true
  | .vfms .. => true
  | .vfnma .. => true
  | .vfmin .. => true
  | .vfmax .. => true
  | .vfabs .. => true
  | .vfneg .. => true
  | .vfcmpeq .. => true
  | .vfcmplt .. => true
  | .vfcmple .. => true
  | .vfclass .. => true
  | .vfrcp .. => true
  | .vfrsq .. => true
  | .vfrcps .. => true
  | .vfrsqs .. => true
  | .vfexp2 .. => true
  | .vflog2 .. => true
  | .vftanh .. => true
  | .vcvt .. => true
  | .vqnt .. => true
  | .vdqnt .. => true
  | .vcbdec .. => true
  | .vredsum .. => true
  | .vredmin .. => true
  | .vredmax .. => true
  | .vfredsum .. => true
  | .vfredmin .. => true
  | .vfredmax .. => true
  | .vperm .. => true
  | .vslideup .. => true
  | .vslidedn .. => true
  | .vcompress .. => true
  | .vexpand .. => true
  | .vgtrn .. => true
  | .vqtrn .. => true
  | .vbsll .. => true
  | .vbsrl .. => true
  | .vbfsl .. => true
  | .vbfsr .. => true
  | .mand .. => true
  | .mor .. => true
  | .mxor .. => true
  | .mandn .. => true
  | .mset .. => true
  | .mpopc .. => true
  | .mfirst .. => true
  | .vmv .. => true
  | .vmvs .. => true
  | .vins .. => true
  | .vbcast .. => true
  | .viota .. => true
  | .vmerge .. => true
  | .vld hint _ => hint != 3
  | .vlds hint _ => hint != 3
  | .vldx hint _ => hint != 3
  | .vst .. => true
  | .vsts .. => true
  | .vstx .. => true
  | .vamo op _ _ => decide (op.toNat < 11)
  | .vupd tag _ => tag != 0 && decide (tag.toNat < 12)
  | .smld .. => true
  | .smst .. => true
  | .smget .. => true
  | .smput .. => true
  | .smid .. => true
  | .smadd .. => true
  | .smscl .. => true
  | .smmul .. => true
  | .smma .. => true
  | .smtr .. => true
  | .smmv .. => true
  | .smchol .. => true
  | .smlu .. => true
  | .smsolv .. => true
  | .mcfg .. => true
  | .mldw .. => true
  | .mswap .. => true
  | .mstrm .. => true
  | .mdrn .. => true
  | .mzero .. => true
  | .mspl .. => true
  | .mfil .. => true
  | .vproj .. => true
  | .vpjadj .. => true
  | .vsave .. => true
  | .vrest .. => true
  | .vqsave .. => true
  | .vqrest .. => true
  | .readBackDelivery => true
  | .takeInterrupt => true
  | .schedulerEntry => true
  | .regionBind => true
  | .coreTakeover => true
  | .budgetStop => true
  | .park => true
  | .parkedResume => true
  | .iterationDispatch => true
  | .regionComplete => true
  | .fillRequest => true
  | .getw => true
  | .recall => true
  | .dieGetu => true
  | .mergeRequest => true
  | .uCopyEviction => true
  | .leaseRenewal => true
  | .leaseHolderTimeout => true
  | .leaseExpiry => true
  | .timestampRollover => true
  | .gets => true
  | .getm => true
  | .upg => true
  | .putm => true
  | .puto => true
  | .pute => true
  | .putu => true
  | .fwdgets => true
  | .fwdgetm => true
  | .inv => true
  | .invack => true
  | .data => true
  | .ackToDie => true
  | .ackToHome => true
  | .getu => true
  | .mrgreq => true
  | .mrgdata => true
  | .hostMemrd => true
  | .hostOwnershipRequest => true
  | .hostMemwr => true
  | .hostSnpdata => true
  | .hostSnpinv => true
  | .hostSnpcur => true
  | .hostBar2Read => true
  | .hostBar2Write => true
  | .peerRequest => true
  | .settleComplete => true
  | .ipcmdDispatch => true
  | .ipcmdComplete => true
  | .copyChunk => true
  | .copyCommandComplete => true
  | .cpctlAbort => true
  | .cpctlRetry => true
  | .tlbinvAcknowledge => true
  | .fifoBankWake => true
  | .scrubRow => true
  | .scoreHalving => true
  | .launchWrite => true
  | .ltakeLoad => true
  | .lstatOverrunClear => true
  | .ldoneWrite => true
  | .errownWrite => true
  | .errpopWrite => true
  | .hosterrWrite => true
  | .bistctlGo => true
  | .bistComplete => true
  | .retreqLaneGroup => true
  | .retreqSliceWay => true
  | .retreqLinkPort => true
  | .retrowGo => true
  | .snaptrigWrite => true
  | .snapinTrigger => true
  | .snapshotLatch => true
  | .portctlRetire => true
  | .portctlTrain => true
  | .portTrainingDone => true
  | .portDown => true
  | .flitCrcRetry => true
  | .fwctlRestore => true
  | .fwctlProgram => true
  | .fwctlEnrol => true
  | .fwctlRevoke => true
  | .fwctlComplete => true
  | .registerWrite => true
  | .clockThrottleStep => true
  | .powerOn => true
  | .powerDomainLoss => true
  | .thermalShutdown => true
  | .waitlimExpiry => true
  | .peerResponse => true
  | .hostCacheResponse => true
  | .backInvalidationResponse => true

/-- A term that some encoding stands for, or a step that no instruction encodes. -/
def wellFormed (i : Instr) : Bool :=
  fields32Ok i && (match rolesOf i with
    | some (r, f) => rolesOk r f
    | none => true)

end Sys2Proof
end

