-- ==== Sys2Proof/Decode.lean ====
section
/-! DEFINITION. Decoding, total on any bytes and refusing by name (R52 to R66), and the encoder. -/

namespace Sys2Proof

/-- Why a sequence of bytes is no instruction. Every one is an encoding fault of cause 0x01 when the
parcels were fetched (R54). -/
inductive Reject where
  /-- Fewer bytes than the first parcel asks for. -/
  | truncated
  /-- The all-zero parcel (R54). -/
  | allZero
  /-- A major opcode the maps do not list (R64, R66). -/
  | majorReserved
  /-- A function code or a sub-field value the maps do not list (R63). -/
  | functionReserved
  /-- A non-zero value in a must-be-zero field, or a field value its role forbids (R54, R58, R59). -/
  | fieldReserved
  /-- Bits [7:5] of a convoy header are not zero (R61). -/
  | headerReserved
  deriving DecidableEq, Repr

/-- A scalar register field. -/
def sreg (n : Nat) : SReg := BitVec.ofNat 5 n

/-- `i` when the unused fields sum to zero, else a reserved field (R54). -/
def whenZero (n : Nat) (i : Instr) : Except Reject Instr :=
  if n = 0 then .ok i else .error .fieldReserved

/-- Major 0x01 OPR by funct10 (R64). -/
def decodeOpr (fn b a d : Nat) : Except Reject Instr :=
  match fn with
  | 0 => .ok (.add (sreg d) (sreg a) (sreg b))
  | 1 => .ok (.sub (sreg d) (sreg a) (sreg b))
  | 2 => .ok (.and (sreg d) (sreg a) (sreg b))
  | 3 => .ok (.or (sreg d) (sreg a) (sreg b))
  | 4 => .ok (.xor (sreg d) (sreg a) (sreg b))
  | 5 => .ok (.sll (sreg d) (sreg a) (sreg b))
  | 6 => .ok (.srl (sreg d) (sreg a) (sreg b))
  | 7 => .ok (.sra (sreg d) (sreg a) (sreg b))
  | 8 => .ok (.slt (sreg d) (sreg a) (sreg b))
  | 9 => .ok (.sltu (sreg d) (sreg a) (sreg b))
  | 10 => .ok (.min (sreg d) (sreg a) (sreg b))
  | 11 => .ok (.max (sreg d) (sreg a) (sreg b))
  | 12 => .ok (.minu (sreg d) (sreg a) (sreg b))
  | 13 => .ok (.maxu (sreg d) (sreg a) (sreg b))
  | 14 => .ok (.mul (sreg d) (sreg a) (sreg b))
  | 15 => .ok (.mulh (sreg d) (sreg a) (sreg b))
  | 16 => .ok (.mulhu (sreg d) (sreg a) (sreg b))
  | 17 => .ok (.div (sreg d) (sreg a) (sreg b))
  | 18 => .ok (.divu (sreg d) (sreg a) (sreg b))
  | 19 => .ok (.rem (sreg d) (sreg a) (sreg b))
  | 20 => .ok (.remu (sreg d) (sreg a) (sreg b))
  | 21 => whenZero b (.clz (sreg d) (sreg a))
  | 22 => whenZero b (.ctz (sreg d) (sreg a))
  | 23 => whenZero b (.popc (sreg d) (sreg a))
  | _ => .error .functionReserved

/-- Major 0x08: the operation is imm[14:13] and imm[12:6] is zero (R64). -/
def decodeShift (fn b a d : Nat) : Except Reject Instr :=
  if fn % 256 / 2 ≠ 0 then .error (if fn / 256 < 3 then .fieldReserved else .functionReserved) else
  match fn / 256 with
  | 0 => .ok (.slli (sreg d) (sreg a) (BitVec.ofNat 6 (fn % 2 * 32 + b)))
  | 1 => .ok (.srli (sreg d) (sreg a) (BitVec.ofNat 6 (fn % 2 * 32 + b)))
  | 2 => .ok (.srai (sreg d) (sreg a) (BitVec.ofNat 6 (fn % 2 * 32 + b)))
  | _ => .error .functionReserved

/-- The funct10 of an AMO: scope in [9:7], aq [6], rl [5], width [4], op [3:0] (R64). -/
def amoFunct (scope : BitVec 3) (aq rl wide : Bool) (op : Nat) : Nat :=
  scope.toNat * 128 + aq.toNat * 64 + rl.toNat * 32 + wide.toNat * 16 + op

/-- Major 0x28 AMO by funct10 [3:0] (R64). -/
def decodeAmo (fn b a d : Nat) : Except Reject Instr :=
  let sc := BitVec.ofNat 3 (fn / 128)
  let aq := fn / 64 % 2 == 1
  let rl := fn / 32 % 2 == 1
  let wd := fn / 16 % 2 == 1
  match fn % 16 with
  | 0 => .ok (.amoAdd sc aq rl wd (sreg d) (sreg a) (sreg b))
  | 1 => .ok (.amoSwap sc aq rl wd (sreg d) (sreg a) (sreg b))
  | 2 => .ok (.amoCas sc aq rl wd (sreg d) (sreg a) (sreg b))
  | 3 => .ok (.amoMin sc aq rl wd (sreg d) (sreg a) (sreg b))
  | 4 => .ok (.amoMax sc aq rl wd (sreg d) (sreg a) (sreg b))
  | 5 => .ok (.amoAnd sc aq rl wd (sreg d) (sreg a) (sreg b))
  | 6 => .ok (.amoOr sc aq rl wd (sreg d) (sreg a) (sreg b))
  | 7 => .ok (.amoXor sc aq rl wd (sreg d) (sreg a) (sreg b))
  | _ => .error .functionReserved

/-- Major 0x2C SYS by funct10 (R64). -/
def decodeSys (fn b a d : Nat) : Except Reject Instr :=
  match fn with
  | 0 => whenZero d (.trap (BitVec.ofNat 10 (b * 32 + a)))
  | 1 => whenZero (b + a + d) .eret
  | 2 => whenZero b (.fence (BitVec.ofNat 5 d) (BitVec.ofNat 5 a))
  | 3 => whenZero d (.wfa (sreg a) (sreg b))
  | 4 => whenZero (b + a + d) .snap
  | _ => .error .functionReserved

/-- Major 0x2D CFG by imm[14:12], the CSR number in imm[11:0] (R64, R203). -/
def decodeCfg (fn b a d : Nat) : Except Reject Instr :=
  match fn / 128 with
  | 0 => whenZero a (.cfgrd (sreg d) (BitVec.ofNat 12 (fn % 128 * 32 + b)))
  | 1 => .ok (.cfgwr (sreg d) (sreg a) (BitVec.ofNat 12 (fn % 128 * 32 + b)))
  | 2 => .ok (.cfgset (sreg d) (sreg a) (BitVec.ofNat 12 (fn % 128 * 32 + b)))
  | 3 => .ok (.cfgclr (sreg d) (sreg a) (BitVec.ofNat 12 (fn % 128 * 32 + b)))
  | _ => .error .functionReserved

/-- Major 0x30 MEMSYS by funct10 (R64). -/
def decodeMemsys (fn b a d : Nat) : Except Reject Instr :=
  match fn with
  | 0 => .ok (.settle (sreg d) (sreg a) (sreg b))
  | 1 => whenZero d (.renew (sreg a) (sreg b))
  | 2 => whenZero d (.discard (sreg a) (sreg b))
  | 3 => whenZero d (.pref (sreg a) (sreg b))
  | 4 => .ok (.regdef (sreg d) (sreg a) (sreg b))
  | 5 => .ok (.tlbinv (sreg d) (sreg a) (sreg b))
  | 6 => whenZero (b + a + d) .tlbwait
  | 7 => .ok (.bankcfg (sreg d) (sreg a) (sreg b))
  | 8 => whenZero (b + d) (.cbld (sreg a))
  | _ => .error .functionReserved

/-- Major 0x31 COUNT: op in funct10 [3:0], the counter space in [9:4] (R64). -/
def decodeCount (fn b a d : Nat) : Except Reject Instr :=
  let sp := BitVec.ofNat 6 (fn / 16)
  match fn % 16 with
  | 0 => whenZero b (.rdcnt sp (sreg d) (sreg a))
  | 1 => .ok (.waitc sp (sreg d) (sreg a) (sreg b))
  | 2 => if fn / 16 = 6 then .ok (.bararv (sreg d) (sreg a) (sreg b)) else .error .functionReserved
  | 3 => if fn / 16 = 6 then .ok (.barwait (sreg d) (sreg a) (sreg b)) else .error .functionReserved
  | _ => .error .functionReserved

/-- Major 0x32 SCHED by funct10 (R64). -/
def decodeSched (fn b a d : Nat) : Except Reject Instr :=
  match fn with
  | 0 => whenZero b (.rlaunch (sreg d) (sreg a))
  | 1 => whenZero b (.rwait (sreg d) (sreg a))
  | 2 => whenZero (b + a + d) .ryield
  | 3 => whenZero (b + d) (.rexit (sreg a))
  | 4 => whenZero (b + a) (.nextit (sreg d))
  | _ => .error .functionReserved

/-- Major 0x35 ENGINE by funct10 (R64). -/
def decodeEngine (fn b a d : Nat) : Except Reject Instr :=
  match fn with
  | 0 => .ok (.cpgo (sreg d) (sreg a) (sreg b))
  | 1 => whenZero b (.ipgo (sreg d) (sreg a))
  | 2 => whenZero d (.epush (sreg a) (sreg b))
  | 3 => whenZero b (.epop (sreg d) (sreg a))
  | _ => .error .functionReserved

/-- The 32-bit map by major opcode (R64). -/
def decodeMajor32 (maj fn b a d : Nat) : Except Reject Instr :=
  match maj with
  | 0x1 => decodeOpr fn b a d
  | 0x2 => .ok (.addi (sreg d) (sreg a) (BitVec.ofNat 15 (fn * 32 + b)))
  | 0x3 => .ok (.andi (sreg d) (sreg a) (BitVec.ofNat 15 (fn * 32 + b)))
  | 0x4 => .ok (.ori (sreg d) (sreg a) (BitVec.ofNat 15 (fn * 32 + b)))
  | 0x5 => .ok (.xori (sreg d) (sreg a) (BitVec.ofNat 15 (fn * 32 + b)))
  | 0x6 => .ok (.slti (sreg d) (sreg a) (BitVec.ofNat 15 (fn * 32 + b)))
  | 0x7 => .ok (.sltiu (sreg d) (sreg a) (BitVec.ofNat 15 (fn * 32 + b)))
  | 0x8 => decodeShift fn b a d
  | 0x9 => .ok (.lihi (sreg d) (BitVec.ofNat 20 ((fn * 32 + b) * 32 + a)))
  | 0xa => .ok (.pcadd (sreg d) (BitVec.ofNat 20 ((fn * 32 + b) * 32 + a)))
  | 0x10 => .ok (.ldb (sreg d) (sreg a) (BitVec.ofNat 15 (fn * 32 + b)))
  | 0x11 => .ok (.ldbu (sreg d) (sreg a) (BitVec.ofNat 15 (fn * 32 + b)))
  | 0x12 => .ok (.ldh (sreg d) (sreg a) (BitVec.ofNat 15 (fn * 32 + b)))
  | 0x13 => .ok (.ldhu (sreg d) (sreg a) (BitVec.ofNat 15 (fn * 32 + b)))
  | 0x14 => .ok (.ldw (sreg d) (sreg a) (BitVec.ofNat 15 (fn * 32 + b)))
  | 0x15 => .ok (.ldwu (sreg d) (sreg a) (BitVec.ofNat 15 (fn * 32 + b)))
  | 0x16 => .ok (.ldd (sreg d) (sreg a) (BitVec.ofNat 15 (fn * 32 + b)))
  | 0x18 => .ok (.stb (sreg a) (sreg b) (BitVec.ofNat 15 (fn * 32 + d)))
  | 0x19 => .ok (.sth (sreg a) (sreg b) (BitVec.ofNat 15 (fn * 32 + d)))
  | 0x1a => .ok (.stw (sreg a) (sreg b) (BitVec.ofNat 15 (fn * 32 + d)))
  | 0x1b => .ok (.std (sreg a) (sreg b) (BitVec.ofNat 15 (fn * 32 + d)))
  | 0x20 => .ok (.beq (sreg a) (sreg b) (BitVec.ofNat 15 (fn * 32 + d)))
  | 0x21 => .ok (.bne (sreg a) (sreg b) (BitVec.ofNat 15 (fn * 32 + d)))
  | 0x22 => .ok (.blt (sreg a) (sreg b) (BitVec.ofNat 15 (fn * 32 + d)))
  | 0x23 => .ok (.bge (sreg a) (sreg b) (BitVec.ofNat 15 (fn * 32 + d)))
  | 0x24 => .ok (.bltu (sreg a) (sreg b) (BitVec.ofNat 15 (fn * 32 + d)))
  | 0x25 => .ok (.bgeu (sreg a) (sreg b) (BitVec.ofNat 15 (fn * 32 + d)))
  | 0x26 => .ok (.call (sreg d) (BitVec.ofNat 20 ((fn * 32 + b) * 32 + a)))
  | 0x27 => .ok (.callr (sreg d) (sreg a) (BitVec.ofNat 15 (fn * 32 + b)))
  | 0x28 => decodeAmo fn b a d
  | 0x2c => decodeSys fn b a d
  | 0x2d => decodeCfg fn b a d
  | 0x30 => decodeMemsys fn b a d
  | 0x31 => decodeCount fn b a d
  | 0x32 => decodeSched fn b a d
  | 0x35 => decodeEngine fn b a d
  | _ => .error .majorReserved

/-- `i` when its fields are as the descriptions ask, else a reserved field (R54). -/
def whenWellFormed (i : Instr) : Except Reject Instr :=
  if wellFormed i then .ok i else .error .fieldReserved

/-- A 32-bit instruction: the fields of R55 cut out of the parcel. -/
def decode32 (w : Nat) : Except Reject Instr :=
  if w = 0 then .error .allZero else
  match decodeMajor32 (w / 2 % 64) (w / 4194304 % 1024) (w / 131072 % 32) (w / 4096 % 32) (w / 128 % 32) with
  | .ok i => whenWellFormed i
  | .error r => .error r

/-- Major 0x1, group VCFG, by the function code of R65. -/
def pickVcfg (fn : Nat) (f : VF) : Option Instr :=
  match fn with
  | 0 => some (.vcfg f)
  | 1 => some (.setvl f)
  | _ => none

/-- Major 0x2, group VINT, by the function code of R65. -/
def pickVint (fn : Nat) (f : VF) : Option Instr :=
  match fn with
  | 0 => some (.vadd f)
  | 1 => some (.vsub f)
  | 2 => some (.vmul f)
  | 3 => some (.vmulh f)
  | 4 => some (.vmulhu f)
  | 5 => some (.vmin f)
  | 6 => some (.vmax f)
  | 7 => some (.vminu f)
  | 8 => some (.vmaxu f)
  | 9 => some (.vand f)
  | 10 => some (.vor f)
  | 11 => some (.vxor f)
  | 12 => some (.vsll f)
  | 13 => some (.vsrl f)
  | 14 => some (.vsra f)
  | 15 => some (.vaddsat f)
  | 16 => some (.vsubsat f)
  | 17 => some (.vcmpeq f)
  | 18 => some (.vcmplt f)
  | 19 => some (.vcmpltu f)
  | _ => none

/-- Major 0x3, group VFP, by the function code of R65. -/
def pickVfp (fn : Nat) (f : VF) : Option Instr :=
  let rm := BitVec.ofNat 3 (fn % 8)
  match fn / 8 with
  | 0 => some (.vfadd rm f)
  | 1 => some (.vfsub rm f)
  | 2 => some (.vfmul rm f)
  | 3 => some (.vfma rm f)
  | 4 => some (.vfms rm f)
  | 5 => some (.vfnma rm f)
  | 6 => some (.vfmin rm f)
  | 7 => some (.vfmax rm f)
  | 8 => some (.vfabs rm f)
  | 9 => some (.vfneg rm f)
  | 10 => some (.vfcmpeq rm f)
  | 11 => some (.vfcmplt rm f)
  | 12 => some (.vfcmple rm f)
  | 13 => some (.vfclass rm f)
  | _ => none

/-- Major 0x4, group VSFU, by the function code of R65. -/
def pickVsfu (fn : Nat) (f : VF) : Option Instr :=
  match fn with
  | 0 => some (.vfrcp f)
  | 1 => some (.vfrsq f)
  | 2 => some (.vfrcps f)
  | 3 => some (.vfrsqs f)
  | 4 => some (.vfexp2 f)
  | 5 => some (.vflog2 f)
  | 6 => some (.vftanh f)
  | _ => none

/-- Major 0x5, group VCVT, by the function code of R65. -/
def pickVcvt (fn : Nat) (f : VF) : Option Instr :=
  let rm := BitVec.ofNat 3 (fn / 8 % 8)
  let sat := fn / 4 % 2 == 1
  if fn % 4 ≠ 0 then none else
  match fn / 64 with
  | 0 => some (.vcvt rm sat f)
  | 1 => some (.vqnt rm sat f)
  | 2 => some (.vdqnt rm sat f)
  | 3 => some (.vcbdec rm sat f)
  | _ => none

/-- Major 0x6, group VRED, by the function code of R65. -/
def pickVred (fn : Nat) (f : VF) : Option Instr :=
  match fn with
  | 0 => some (.vredsum f)
  | 1 => some (.vredmin f)
  | 2 => some (.vredmax f)
  | 3 => some (.vfredsum f)
  | 4 => some (.vfredmin f)
  | 5 => some (.vfredmax f)
  | _ => none

/-- Major 0x7, group VPERM, by the function code of R65. -/
def pickVperm (fn : Nat) (f : VF) : Option Instr :=
  match fn with
  | 0 => some (.vperm f)
  | 1 => some (.vslideup f)
  | 2 => some (.vslidedn f)
  | 3 => some (.vcompress f)
  | 4 => some (.vexpand f)
  | 5 => some (.vgtrn f)
  | 6 => some (.vqtrn f)
  | _ => none

/-- Major 0x8, group VBIT, by the function code of R65. -/
def pickVbit (fn : Nat) (f : VF) : Option Instr :=
  match fn with
  | 0 => some (.vbsll f)
  | 1 => some (.vbsrl f)
  | 2 => some (.vbfsl f)
  | 3 => some (.vbfsr f)
  | _ => none

/-- Major 0x9, group VMASK, by the function code of R65. -/
def pickVmask (fn : Nat) (f : VF) : Option Instr :=
  match fn with
  | 0 => some (.mand f)
  | 1 => some (.mor f)
  | 2 => some (.mxor f)
  | 3 => some (.mandn f)
  | 4 => some (.mset f)
  | 5 => some (.mpopc f)
  | 6 => some (.mfirst f)
  | _ => none

/-- Major 0xa, group VMOV, by the function code of R65. -/
def pickVmov (fn : Nat) (f : VF) : Option Instr :=
  match fn with
  | 0 => some (.vmv f)
  | 1 => some (.vmvs f)
  | 2 => some (.vins f)
  | 3 => some (.vbcast f)
  | 4 => some (.viota f)
  | 5 => some (.vmerge f)
  | _ => none

/-- Major 0xb, group loads, by the function code of R65. -/
def pickLoads (fn : Nat) (f : VF) : Option Instr :=
  let hint := BitVec.ofNat 2 (fn / 256)
  match fn % 256 with
  | 0 => some (.vld hint f)
  | 1 => some (.vlds hint f)
  | 2 => some (.vldx hint f)
  | _ => none

/-- Major 0xc, group stores, by the function code of R65. -/
def pickStores (fn : Nat) (f : VF) : Option Instr :=
  match fn with
  | 0 => some (.vst f)
  | 1 => some (.vsts f)
  | 2 => some (.vstx f)
  | _ => none

/-- Major 0x10, group SMAT, by the function code of R65. -/
def pickSmat (fn : Nat) (f : VF) : Option Instr :=
  if fn % 16 ≠ 0 then none else
  match fn / 16 with
  | 0 => some (.smld f)
  | 1 => some (.smst f)
  | 2 => some (.smget f)
  | 3 => some (.smput f)
  | 4 => some (.smid f)
  | 5 => some (.smadd f)
  | 6 => some (.smscl f)
  | 7 => some (.smmul f)
  | 8 => some (.smma f)
  | 9 => some (.smtr f)
  | 10 => some (.smmv f)
  | 11 => some (.smchol f)
  | 12 => some (.smlu f)
  | 13 => some (.smsolv f)
  | _ => none

/-- Major 0x11, group MATRIX, by the function code of R65. -/
def pickMatrix (fn : Nat) (f : VF) : Option Instr :=
  match fn with
  | 0 => some (.mcfg f)
  | 1 => some (.mldw f)
  | 2 => some (.mswap f)
  | 3 => some (.mstrm f)
  | 4 => some (.mdrn f)
  | 5 => some (.mzero f)
  | 6 => some (.mspl f)
  | 7 => some (.mfil f)
  | _ => none

/-- Major 0x12, group PROJ, by the function code of R65. -/
def pickProj (fn : Nat) (f : VF) : Option Instr :=
  match fn with
  | 0 => some (.vproj f)
  | 1 => some (.vpjadj f)
  | _ => none

/-- Major 0x15, group CTX, by the function code of R65. -/
def pickCtx (fn : Nat) (f : VF) : Option Instr :=
  match fn with
  | 0 => some (.vsave f)
  | 1 => some (.vrest f)
  | 2 => some (.vqsave f)
  | 3 => some (.vqrest f)
  | _ => none

/-- Major 0x0d, VATOM: kind [9], op or tag [8:5], return-old [4], [3:0] zero (R65, R66). -/
def pickVatom (fn : Nat) (f : VF) : Option Instr :=
  if fn % 16 ≠ 0 then none else
  match fn / 512, fn / 16 % 2 with
  | 0, r => some (.vamo (BitVec.ofNat 4 (fn / 32)) (r == 1) f)
  | _, 0 => some (.vupd (BitVec.ofNat 4 (fn / 32)) f)
  | _, _ => none

/-- The 64-bit map by major opcode (R65): none for a reserved major, some none for a function code the
group does not list. -/
def pick64 (maj fn : Nat) (f : VF) : Option (Option Instr) :=
  match maj with
  | 0x1 => some (pickVcfg fn f)
  | 0x2 => some (pickVint fn f)
  | 0x3 => some (pickVfp fn f)
  | 0x4 => some (pickVsfu fn f)
  | 0x5 => some (pickVcvt fn f)
  | 0x6 => some (pickVred fn f)
  | 0x7 => some (pickVperm fn f)
  | 0x8 => some (pickVbit fn f)
  | 0x9 => some (pickVmask fn f)
  | 0xa => some (pickVmov fn f)
  | 0xb => some (pickLoads fn f)
  | 0xc => some (pickStores fn f)
  | 0xd => some (pickVatom fn f)
  | 0x10 => some (pickSmat fn f)
  | 0x11 => some (pickMatrix fn f)
  | 0x12 => some (pickProj fn f)
  | 0x15 => some (pickCtx fn f)
  | _ => none

/-- The operand fields of a 64-bit instruction (R57). -/
def fields64 (w : Nat) : VF :=
  { d := BitVec.ofNat 6 (w / 256), a := BitVec.ofNat 6 (w / 16384), b := BitVec.ofNat 6 (w / 1048576),
    c := BitVec.ofNat 6 (w / 67108864), m := BitVec.ofNat 4 (w / 4294967296),
    mz := w / 68719476736 % 2 == 1, sa := w / 137438953472 % 2 == 1,
    imm := BitVec.ofNat 16 (w / 281474976710656) }

/-- A 64-bit instruction, its first parcel in bits [31:0] (R52, R57). -/
def decode64 (w : Nat) : Except Reject Instr :=
  match pick64 (w / 4 % 64) (w / 274877906944 % 1024) (fields64 w) with
  | none => .error .majorReserved
  | some none => .error .functionReserved
  | some (some i) => whenWellFormed i

/-- A convoy header (R60); its slots and k are checked against its members by its meaning (R61). -/
def decodeHeader (w : Nat) : Except Reject Instr :=
  if w / 32 % 8 ≠ 0 then .error .headerReserved else
  .ok (.convoyHeader (BitVec.ofNat 4 (w / 268435456)) (BitVec.ofNat 4 (w / 16777216))
    (BitVec.ofNat 4 (w / 1048576)) (BitVec.ofNat 4 (w / 65536)) (BitVec.ofNat 4 (w / 4096))
    (BitVec.ofNat 4 (w / 256)) (BitVec.ofNat 3 (w / 4)))

/-- How many parcels an instruction has, from its first parcel (R52). -/
def parcelCount (w : Nat) : Nat := if w % 4 = 1 then 2 else 1

/-- The instruction of a first parcel and, for the 64-bit kind, the second one (R52). -/
def decodeParcels (w0 w1 : Nat) : Except Reject Instr :=
  if w0 % 2 = 0 then decode32 w0
  else if w0 % 4 = 1 then decode64 (w0 + w1 * 4294967296)
  else decodeHeader w0

/-- Four bytes as a little-endian parcel (R2). -/
def parcelOf (b0 b1 b2 b3 : Byte) : Nat :=
  b0.toNat + 256 * (b1.toNat + 256 * (b2.toNat + 256 * b3.toNat))

/-- Decode the instruction at the head of a list of bytes: the instruction and the bytes after it. -/
def decode (bs : List Byte) : Except Reject (Instr × List Byte) :=
  match bs with
  | b0 :: b1 :: b2 :: b3 :: rest =>
    let w0 := parcelOf b0 b1 b2 b3
    if parcelCount w0 = 1 then (decodeParcels w0 0).map fun i => (i, rest) else
    match rest with
    | b4 :: b5 :: b6 :: b7 :: rest' => (decodeParcels w0 (parcelOf b4 b5 b6 b7)).map fun i => (i, rest')
    | _ => .error .truncated
  | _ => .error .truncated

/-- The low `n` bytes of a number, lowest first (R2). -/
def leBytes : Nat → Nat → List Byte
  | 0, _ => []
  | n + 1, x => BitVec.ofNat 8 x :: leBytes n (x / 256)

/-- The instruction read from `nbits` bits numbered as the opcode table numbers them, the bits above
zero up to the longest instruction of 64 bits. -/
def decodeTableWord (nbits w : Nat) : Option Instr :=
  match decode (leBytes 8 (w % 2 ^ nbits)) with
  | .ok (i, _) => some i
  | .error _ => none

/-! The encoder. -/

/-- The R form of R55; every 32-bit form is written through it. -/
def join32 (fn b a d maj : Nat) : Nat :=
  fn * 4194304 + b * 131072 + a * 4096 + d * 128 + maj * 2

/-- The 64-bit form of R57. -/
def join64 (maj fn : Nat) (f : VF) : Nat :=
  1 + maj * 4 + f.d.toNat * 256 + f.a.toNat * 16384 + f.b.toNat * 1048576 + f.c.toNat * 67108864 +
  f.m.toNat * 4294967296 + f.mz.toNat * 68719476736 + f.sa.toNat * 137438953472 +
  fn * 274877906944 + f.imm.toNat * 281474976710656

/-- The bits of an instruction and its number of parcels; none for a step that no instruction encodes. -/
def encodeBits : Instr → Option (Nat × Nat)
  | .add d a b => some (join32 0 b.toNat a.toNat d.toNat 1, 1)
  | .sub d a b => some (join32 1 b.toNat a.toNat d.toNat 1, 1)
  | .and d a b => some (join32 2 b.toNat a.toNat d.toNat 1, 1)
  | .or d a b => some (join32 3 b.toNat a.toNat d.toNat 1, 1)
  | .xor d a b => some (join32 4 b.toNat a.toNat d.toNat 1, 1)
  | .sll d a b => some (join32 5 b.toNat a.toNat d.toNat 1, 1)
  | .srl d a b => some (join32 6 b.toNat a.toNat d.toNat 1, 1)
  | .sra d a b => some (join32 7 b.toNat a.toNat d.toNat 1, 1)
  | .slt d a b => some (join32 8 b.toNat a.toNat d.toNat 1, 1)
  | .sltu d a b => some (join32 9 b.toNat a.toNat d.toNat 1, 1)
  | .min d a b => some (join32 10 b.toNat a.toNat d.toNat 1, 1)
  | .max d a b => some (join32 11 b.toNat a.toNat d.toNat 1, 1)
  | .minu d a b => some (join32 12 b.toNat a.toNat d.toNat 1, 1)
  | .maxu d a b => some (join32 13 b.toNat a.toNat d.toNat 1, 1)
  | .mul d a b => some (join32 14 b.toNat a.toNat d.toNat 1, 1)
  | .mulh d a b => some (join32 15 b.toNat a.toNat d.toNat 1, 1)
  | .mulhu d a b => some (join32 16 b.toNat a.toNat d.toNat 1, 1)
  | .div d a b => some (join32 17 b.toNat a.toNat d.toNat 1, 1)
  | .divu d a b => some (join32 18 b.toNat a.toNat d.toNat 1, 1)
  | .rem d a b => some (join32 19 b.toNat a.toNat d.toNat 1, 1)
  | .remu d a b => some (join32 20 b.toNat a.toNat d.toNat 1, 1)
  | .clz d a => some (join32 21 0 a.toNat d.toNat 1, 1)
  | .ctz d a => some (join32 22 0 a.toNat d.toNat 1, 1)
  | .popc d a => some (join32 23 0 a.toNat d.toNat 1, 1)
  | .addi d a imm => some (join32 (imm.toNat / 32) (imm.toNat % 32) a.toNat d.toNat 2, 1)
  | .andi d a imm => some (join32 (imm.toNat / 32) (imm.toNat % 32) a.toNat d.toNat 3, 1)
  | .ori d a imm => some (join32 (imm.toNat / 32) (imm.toNat % 32) a.toNat d.toNat 4, 1)
  | .xori d a imm => some (join32 (imm.toNat / 32) (imm.toNat % 32) a.toNat d.toNat 5, 1)
  | .slti d a imm => some (join32 (imm.toNat / 32) (imm.toNat % 32) a.toNat d.toNat 6, 1)
  | .sltiu d a imm => some (join32 (imm.toNat / 32) (imm.toNat % 32) a.toNat d.toNat 7, 1)
  | .slli d a sh => some (join32 (0 + sh.toNat / 32) (sh.toNat % 32) a.toNat d.toNat 8, 1)
  | .srli d a sh => some (join32 (256 + sh.toNat / 32) (sh.toNat % 32) a.toNat d.toNat 8, 1)
  | .srai d a sh => some (join32 (512 + sh.toNat / 32) (sh.toNat % 32) a.toNat d.toNat 8, 1)
  | .lihi d imm => some (join32 (imm.toNat / 1024) (imm.toNat / 32 % 32) (imm.toNat % 32) d.toNat 9, 1)
  | .pcadd d imm => some (join32 (imm.toNat / 1024) (imm.toNat / 32 % 32) (imm.toNat % 32) d.toNat 10, 1)
  | .ldb d a imm => some (join32 (imm.toNat / 32) (imm.toNat % 32) a.toNat d.toNat 16, 1)
  | .ldbu d a imm => some (join32 (imm.toNat / 32) (imm.toNat % 32) a.toNat d.toNat 17, 1)
  | .ldh d a imm => some (join32 (imm.toNat / 32) (imm.toNat % 32) a.toNat d.toNat 18, 1)
  | .ldhu d a imm => some (join32 (imm.toNat / 32) (imm.toNat % 32) a.toNat d.toNat 19, 1)
  | .ldw d a imm => some (join32 (imm.toNat / 32) (imm.toNat % 32) a.toNat d.toNat 20, 1)
  | .ldwu d a imm => some (join32 (imm.toNat / 32) (imm.toNat % 32) a.toNat d.toNat 21, 1)
  | .ldd d a imm => some (join32 (imm.toNat / 32) (imm.toNat % 32) a.toNat d.toNat 22, 1)
  | .stb a b imm => some (join32 (imm.toNat / 32) b.toNat a.toNat (imm.toNat % 32) 24, 1)
  | .sth a b imm => some (join32 (imm.toNat / 32) b.toNat a.toNat (imm.toNat % 32) 25, 1)
  | .stw a b imm => some (join32 (imm.toNat / 32) b.toNat a.toNat (imm.toNat % 32) 26, 1)
  | .std a b imm => some (join32 (imm.toNat / 32) b.toNat a.toNat (imm.toNat % 32) 27, 1)
  | .beq a b off => some (join32 (off.toNat / 32) b.toNat a.toNat (off.toNat % 32) 32, 1)
  | .bne a b off => some (join32 (off.toNat / 32) b.toNat a.toNat (off.toNat % 32) 33, 1)
  | .blt a b off => some (join32 (off.toNat / 32) b.toNat a.toNat (off.toNat % 32) 34, 1)
  | .bge a b off => some (join32 (off.toNat / 32) b.toNat a.toNat (off.toNat % 32) 35, 1)
  | .bltu a b off => some (join32 (off.toNat / 32) b.toNat a.toNat (off.toNat % 32) 36, 1)
  | .bgeu a b off => some (join32 (off.toNat / 32) b.toNat a.toNat (off.toNat % 32) 37, 1)
  | .call d off => some (join32 (off.toNat / 1024) (off.toNat / 32 % 32) (off.toNat % 32) d.toNat 38, 1)
  | .callr d a imm => some (join32 (imm.toNat / 32) (imm.toNat % 32) a.toNat d.toNat 39, 1)
  | .amoAdd scope aq rl wide d a b => some (join32 (amoFunct scope aq rl wide 0) b.toNat a.toNat d.toNat 40, 1)
  | .amoSwap scope aq rl wide d a b => some (join32 (amoFunct scope aq rl wide 1) b.toNat a.toNat d.toNat 40, 1)
  | .amoCas scope aq rl wide d a b => some (join32 (amoFunct scope aq rl wide 2) b.toNat a.toNat d.toNat 40, 1)
  | .amoMin scope aq rl wide d a b => some (join32 (amoFunct scope aq rl wide 3) b.toNat a.toNat d.toNat 40, 1)
  | .amoMax scope aq rl wide d a b => some (join32 (amoFunct scope aq rl wide 4) b.toNat a.toNat d.toNat 40, 1)
  | .amoAnd scope aq rl wide d a b => some (join32 (amoFunct scope aq rl wide 5) b.toNat a.toNat d.toNat 40, 1)
  | .amoOr scope aq rl wide d a b => some (join32 (amoFunct scope aq rl wide 6) b.toNat a.toNat d.toNat 40, 1)
  | .amoXor scope aq rl wide d a b => some (join32 (amoFunct scope aq rl wide 7) b.toNat a.toNat d.toNat 40, 1)
  | .trap code => some (join32 0 (code.toNat / 32) (code.toNat % 32) 0 44, 1)
  | .eret => some (join32 1 0 0 0 44, 1)
  | .fence kind scope => some (join32 2 0 scope.toNat kind.toNat 44, 1)
  | .wfa a b => some (join32 3 b.toNat a.toNat 0 44, 1)
  | .snap => some (join32 4 0 0 0 44, 1)
  | .cfgrd d csr => some (join32 (0 + csr.toNat / 32) (csr.toNat % 32) 0 d.toNat 45, 1)
  | .cfgwr d a csr => some (join32 (128 + csr.toNat / 32) (csr.toNat % 32) a.toNat d.toNat 45, 1)
  | .cfgset d a csr => some (join32 (256 + csr.toNat / 32) (csr.toNat % 32) a.toNat d.toNat 45, 1)
  | .cfgclr d a csr => some (join32 (384 + csr.toNat / 32) (csr.toNat % 32) a.toNat d.toNat 45, 1)
  | .settle d a b => some (join32 0 b.toNat a.toNat d.toNat 48, 1)
  | .renew a b => some (join32 1 b.toNat a.toNat 0 48, 1)
  | .discard a b => some (join32 2 b.toNat a.toNat 0 48, 1)
  | .pref a b => some (join32 3 b.toNat a.toNat 0 48, 1)
  | .regdef d a b => some (join32 4 b.toNat a.toNat d.toNat 48, 1)
  | .tlbinv d a b => some (join32 5 b.toNat a.toNat d.toNat 48, 1)
  | .tlbwait => some (join32 6 0 0 0 48, 1)
  | .bankcfg d a b => some (join32 7 b.toNat a.toNat d.toNat 48, 1)
  | .cbld a => some (join32 8 0 a.toNat 0 48, 1)
  | .rdcnt space d a => some (join32 (space.toNat * 16 + 0) 0 a.toNat d.toNat 49, 1)
  | .waitc space d a b => some (join32 (space.toNat * 16 + 1) b.toNat a.toNat d.toNat 49, 1)
  | .bararv d a b => some (join32 98 b.toNat a.toNat d.toNat 49, 1)
  | .barwait d a b => some (join32 99 b.toNat a.toNat d.toNat 49, 1)
  | .rlaunch d a => some (join32 0 0 a.toNat d.toNat 50, 1)
  | .rwait d a => some (join32 1 0 a.toNat d.toNat 50, 1)
  | .ryield => some (join32 2 0 0 0 50, 1)
  | .rexit a => some (join32 3 0 a.toNat 0 50, 1)
  | .nextit d => some (join32 4 0 0 d.toNat 50, 1)
  | .cpgo d a b => some (join32 0 b.toNat a.toNat d.toNat 53, 1)
  | .ipgo d a => some (join32 1 0 a.toNat d.toNat 53, 1)
  | .epush a b => some (join32 2 b.toNat a.toNat 0 53, 1)
  | .epop d a => some (join32 3 0 a.toNat d.toNat 53, 1)
  | .convoyHeader s6 s5 s4 s3 s2 s1 k =>
    some (3 + k.toNat * 4 + s1.toNat * 256 + s2.toNat * 4096 + s3.toNat * 65536 +
      s4.toNat * 1048576 + s5.toNat * 16777216 + s6.toNat * 268435456, 1)
  | .vcfg f => some (join64 0x1 0 f, 2)
  | .setvl f => some (join64 0x1 1 f, 2)
  | .vadd f => some (join64 0x2 0 f, 2)
  | .vsub f => some (join64 0x2 1 f, 2)
  | .vmul f => some (join64 0x2 2 f, 2)
  | .vmulh f => some (join64 0x2 3 f, 2)
  | .vmulhu f => some (join64 0x2 4 f, 2)
  | .vmin f => some (join64 0x2 5 f, 2)
  | .vmax f => some (join64 0x2 6 f, 2)
  | .vminu f => some (join64 0x2 7 f, 2)
  | .vmaxu f => some (join64 0x2 8 f, 2)
  | .vand f => some (join64 0x2 9 f, 2)
  | .vor f => some (join64 0x2 10 f, 2)
  | .vxor f => some (join64 0x2 11 f, 2)
  | .vsll f => some (join64 0x2 12 f, 2)
  | .vsrl f => some (join64 0x2 13 f, 2)
  | .vsra f => some (join64 0x2 14 f, 2)
  | .vaddsat f => some (join64 0x2 15 f, 2)
  | .vsubsat f => some (join64 0x2 16 f, 2)
  | .vcmpeq f => some (join64 0x2 17 f, 2)
  | .vcmplt f => some (join64 0x2 18 f, 2)
  | .vcmpltu f => some (join64 0x2 19 f, 2)
  | .vfadd rm f => some (join64 0x3 (0 + rm.toNat) f, 2)
  | .vfsub rm f => some (join64 0x3 (8 + rm.toNat) f, 2)
  | .vfmul rm f => some (join64 0x3 (16 + rm.toNat) f, 2)
  | .vfma rm f => some (join64 0x3 (24 + rm.toNat) f, 2)
  | .vfms rm f => some (join64 0x3 (32 + rm.toNat) f, 2)
  | .vfnma rm f => some (join64 0x3 (40 + rm.toNat) f, 2)
  | .vfmin rm f => some (join64 0x3 (48 + rm.toNat) f, 2)
  | .vfmax rm f => some (join64 0x3 (56 + rm.toNat) f, 2)
  | .vfabs rm f => some (join64 0x3 (64 + rm.toNat) f, 2)
  | .vfneg rm f => some (join64 0x3 (72 + rm.toNat) f, 2)
  | .vfcmpeq rm f => some (join64 0x3 (80 + rm.toNat) f, 2)
  | .vfcmplt rm f => some (join64 0x3 (88 + rm.toNat) f, 2)
  | .vfcmple rm f => some (join64 0x3 (96 + rm.toNat) f, 2)
  | .vfclass rm f => some (join64 0x3 (104 + rm.toNat) f, 2)
  | .vfrcp f => some (join64 0x4 0 f, 2)
  | .vfrsq f => some (join64 0x4 1 f, 2)
  | .vfrcps f => some (join64 0x4 2 f, 2)
  | .vfrsqs f => some (join64 0x4 3 f, 2)
  | .vfexp2 f => some (join64 0x4 4 f, 2)
  | .vflog2 f => some (join64 0x4 5 f, 2)
  | .vftanh f => some (join64 0x4 6 f, 2)
  | .vcvt rm sat f => some (join64 0x5 (0 + rm.toNat * 8 + sat.toNat * 4) f, 2)
  | .vqnt rm sat f => some (join64 0x5 (64 + rm.toNat * 8 + sat.toNat * 4) f, 2)
  | .vdqnt rm sat f => some (join64 0x5 (128 + rm.toNat * 8 + sat.toNat * 4) f, 2)
  | .vcbdec rm sat f => some (join64 0x5 (192 + rm.toNat * 8 + sat.toNat * 4) f, 2)
  | .vredsum f => some (join64 0x6 0 f, 2)
  | .vredmin f => some (join64 0x6 1 f, 2)
  | .vredmax f => some (join64 0x6 2 f, 2)
  | .vfredsum f => some (join64 0x6 3 f, 2)
  | .vfredmin f => some (join64 0x6 4 f, 2)
  | .vfredmax f => some (join64 0x6 5 f, 2)
  | .vperm f => some (join64 0x7 0 f, 2)
  | .vslideup f => some (join64 0x7 1 f, 2)
  | .vslidedn f => some (join64 0x7 2 f, 2)
  | .vcompress f => some (join64 0x7 3 f, 2)
  | .vexpand f => some (join64 0x7 4 f, 2)
  | .vgtrn f => some (join64 0x7 5 f, 2)
  | .vqtrn f => some (join64 0x7 6 f, 2)
  | .vbsll f => some (join64 0x8 0 f, 2)
  | .vbsrl f => some (join64 0x8 1 f, 2)
  | .vbfsl f => some (join64 0x8 2 f, 2)
  | .vbfsr f => some (join64 0x8 3 f, 2)
  | .mand f => some (join64 0x9 0 f, 2)
  | .mor f => some (join64 0x9 1 f, 2)
  | .mxor f => some (join64 0x9 2 f, 2)
  | .mandn f => some (join64 0x9 3 f, 2)
  | .mset f => some (join64 0x9 4 f, 2)
  | .mpopc f => some (join64 0x9 5 f, 2)
  | .mfirst f => some (join64 0x9 6 f, 2)
  | .vmv f => some (join64 0xa 0 f, 2)
  | .vmvs f => some (join64 0xa 1 f, 2)
  | .vins f => some (join64 0xa 2 f, 2)
  | .vbcast f => some (join64 0xa 3 f, 2)
  | .viota f => some (join64 0xa 4 f, 2)
  | .vmerge f => some (join64 0xa 5 f, 2)
  | .vld hint f => some (join64 0xb (hint.toNat * 256 + 0) f, 2)
  | .vlds hint f => some (join64 0xb (hint.toNat * 256 + 1) f, 2)
  | .vldx hint f => some (join64 0xb (hint.toNat * 256 + 2) f, 2)
  | .vst f => some (join64 0xc 0 f, 2)
  | .vsts f => some (join64 0xc 1 f, 2)
  | .vstx f => some (join64 0xc 2 f, 2)
  | .vamo op old f => some (join64 0xd (op.toNat * 32 + old.toNat * 16) f, 2)
  | .vupd tag f => some (join64 0xd (512 + tag.toNat * 32) f, 2)
  | .smld f => some (join64 0x10 0 f, 2)
  | .smst f => some (join64 0x10 16 f, 2)
  | .smget f => some (join64 0x10 32 f, 2)
  | .smput f => some (join64 0x10 48 f, 2)
  | .smid f => some (join64 0x10 64 f, 2)
  | .smadd f => some (join64 0x10 80 f, 2)
  | .smscl f => some (join64 0x10 96 f, 2)
  | .smmul f => some (join64 0x10 112 f, 2)
  | .smma f => some (join64 0x10 128 f, 2)
  | .smtr f => some (join64 0x10 144 f, 2)
  | .smmv f => some (join64 0x10 160 f, 2)
  | .smchol f => some (join64 0x10 176 f, 2)
  | .smlu f => some (join64 0x10 192 f, 2)
  | .smsolv f => some (join64 0x10 208 f, 2)
  | .mcfg f => some (join64 0x11 0 f, 2)
  | .mldw f => some (join64 0x11 1 f, 2)
  | .mswap f => some (join64 0x11 2 f, 2)
  | .mstrm f => some (join64 0x11 3 f, 2)
  | .mdrn f => some (join64 0x11 4 f, 2)
  | .mzero f => some (join64 0x11 5 f, 2)
  | .mspl f => some (join64 0x11 6 f, 2)
  | .mfil f => some (join64 0x11 7 f, 2)
  | .vproj f => some (join64 0x12 0 f, 2)
  | .vpjadj f => some (join64 0x12 1 f, 2)
  | .vsave f => some (join64 0x15 0 f, 2)
  | .vrest f => some (join64 0x15 1 f, 2)
  | .vqsave f => some (join64 0x15 2 f, 2)
  | .vqrest f => some (join64 0x15 3 f, 2)
  | .readBackDelivery => none
  | .takeInterrupt => none
  | .schedulerEntry => none
  | .regionBind => none
  | .coreTakeover => none
  | .budgetStop => none
  | .park => none
  | .parkedResume => none
  | .iterationDispatch => none
  | .regionComplete => none
  | .fillRequest => none
  | .getw => none
  | .recall => none
  | .dieGetu => none
  | .mergeRequest => none
  | .uCopyEviction => none
  | .leaseRenewal => none
  | .leaseHolderTimeout => none
  | .leaseExpiry => none
  | .timestampRollover => none
  | .gets => none
  | .getm => none
  | .upg => none
  | .putm => none
  | .puto => none
  | .pute => none
  | .putu => none
  | .fwdgets => none
  | .fwdgetm => none
  | .inv => none
  | .invack => none
  | .data => none
  | .ackToDie => none
  | .ackToHome => none
  | .getu => none
  | .mrgreq => none
  | .mrgdata => none
  | .hostMemrd => none
  | .hostOwnershipRequest => none
  | .hostMemwr => none
  | .hostSnpdata => none
  | .hostSnpinv => none
  | .hostSnpcur => none
  | .hostBar2Read => none
  | .hostBar2Write => none
  | .peerRequest => none
  | .settleComplete => none
  | .ipcmdDispatch => none
  | .ipcmdComplete => none
  | .copyChunk => none
  | .copyCommandComplete => none
  | .cpctlAbort => none
  | .cpctlRetry => none
  | .tlbinvAcknowledge => none
  | .fifoBankWake => none
  | .scrubRow => none
  | .scoreHalving => none
  | .launchWrite => none
  | .ltakeLoad => none
  | .lstatOverrunClear => none
  | .ldoneWrite => none
  | .errownWrite => none
  | .errpopWrite => none
  | .hosterrWrite => none
  | .bistctlGo => none
  | .bistComplete => none
  | .retreqLaneGroup => none
  | .retreqSliceWay => none
  | .retreqLinkPort => none
  | .retrowGo => none
  | .snaptrigWrite => none
  | .snapinTrigger => none
  | .snapshotLatch => none
  | .portctlRetire => none
  | .portctlTrain => none
  | .portTrainingDone => none
  | .portDown => none
  | .flitCrcRetry => none
  | .fwctlRestore => none
  | .fwctlProgram => none
  | .fwctlEnrol => none
  | .fwctlRevoke => none
  | .fwctlComplete => none
  | .registerWrite => none
  | .clockThrottleStep => none
  | .powerOn => none
  | .powerDomainLoss => none
  | .thermalShutdown => none
  | .waitlimExpiry => none
  | .peerResponse => none
  | .hostCacheResponse => none
  | .backInvalidationResponse => none

/-- The bytes of a well-formed instruction, as they stand in memory; none for a step. -/
def encode (i : Instr) : List Byte :=
  match encodeBits i with
  | some (w, n) => leBytes (4 * n) w
  | none => []

/-- The instruction's parcels zero-extended to 64 bits, as `trapval` reports them (R68). -/
def parcelsOf (i : Instr) : Word :=
  match encodeBits i with
  | some (w, _) => BitVec.ofNat 64 w
  | none => 0

/-- The length of an instruction in bytes (R52). -/
def lengthOf (i : Instr) : Nat :=
  match encodeBits i with
  | some (_, n) => 4 * n
  | none => 0

end Sys2Proof
end

