-- ==== Sys2Proof/Config.lean ====
section
/-! DEFINITION. What the spec leaves to an outside standard or leaves open: constants without a body.
Every statement holds for every value of them. -/

namespace Sys2Proof

/-- Whether an ECDSA P-384 signature over the SHA-384 hash of a firmware image verifies under a key
(R427): the outside standard, not described by the spec. Image and key are bit strings; log 5. -/
opaque Config.signatureValid : (image key : Nat) → Bool

/-- The SHA-384 hash of a bit string (R427): the outside standard; log 5. -/
opaque Config.sha384 : Nat → Nat

/-- The fused public key of the vendor and the contents of the module's recovery flash (R427), fixed at
manufacture; log 5. -/
opaque Config.vendorKey : Nat

/-- A free value for a granule's data after an uncorrectable error, by the number of the upset; log 11. -/
opaque Config.lostData : Nat → Nat

/-- The rounded value of 2^x, log2 x or tanh x where the interval evaluation of the model does not
decide the rounding within its precision; arguments are the function, the format and the operand; log 10. -/
opaque Config.hardCase : (fn fmt operand : Nat) → Nat

/-- Which of the free entries of the region table a REGDEF takes (R274), by the number of the use; log 19. -/
opaque Config.regionChoice : Nat → Nat

/-- `trapval` where the spec names no value for it: cause 0x04 of ERET and NEXTIT (R367), by the number of the
use; log 20. -/
opaque Config.trapvalOpen : Nat → BitVec 64

/-- The row of a DRAM granule, by granule number: [44:40] DRAM die, [39:32] bank, [31:0] row (R230, R371). The
spec gives no geometry of a DRAM die; log 13. -/
opaque Config.rowOf : Nat → Nat

/-- Spare rows of a bank, 1% of its rows (R394), whose number the spec does not give; log 13. -/
opaque Config.spareRows : Nat

/-- The number of a spare row in its bank, by bank and by its place among the spares; log 13. -/
opaque Config.spareRow : (bank place : Nat) → Nat

/-- What a bank of the main flash holds after a flash error while it is written (R425); log 32. -/
opaque Config.flashLeft : Nat → Option Nat

/-- The version and the entry offset that the header of a firmware image holds, and the length that a 64-byte header
gives its image (R427): the spec does not give the offsets of the fields; log 5. -/
opaque Config.imageVersion : Nat → Nat
opaque Config.imageEntry : Nat → Nat
opaque Config.imageLength : Nat → Nat

end Sys2Proof
end

