-- ==== Sys2Proof/Machine/State.lean ====
section
/-! DEFINITION. The state of the part as plain data: one record with every piece of state the spec
names (INVENTORY.md lists them with their rules), the stops, and the state after reset. -/

namespace Sys2Proof.Machine

/-- A table of plain data by number: pairs in rising order of key. A key that is not listed stands for
the default its reader names. -/
abbrev Table (α : Type) := List (Nat × α)

/-! ## Vector configuration and queues -/

/-- What VCFG and SETVL give: `vcfg`, `vl`, `vlpad` and the adopted lane count (R207 to R210, R332). -/
structure VConf where
  vcfg : BitVec 16 := 0
  vl : Nat := 0
  vlpad : Nat := 0
  lanes : Nat := 32
  deriving DecidableEq, Repr

/-- An entry of the vector queue (R332). A convoy's members follow its header in the queue. -/
inductive Entry where
  /-- An instruction with the captured scalar operands a and b. -/
  | instr (i : Instr) (opA opB : Word)
  /-- A configuration entry of VCFG or SETVL with the configuration after it. -/
  | config (i : Instr) (c : VConf)
  /-- A convoy header with the member starts, members 1 to 6; 0xFFFF for a completed or absent one. -/
  | convoy (hdr : Instr) (starts : List Nat)
  deriving DecidableEq, Repr

/-- What a hart slot is doing. -/
inductive Run where
  /-- No logical hart is placed in the slot. -/
  | idle
  /-- The hart runs. -/
  | running
  /-- The hart halted at a fetch fault of `trapvec` (R369). -/
  | halted
  deriving DecidableEq, Repr

/-- An MTB entry (R385, R388): the first virtual page number, the level of the leaf (3 for 4 KiB, 2 for
2 MiB, 1 for 1 GiB), the ASID and the leaf PTE. -/
structure MtbEntry where
  vpn : Nat
  level : Nat
  asid : Nat
  pte : Nat
  deriving DecidableEq, Repr

/-- A TLBINV whose acknowledgements have not all arrived: the hart that issued it, by its slot and as a hart of a
region, its range in 4 KiB pages and the agents still to acknowledge, physical core numbers (R392). -/
structure TlbInv where
  hart : Nat
  logical : Option (Nat × Nat) := none
  asid : Nat
  first : Nat
  count : Nat
  waiting : List Nat
  deriving DecidableEq, Repr

/-- An in-place command record in a FIFO or in flight (R276, R277): the header and the row words as one
little-endian bit string, its issuer, and how it ended. -/
structure IpCmd where
  id : Nat
  record : Nat
  hart : Nat
  asid : Nat
  region : Option Nat := none
  /-- The logical hart that issued it, and whether that hart has ended since. -/
  lh : Option Nat := none
  orphan : Bool := false
  /-- Its number among all commands, which tells two of one ID apart. -/
  num : Nat := 0
  /-- A base-die unit has taken the command from its FIFO; the command has completed. -/
  begun : Bool := false
  done : Bool := false
  deriving DecidableEq, Repr

/-- How far the memory instruction at the head of the queue has come in its present pass. -/
structure Pass where
  /-- Elements of a VAMO that are done. -/
  done : Nat := 0
  /-- Elements that faulted: element, cause and address (R263). -/
  faults : List (Nat × Nat × Nat) := []
  /-- Poisoned granules met, and the first poisoned element with its address (R264). -/
  pois : List Nat := []
  first : Option (Nat × Nat) := none
  /-- The pass stands inside an element group, where the head does not stop (R342). -/
  mid : Bool := false
  /-- Entries of the present instance of SMLD or SMST that are done, and those that SMLD has read (R157). -/
  entry : Nat := 0
  got : List Nat := []
  /-- The translations of the pages of a block that has been checked and moves whole (R182, R216). -/
  pages : List MtbEntry := []
  deriving DecidableEq, Repr

/-- An element group that has been read early for a queued load: the slot of its entry, its number, its bits and
the elements of it that were read (R20, R336). -/
structure EarlyGroup where
  slot : Nat
  group : Nat
  data : Nat := 0
  read : Nat := 0
  deriving DecidableEq, Repr

/-- One hart (R13): what spec/05, 06, 07, 08, 11, 15, 18, 19, 21 and 22 give it. Vector registers, the
small-matrix registers and the planes are little-endian bit strings (R2, R78). -/
structure Hart where
  run : Run := .idle
  /-- The region's RCB address and the logical hart number, when a region's hart is placed here (R399). -/
  logical : Option (Nat × Nat) := none
  x : Vector Word 32 := Vector.replicate 32 0
  pc : Word := 0
  status : BitVec 8 := 0x41
  trapvec : Word := 0
  epc : Word := 0
  trapcause : Word := 0
  trapval : Word := 0
  trapqpos : BitVec 6 := 32
  scratch : Word := 0
  asid : BitVec 16 := 0
  ptbase : Word := 0
  conf : VConf := {}
  vstart : Nat := 0
  vdirty : Word := 0
  /-- High-water marks: one more than the highest bit written, 0 for none (R211, R217). -/
  marks : Vector Nat 64 := Vector.replicate 64 0
  vhwsel : BitVec 6 := 0
  fflags : BitVec 7 := 0
  frm : BitVec 3 := 0
  smflags : BitVec 9 := 0
  mxflags : BitVec 7 := 0
  errctl : BitVec 5 := 0
  waityield : Word := 0x100000
  waitlim : Word := 0
  v : Vector Nat 64 := Vector.replicate 64 0
  /-- m0 to m15; the slot of m0 is never read (R131). -/
  m : Vector Nat 16 := Vector.replicate 16 0
  md : Nat := 0
  /-- g0 to g7: lane j's 36 FP32 entries at bits 1152j and up (R150). -/
  g : Vector Nat 8 := Vector.replicate 8 0
  queue : List Entry := []
  /-- Model: the order of arrival at the range checker of each queued slot (R361). -/
  arrived : List Nat := []
  /-- Model: the arrival number of the entry whose accesses are being performed. -/
  performing : Option Nat := none
  qhead : Nat := 0
  /-- The queue stands frozen after a trap or a VQREST, until ERET (R218, R340). -/
  frozen : Bool := false
  headConf : VConf := {}
  /-- Values produced for scalar destinations and not yet written, oldest first (R335). -/
  readback : List (SReg × Word) := []
  /-- Load-data queues 0 and 1, the element groups fetched early (R20, R336). -/
  loadData : Vector (List EarlyGroup) 2 := Vector.replicate 2 []
  /-- The load-data queue of the first load entry in the vector queue (R336). -/
  loadFirst : Nat := 0
  ipFifo : List IpCmd := []
  ipNext : Nat := 0
  ipMark : Nat := 0
  ipErrors : Nat := 0
  /-- Outstanding remote writes (R317). -/
  remoteWrites : Nat := 0
  /-- Pending interrupts: cause and `trapval`, in rising order of cause (R363, R368). -/
  irqs : List (Nat × Word) := []
  /-- A pre-emption request is pending (R343). -/
  preempt : Bool := false
  perf : Vector Word 8 := Vector.replicate 8 0
  /-- The die timer when the waiting WAITC issued (R383). -/
  waitT0 : Option Nat := none
  /-- What the waiting WAITC waits for: counter space, index and threshold (R30). -/
  waitOn : Option (Nat × Nat × Nat) := none
  /-- Model: the instruction at the PC could not complete at its last turn and waits. -/
  stalled : Bool := false
  /-- Model: what it waits for is room in the vector queue or the read-back queue (R378). -/
  full : Bool := false
  /-- Model: the hart waits in WFA; a pending interrupt or pre-emption ends the wait before it is taken (R214). -/
  wfaWait : Bool := false
  /-- Physical address of the save block that the scheduler recorded at bind (R343). -/
  saveBlock : Nat := 0
  /-- ERET has released a partially completed entry, which performs its elements outside `md` (R370). -/
  replay : Bool := false
  /-- Model: progress of the memory instruction at the head. -/
  pass : Pass := {}
  /-- Model: the element before which the entry that performs stops for now: the front of its convoy (R338), or a
  stop inside it (R342). -/
  front : Nat := 16384
  /-- Model: the passes of the other members of the convoy at the head, by member. -/
  memberPass : Table Pass := []
  /-- Units that the last-use load at the head has touched and will discard (R258). -/
  lastUse : List Nat := []
  /-- The `trapval` of the data trap that an entry with faulted elements still owes for poison its other elements
  delivered (R264). -/
  owesTrap : Option Word := none
  /-- The `trapval` of a trap of class 4 that waits for the hart's next boundary (R373). -/
  arrayTrap : Option Word := none
  deriving DecidableEq, Repr

/-! ## Core state -/

inductive BankMode where
  | cache | scratch | fifo
  deriving DecidableEq, Repr

/-- A weight plane (R167): entries as 16-bit codes of the spill format at bits 16(64k + n), a scale byte
and a zero point per column and block, the format and the block-length code, and the loaded mark. -/
structure Plane where
  loaded : Bool := false
  fmt : Nat := 0
  blk : Nat := 0
  codes : Nat := 0
  scales : Nat := 0
  zps : Nat := 0
  deriving DecidableEq, Repr

/-- A copy command: its ID, its 128-byte record as a bit string, the hart that pushed it with the address
space it pushed from, and the next chunk (R352, R353). -/
structure CopyCmd where
  id : Nat
  record : Nat
  hart : Nat
  asid : Nat
  root : Nat
  priv : Bool
  region : Option (Nat × Nat) := none
  chunk : Nat := 0
  /-- Model: the order of arrival at the range checker (R361). -/
  seq : Nat := 0
  deriving DecidableEq, Repr

/-- A copy channel (R345). The first queued command is the one in progress. -/
structure Channel where
  queue : List CopyCmd := []
  nextId : Nat := 0
  mark : Nat := 0
  bytesRead : Nat := 0
  bytesWritten : Nat := 0
  halted : Bool := false
  aborted : Bool := false
  deriving DecidableEq, Repr

/-- A record of four 64-bit words: a fault record (R364) or an error record (R371). -/
structure Rec4 where
  w0 : Nat
  w1 : Nat
  w2 : Nat
  w3 : Nat
  deriving DecidableEq, Repr

/-- One physical core (spec/01, 09, 13, 20, 21, 23). Its SRAM bytes stand in the memory. -/
structure Core where
  pmode : BitVec 2 := 0
  retiredGroups : BitVec 8 := 0
  /-- The lane groups that retired since power-on, the last one first (R375). -/
  retireOrder : List Nat := []
  retired : Bool := false
  /-- The logical number in the die (R12, R385). -/
  logical : Nat := 0
  banks : Vector BankMode 96 := Vector.ofFn fun b => if b.val < 8 then .cache else .scratch
  /-- Entries of the banks in FIFO mode, oldest first (R347). -/
  fifos : Table (List Word) := []
  /-- The accesses that wait to pop from bank b (key 2b) or to push to it (key 2b + 1), in order of arrival (R347): the
  number of a hart for its scalar side or of a channel, or 2^13 (n + 1) more for the queued entry that arrived as n. -/
  waiters : Table (List Nat) := []
  /-- Accesses that were waiting at one side of a bank when it left FIFO mode, and have not yet met cause 0x0C (R347):
  the number of the access, and the side by the key of `waiters`. -/
  ousted : List (Nat × Nat) := []
  budget : Nat := 96
  /-- The region that holds the core, its RCB address (R399), and the die timer at the bind. -/
  region : Option Nat := none
  boundAt : Nat := 0
  /-- The scheduler takes the core from its region (R400), for another, which it is kept for. -/
  taken : Bool := false
  taker : Option Nat := none
  plru : Vector (BitVec 32) 64 := Vector.replicate 64 0
  pts : Nat := 0
  mtb : List MtbEntry := []
  codebook : Vector (BitVec 32) 256 := Vector.replicate 256 0
  /-- The slot of the hart that owns the matrix engine (R14, R15). -/
  owner : Option Nat := none
  wpa : Plane := {}
  wps : Plane := {}
  /-- acc0 to acc3: entry (m, n) at bits 48(64m + n) (R181). -/
  acc : Vector Nat 4 := Vector.replicate 4 0
  engConf : BitVec 8 := 0x11
  channels : Vector Channel 4 := Vector.replicate 4 {}
  faults : List Rec4 := []
  faultCursor : Nat := 0
  /-- Times of ARRAY records of each physical lane group within the last 24 hours (R375). -/
  arrayTimes : Vector (List Nat) 8 := Vector.replicate 8 []
  deriving DecidableEq, Repr

/-! ## Caches and coherence -/

/-- State of an L1 copy (R290). -/
inductive L1St where
  | i | s | w | u | o | is | iw | iu
  deriving DecidableEq, Repr

/-- Data of a unit of coherence, a 128-byte device line or a 64-byte host half (the low half of the
fields): bytes, dirty mask, poisoned 32-byte granules. -/
structure LineData where
  data : Nat := 0
  dirty : Nat := 0
  pois : Nat := 0
  deriving DecidableEq, Repr

/-- An update-only partial: elements and touched bits, element e of width w at bits w·e (R284). -/
structure Partial where
  data : Nat := 0
  touched : Nat := 0
  deriving DecidableEq, Repr

/-- An L1 copy (R242, R284, R290). -/
structure L1Copy where
  st : L1St := .i
  line : LineData := {}
  wts : Nat := 0
  rts : Nat := 0
  /-- Die-timer deadline of the physical lease at the holder (R292), and its window in cycles. -/
  granted : Nat := 0
  window : Nat := 0
  tag : Nat := 0
  /-- A fill in flight is that of a read-only copy (R258). -/
  ro : Bool := false
  /-- Model: an acquire has passed a read-only copy, which only read-only loads still hit (R323, R328). -/
  aged : Bool := false
  /-- The hart whose access has sent the request in flight, and the performance counter of the path its line takes to
  a vector access (R378). -/
  asker : Option Nat := none
  path : Option Nat := none
  /-- The tenant of the region whose access has asked for it (R246). -/
  tenant : Nat := 0
  upd : Partial := {}
  vtag : Nat := 0
  asid : Nat := 0
  global : Bool := false
  /-- The leaf's permissions at the fill: 1 R, 2 W (with D set), 4 X (R242, log 15). -/
  perms : Nat := 0
  set : Nat := 0
  way : Nat := 0
  /-- The second way of an ADD.BF16 partial (R296). -/
  way2 : Option Nat := none
  deriving DecidableEq, Repr

/-- State of a line in a die slice (R306). -/
inductive DieSt where
  | i | s | e | o | m | isD | imAD | imA | smAD | smA | omA | miA | oiA | eiA | iiA | u | iuA
  deriving DecidableEq, Repr

/-- A holder of a line at its die slice: the logical core, the die timer at its grant or renewal, and the window
then in force (R284, R292, R294). -/
structure Lease where
  core : Nat
  granted : Nat
  window : Nat
  deriving DecidableEq, Repr

/-- The holder record of a line at its die slice (R284, R291). -/
inductive Holder where
  | none
  | w (x : Lease)
  | u (cores : List Lease)
  deriving DecidableEq, Repr

/-- A line of a die slice (R236, R284, R302). -/
structure L2Line where
  st : DieSt := .i
  line : LineData := {}
  wts : Nat := 0
  rts : Nat := 0
  holder : Holder := .none
  tag : Nat := 0
  upd : Partial := {}
  /-- InvAcks still expected; 0 while an Ack with their number has not come. -/
  acks : Nat := 0
  /-- The requests that wait at the slice, in order of arrival (R291): core c's request for a copy as c, the read of a
  walker of agent n as 2^10 + n, core c's renewal as 2^13 + c. -/
  queue : List Nat := []
  tenant : Nat := 0
  /-- Time of the last use, for least-recently-used replacement (R247). -/
  used : Nat := 0
  deriving DecidableEq, Repr

/-- State of a directory entry (R307). -/
inductive DirSt where
  | i | s | x | o | u
  deriving DecidableEq, Repr

/-- A host half-state (R314), and the right the part holds from the host on a host half (R316). -/
inductive HostSt where
  | none | shared | owned
  deriving DecidableEq, Repr

/-- Whose operation waits at a home: a hart's or a channel's, with the arrival number of the queued entry that
performs it, or a step of the host or of a peer with what tells it apart (R291). -/
inductive HomeUser where
  | agent (n : Nat) (entry : Option Nat)
  | outside (i : Instr) (args : List Nat)
  deriving DecidableEq, Repr

/-- An end of a coherence message: a die's slice as peer cache, or the line's home (R303). -/
inductive Agent where
  | die (d : Nat)
  | home
  deriving DecidableEq, Repr

/-- The messages of R304; an Inv carries its form: 0 ordinary, 1 RENEW, 2 DISCARD. -/
inductive MsgKind where
  | getS | getM | upg | putM | putO | putE | putU | fwdGetS | fwdGetM
  | inv (form : Nat) | invAck (kept : Bool) | data | ackDie | ackHome | getU | mrgReq | mrgData
  /-- Model: an operation at the home that waits among the requests (R291). -/
  | op (who : HomeUser)
  deriving DecidableEq, Repr

/-- A message in flight about one unit. -/
structure Msg where
  kind : MsgKind
  lu : Nat
  src : Agent
  dst : Agent
  /-- Where the answer goes. -/
  req : Agent := .home
  excl : Bool := false
  count : Nat := 0
  tag : Nat := 0
  line : LineData := {}
  upd : Partial := {}
  /-- An Ack that accepts a Put or grants a GetU, rather than an Upg. -/
  plain : Bool := false
  /-- The tenant of the region whose access the message serves (R246). -/
  tenant : Nat := 0
  deriving DecidableEq, Repr

/-- What the home does once the messages it collects have arrived. -/
inductive Pending where
  | none
  /-- Collecting InvAcks, data or merge results, then grant U under the tag to the die (R307). -/
  | grantU (die tag : Nat)
  /-- Merging, then serve the request again (R311). -/
  | serve (m : Msg)
  /-- A home operation collects; it goes on when nothing is awaited (R308). A merge for it is a switch or a read
  (R300). -/
  | homeOp (switch : Bool)
  deriving DecidableEq, Repr

/-- A directory entry at the home (R302, R307) with the home's own copy of the line. -/
structure DirEntry where
  st : DirSt := .i
  owner : Nat := 0
  sharers : List Nat := []
  tag : Nat := 0
  copy : Option LineData := none
  wts : Nat := 0
  rts : Nat := 0
  busy : Bool := false
  /-- InvAcks, data and merge results the home still awaits. -/
  awaited : Nat := 0
  pending : Pending := .none
  merged : List (Nat × Partial) := []
  waiting : List Msg := []
  /-- Host half-states of a device line (R314). -/
  half0 : HostSt := .none
  half1 : HostSt := .none
  /-- The right held from the host on a host half (R316). -/
  hostRight : HostSt := .none
  tenant : Nat := 0
  used : Nat := 0
  deriving DecidableEq, Repr

/-! ## Die state -/

/-- One die (spec/11, 12, 16, 17, 21, 22, 24). -/
structure Die where
  leasewin : Nat := 65536
  snapEn : BitVec 3 := 0
  snapClass : BitVec 8 := 0
  errs : List Rec4 := []
  errCursor : Nat := 0
  errOwn : Bool := false
  launch : Nat := 0
  accepted : Nat := 0
  code : Nat := 0
  overrun : Bool := false
  ldone : Nat := 0
  schedent : Word := 0
  schedpt : Word := 0
  /-- The firmware has written SCHEDENT and SCHEDPT since power-on (R426). -/
  entSet : Bool := false
  ptSet : Bool := false
  /-- Root regions of the die that have ended and of which the firmware has been notified, but not yet written LDONE
  (R403). -/
  notices : Nat := 0
  fqsel : Nat := 0
  bistUnit : Nat := 0
  bistRunning : Bool := false
  bistResult : Nat := 0
  bistStatUnit : Nat := 0
  scrub0 : Nat := 0x1801
  scrub1 : Nat := 0x1801
  retcfg : Nat := 0x0740
  rowsRetired0 : Nat := 0
  rowsRetired1 : Nat := 0
  /-- Spare rows that are spent in the most used bank of each stack (R230). -/
  spent0 : Nat := 0
  spent1 : Nat := 0
  /-- The die timer at the last halving of the scores (R394). -/
  halved : Nat := 0
  retrow : Nat := 0
  retreq : Nat := 0
  tempd : Nat := 0
  temps : Nat := 0
  timer : Nat := 0
  runQueue : List Nat := []
  mts : Table Nat := []
  retiredWays : Table Nat := []
  /-- Times of uncorrectable errors of way w of slice n within the last 24 hours, at 16n + w (R433). -/
  wayErrors : Table (List Nat) := []
  deriving DecidableEq, Repr

/-! ## Package state -/

/-- An entry of the package region table (R389). -/
structure RegionEntry where
  asid : Nat
  base : Nat
  length : Nat
  /-- Frame of each 4 KiB page. -/
  frames : List Nat
  issue : Nat := 0
  mark : Nat := 0
  lost : Bool := false
  /-- Settle numbers above the watermark that are complete (R270). -/
  complete : List Nat := []
  deriving DecidableEq, Repr

/-- A settle whose bytes are collected and not yet written (R269, R270): the region index, 4096 for none,
its number, and the collected bytes of each line. -/
structure Settle where
  region : Nat
  num : Nat
  lines : List (Nat × LineData)
  deriving DecidableEq, Repr

/-- A barrier (R384). -/
structure Barrier where
  generation : Nat := 0
  arrived : Nat := 0
  expected : Nat := 0
  deriving DecidableEq, Repr

/-- A port of the Gulkel link (R233): 0 down, 1 training, 2 up, 3 retired. PORTCTL resets to 1 as R233 says, where the
cell of R223's table for both registers reads 0 (DESIGN CHOICE, log 60). -/
structure Port where
  state : Nat := 0
  enable : Bool := true
  peerDev : Nat := 0
  peerPort : Nat := 0
  retries : Nat := 0
  /-- Die timer values of the retries within the last second (R433). -/
  recent : List Nat := []
  deriving DecidableEq, Repr

/-- An access of this device to a fabric peer, or an uncached access to host memory, on its way (R312,
R317). -/
structure Remote where
  id : Nat
  hart : Nat
  /-- The region and logical hart on whose behalf it was sent, wherever that hart stands now (R317). -/
  owner : Option (Nat × Nat) := none
  /-- 0 load, 1 store, 2 atomic. -/
  kind : Nat
  addr : Nat
  /-- The address it names at the peer (R239), or at the host. -/
  target : Nat := 0
  bytes : Nat
  op : Nat := 0
  val : Nat := 0
  expected : Nat := 0
  /-- Element of a vector instruction; 0 for a scalar access. -/
  elem : Nat := 0
  /-- The other elements that an atomic performs in the same locked operation, after the first: address and operand
  (R260). -/
  more : List (Nat × Nat) := []
  port : Option Nat := none
  reply : Option Nat := none
  deriving DecidableEq, Repr

/-- A host request waiting at the bridge (R302, R315): 0 shared read, 1 ownership, 2 write-back,
3 uncached read, 4 uncached write. -/
structure BridgeReq where
  kind : Nat
  half : Nat
  val : Nat := 0
  deriving DecidableEq, Repr

/-- A write of the host that waits behind an earlier BAR2 write (R222): to BAR2 when `bar2`, else to BAR0. -/
structure Posted where
  bar2 : Bool
  off : Nat
  bytes : Nat
  val : Nat
  deriving DecidableEq, Repr

/-- Where a logical hart of a region stands (R399, R402, R30). -/
inductive Place where
  /-- Waits for a slot. -/
  | waiting
  /-- Placed in the hart slot of that number. -/
  | placed (h : Nat)
  /-- Parked since the die timer value (R30). -/
  | parked (since : Nat)
  /-- Has executed REXIT and is free (R402). -/
  | free
  /-- Has halted at a fetch fault of its `trapvec` and counts as exited (R369, R403). -/
  | halted
  deriving DecidableEq, Repr

/-- The state of a matrix engine that is saved with its owner (R183, R342). -/
structure Engine where
  wpa : Plane := {}
  wps : Plane := {}
  acc : Vector Nat 4 := Vector.replicate 4 0
  conf : BitVec 8 := 0x11
  deriving DecidableEq, Repr

/-- The trap CSRs of a hart, its status, and whether its queue is frozen. -/
structure TrapRegs where
  epc : Word := 0
  trapcause : Word := 0
  trapval : Word := 0
  trapqpos : BitVec 6 := 0
  status : BitVec 8 := 0
  frozen : Bool := false
  deriving DecidableEq, Repr

/-- A logical hart: its place, its saved context when it is not placed, whether it has begun, and whether
it owns the engine of its core (R15). -/
structure Logical where
  place : Place := .waiting
  ctx : Option Hart := none
  /-- It has left a slot without lanes, and takes the next of its region that falls free (R12). -/
  moved : Bool := false
  /-- What RYIELD must not change, while its hart is out of its slot (R403). -/
  kept : Option TrapRegs := none
  owner : Bool := false
  engine : Option Engine := none
  /-- The core on which it last stood (R379). -/
  core : Nat := 0
  /-- The iteration it starts with (R402). -/
  iter : Nat := 0
  deriving DecidableEq, Repr

/-- A launched region (spec/24): the fields of its RCB in force after R397, and its progress. -/
structure Region where
  parent : Nat := 0
  root : Nat := 0
  die : Nat := 0
  priority : Nat := 0
  tenant : Nat := 0
  pmode : BitVec 2 := 0
  mxown : Bool := false
  domain : Nat := 0
  priv : Bool := false
  asid : BitVec 16 := 0
  ptbase : Word := 0
  entry : Word := 0
  args : Word := 0
  trapvec : Word := 0
  save : Nat := 0
  /-- Physical address of each hart's save block (R343). -/
  saveBlocks : List Nat := []
  budget : Nat := 0
  quota : Nat := 0
  banks : Nat := 96
  cores : Nat := 1
  quantum : Nat := 1000
  record : Option Nat := none
  /-- 1 running, 2 exited, 3 faulted, 4 budget spent, 5 ending (R398). -/
  state : Nat := 1
  /-- The final state an ending region will take. -/
  final : Nat := 2
  /-- The status word has changed and the part has not yet written it (R398). -/
  unwritten : Bool := false
  cause : Nat := 0
  exit : Word := 0
  used : Nat := 0
  lost : Bool := false
  nextIter : Nat := 0
  harts : List Logical := []
  held : List Nat := []
  /-- Die timer since which the region waits for a core. -/
  waitingSince : Nat := 0
  deriving DecidableEq, Repr

/-- A firmware image or key store of the module (R427): two flash banks, the recovery flash, owner keys. -/
structure Flash where
  bankA : Option Nat := none
  bankB : Option Nat := none
  recovery : Option Nat := none
  recoveryHash : Nat := 0
  ownerKeys : List Nat := []
  vendorRevoked : Bool := false
  lastBank : Nat := 0
  booted : Bool := false
  /-- The bank being written, when power must not be lost (R428). -/
  writing : Option Nat := none
  deriving DecidableEq, Repr

/-- The next thing an agent other than the turn's hart does, or whose turn comes next. The list of turns
is the model's own: what the spec leaves to time and to the outside world (log 1). -/
inductive Turn where
  /-- A step of the opcode table that no instruction encodes, with its operands. -/
  | event (i : Instr) (args : List Nat)
  /-- The hart of that number has the next turn. -/
  | hart (h : Nat)
  /-- So many nanoseconds pass (log 8). -/
  | elapse (ns : Nat)
  /-- The sensors read: module power of the compute dies, the stacks and I/O in W; the temperatures of
  die d and its stacks in units of 0.125 degrees (R234). -/
  | power (compute dram io : Nat)
  | temperature (die tempd temps : Nat)
  /-- A granule of the arrays takes an error in one symbol, which is correctable, in two, or (3) in more (R264,
  R371, R432). -/
  | upset (granule symbols : Nat)
  /-- An entry of an accumulator (which 0–3) or a plane (4 active, 5 shadow) takes an uncorrectable
  error (R179). -/
  | engineUpset (core which index : Nat)
  /-- An element of vector register `reg` of a hart, or of small-matrix register `reg` − 64, takes an
  uncorrectable error (R372). -/
  | registerUpset (hart reg element : Nat)
  /-- A way of a slice takes an uncorrectable error (R433). -/
  | wayUpset (die slice way : Nat)
  /-- A word of SRAM, a register, or an entry of an accumulator or a plane is corrected as it is read: counted, with
  no record (R179, R372, R377). -/
  | corrected
  /-- The host reads n bytes at a BAR0 offset (R221). -/
  | hostRead (off n : Nat)
  /-- A hart's pre-emption request finds its head after so many element groups, and stops it there (R31, R342). -/
  | stopInside (h groups : Nat)
  /-- The scalar side of a hart reads one more element group of the queued load at a position early (R20, R336). -/
  | earlyRead (h pos : Nat)
  /-- The power-on sequence goes on (R426). -/
  | boot
  /-- The host resizes BAR2 to so many GiB (R423). -/
  | resizeBar2 (gib : Nat)
  deriving DecidableEq, Repr

/-- The machine. `h` is the hart whose number is `cur`; every other hart stands in `others`. -/
structure State where
  /-- Model: what happens next (log 1). -/
  agenda : List Turn
  /-- Model: the operands of the step that runs, in the order its constructor's docstring gives. -/
  args : List Nat
  cur : Nat
  h : Hart
  others : Table Hart
  cores : Table Core
  dies : Table Die
  /-- Device arrays (the settled image), host memory and core SRAM, one byte each (log 4). -/
  mem : List Host.Cell
  poison : List Nat
  correctable : List Nat
  /-- The syndrome of an uncorrectable granule whose error has not been replaced by a poison syndrome: 2 or 3 (R371). -/
  detected : Table Nat
  l1 : Table L1Copy
  l2 : Table L2Line
  dir : Table DirEntry
  /-- Model: the fills that wait for a way, in the order in which they arrived at their slice (R247): units by set. -/
  fills : Table (List Nat)
  net : List Msg
  settles : List Settle
  /-- Discards on their way to the home: the unit, and the hart whose later accesses wait for it (R273, R329). -/
  discards : List (Nat × Nat)
  tlbInvs : List TlbInv
  regionTable : Table RegionEntry
  ipRunning : List IpCmd
  tickets : Nat
  barriers : Table Barrier
  errCounters : Vector Nat 13
  snapId : Nat
  snapSel : Nat
  /-- Die timer values at which pending snapshot latches fall due (R434). -/
  snapPending : List Nat
  /-- The die timer value up to which the output SNAPOUT is low; none while it is high (R434). -/
  snapLow : Option Nat
  /-- The words latched at the last snapshot, by unit code times 32 plus word (R232). -/
  snapData : Table Word
  hosterr : Nat
  pwrlim : Nat
  pwrDies : Nat
  pwrStacks : Nat
  pwrIo : Nat
  clock : Nat
  bootPhase : Nat
  bootReason : Nat
  bootUnit : Nat
  /-- The failures that the power-on sequence meets (R426). -/
  bootFails : List Nat
  fwOp : Nat
  /-- The operation that runs while `fwBusy` (R428). -/
  fwRun : Nat
  fwaddr : Nat
  fwBusy : Bool
  fwResult : Nat
  fwRecovery : Bool
  bar2off : Nat
  bar2size : Nat
  fabid : Nat
  recov : Bool
  enrol : Bool
  flash : Flash
  ports : Table Port
  remotes : List Remote
  nextRemote : Nat
  bridge : List BridgeReq
  /-- Writes of the host that wait for an earlier BAR2 write, in order of arrival (R222). -/
  posted : List Posted
  /-- Back-invalidations in flight: the half, and whether it takes the half from the host (R314). -/
  backInv : List (Nat × Bool)
  /-- Requests of the bridge to the host in flight: 0 RdShared, 1 RdOwn, 2 DirtyEvict, 3 CleanEvict. -/
  cxl : List (Nat × Nat)
  /-- Data and answers given to the host, the last one: half or offset, and value. -/
  hostReply : Option (Nat × Nat)
  msix : BitVec 11
  regions : Table Region
  tenantTargets : Vector Nat 16
  /-- Scores of the hot rows: stack times 2^45 plus row address, score, die timer of the last error
  (R394). -/
  hotRows : List (Nat × Nat × Nat)
  /-- The row retirement table: a retired row and the row that has taken its place (R385, R394). -/
  retiredRows : List (Nat × Nat)
  powerStacks : Bool
  powerCompute : Bool
  powerIo : Bool
  /-- Core cycles since power-on, the same for every core (R376). -/
  cycles : Nat
  /-- Model: thousandths of a core cycle that have passed and are not yet counted (log 8). -/
  owed : Nat
  /-- Model: a counter of uses, for least-recently-used order, for free values and for settles without
  a region (log 11, log 12). -/
  tick : Nat
  deriving DecidableEq, Repr

/-- Faults of the model. -/
inductive Fault where
  /-- The agenda, the model's own data, names an instruction as a step of another agent. Raised by the
  step alone; safe: the hardware has no such step. -/
  | agendaNotEvent
  deriving DecidableEq, Repr

/-- Refusals of the model. -/
inductive Refusal where
  /-- No meaning is modelled for the instruction. Raised by the dispatch alone; safe. -/
  | notModelled (mnemonic : String)
  deriving DecidableEq, Repr

/-- The outcome of a step of this machine. -/
abbrev Result := Host.Outcome State Fault Refusal

/-- The machine right after reset: power has just been applied, nothing is in memory, every register holds
the value spec/ gives or the value a log entry names, and the power-on sequence is the next thing that
happens (R426). -/
def State.reset : State :=
  { agenda := [.event .powerOn [0, 0]], args := []
    cur := 0, h := {}, others := [], cores := [], dies := []
    mem := [], poison := [], correctable := [], detected := []
    l1 := [], l2 := [], dir := [], fills := [], net := [], settles := [], discards := [], tlbInvs := [], regionTable := [], ipRunning := []
    tickets := 0, barriers := [], errCounters := Vector.replicate 13 0
    snapId := 0, snapSel := 0, snapPending := [], snapLow := none, snapData := []
    hosterr := 0, pwrlim := 4200, pwrDies := 0, pwrStacks := 0, pwrIo := 0, clock := 1800
    bootPhase := 0, bootReason := 0, bootUnit := 0, bootFails := []
    fwOp := 0, fwRun := 0, fwaddr := 0, fwBusy := false, fwResult := 0, fwRecovery := false
    bar2off := 0, bar2size := 64, fabid := 0x7F, recov := false, enrol := false, flash := {}
    ports := [], remotes := [], nextRemote := 0
    bridge := [], posted := [], backInv := [], cxl := [], hostReply := none, msix := 0
    regions := [], tenantTargets := Vector.replicate 16 0
    hotRows := [], retiredRows := []
    powerStacks := false, powerCompute := false, powerIo := false
    cycles := 0, owed := 0, tick := 0 }

end Sys2Proof.Machine
end

