-- ==== Sys2Proof/Machine/Bits.lean ====
section
/-! DEFINITION. Bit strings as numbers, tables by number, and the memory: a list of cells in rising order
of address that lists no zero byte. -/

namespace Sys2Proof.Machine

/-! ## Bit strings -/

/-- Bits [pos + len − 1 : pos] of a bit string. -/
def bitsGet (x pos len : Nat) : Nat := (x >>> pos) % 2 ^ len

/-- The bit string with bits [pos + len − 1 : pos] replaced by the low bits of y. -/
def bitsSet (x pos len y : Nat) : Nat := x ^^^ ((bitsGet x pos len ^^^ (y % 2 ^ len)) <<< pos)

/-- One bit of a bit string. -/
def bitAt (x pos : Nat) : Bool := x.testBit pos

/-- The low len bits read as a two's complement value (R71). -/
def toSigned (len x : Nat) : Int :=
  let y := x % 2 ^ len
  if 2 * y < 2 ^ len then (y : Int) else (y : Int) - (2 ^ len : Nat)

/-- The low len bits of an integer (R71). -/
def ofInt (len : Nat) (x : Int) : Nat := (x % ((2 ^ len : Nat) : Int)).toNat

/-- The numbers from 0 to n − 1. -/
def upTo (n : Nat) : List Nat := List.range n

/-- The numbers p, p + 1, …, q − 1. -/
def fromTo (p q : Nat) : List Nat := (List.range (q - p)).map (· + p)

/-- k numbers from n on. -/
def numbersFrom (n k : Nat) : List Nat := fromTo n (n + k)

/-- How many of the low n bits are ones. -/
def popCount (n x : Nat) : Nat := (upTo n).foldl (fun c i => if bitAt x i then c + 1 else c) 0

/-- A bit string of n equal elements of width w. -/
def fillBits : (n w e : Nat) → Nat
  | 0, _, _ => 0
  | n + 1, w, e => e % 2 ^ w + (fillBits n w e) <<< w

/-- A word of its low n bytes' worth of a number. -/
def word (n : Nat) : Word := BitVec.ofNat 64 n

/-! ## Tables -/

/-- The entry of a key. -/
def tget {α : Type} : Table α → Nat → Option α
  | [], _ => none
  | (k', v) :: t, k => if k' = k then some v else if k < k' then none else tget t k

/-- The table with the key's entry set. -/
def tset {α : Type} : Table α → Nat → α → Table α
  | [], k, v => [(k, v)]
  | (k', v') :: t, k, v =>
    if k' = k then (k, v) :: t else if k < k' then (k, v) :: (k', v') :: t else (k', v') :: tset t k v

/-- The table without the key. -/
def tdel {α : Type} : Table α → Nat → Table α
  | [], _ => []
  | (k', v') :: t, k => if k' = k then t else (k', v') :: tdel t k

/-- The entry of a key, or a default. -/
def tgetD {α : Type} (t : Table α) (k : Nat) (d : α) : α := (tget t k).getD d

/-! ## Memory -/

/-- The canonical form: addresses strictly rising, no byte equal to what an unlisted address reads as. -/
def Memory.wfFrom (lo : Nat) : List Host.Cell → Bool
  | [] => true
  | (a, b) :: m => decide (lo ≤ a) && b != 0 && Memory.wfFrom (a + 1) m

/-- The canonical form of a memory. -/
def Memory.wf (m : List Host.Cell) : Bool := Memory.wfFrom 0 m

/-- What an address that is not listed reads as: zero, the value of every array and SRAM byte after the
power-on sequence (R236); for host memory log 4. -/
def unlistedByte : Byte := 0

/-- The byte at an address. -/
def memGet : List Host.Cell → Nat → Byte
  | [], _ => unlistedByte
  | (a', b) :: m, a => if a' = a then b else if a < a' then unlistedByte else memGet m a

/-- The memory with one byte written; writing the unlisted value removes the entry. -/
def memSet : List Host.Cell → Nat → Byte → List Host.Cell
  | [], a, b => if b = unlistedByte then [] else [(a, b)]
  | (a', b') :: m, a, b =>
    if a' = a then (if b = unlistedByte then m else (a, b) :: m)
    else if a < a' then (if b = unlistedByte then (a', b') :: m else (a, b) :: (a', b') :: m)
    else (a', b') :: memSet m a b

/-- n bytes from an address as a little-endian number (R2). -/
def memRead (m : List Host.Cell) (a : Nat) : Nat → Nat
  | 0 => 0
  | n + 1 => (memGet m a).toNat + 256 * memRead m (a + 1) n

/-- n bytes written at an address, lowest byte first (R2). -/
def memWrite (m : List Host.Cell) (a : Nat) : (n v : Nat) → List Host.Cell
  | 0, _ => m
  | n + 1, v => memWrite (memSet m a (BitVec.ofNat 8 v)) (a + 1) n (v / 256)

/-- The bytes i < n whose bit of the mask is set, written at an address. -/
def memWriteMasked (m : List Host.Cell) (a : Nat) : (n v mask : Nat) → List Host.Cell
  | 0, _, _ => m
  | n + 1, v, mask =>
    memWriteMasked (if mask % 2 = 1 then memSet m a (BitVec.ofNat 8 v) else m) (a + 1) n (v / 256) (mask / 2)

/-- The bytes of a number that are not 0, with the addresses they have from an address on: of 2^d bytes. -/
def nonzeroBytes : (d a x : Nat) → List Host.Cell
  | 0, a, x => if x % 256 = 0 then [] else [(a, BitVec.ofNat 8 x)]
  | d + 1, a, x =>
    if x = 0 then []
    else nonzeroBytes d a (x % 2 ^ (8 * 2 ^ d)) ++ nonzeroBytes d (a + 2 ^ d) (x >>> (8 * 2 ^ d))

/-- A block of n bytes written at an address, at most 512 KiB: what was there goes, and the bytes that are not 0 are
listed. -/
def memBlock (m : List Host.Cell) (a n x : Nat) : List Host.Cell :=
  (nonzeroBytes 19 a x).foldl (fun m c => memSet m c.1 c.2) (m.filter fun c => decide (c.1 < a) || decide (a + n ≤ c.1))

/-- A block of n bytes read, from the cells it lists. -/
def memReadBlock (m : List Host.Cell) (a n : Nat) : Nat :=
  (m.filter fun c => decide (a ≤ c.1) && decide (c.1 < a + n)).foldl (fun x c => x + c.2.toNat <<< (8 * (c.1 - a))) 0

/-- The bit string whose byte i is all ones where bit i of the mask is set. -/
def byteMask : (n mask : Nat) → Nat
  | 0, _ => 0
  | n + 1, mask => (if mask % 2 = 1 then 255 else 0) + 256 * byteMask n (mask / 2)

/-- The bytes of y where the byte mask has ones, else those of x. -/
def mergeBytes (n x y mask : Nat) : Nat :=
  let b := byteMask n mask
  (x &&& (2 ^ (8 * n) - 1 - b)) ||| (y &&& b)

/-- The mask of n bytes from byte p. -/
def maskOf (p n : Nat) : Nat := (2 ^ n - 1) <<< p

end Sys2Proof.Machine
end

