-- ==== Sys2Proof/Machine/Ops.lean ====
section
/-! DEFINITION. The named operations every meaning is written over: harts, cores and dies by number, scalar
registers, the advance of the PC, waiting, records and interrupts, taking a trap (R206), the scheduler
entry (R343) and the return (R213). -/

namespace Sys2Proof.Machine

/-! ## Harts, cores and dies by number -/

/-- The operand of that position of the step that runs. -/
def arg (s : State) (n : Nat) : Nat := s.args.getD n 0

/-- The core of a hart number. -/
def coreOfHart (n : Nat) : Nat := n / 8

/-- The die of a core number (R8). -/
def dieOfCore (c : Nat) : Nat := c / 72

/-- The core the turn's hart runs on. -/
def curCore (s : State) : Nat := coreOfHart s.cur

/-- The die the turn's hart runs on. DESIGN CHOICE (log 53): logical die d is physical die d. -/
def curDie (s : State) : Nat := dieOfCore (curCore s)

def getHart (s : State) (n : Nat) : Hart := if n = s.cur then s.h else tgetD s.others n {}

def setHart (n : Nat) (h : Hart) (s : State) : State :=
  if n = s.cur then { s with h := h } else { s with others := tset s.others n h }

/-- Make another hart the turn's hart. -/
def switchTo (n : Nat) (s : State) : State :=
  if n = s.cur then s else
    { s with others := tdel (tset s.others s.cur s.h) n, h := getHart s n, cur := n }

def getCore (s : State) (c : Nat) : Core := tgetD s.cores c { logical := c % 72 }

def setCore (c : Nat) (k : Core) (s : State) : State := { s with cores := tset s.cores c k }

def getDie (s : State) (d : Nat) : Die := tgetD s.dies d {}

def setDie (d : Nat) (k : Die) (s : State) : State := { s with dies := tset s.dies d k }

/-- The die timer of a die (R376). -/
def timerOf (s : State) (d : Nat) : Nat := (getDie s d).timer

/-- The physical cores of a die in rising order. -/
def coresOfDie (d : Nat) : List Nat := (upTo 72).map (72 * d + ·)

/-- The lowest-numbered working core of a die, whose slot 0 is the supervisor hart (R426). -/
def supervisorCore (s : State) (d : Nat) : Nat :=
  ((coresOfDie d).find? fun c => !(getCore s c).retired).getD (72 * d)

def supervisorHart (s : State) (d : Nat) : Nat := supervisorCore s d * 8

/-- A die has a supervisor hart while it has a working core (R426). -/
def hasSupervisor (s : State) (d : Nat) : Bool := (coresOfDie d).any fun c => !(getCore s c).retired

/-- The power-on sequence is at its end when the firmware of every die has written SCHEDENT and SCHEDPT (R426,
log 5). -/
def firmwareReady (s : State) : State :=
  if s.bootPhase = 5 ∧ (upTo 8).all (fun d => !hasSupervisor s d || ((getDie s d).entSet && (getDie s d).ptSet)) then
    { s with bootPhase := 6 }
  else s

/-- The logical number of a core that has none (R385, R433): seven ones. -/
def noLogical : Nat := 127

/-- The physical core of a logical core number of a die, when there is one (R385). A retired core keeps its
number until the next bind of a region on its die (R375). -/
def coreOfLogical (s : State) (d n : Nat) : Option Nat :=
  if n = noLogical then none else (coresOfDie d).find? fun c => (getCore s c).logical == n

/-- The number of harts per core of a partition mode (R11). -/
def hartsPerCore (pmode : BitVec 2) : Nat := 2 ^ pmode.toNat

/-- The logical lane groups of a hart slot (R11). -/
def groupsOfSlot (pmode : BitVec 2) (slot : Nat) : List Nat :=
  let n := 8 / hartsPerCore pmode
  if slot < hartsPerCore pmode then (upTo n).map (n * slot + ·) else []

/-- The working lane groups of a hart (R11). DESIGN CHOICE (log 53): the lane group at logical position g of a core is
physical group g. -/
def workingGroups (s : State) (n : Nat) : List Nat :=
  let k := getCore s (coreOfHart n)
  (groupsOfSlot k.pmode (n % 8)).filter fun g => !k.retiredGroups.getLsbD g

/-- The lane groups that carry a number of lanes a hart has adopted: those that worked when it adopted them, the ones
that have retired since among them (R17, R375). -/
def adoptedGroups (s : State) (n lanes : Nat) : List Nat :=
  let k := getCore s (coreOfHart n)
  let slot := groupsOfSlot k.pmode (n % 8)
  let working := workingGroups s n
  let back := (k.retireOrder.filter fun g => slot.contains g).take (lanes / 4 - working.length)
  (slot.filter fun g => working.contains g || back.contains g).take (lanes / 4)

/-- The lane group of a lane that a hart has adopted (R16). -/
def groupOfLane (s : State) (n lanes lane : Nat) : Nat := (adoptedGroups s n lanes).getD (lane / 4) 0

/-- The working lanes of a hart, CSR `lanes` (R11). -/
def lanesOf (s : State) (n : Nat) : Nat := 4 * (workingGroups s n).length

/-! ## Scalar registers and the PC -/

/-- Scalar register n; s0 reads zero (R97, R69). -/
def readS (s : State) (r : SReg) : Word := if r = 0 then 0 else s.h.x[r.toNat]

/-- Write scalar register n; a write of s0 has no effect. -/
def writeS (r : SReg) (v : Word) (s : State) : State :=
  if r = 0 then s else { s with h := { s.h with x := s.h.x.set r.toNat v } }

/-- The scalar register a 6-bit field of a 64-bit instruction names (R58). -/
def sregOf (f : BitVec 6) : SReg := BitVec.ofNat 5 f.toNat

/-- One more event in performance counter i of the turn's hart (R378). -/
def perfAdd (i n : Nat) (s : State) : State :=
  { s with h := { s.h with perf := s.h.perf.setIfInBounds i (s.h.perf.getD i 0 + word n) } }

/-- The same for hart n. -/
def perfAddOf (n i k : Nat) (s : State) : State :=
  let h := getHart s n
  setHart n { h with perf := h.perf.setIfInBounds i (h.perf.getD i 0 + word k) } s

/-- The scalar instruction is done: continue at the PC given. -/
def continueAt (pc : Word) (s : State) : State :=
  perfAdd 0 1 { s with h := { s.h with pc := pc, stalled := false, full := false, waitT0 := none, wfaWait := false } }

/-- The scalar instruction is done: continue at the next one. -/
def advance (s : State) : State := continueAt (s.h.pc + 4) s

/-- The instruction cannot complete yet: it stays at the PC and is tried again at the hart's next turn. -/
def stall (s : State) : Result := .next { s with h := { s.h with stalled := true, full := false } }

/-- It waits for room in the vector queue or the read-back queue; the cycles that pass meanwhile count (R378). -/
def stallFull (s : State) : Result := .next { s with h := { s.h with stalled := true, full := true } }

/-! ## Status bits (R206) -/

def isSuper (h : Hart) : Bool := h.status.getLsbD 0
def ieBit (h : Hart) : Bool := h.status.getLsbD 1
def pieBit (h : Hart) : Bool := h.status.getLsbD 2
def pprivBit (h : Hart) : Bool := h.status.getLsbD 3
def partialBit (h : Hart) : Bool := h.status.getLsbD 4
def hndBit (h : Hart) : Bool := h.status.getLsbD 5
def rprivBit (h : Hart) : Bool := h.status.getLsbD 6
def schedBit (h : Hart) : Bool := h.status.getLsbD 7

/-- A status word from its fields, highest first. -/
def mkStatus (sched rpriv hnd part ppriv pie ie priv : Bool) : BitVec 8 :=
  BitVec.ofNat 8 (128 * sched.toNat + 64 * rpriv.toNat + 32 * hnd.toNat + 16 * part.toNat +
    8 * ppriv.toNat + 4 * pie.toNat + 2 * ie.toNat + priv.toNat)

def setPartial (b : Bool) (h : Hart) : Hart :=
  { h with status := (h.status &&& 0xEF) ||| (if b then 0x10 else 0) }

/-! ## Queue entries and pending registers -/

/-- The scalar register a delivering instruction writes (R19). -/
def deliversTo : Instr → Option SReg
  | .mpopc f => some (sregOf f.d)
  | .mfirst f => some (sregOf f.d)
  | .vmvs f => some (sregOf f.d)
  | _ => none

def entryDelivers : Entry → Option SReg
  | .instr i _ _ => deliversTo i
  | _ => none

/-- A load entry, which takes a load-data queue (R336). -/
def isLoadEntry : Entry → Bool
  | .instr (.vld _ _) _ _ => true
  | .instr (.vlds _ _) _ _ => true
  | .instr (.vldx _ _) _ _ => true
  | .instr (.smld _) _ _ => true
  | _ => false

/-- The number of members of a convoy header. -/
def headerCount : Instr → Nat
  | .convoyHeader _ _ _ _ _ _ k => k.toNat
  | _ => 0

/-- The destinations of the queued entries that have yet to deliver: all but those of the members of a convoy that
have completed, by its member starts (R332, R335). -/
def deliveries : (starts : List Nat) → List Entry → List SReg
  | _, [] => []
  | _, .convoy hdr starts :: l => deliveries (starts.take (headerCount hdr)) l
  | starts, e :: l =>
    (if starts.head? = some 0xFFFF then [] else (entryDelivers e).toList) ++ deliveries (starts.drop 1) l

/-- A read-back value for the register is outstanding (R335). Entries frozen by a trap deliver only after
ERET and hold nothing back (R436). -/
def isPending (h : Hart) (r : SReg) : Bool :=
  h.readback.any (fun p => p.1 == r) || (!h.frozen && (deliveries [] h.queue).contains r)

/-- Run a scalar instruction once no register it names is pending (R109). -/
def whenReady (rs : List SReg) (s : State) (k : Result) : Result :=
  if rs.any (isPending s.h) then stall s else k

/-- The queue holds entries that run before this instruction is done: not frozen ones (R436). -/
def queueBusy (h : Hart) : Bool := !h.frozen && !h.queue.isEmpty

/-- Write every produced read-back value into its register (R335). -/
def deliverAll (h : Hart) : Hart :=
  { h with
    x := h.readback.foldl (fun x p => if p.1 = 0 then x else x.set p.1.toNat p.2) h.x
    readback := [] }

/-! ## Taking a trap and returning -/

/-- Trap entry (R206): the saved registers, the status, the PC at `trapvec`; the queue freezes (R340),
produced read-back values are written (R335), early load data are dropped (R331). -/
def trapEntry (intr : Bool) (cause : Nat) (val epc : Word) (qpos : BitVec 6) (h : Hart) : Hart :=
  let h := deliverAll h
  { h with
    status := mkStatus (schedBit h) (rprivBit h) (hndBit h || !rprivBit h) (partialBit h) (isSuper h)
      (ieBit h) false (isSuper h || rprivBit h)
    epc := epc
    trapcause := word (cause % 256 + if intr then 2 ^ 63 else 0)
    trapval := val
    trapqpos := qpos
    pc := h.trapvec
    frozen := !h.queue.isEmpty
    loadData := Vector.replicate 2 []
    stalled := false
    full := false
    replay := false
    pass := {}
    front := 16384
    memberPass := []
    wfaWait := false
    waitT0 := none }

/-- The hart or channel whose access has a number. -/
def agentOf (x : Nat) : Nat := x % 2 ^ 13

/-- An agent no longer waits at the FIFO-mode banks of a core. -/
def leaveFifos (c w : Nat) (s : State) : State :=
  let k := getCore s c
  if k.waiters.isEmpty && k.ousted.isEmpty then s
  else setCore c { k with waiters := k.waiters.map fun p => (p.1, p.2.filter fun x => agentOf x != w)
                          ousted := k.ousted.filter fun x => agentOf x.1 != w } s

/-- A request at a home is an operation of an agent. -/
def isOpOf (a : Nat) (k : MsgKind) : Bool :=
  match k with
  | .op (.agent b _) => a == b
  | _ => false

/-- The operations of an agent wait at no home any more (R291). -/
def leaveHomes (a : Nat) (s : State) : State :=
  if s.dir.any fun p => p.2.waiting.any fun m => isOpOf a m.kind then
    { s with dir := s.dir.map fun p => (p.1, { p.2 with waiting := p.2.waiting.filter fun m => !isOpOf a m.kind }) }
  else s

/-- What a hart that stops abandons: reads on their way to a peer or the host, since a read issued again performs
again (R340, R343), waits at FIFO-mode banks (R347), and operations that wait at a home. -/
def dropLoads (s : State) : State :=
  leaveFifos (curCore s) s.cur <| leaveHomes s.cur
    { s with remotes := s.remotes.filter fun r => !(r.hart == s.cur && r.kind == 0) }

/-- The turn's hart takes a trap. -/
def takeTrap (intr : Bool) (cause : Nat) (val epc : Word) (qpos : BitVec 6) (s : State) : State :=
  let s := dropLoads s
  { s with h := trapEntry intr cause val epc qpos s.h }

/-- A trap at the instruction at the PC, found by the scalar side: it is taken once every earlier
instruction of the hart has completed (R68). -/
def scalarTrap (cause : Nat) (val : Word) (s : State) : Result :=
  if queueBusy s.h then stall s else .next (takeTrap false cause val s.h.pc 32 s)

/-- The head slot, or 32 when the queue is empty (R343, R368). -/
def headSlot (h : Hart) : BitVec 6 := if h.queue.isEmpty then 32 else BitVec.ofNat 6 h.qhead

/-- The scheduler entry (R343): cause 0x11 at the die's SCHEDENT with `sched` set. -/
def schedulerEntry (s : State) : State :=
  let s := dropLoads s
  let h := deliverAll s.h
  { s with
    h := { h with
      epc := h.pc
      trapcause := word (0x11 + 2 ^ 63)
      trapqpos := headSlot h
      trapval := word h.saveBlock
      status := mkStatus true (rprivBit h) (hndBit h) (partialBit h) (isSuper h) (ieBit h) false true
      pc := (getDie s (curDie s)).schedent
      frozen := !h.queue.isEmpty
      loadData := Vector.replicate 2 []
      preempt := false
      stalled := false
      full := false
      replay := false
      pass := {}
      front := 16384
      memberPass := []
      wfaWait := false
      waitT0 := none } }

/-- The return of ERET (R213): the status as it was, the queue released, the PC from `epc`. -/
def trapReturn (h : Hart) : Hart :=
  { h with
    status := mkStatus false (rprivBit h) false (partialBit h) (pprivBit h) (pieBit h) (pieBit h) (pprivBit h)
    pc := h.epc &&& ~~~3
    frozen := false
    stalled := false
    full := false }

/-! ## Counters, records, interrupts, snapshots -/

/-- Counter value after one more event, saturating (R376). -/
def satInc (x : Nat) : Nat := if x + 1 < 2 ^ 64 then x + 1 else x

/-- One more event in error counter i (R377). -/
def countErr (i : Nat) (s : State) : State :=
  { s with errCounters := s.errCounters.setIfInBounds i (satInc (s.errCounters.getD i 0)) }

/-- Raise an interrupt on a hart: a second event of a pending cause changes nothing (R368). -/
def addIrq (cause : Nat) (val : Word) : List (Nat × Word) → List (Nat × Word)
  | [] => [(cause, val)]
  | (c, v) :: l => if c = cause then (c, v) :: l else if cause < c then (cause, val) :: (c, v) :: l
      else (c, v) :: addIrq cause val l

def raiseIrq (n cause : Nat) (val : Word) (s : State) : State :=
  let h := getHart s n
  setHart n { h with irqs := addIrq cause val h.irqs } s

/-- Signal an MSI-X vector (R235). -/
def signalMsix (n : Nat) (s : State) : State := { s with msix := s.msix ||| BitVec.ofNat 11 (2 ^ n) }

/-- The snapshot trigger (R215, R434): one package-wide count, and a latch 1 µs later. -/
def fireSnapshot (s : State) : State :=
  { s with snapId := (s.snapId + 1) % 2 ^ 32, snapPending := s.snapPending ++ [timerOf s 0 + 1000]
           snapLow := some (timerOf s 0 + 1000) }

/-- The unit code of a core (R224): row and column of its place among the die's 72. -/
def unitOfCore (c : Nat) : Nat := 0x100000 + dieOfCore c * 0x20000 + c % 72 / 9 * 16 + c % 9

/-- The unit code of a physical lane group. -/
def unitOfGroup (c g : Nat) : Nat := unitOfCore c + 0x100000 + g * 128

/-- The unit code of a slice. -/
def unitOfSlice (d n : Nat) : Nat := 0x300000 + d * 0x20000 + n

/-- The unit code of a stack. -/
def unitOfStack (k : Nat) : Nat := 0x500000 + k / 2 * 0x20000 + k

/-- The unit code of a DRAM die. -/
def unitOfDram (k dd : Nat) : Nat := 0x600000 + k / 2 * 0x20000 + dd * 16 + k

/-- The unit code of a link port. -/
def unitOfPort (p : Nat) : Nat := 0x700000 + p

/-- The error counter whose value a record of the class carries (R377). -/
def counterOfClass (cls : Nat) : Nat :=
  match cls with
  | 1 => 0 | 2 => 1 | 3 => 1 | 4 => 8 | 5 => 3 | 6 => 7 | 7 => 9 | 8 => 10 | 9 => 11 | _ => 12

/-- Word 0 of an error record (R371). -/
def errWord0 (cls unit syndrome : Nat) (element lane : Option Nat) : Nat :=
  cls + syndrome * 2 ^ 8 + unit * 2 ^ 16 +
  (match lane with | some g => g % 8 * 2 ^ 40 + 2 ^ 43 | none => 0) +
  (match element with | some e => 2 ^ 44 + e % 2 ^ 14 * 2 ^ 45 | none => 0)

/-- Post an error record to a die's queue (R374): append, or drop and mark the tail; then the snapshot
trigger of R215 and the interrupt or MSI-X. The class's counter has been counted already. -/
def postErr (d cls unit place syndrome : Nat) (element lane : Option Nat) (s : State) : State :=
  let k := getDie s d
  let r : Rec4 := { w0 := errWord0 cls unit syndrome element lane, w1 := place,
                    w2 := s.errCounters.getD (counterOfClass cls) 0,
                    w3 := k.timer % 2 ^ 48 + s.snapId % 2 ^ 16 * 2 ^ 48 }
  let full := 256 ≤ k.errs.length
  let s1 := if full then
      match k.errs.reverse with
      | [] => s
      | t :: l => setDie d { k with errs := (({ t with w0 := t.w0 ||| 2 ^ 63 }) :: l).reverse } s
    else setDie d { k with errs := k.errs ++ [r] } s
  let s2 := if k.snapEn.getLsbD 2 && k.snapClass.toNat == cls then fireSnapshot s1 else s1
  if full then s2
  else if k.errOwn then signalMsix 8 s2
  else raiseIrq (supervisorHart s2 d) 0x20 (word cls) s2

/-- Word 0 of a fault record (R364). -/
def faultWord0 (asid access qpos srcnum srckind cause : Nat) : Nat :=
  asid % 2 ^ 16 * 2 ^ 32 + access * 2 ^ 30 + qpos * 2 ^ 24 + srcnum * 2 ^ 16 + srckind * 2 ^ 8 + cause

/-- Append a fault record to a core's queue, or fold it into the tail (R365). -/
def postFault (c w0 element va : Nat) (s : State) : State :=
  let k := getCore s c
  let d := dieOfCore c
  let r : Rec4 := { w0 := w0, w1 := element, w2 := va,
                    w3 := d * 2 ^ 55 + k.logical * 2 ^ 48 + timerOf s d % 2 ^ 48 }
  if k.faults.length < 64 then setCore c { k with faults := k.faults ++ [r] } s
  else match k.faults.reverse with
    | [] => s
    | t :: l =>
      let f := t.w0 / 2 ^ 48
      let t' := if f < 0xFFFF then { t with w0 := t.w0 + 2 ^ 48 } else t
      setCore c { k with faults := (t' :: l).reverse } s

/-- The next value of the model's counter of uses. -/
def tickUp (s : State) : State := { s with tick := s.tick + 1 }

end Sys2Proof.Machine
end

