-- ==== Sys2Proof/Machine/LoopNest.lean ====
section
/-! DEFINITION. The loop-nest record (R350): its fields, the checks of CPGO (R351), the points it enumerates
(R353, R402), and the window bytes a copy command may touch (R361). A record is a 1024-bit string. -/

namespace Sys2Proof.Machine

def lnDims (r : Nat) : Nat := bitsGet r 0 3
def lnFill (r : Nat) : Nat := bitsGet r 8 8
def lnBen (r j : Nat) : Bool := bitAt r (16 + j)
def lnFen (r : Nat) : Bool := bitAt r 22
def lnOrder (r i : Nat) : Nat := bitsGet r (32 + 4 * i) 4
def lnChunk (r : Nat) : Nat := bitsGet r 64 13
def lnCount (r j : Nat) : Nat := bitsGet r (96 + 16 * j) 16
def lnSbase (r : Nat) : Nat := bitsGet r 192 64
def lnDbase (r : Nat) : Nat := bitsGet r 256 64
def lnSstride (r j : Nat) : Int := toSigned 32 (bitsGet r (320 + 32 * j) 32)
def lnDstride (r j : Nat) : Int := toSigned 32 (bitsGet r (512 + 32 * j) 32)
def lnLo (r j : Nat) : Int := toSigned 16 (bitsGet r (704 + 16 * j) 16)
def lnHi (r j : Nat) : Int := toSigned 16 (bitsGet r (800 + 16 * j) 16)
def lnOff (r j : Nat) : Int := toSigned 16 (bitsGet r (896 + 16 * j) 16)

/-- The part the walker reads is well-formed: dims 1 to 6, and order a permutation of them with 0xF
beyond (R351, R396). -/
def lnOrderOk (r : Nat) : Bool :=
  let d := lnDims r
  decide (1 ≤ d) && decide (d ≤ 6) &&
  ((upTo 6).all fun i => if i < d then decide (lnOrder r i < d) else lnOrder r i == 0xF) &&
  ((upTo d).all fun j => (upTo d).any fun i => lnOrder r i == j)

/-- The checks of a region's record: dims, order and counts (R402). -/
def lnWalkOk (r : Nat) : Bool :=
  lnOrderOk r && (upTo 6).all fun j => decide (j < lnDims r) || lnCount r j == 0

/-- The checks of CPGO on a record (R351). -/
def lnCopyOk (r : Nat) : Bool :=
  let d := lnDims r
  lnOrderOk r && decide (1 ≤ lnChunk r) && decide (lnChunk r ≤ 4096) &&
  bitsGet r 3 5 == 0 && bitsGet r 23 9 == 0 && bitsGet r 56 8 == 0 && bitsGet r 77 3 == 0 &&
  bitsGet r 80 16 == 0 && bitsGet r 992 32 == 0 &&
  ((upTo 6).all fun j =>
    if j < d then !(lnBen r j) || decide (lnLo r j ≤ lnHi r j)
    else !(lnBen r j) && lnCount r j == 0 && lnSstride r j == 0 && lnDstride r j == 0 && lnLo r j == 0 &&
      lnHi r j == 0 && lnOff r j == 0)

/-- The number of points. -/
def lnPoints (r : Nat) : Nat := (upTo (lnDims r)).foldl (fun n j => n * lnCount r j) 1

/-- The index of dim j at point p: the innermost dim of the order varies fastest (R353). -/
def lnIndex (r p j : Nat) : Nat :=
  let inner := (fromTo 0 (lnDims r)).reverse
  let rec go : List Nat → Nat → Nat
    | [], _ => 0
    | i :: l, q =>
      let n := lnCount r (lnOrder r i)
      if lnOrder r i = j then q % n else go l (q / n)
  go inner p

def lnCoord (r p j : Nat) : Int := (lnIndex r p j : Int) + lnOff r j

/-- The source address of point p (R353). -/
def lnSrc (r p : Nat) : Nat :=
  ofInt 64 ((upTo (lnDims r)).foldl (fun a j => a + lnCoord r p j * lnSstride r j) (lnSbase r : Int))

/-- The destination address of point p (R353). -/
def lnDst (r p : Nat) : Nat :=
  ofInt 64 ((upTo (lnDims r)).foldl (fun a j => a + (lnIndex r p j : Int) * lnDstride r j) (lnDbase r : Int))

/-- Whether point p lies inside the bounds (R353). -/
def lnInside (r p : Nat) : Bool :=
  (upTo (lnDims r)).all fun j =>
    !lnBen r j || (decide (lnLo r j ≤ lnCoord r p j) && decide (lnCoord r p j < lnHi r j))

/-- Lowest and highest value of a sum of coordinate times stride from a base, where dim j has `count j` coordinates from
`start j` on. -/
def lnSpan (r : Nat) (base : Int) (start : Nat → Int) (count : Nat → Nat) (stride : Nat → Int) : Int × Int :=
  (upTo (lnDims r)).foldl (fun (a : Int × Int) j =>
    let x := start j * stride j
    let y := (start j + (count j : Int) - 1) * stride j
    (a.1 + min x y, a.2 + max x y)) (base, base)

/-- The bytes that the points of a part of the nest read and write, lowest to one past the highest: `count j` indexes of
dim j from `first j` on. -/
def lnPart (r : Nat) (first count : Nat → Nat) : Option ((Int × Int) × (Int × Int)) :=
  if (upTo (lnDims r)).any fun j => count j == 0 then none
  else
    let s := lnSpan r (lnSbase r : Int) (fun j => (first j : Int) + lnOff r j) count (lnSstride r)
    let d := lnSpan r (lnDbase r : Int) (fun j => (first j : Int)) count (lnDstride r)
    some ((s.1, s.2 + (lnChunk r : Int)), (d.1, d.2 + (lnChunk r : Int)))

/-- The bytes a command may read and write, lowest to one past the highest; none for a command without
chunks. -/
def lnRanges (r : Nat) : Option ((Int × Int) × (Int × Int)) := lnPart r (fun _ => 0) (lnCount r)

/-- The points from p on whose indexes agree with p's in the dims outside place i of the order: the rest of dim i from
p's index on, p itself among them when i is innermost, with every index of the dims inside. -/
def lnRestAt (r p i : Nat) : Option ((Int × Int) × (Int × Int)) :=
  let place (j : Nat) : Nat := ((upTo (lnDims r)).find? fun k => lnOrder r k == j).getD 0
  let first (j : Nat) : Nat :=
    if place j < i then lnIndex r p j
    else if place j = i then lnIndex r p j + (if i + 1 = lnDims r then 0 else 1)
    else 0
  lnPart r first fun j => if place j < i then 1 else lnCount r j - first j

/-- The bytes that the points from p on may read and write. -/
def lnRest (r p : Nat) : List ((Int × Int) × (Int × Int)) :=
  if p = 0 then (lnRanges r).toList
  else if lnPoints r ≤ p then []
  else (upTo (lnDims r)).filterMap (lnRestAt r p)

def overlaps (a b : Int × Int) : Bool := decide (a.1 < b.2) && decide (b.1 < a.2)

/-! ## The core SRAM window (R238) -/

/-- First address of the core SRAM window (R238). -/
def windowBase : Nat := 0xFFFFF00000000000

/-- Some byte of the range lies in VA 0xFFFF_F000_0000_0000 to 0xFFFF_F000_FFFF_FFFF. -/
def touchesWindow (va n : Nat) : Bool :=
  decide (windowBase < va + n) && decide (va < windowBase + 2 ^ 32)

/-- The part of a range of addresses that lies in the window when that starts at w. -/
def spanFrom (w : Int) (r : Int × Int) : Option (Int × Int) :=
  if max r.1 w < min r.2 (w + 2 ^ 32) then some (max r.1 w, min r.2 (w + 2 ^ 32)) else none

/-- The window bytes of a range of addresses, which are taken modulo 2^64 (R353): lowest to one past the highest. -/
def windowSpan (r : Int × Int) : Option (Int × Int) :=
  let w : Int := windowBase
  let lo := r.1 % 2 ^ 64
  let l := (lo, lo + (r.2 - r.1))
  match spanFrom w l, spanFrom (w + 2 ^ 64) l with
  | some _, some _ => some (w, w + 2 ^ 32)
  | some x, none => some x
  | none, some x => some (x.1 - 2 ^ 64, x.2 - 2 ^ 64)
  | none, none => none

/-- The window bytes among those read, and among those written. -/
def windowSides (x : (Int × Int) × (Int × Int)) : List ((Int × Int) × Bool) :=
  ((windowSpan x.1).toList.map fun x => (x, false)) ++ (windowSpan x.2).toList.map fun x => (x, true)

/-- The window bytes that a command may read, and those that it may write. -/
def lnWindow (r : Nat) : List ((Int × Int) × Bool) := (lnRanges r).toList.flatMap windowSides

/-- Those of the chunks from p on, which the command has not performed yet. -/
def lnWindowFrom (r p : Nat) : List ((Int × Int) × Bool) := (lnRest r p).flatMap windowSides

/-- An outstanding copy command of the core that arrived before `seq`, or any when that is none, has still to read or
write bytes of the window range, where one of the two writes (R361). -/
def copyConflict (s : State) (c : Nat) (lo hi : Nat) (write : Bool) (seq : Option Nat) : Bool :=
  (getCore s c).channels.toList.any fun ch => ch.queue.any fun q =>
    (match seq with | none => true | some n => decide (q.seq < n)) &&
    (lnWindowFrom q.record q.chunk).any fun x => (write || x.2) && overlaps x.1 ((lo : Int), (hi : Int))

end Sys2Proof.Machine
end

