-- ==== Sys2Proof/Machine/Flags.lean ====
section
/-! DEFINITION. The flags of arithmetic (R94), and how an instruction adds them to its hart's sticky flags. -/

namespace Sys2Proof.Machine

/-! ## Flags (R94) -/

def fNV : Nat := 1
def fDZ : Nat := 2
def fOF : Nat := 4
def fUF : Nat := 8
def fNX : Nat := 16
def fDN : Nat := 32
def fSAT : Nat := 64

/-! ## Sticky flags (R94, R202) -/

/-- Flags join `fflags`. -/
def orFlags (fl : Nat) (h : Hart) : Hart := { h with fflags := h.fflags ||| BitVec.ofNat 7 fl }

/-- Flags of the engine and the Facet unit go to `mxflags` (R184). -/
def orMx (fl : Nat) (h : Hart) : Hart := { h with mxflags := h.mxflags ||| BitVec.ofNat 7 fl }

end Sys2Proof.Machine
end

