-- ==== Sys2Proof/Machine/Num.lean ====
section
/-! DEFINITION. Number formats and arithmetic (spec/04): exact values, decoding, rounding with its flags,
and the helpers of R96. Encodings are numbers; flags are the bits of R94. -/

namespace Sys2Proof.Machine

/-! ## Formats (R72, R73) -/

/-- Element width in bits by format code; 2 for CB2 (R72). -/
def fmtWidth (f : Nat) : Nat :=
  match f with
  | 0 => 32 | 1 => 16 | 2 => 16 | 3 => 8 | 4 => 8 | 5 => 4 | 6 => 32 | 7 => 16 | 8 => 8 | 9 => 8
  | 10 => 8 | 11 => 4 | 12 => 2 | 13 => 64 | _ => 8

/-- The format code the model gives to A48, which no field can name. -/
def fmtA48 : Nat := 16

/-- FP32, BF16, FP16, E4M3, E5M2, E2M1 and A48. -/
def isFloat (f : Nat) : Bool := decide (f ≤ 5) || f == fmtA48

def isInt (f : Nat) : Bool := f == 6 || f == 7 || f == 8 || f == 9 || f == 13

/-- FP32, BF16 and FP16. -/
def isFloat16Up (f : Nat) : Bool := decide (f ≤ 2)

/-- Fraction bits of a floating format. -/
def fracBits (f : Nat) : Nat :=
  match f with
  | 0 => 23 | 1 => 7 | 2 => 10 | 3 => 3 | 4 => 2 | 5 => 1 | _ => 39

/-- Exponent of the smallest normal. -/
def eMin (f : Nat) : Int :=
  match f with
  | 2 => -14 | 3 => -6 | 4 => -14 | 5 => 0 | _ => -126

/-- The bits of the largest finite magnitude. -/
def maxCode (f : Nat) : Nat :=
  match f with
  | 0 => 0x7F7FFFFF | 1 => 0x7F7F | 2 => 0x7BFF | 3 => 0x7E | 4 => 0x7B | 5 => 0x7
  | _ => 0x7F7FFFFFFFFF

/-- Width of a floating encoding. -/
def floatWidth (f : Nat) : Nat := if f = fmtA48 then 48 else fmtWidth f

/-- The canonical qNaN; 0 for the formats without one, with zero for E2M1 (R73, R83). -/
def qNaN (f : Nat) : Nat :=
  match f with
  | 0 => 0x7FC00000 | 1 => 0x7FC0 | 2 => 0x7E00 | 3 => 0x7F | 4 => 0x7E | 16 => 0x7FC000000000
  | 14 => 0xFF | _ => 0

/-- The encoding of infinity, of the formats that have one. -/
def infCode (f : Nat) : Nat :=
  match f with
  | 0 => 0x7F800000 | 1 => 0x7F80 | 2 => 0x7C00 | 4 => 0x7C | _ => 0x7F8000000000

def hasInf (f : Nat) : Bool := isFloat f && f != 3 && f != 5

/-- The range of an integer format (R76). -/
def intMin (f : Nat) : Int :=
  match f with
  | 6 => -(2 ^ 31) | 7 => -(2 ^ 15) | 8 => -128 | 9 => 0 | _ => -(2 ^ 63)
def intMax (f : Nat) : Int :=
  match f with
  | 6 => 2 ^ 31 - 1 | 7 => 2 ^ 15 - 1 | 8 => 127 | 9 => 255 | _ => 2 ^ 63 - 1

/-! ## Exact values -/

/-- An exact value: a NaN, an infinity, or a finite magnitude m·2^e. With `sticky` the magnitude lies
strictly between m·2^e and (m + 1)·2^e: a real that is no dyadic, known to more bits than any rounding
needs. -/
inductive XVal where
  | nan (signalling : Bool)
  | inf (neg : Bool)
  | fin (neg : Bool) (m : Nat) (e : Int) (sticky : Bool)
  deriving DecidableEq, Repr

def xZero (neg : Bool) : XVal := .fin neg 0 0 false
def xInt (x : Int) : XVal := .fin (decide (x < 0)) x.natAbs 0 false
def xPow2 (k : Int) : XVal := .fin false 1 k false

/-- A finite value of a signed mantissa. -/
def xSigned (x : Int) (e : Int) : XVal := .fin (decide (x < 0)) x.natAbs e false

def isNanX : XVal → Bool
  | .nan _ => true
  | _ => false

def isSigX : XVal → Bool
  | .nan s => s
  | _ => false

def isInfX : XVal → Bool
  | .inf _ => true
  | _ => false

def isZeroX : XVal → Bool
  | .fin _ 0 _ false => true
  | _ => false

def signX : XVal → Bool
  | .nan _ => false
  | .inf n => n
  | .fin n _ _ _ => n

def negX : XVal → XVal
  | .nan s => .nan s
  | .inf n => .inf !n
  | .fin n m e st => .fin (!n) m e st

def absX : XVal → XVal
  | .inf _ => .inf false
  | .fin _ m e st => .fin false m e st
  | x => x

/-- The floating encoding's value (R73). -/
def decodeFloat (f x : Nat) : XVal :=
  let p := fracBits f
  let w := floatWidth f
  let neg := bitAt x (w - 1)
  let ef := bitsGet x p (w - 1 - p)
  let fr := bitsGet x 0 p
  let top := 2 ^ (w - 1 - p) - 1
  if f = 3 then
    if bitsGet x 0 7 = 0x7F then .nan false
    else if ef = 0 then .fin neg fr (eMin f - p) false
    else .fin neg (fr + 2 ^ p) (eMin f - p + (ef - 1 : Nat)) false
  else if f ≠ 5 ∧ ef = top then
    if fr = 0 then .inf neg else .nan (!bitAt fr (p - 1))
  else if ef = 0 then .fin neg fr (eMin f - p) false
  else .fin neg (fr + 2 ^ p) (eMin f - p + (ef - 1 : Nat)) false

/-- The exact value of an encoding at face value (R96 Decode). OB codes and CB2 are decoded with their
zero points and codebook elsewhere. -/
def decodeX (f x : Nat) : XVal :=
  if isFloat f then decodeFloat f x
  else if f = 14 then (if x % 256 = 0xFF then .nan false else xPow2 ((x % 256 : Nat) - 127))
  else if f = 9 then xInt (x % 256 : Nat)
  else xInt (toSigned (fmtWidth f) x)

/-- A value times 2^k, exactly; a signalling NaN stays one until it is rounded (R74). -/
def scaleX (x : XVal) (k : Int) : XVal :=
  match x with
  | .fin neg m e st => .fin neg m (e + k) st
  | x => x

/-! ## Rounding (R80 to R84) -/

/-- The exponent of the leading bit of a non-zero magnitude. -/
def leadExp (m : Nat) (e : Int) : Int := (Nat.log2 m : Int) + e

/-- Whether the part dropped below a quantum carries the magnitude up: r the kept integer, rem the part of
2^sh dropped. -/
def roundsUp (rm bias : Nat) (neg : Bool) (r rem sh : Nat) (sticky : Bool) : Bool :=
  let half := 2 ^ sh / 2
  match rm with
  | 0 => decide (half < rem) || (rem == half && decide (0 < sh) && (sticky || r % 2 == 1))
  | 1 => false
  | 2 => neg && (rem != 0 || sticky)
  | 3 => !neg && (rem != 0 || sticky)
  | 4 => decide (0 < sh) && decide (half ≤ rem)
  | 5 => r % 2 == 0 && (rem != 0 || sticky)
  | _ => (rem != 0 || sticky) && decide (256 ≤ rem * 256 / 2 ^ sh + bias)

/-- Round a magnitude to a multiple of 2^q: the multiple, and whether it is inexact. -/
def roundAt (rm bias : Nat) (neg : Bool) (m : Nat) (e q : Int) (sticky : Bool) : Nat × Bool :=
  if q ≤ e then (m <<< (e - q).toNat, sticky)
  else
    let sh := (q - e).toNat
    let r := m >>> sh
    let rem := m % 2 ^ sh
    let inexact := rem != 0 || sticky
    (if roundsUp rm bias neg r rem sh sticky then r + 1 else r, inexact)

/-- RoundToInt (R80, R96) of a finite value. -/
def roundToInt (rm bias : Nat) (neg : Bool) (m : Nat) (e : Int) (sticky : Bool) : Int × Bool :=
  let (r, nx) := roundAt rm bias neg m e 0 sticky
  (if neg then -(r : Int) else r, nx)

/-- The result beyond the largest finite value M in a format with infinity (R80): infinity or M. -/
def overflowToInf (rm : Nat) (neg : Bool) : Bool :=
  match rm with
  | 1 => false
  | 2 => neg
  | 3 => !neg
  | 5 => false
  | _ => true

def withSign (f : Nat) (neg : Bool) (x : Nat) : Nat := if neg then x + 2 ^ (floatWidth f - 1) else x

/-- Whether the value rounded with an unbounded exponent stays below the smallest normal (R82). -/
def isTiny (f rm bias : Nat) (neg : Bool) (m : Nat) (e : Int) (sticky : Bool) : Bool :=
  let le := leadExp m e
  if eMin f ≤ le then false
  else if le < eMin f - 1 then true
  else
    let r := (roundAt rm bias neg m e (le - fracBits f) sticky).1
    decide (r < 2 ^ (fracBits f + 1))

/-- Round a finite value to a floating format (R80, R82, R83). -/
def roundFloat (f rm bias : Nat) (sat neg : Bool) (m : Nat) (e : Int) (sticky : Bool) : Nat × Nat :=
  if m = 0 ∧ !sticky then (withSign f neg 0, 0)
  else
    let p : Int := fracBits f
    let q := max (leadExp m e) (eMin f) - p
    let (r, nx) := roundAt rm bias neg m e q sticky
    let code := r + ((q - (eMin f - p)).toNat) <<< fracBits f
    if maxCode f < code then
      if sat then (withSign f neg (maxCode f), fOF ||| fNX ||| fSAT)
      else if f = 3 then (0x7F, fOF)
      else if f = 5 then (0, fOF ||| fNX ||| fNV)
      else if overflowToInf rm neg then (withSign f neg (infCode f), fOF ||| fNX)
      else (withSign f neg (maxCode f), fOF ||| fNX)
    else
      (withSign f neg code,
        if nx then fNX ||| (if isTiny f rm bias neg m e sticky then fUF else 0) else 0)

/-- Conversion to E8M0 (R84) of a finite magnitude. -/
def roundE8M0 (rm bias m : Nat) (e : Int) (sticky : Bool) : Nat × Nat :=
  if m = 0 then (0, fUF ||| fNX)
  else
    let k := leadExp m e
    let lo := 2 ^ Nat.log2 m
    let rem := m - lo
    let exact := rem == 0 && !sticky
    let up :=
      match rm with
      | 1 => false
      | 2 => false
      | 3 => true
      | 4 => decide (lo ≤ 2 * rem)
      | 5 => (k + 127) % 2 == 0
      | 6 => decide (256 ≤ rem * 256 / lo + bias)
      | _ => decide (lo < 2 * rem) || (2 * rem == lo && (sticky || (k + 127) % 2 == 1))
    let c := k + 127 + if !exact && up then 1 else 0
    if c < 0 then (0, fUF ||| fNX)
    else if 0xFE < c then (0xFE, fSAT ||| fOF ||| fNX)
    else (c.toNat, if exact then 0 else fNX)

/-- Round(x, f, rm, bias, sat) of R96: the encoding and the flags (R80 to R84). -/
def roundX (x : XVal) (f rm bias : Nat) (sat : Bool) : Nat × Nat :=
  if isFloat f then
    match x with
    | .nan s => if f = 5 then (0, fNV) else (qNaN f, if s then fNV else 0)
    | .inf neg =>
      if sat then (withSign f neg (maxCode f), fSAT ||| fNX)
      else if f = 3 then (0x7F, fNV)
      else if f = 5 then (0, fNV ||| fNX)
      else (withSign f neg (infCode f), 0)
    | .fin neg m e st => roundFloat f rm bias sat neg m e st
  else if f = 14 then
    match x with
    | .nan s => (0xFF, if s then fNV else 0)
    | .inf _ => (0xFE, fSAT ||| fNX)
    | .fin _ m e st => roundE8M0 rm bias m e st
  else
    match x with
    | .nan _ => (0, fNV)
    | .inf neg => (ofInt (fmtWidth f) (if neg then intMin f else intMax f), fNV ||| fSAT ||| fNX)
    | .fin neg m e st =>
      let (n, nx) := roundToInt rm bias neg m e st
      if n < intMin f then (ofInt (fmtWidth f) (intMin f), fNV ||| fSAT ||| fNX)
      else if intMax f < n then (ofInt (fmtWidth f) (intMax f), fNV ||| fSAT ||| fNX)
      else (ofInt (fmtWidth f) n, if nx then fNX else 0)

/-! ## Exact arithmetic -/

/-- The signed mantissa of a finite value at an exponent not above its own. -/
def mantAt (neg : Bool) (m : Nat) (e e0 : Int) : Int :=
  let x : Int := (m <<< (e - e0).toNat : Nat)
  if neg then -x else x

/-- The exact sum and the invalid flag; a zero sum takes the sign FAdd gives it (R96). -/
def addX (a b : XVal) (rdn : Bool) : XVal × Nat :=
  match a, b with
  | .nan s, .nan t => (.nan false, if s || t then fNV else 0)
  | .nan s, _ => (.nan false, if s then fNV else 0)
  | _, .nan t => (.nan false, if t then fNV else 0)
  | .inf n, .inf k => if n = k then (.inf n, 0) else (.nan false, fNV)
  | .inf n, _ => (.inf n, 0)
  | _, .inf k => (.inf k, 0)
  | .fin n m e st, .fin k l g st' =>
    if m = 0 ∧ l = 0 ∧ n = k then (xZero n, 0)
    else if m = 0 ∧ !st ∧ l ≠ 0 then (.fin k l g st', 0)
    else if l = 0 ∧ !st' ∧ m ≠ 0 then (.fin n m e st, 0)
    else
      let e0 := min e g
      let x := mantAt n m e e0 + mantAt k l g e0
      if x = 0 then (xZero rdn, 0) else (xSigned x e0, 0)

/-- The exact product and the invalid flag. -/
def mulX (a b : XVal) : XVal × Nat :=
  match a, b with
  | .nan s, .nan t => (.nan false, if s || t then fNV else 0)
  | .nan s, _ => (.nan false, if s then fNV else 0)
  | _, .nan t => (.nan false, if t then fNV else 0)
  | .inf n, .inf k => (.inf (n != k), 0)
  | .inf n, .fin k m _ _ => if m = 0 then (.nan false, fNV) else (.inf (n != k), 0)
  | .fin n m _ _, .inf k => if m = 0 then (.nan false, fNV) else (.inf (n != k), 0)
  | .fin n m e _, .fin k l g _ => (.fin (n != k) (m * l) (e + g) false, 0)

/-- The exact quotient, to 256 bits and a sticky mark, and its flags: a quotient by zero is an infinity with
DZ, that of an infinity too; 0/0 and ∞/∞ are NaN with NV. -/
def divX (a b : XVal) : XVal × Nat :=
  match a, b with
  | .nan s, .nan t => (.nan false, if s || t then fNV else 0)
  | .nan s, _ => (.nan false, if s then fNV else 0)
  | _, .nan t => (.nan false, if t then fNV else 0)
  | .inf _, .inf _ => (.nan false, fNV)
  | .inf n, .fin k l _ _ => (.inf (n != k), if l = 0 then fDZ else 0)
  | .fin n _ _ _, .inf k => (xZero (n != k), 0)
  | .fin n m e _, .fin k l g _ =>
    if l = 0 then (if m = 0 then (.nan false, fNV) else (.inf (n != k), fDZ))
    else if m = 0 then (xZero (n != k), 0)
    else
      let sh := 256 + Nat.log2 l
      let x := m <<< sh
      (.fin (n != k) (x / l) (e - g - sh) (x % l != 0), 0)

/-- Integer square root by bits: the greatest r with r² ≤ n, r below 2^k. -/
def isqrtBits (n : Nat) : (k r : Nat) → Nat
  | 0, r => r
  | k + 1, r =>
    let t := r + 2 ^ k
    isqrtBits n k (if t * t ≤ n then t else r)

/-- The square root of a non-negative value to over 128 bits; NaN with NV of a negative one. -/
def sqrtX (a : XVal) : XVal × Nat :=
  match a with
  | .nan s => (.nan false, if s then fNV else 0)
  | .inf n => if n then (.nan false, fNV) else (.inf false, 0)
  | .fin n m e _ =>
    if m = 0 then (xZero n, 0)
    else if n then (.nan false, fNV)
    else
      let sh := 300 + (e % 2).toNat
      let x := m <<< sh
      let r := isqrtBits x (Nat.log2 x / 2 + 1) 0
      (.fin false r ((e - sh) / 2) (r * r != x), 0)

/-- −1, 0 or 1 as a is below, equal to or above b; neither is NaN. -/
def cmpX (a b : XVal) : Int :=
  match a, b with
  | .inf n, .inf k => if n = k then 0 else if n then -1 else 1
  | .inf n, _ => if n then -1 else 1
  | _, .inf k => if k then 1 else -1
  | .fin n m e _, .fin k l g _ =>
    let e0 := min e g
    (mantAt n m e e0 - mantAt k l g e0).sign
  | _, _ => 0

/-! ## The helpers of R96 -/

def fAdd (f a b rm bias : Nat) : Nat × Nat :=
  let (x, fl) := addX (decodeX f a) (decodeX f b) (rm == 2)
  let (r, fl') := roundX x f rm bias false
  (r, fl ||| fl')

def fMul (f a b rm bias : Nat) : Nat × Nat :=
  let (x, fl) := mulX (decodeX f a) (decodeX f b)
  let (r, fl') := roundX x f rm bias false
  (r, fl ||| fl')

/-- a × b + c exactly: 0 × ∞ gives NV even when c is NaN. -/
def fmaX (a b c : XVal) (rdn : Bool) : XVal × Nat :=
  let (p, fl) := mulX a b
  let (x, fl') := addX p c rdn
  (x, fl ||| fl')

def fFma (f a b c rm bias : Nat) : Nat × Nat :=
  let (x, fl) := fmaX (decodeX f a) (decodeX f b) (decodeX f c) (rm == 2)
  let (r, fl') := roundX x f rm bias false
  (r, fl ||| fl')

/-- The sign bit inverted (R74). -/
def fNeg (f a : Nat) : Nat := a ^^^ 2 ^ (floatWidth f - 1)

/-- a below b with −0 below +0; neither is NaN. -/
def lessZ (a b : XVal) : Bool :=
  let c := cmpX a b
  decide (c < 0) || (c == 0 && isZeroX a && signX a && !signX b)

def fMinMax (f : Nat) (wantMax : Bool) (a b : Nat) : Nat × Nat :=
  let x := decodeX f a
  let y := decodeX f b
  let fl := if isSigX x || isSigX y then fNV else 0
  if isNanX x then (if isNanX y then (qNaN f, fl) else (b, fl))
  else if isNanX y then (a, fl)
  else ((if wantMax then (if lessZ x y then b else a) else (if lessZ y x then b else a)), fl)

def fMin (f a b : Nat) : Nat × Nat := fMinMax f false a b
def fMax (f a b : Nat) : Nat × Nat := fMinMax f true a b

/-! ## Reciprocal approximations (R92, R93) -/

/-- The nearest value of the format with at most 12 significant bits, RNE, and its flags (R92). -/
def round12 (f : Nat) (x : XVal) : Nat × Nat :=
  match x with
  | .fin neg m e st =>
    let p := fracBits f
    let q := max (leadExp m e - (min p 11 : Nat)) (eMin f - p)
    let (r, nx) := roundAt 0 0 neg m e q st
    let (c, _) := roundFloat f 0 0 false neg r q false
    (c, if nx then fNX ||| (if r = 0 ∨ leadExp r q < eMin f then fUF else 0) else 0)
  | _ => roundX x f 0 0 false

/-- A subnormal encoding of a floating format. -/
def isSubnormal (f a : Nat) : Bool :=
  bitsGet a (fracBits f) (floatWidth f - 1 - fracBits f) == 0 && bitsGet a 0 (fracBits f) != 0

def rcpApprox (f a : Nat) : Nat × Nat :=
  let fl := if isSubnormal f a then fDN else 0
  let x := if isSubnormal f a then xZero (signX (decodeX f a)) else decodeX f a
  let (y, fl') := divX (xInt 1) x
  let (r, fl'') := round12 f y
  (r, fl ||| fl' ||| fl'')

def rsqApprox (f a : Nat) : Nat × Nat :=
  let fl := if isSubnormal f a then fDN else 0
  let x := if isSubnormal f a then xZero (signX (decodeX f a)) else decodeX f a
  if isZeroX x then (withSign f (signX x) (infCode f), fl ||| fDZ)
  else
    let (y, fl') := sqrtX x
    match y with
    | .fin _ m e st =>
      -- 1/√x from the root of 1/x, which is exact where x is a power of four
      let (i, _) := divX (xInt 1) x
      let (z, _) := sqrtX i
      match i, z with
      | .fin _ _ _ st1, .fin n1 m1 e1 st2 =>
        let (r, fl'') := round12 f (.fin n1 m1 e1 (st1 || st2))
        (r, fl ||| fl'')
      | _, _ => round12 f (.fin false m e st)
    | .inf _ => (0, fl)
    | .nan _ => (qNaN f, fl ||| fl')

/-- The sign of a × x of two operands that are not NaN. -/
def signMul (a x : XVal) : Bool := signX a != signX x

/-- VFRCPS: x × (2 − a × x), and VFRSQS: x × (3 − a × x × x) / 2 (R93). A bracket of exactly zero is +0, so that the
result is the zero with the sign of x: DESIGN CHOICE, log 24. -/
def stepApprox (f : Nat) (rsq : Bool) (a x : Nat) : Nat × Nat :=
  let xa := decodeX f a
  let xx := decodeX f x
  if isZeroX xx || isInfX xx then (x, 0)
  else if isNanX xa || isNanX xx then (qNaN f, if isSigX xa || isSigX xx then fNV else 0)
  else if isInfX xa then
    (withSign f (if rsq then !signMul xa xx else !signX xa) (infCode f), 0)
  else
    let ax := (mulX xa xx).1
    let p := if rsq then (mulX ax xx).1 else ax
    let br := (addX (xInt (if rsq then 3 else 2)) (negX p) false).1
    let y := (mulX xx br).1
    let y := if rsq then (mulX y (xPow2 (-1))).1 else y
    roundX y f 0 0 false

/-! ## 2^x, log2 x and tanh x (R123) -/

/-- Fraction bits of the fixed-point evaluation. -/
def fixBits : Nat := 400

/-- The sum of z^(2k+1)/(2k+1) for k below the number of terms: atanh of z in fixed point. -/
def atanhFix (z z2 : Nat) : (n k : Nat) → Nat
  | 0, _ => 0
  | n + 1, k => z / (2 * k + 1) + atanhFix ((z * z2) >>> fixBits) z2 n (k + 1)

/-- ln 2 = 2 atanh(1/3). -/
def ln2Fix : Nat :=
  let z := 2 ^ fixBits / 3
  2 * atanhFix z ((z * z) >>> fixBits) 130 0

/-- The sum of y^k/k! from term k on. -/
def expFix (y : Nat) : (n k t : Nat) → Nat
  | 0, _, _ => 0
  | n + 1, k, t => t + expFix y n (k + 1) (((t * y) >>> fixBits) / (k + 1))

/-- Two values between which a real lies, so close that a rounding does not tell them apart unless one of its
boundaries lies between them. -/
abbrev Near := XVal × XVal

/-- A real known to lie within d units of a fixed-point value, each end with a sticky mark. -/
def bracket (neg : Bool) (x d : Nat) : Near := (.fin neg (x - d) (-fixBits) true, .fin neg (x + d) (-fixBits) true)

/-- A real just below a magnitude, or just above it. -/
def nearPoint (x : XVal) : Near := (x, x)

/-- 2^x of a finite non-zero x that is not an integer. -/
def exp2X (neg : Bool) (m : Nat) (e : Int) : Near :=
  if 12 ≤ leadExp m e then nearPoint (.fin false 1 (if neg then -5000 else 5000) true)
  else
    let x := mantAt neg m (max e (-fixBits)) (-fixBits)
    let i := x / 2 ^ fixBits
    let f := (x % 2 ^ fixBits).toNat
    let b := bracket false (expFix ((f * ln2Fix) >>> fixBits) 120 0 (2 ^ fixBits)) (2 ^ 20)
    (scaleX b.1 i, scaleX b.2 i)

/-- log2 x of a positive finite x that is no power of two. -/
def log2X (m : Nat) (e : Int) : Near :=
  let k := leadExp m e
  let a := m <<< (fixBits - Nat.log2 m)
  let z := ((a - 2 ^ fixBits) <<< fixBits) / (a + 2 ^ fixBits)
  let l := 2 * atanhFix z ((z * z) >>> fixBits) 130 0
  let r : Int := k * 2 ^ fixBits + ((l <<< fixBits) / ln2Fix : Nat)
  bracket (decide (r < 0)) r.natAbs (2 ^ 20)

/-- Square n times in fixed point. -/
def squareFix : (n x : Nat) → Nat
  | 0, x => x
  | n + 1, x => squareFix n ((x * x) >>> fixBits)

/-- tanh x of a finite non-zero magnitude. -/
def tanhX (neg : Bool) (m : Nat) (e : Int) : Near :=
  let k := leadExp m e
  if k < -40 then nearPoint (.fin neg (m * 2 ^ 64 - 1) (e - 64) true)
  else if 6 ≤ k then nearPoint (.fin neg (2 ^ 128 - 1) (-128) true)
  else
    let y := (mantAt false m e (-fixBits)).toNat * 2 / 256
    let t := squareFix 8 (expFix y 120 0 (2 ^ fixBits))
    bracket neg (((t - 2 ^ fixBits) <<< fixBits) / (t + 2 ^ fixBits)) (2 ^ 20)

/-- The three functions of R123 by number: 0 exp2, 1 log2, 2 tanh. The two ends of an evaluation round to one value,
the correctly rounded one, unless the function comes within 2^-378 of a boundary of the rounding (log 10). -/
def specialFn (fn f a : Nat) : Nat × Nat :=
  let done (b : Near) : Nat × Nat :=
    let r := roundX b.1 f 0 0 false
    if r = roundX b.2 f 0 0 false then r else (Config.hardCase fn f a % 2 ^ fmtWidth f, fNX)
  match decodeX f a with
  | .nan s => (qNaN f, if s then fNV else 0)
  | .inf neg =>
    match fn with
    | 0 => (if neg then 0 else infCode f, 0)
    | 1 => if neg then (qNaN f, fNV) else (infCode f, 0)
    | _ => roundX (xInt (if neg then -1 else 1)) f 0 0 false
  | .fin neg m e _ =>
    match fn with
    | 0 =>
      if m = 0 then roundX (xInt 1) f 0 0 false
      else if 12 ≤ leadExp m e then done (exp2X neg m e)
      else
        let (i, nx) := roundAt 1 0 neg m e 0 false
        if nx then done (exp2X neg m e) else roundX (xPow2 (if neg then -(i : Int) else i)) f 0 0 false
    | 1 =>
      if m = 0 then (withSign f true (infCode f), fDZ)
      else if neg then (qNaN f, fNV)
      else if m = 2 ^ Nat.log2 m then roundX (xInt (leadExp m e)) f 0 0 false
      else done (log2X m e)
    | _ => if m = 0 then (a, 0) else done (tanhX neg m e)

/-! ## Pad values (R87) -/

/-- The value a pad element receives. -/
def padValue (f : Nat) : Nat := if f = 14 then 0x7F else 0

end Sys2Proof.Machine
end

