-- ==== Sys2Proof/Machine/Update.lean ====
section
/-! DEFINITION. The update-only operators (R261, R296, R298), the clasp tree, and the operators of the
atomics (R249 Combine). -/

namespace Sys2Proof.Machine

/-- Width of an element of a partial under an operator tag (R261). -/
def updWidth (tag : Nat) : Nat := if tag = 2 ∨ 9 ≤ tag then 64 else 32

/-- Width of the location in memory. -/
def updMemWidth (tag : Nat) : Nat := if tag = 4 then 16 else updWidth tag

/-- Elements of a unit of that many bytes. -/
def updCount (tag size : Nat) : Nat := size * 8 / updMemWidth tag

/-- Op inside the tree (R298). -/
def updOp (tag a b : Nat) : Nat :=
  match tag with
  | 1 => (a + b) % 2 ^ 32
  | 2 => (a + b) % 2 ^ 64
  | 3 => (fAdd 0 a b 0 0).1
  | 4 => (fAdd 0 a b 0 0).1
  | 5 => if toSigned 32 a ≤ toSigned 32 b then a else b
  | 6 => if toSigned 32 a ≥ toSigned 32 b then a else b
  | 7 => (fMin 0 a b).1
  | 8 => (fMax 0 a b).1
  | 9 => a ||| b
  | 10 => a &&& b
  | _ => a ^^^ b

/-- The final combine with the base (R298): for ADD.BF16 exact and rounded once to BF16. -/
def updFinal (tag base r : Nat) : Nat :=
  if tag = 4 then (roundX (addX (decodeX 1 base) (decodeX 0 r) false).1 1 0 0 false).1
  else updOp tag base r

/-- Two subtrees of a combination: an absent side passes the other up. -/
def joinOpt (op : Nat → Nat → Nat) (a b : Option Nat) : Option Nat :=
  match a, b with
  | some x, some y => some (op x y)
  | some x, none => some x
  | none, y => y

/-- One level of a pairwise tree: each even position with its right neighbour. -/
def pairLevel (op : Nat → Nat → Nat) : List (Option Nat) → List (Option Nat)
  | a :: b :: l => joinOpt op a b :: pairLevel op l
  | l => l

/-- A pairwise tree of at most 2^n leaves: level after level (R89, R298). -/
def pairTree (op : Nat → Nat → Nat) : (n : Nat) → List (Option Nat) → Option Nat
  | 0, l => l.head?.join
  | n + 1, l => pairTree op n (pairLevel op l)

/-- The clasp tree over leaves 0 to 127, given as leaf number and value (R298). -/
def claspTree (tag : Nat) (leaves : List (Nat × Nat)) : Option Nat :=
  pairTree (updOp tag) 7 ((upTo 128).map fun i => (leaves.find? fun p => p.1 == i).map (·.2))

/-- Element e of a partial, when it is touched. -/
def partialElem (tag : Nat) (p : Partial) (e : Nat) : Option Nat :=
  if bitAt p.touched e then some (bitsGet p.data (updWidth tag * e) (updWidth tag)) else none

/-- A partial from its elements. -/
def mkPartial (tag n : Nat) (el : Nat → Option Nat) : Partial :=
  (upTo n).foldl (fun p e =>
    match el e with
    | some x => { data := p.data + (x % 2 ^ updWidth tag) <<< (updWidth tag * e), touched := p.touched + 2 ^ e }
    | none => p) {}

/-- The tree of several partials by leaf number, element by element (R298). -/
def treePartial (tag n : Nat) (ps : List (Nat × Partial)) : Partial :=
  mkPartial tag n fun e => claspTree tag
    (ps.filterMap fun p => (partialElem tag p.2 e).map fun x => (p.1, x))

/-- Op of two partials, an absent side passing the other up (R310). -/
def joinPartial (tag n : Nat) (a b : Partial) : Partial :=
  mkPartial tag n fun e => joinOpt (updOp tag) (partialElem tag a e) (partialElem tag b e)

/-- One element joins a partial (R296). -/
def updatePartial (tag e x : Nat) (p : Partial) : Partial :=
  let w := updWidth tag
  let y := match partialElem tag p e with
    | some old => updOp tag old x
    | none => x
  { data := bitsSet p.data (w * e) w y, touched := p.touched ||| 2 ^ e }

/-- A partial combined into a base of n elements (R298, R299): the elements in poisoned granules are lost
(R264); the new bytes, the mask of bytes written, and the granules that lost elements. -/
def combineBase (tag size : Nat) (l : LineData) (p : Partial) : LineData × Nat × Nat :=
  let w := updMemWidth tag
  (upTo (updCount tag size)).foldl (fun (acc : LineData × Nat × Nat) e =>
    match partialElem tag p e with
    | none => acc
    | some x =>
      let g := w * e / 256
      if bitAt l.pois g then (acc.1, acc.2.1, acc.2.2 ||| 2 ^ g)
      else
        let m := maskOf (w * e / 8) (w / 8)
        let r := updFinal tag (bitsGet acc.1.data (w * e) w) x
        ({ acc.1 with data := bitsSet acc.1.data (w * e) w r, dirty := acc.1.dirty ||| m }, acc.2.1 ||| m, acc.2.2))
    (l, 0, 0)

/-- Combine(op, m, x) of R249 on values of n bytes. `op` is numbered as the AMO op field: 0 ADD, 1 SWAP,
2 CAS (`expected` is its first operand), 3 MIN, 4 MAX, 5 AND, 6 OR, 7 XOR; then 8 add.f32, 9 min.f32,
10 max.f32, 11 the ADD.BF16 of R261, which adds in FP32 and rounds to BF16; 12 and 13 write the low or the high half
of a byte (R259). -/
def combine (op n m x expected : Nat) : Nat :=
  let w := 8 * n
  match op with
  | 0 => (m + x) % 2 ^ w
  | 1 => x % 2 ^ w
  | 2 => if m = expected % 2 ^ w then x % 2 ^ w else m
  | 3 => if toSigned w m ≤ toSigned w x then m else x % 2 ^ w
  | 4 => if toSigned w m ≥ toSigned w x then m else x % 2 ^ w
  | 5 => m &&& x % 2 ^ w
  | 6 => m ||| x % 2 ^ w
  | 7 => m ^^^ x % 2 ^ w
  | 8 => (fAdd 0 m x 0 0).1
  | 9 => (fMin 0 m x).1
  | 10 => (fMax 0 m x).1
  | 12 => m / 16 * 16 + x % 16
  | 13 => m % 16 + x % 256 / 16 * 16
  | _ => (roundX (decodeX 0 (fAdd 0 (m <<< 16) ((x % 2 ^ 16) <<< 16) 0 0).1) 1 0 0 false).1

/-- The Combine operation of an update tag (R261). -/
def combineOfTag (tag : Nat) : Nat :=
  match tag with
  | 1 => 0 | 2 => 0 | 3 => 8 | 4 => 11 | 5 => 3 | 6 => 4 | 7 => 9 | 8 => 10 | 9 => 6 | 10 => 5 | _ => 7

end Sys2Proof.Machine
end

