-- ==== Sys2Proof/Machine/Lines.lean ====
section
/-! DEFINITION. Where a physical address lives (R239, R240), the arrays with their poison (R264, R265), and
the tables of lines, copies and directory entries. A unit `lu` is a device line or a host half. -/

namespace Sys2Proof.Machine

/-! ## Physical windows -/

/-- The windows of R239. -/
inductive Window where
  | interleaved | stackLocal | host | peer (p : Nat) | mmio | outside
  deriving DecidableEq, Repr

def windowOf (pa : Nat) : Window :=
  if pa < 0xC000000000 then .interleaved
  else if 0x10000000000 ≤ pa ∧ pa < 0x1C000000000 then .stackLocal
  else if 0x800000000000 ≤ pa ∧ pa < 0x840000000000 then .host
  else if 0x840000000000 ≤ pa ∧ pa < 0x840000000000 + 72 * 0x18000000000 then
    .peer ((pa - 0x840000000000) / 0x18000000000)
  else if 0xF00000000000 ≤ pa ∧ pa < 0xF00100000000 then .mmio
  else .outside

/-- The stack of a device address (R240). -/
def stackOf (pa : Nat) : Nat :=
  if windowOf pa = .interleaved then (bitsGet pa 10 4) ^^^ (bitsGet pa 22 4) else bitsGet pa 21 4

/-- PA[47:14] or PA[47:10], whose thirds give the slice and the set (R240). -/
def placeOf (pa : Nat) : Nat := if windowOf pa = .interleaved then pa >>> 14 else pa >>> 10

/-- The byte offset in the stack (R240). -/
def stackOffset (pa : Nat) : Nat :=
  if windowOf pa = .interleaved then (bitsGet pa 14 26 <<< 10) + bitsGet pa 0 10
  else 48 * 2 ^ 30 + (bitsGet pa 25 15 <<< 21) + bitsGet pa 0 21

/-! ## Units of coherence -/

/-- The first unit number of host memory. -/
def hostUnits : Nat := 2 ^ 42

/-- The unit that holds a device or host address. -/
def luOf (pa : Nat) : Nat := if windowOf pa = .host then hostUnits + pa / 64 else pa / 128

def isHostLu (lu : Nat) : Bool := decide (hostUnits ≤ lu)

/-- The first address of a unit. -/
def luBase (lu : Nat) : Nat := if isHostLu lu then (lu - hostUnits) * 64 else lu * 128

/-- The size of a unit in bytes. -/
def luSize (lu : Nat) : Nat := if isHostLu lu then 64 else 128

/-- The home die of a unit: that of its stack (R240), or die 0 for host memory (R316). -/
def homeDie (lu : Nat) : Nat := if isHostLu lu then 0 else stackOf (luBase lu) / 2

/-- The slice number of a unit, the same on every die (R240, R316). -/
def sliceOf (lu : Nat) : Nat :=
  let pa := luBase lu
  if isHostLu lu then 6 * bitsGet pa 7 3 + (pa >>> 10) % 6
  else 6 * bitsGet pa 7 3 + 3 * (stackOf pa % 2) + placeOf pa % 3

/-- The pseudo-channel of its home slice that serves a device line (R240). -/
def pseudoChannelOf (lu : Nat) : Nat := placeOf (luBase lu) / 3 % 16

/-- The level-2 set of a unit (R240; for host memory log 12). -/
def l2SetOf (lu : Nat) : Nat :=
  let pa := luBase lu
  if isHostLu lu then ((pa >>> 10) / 6) % 2048 else (placeOf pa / 3) % 2048

/-! ## Tables -/

def lineKey (d lu : Nat) : Nat := d * 2 ^ 44 + lu
def copyKey (c lu : Nat) : Nat := c * 2 ^ 44 + lu

def getLine (s : State) (d lu : Nat) : L2Line := tgetD s.l2 (lineKey d lu) {}
def setLine (d lu : Nat) (l : L2Line) (s : State) : State := { s with l2 := tset s.l2 (lineKey d lu) l }
def getCopy (s : State) (c lu : Nat) : L1Copy := tgetD s.l1 (copyKey c lu) {}
def setCopy (c lu : Nat) (k : L1Copy) (s : State) : State := { s with l1 := tset s.l1 (copyKey c lu) k }
def dropCopy (c lu : Nat) (s : State) : State := { s with l1 := tdel s.l1 (copyKey c lu) }
def getDir (s : State) (lu : Nat) : DirEntry := tgetD s.dir lu {}
def setDir (lu : Nat) (e : DirEntry) (s : State) : State := { s with dir := tset s.dir lu e }

/-- The units of which core c holds an L1 copy. -/
def copiesOf (s : State) (c : Nat) : List Nat :=
  (s.l1.filter fun p => p.1 / 2 ^ 44 == c).map fun p => p.1 % 2 ^ 44

/-! ## The arrays -/

/-- Number of 32-byte granules of a unit. -/
def granulesOf (lu : Nat) : Nat := luSize lu / 32

/-- The poisoned granules among n from an address, as a mask. -/
def poisonMask (s : State) (pa n : Nat) : Nat :=
  (upTo n).foldl (fun m i => if s.poison.contains (pa / 32 + i) then m + 2 ^ i else m) 0

/-- A unit as the arrays hold it. -/
def arrayLine (s : State) (lu : Nat) : LineData :=
  { data := memRead s.mem (luBase lu) (luSize lu), dirty := 0
    pois := poisonMask s (luBase lu) (granulesOf lu) }

/-- Insert a number into a rising list. -/
def insertNat (x : Nat) : List Nat → List Nat
  | [] => [x]
  | y :: l => if x = y then y :: l else if x < y then x :: y :: l else y :: insertNat x l

/-- A granule is stored with a poison syndrome. -/
def setPoison (g : Nat) (s : State) : State :=
  { s with poison := insertNat g s.poison, correctable := s.correctable.filter (· != g), detected := tdel s.detected g }

def clearPoison (g : Nat) (s : State) : State :=
  { s with poison := s.poison.filter (· != g), correctable := s.correctable.filter (· != g)
           detected := tdel s.detected g }

/-- The syndrome with which an uncorrectable granule is read (R371): that of the error, or 4 for a poison
syndrome. -/
def syndromeOf (s : State) (g : Nat) : Nat := tgetD s.detected g 4

/-- The die whose queue holds the error records about a unit: its home's. -/
def recordDie (lu : Nat) : Nat := homeDie lu

/-- A write of a part of a poisoned granule: it counts and posts POISON_WRITE (R265, R372). -/
def poisonWritten (g : Nat) (s : State) : State :=
  postErr (recordDie (luOf (g * 32))) 3 (unitOfStack (stackOf (g * 32))) (g * 32) (syndromeOf s g) none none (countErr 1 s)

/-! ## Scores of rows (R394) -/

/-- The row of a granule's address: stack times 2^45 plus the row's address in its stack. -/
def addressRow (g : Nat) : Nat := stackOf (g * 32) * 2 ^ 45 + Config.rowOf g % 2 ^ 45

def rowStack (key : Nat) : Nat := key / 2 ^ 45
def rowUnit (key : Nat) : Nat := unitOfDram (rowStack key) (bitsGet key 40 5)

/-- The bank of a row. -/
def rowBank (key : Nat) : Nat := key / 2 ^ 32

/-- The row that stands for a row under the row retirement table (R385); a spare may have been retired in its turn. -/
def mappedRow (t : List (Nat × Nat)) : (fuel key : Nat) → Nat
  | 0, key => key
  | n + 1, key =>
    match t.find? fun p => p.1 == key with
    | some p => mappedRow t n p.2
    | none => key

/-- The row that holds a granule: every access to the arrays looks it up (R385). -/
def rowKey (s : State) (g : Nat) : Nat := mappedRow s.retiredRows s.retiredRows.length (addressRow g)

/-- Rows of a bank that have been retired. -/
def retiredIn (s : State) (bank : Nat) : Nat := (s.retiredRows.filter fun x => rowBank x.1 == bank).length

/-- Spare rows of a bank, as many as ROWCNT can show (R230, log 13). -/
def spareCount : Nat := Config.spareRows % 2 ^ 16

/-- Spare rows that are spent in the stack's most used bank. -/
def sparesSpent (s : State) (stack : Nat) : Nat :=
  (s.retiredRows.filter fun x => rowStack x.1 == stack).foldl (fun m x => max m (retiredIn s (rowBank x.1))) 0

/-- The granules that some test holds of, as their row is copied: corrected bytes are stored, and an uncorrectable
granule with its poison syndrome. -/
def copyRow (moved : Nat → Bool) (s : State) : State :=
  { s with correctable := s.correctable.filter fun g => !moved g
           detected := s.detected.filter fun p => !moved p.1 }

/-- A row in service is copied to a spare of its bank and remapped, when the bank has a spare (R394). -/
def retireRow (key : Nat) (s : State) : State :=
  let used := retiredIn s (rowBank key)
  if spareCount ≤ used || s.retiredRows.any fun x => x.1 == key then s
  else
    let stack := rowStack key
    let d := stack / 2
    let spare := rowBank key * 2 ^ 32 + Config.spareRow (rowBank key) used % 2 ^ 32
    let s := copyRow (fun g => rowKey s g == key) s
    let s := { s with retiredRows := s.retiredRows ++ [(key, spare)], hotRows := s.hotRows.filter fun x => x.1 != key }
    let k := getDie s d
    let k' := if stack % 2 = 0 then { k with rowsRetired0 := k.rowsRetired0 + 1, spent0 := sparesSpent s stack }
      else { k with rowsRetired1 := k.rowsRetired1 + 1, spent1 := sparesSpent s stack }
    postErr d 6 (rowUnit key) (key % 2 ^ 45) 0 none none (countErr 7 (setDie d k' s))

/-- Entries of the hot list of a stack. -/
def hotSize : Nat := 4096

/-- One hour of the die timer. -/
def hourNs : Nat := 3600000000000

/-- The hot-list entry with the lowest score of a stack, the oldest first. -/
def coldest : List (Nat × Nat × Nat) → Option (Nat × Nat × Nat)
  | [] => none
  | x :: l => some (l.foldl (fun a y => if y.2.1 < a.2.1 ∨ (y.2.1 = a.2.1 ∧ y.2.2 < a.2.2) then y else a) x)

/-- The hot list with room for one more row of a stack: a full list loses its coldest entry. -/
def hotRoom (stack : Nat) (l : List (Nat × Nat × Nat)) : List (Nat × Nat × Nat) :=
  let mine := l.filter fun x => rowStack x.1 == stack
  if mine.length < hotSize then l
  else match coldest mine with
    | some x => l.filter fun y => y.1 != x.1
    | none => l

/-- The hot list after one more error of a row: a repeat within an hour counts twice. -/
def hotAfter (key base now : Nat) (l : List (Nat × Nat × Nat)) : List (Nat × Nat × Nat) :=
  match l.find? fun x => x.1 == key with
  | some (_, score, t) =>
    l.map fun x => if x.1 = key then (key, score + (if now - t < hourNs then 2 * base else base), now) else x
  | none => hotRoom (rowStack key) l ++ [(key, base, now)]

/-- The row's score has reached the limit. -/
def scoreReached (s : State) (key : Nat) : Bool :=
  s.hotRows.any fun x => x.1 == key && decide (bitsGet (getDie s (rowStack key / 2)).retcfg 0 8 ≤ x.2.1)

/-- One more error of a row, with what it adds. -/
def scoreRow (key base : Nat) (s : State) : State :=
  let s := { s with hotRows := hotAfter key base (timerOf s (rowStack key / 2)) s.hotRows }
  if scoreReached s key then retireRow key s else s

/-- A correctable granule is read and corrected: counted, recorded and then scored (R372, R374, R394). -/
def correctGranule (g : Nat) (s : State) : State :=
  let key := rowKey s g
  scoreRow key 1 (postErr (rowStack key / 2) 1 (rowUnit key) (key % 2 ^ 45) 1 none none (countErr 0 s))

/-- A granule is read in the arrays: one symbol is corrected, and more are detected and scored (R394). A poison
syndrome is read as it stands. -/
def readGranule (g : Nat) (s : State) : State :=
  if s.correctable.contains g then correctGranule g s
  else if (tget s.detected g).isSome then scoreRow (rowKey s g) 8 s
  else s

/-- A read of a unit in the arrays, which corrects what it meets on the way; the scrubber alone writes it back. -/
def readArrays (lu : Nat) (s : State) : State :=
  if s.correctable.isEmpty && s.detected.isEmpty then s
  else (upTo (granulesOf lu)).foldl (fun s i => readGranule (luBase lu / 32 + i) s) s

/-! ## Writes to the arrays -/

/-- A masked write of one granule (R265): a whole granule clears the poison; a part needs the granule's other bytes,
which are read and corrected (R394), and leaves a poisoned granule poisoned. -/
def granuleWritten (g mask32 : Nat) (s : State) : State :=
  if mask32 = 0 then s
  else if mask32 = 2 ^ 32 - 1 then clearPoison g s
  else
    let s := readGranule g s
    if s.poison.contains g then setPoison g (poisonWritten g s)
    else { s with correctable := s.correctable.filter (· != g) }

/-- Write the masked bytes of a unit to the arrays (R265, R269). -/
def arrayWrite (lu data mask : Nat) (s : State) : State :=
  let s := { s with mem := memWriteMasked s.mem (luBase lu) (luSize lu) data mask }
  (upTo (granulesOf lu)).foldl
    (fun s i => granuleWritten (luBase lu / 32 + i) (bitsGet mask (32 * i) 32) s) s

/-- The dirty bytes of a line reach the arrays with their poison (R265, R355). -/
def arrayStore (lu : Nat) (l : LineData) (s : State) : State :=
  (upTo (granulesOf lu)).foldl
    (fun s i => if bitAt l.pois i && bitsGet l.dirty (32 * i) 32 != 0 then setPoison (luBase lu / 32 + i) s else s)
    (arrayWrite lu l.data l.dirty s)

/-- The writes of settles that still hold collected bytes of a unit reach the arrays, oldest first (R269). -/
def finishWrites (lu : Nat) (s : State) : State :=
  let s' := s.settles.foldl (fun s x =>
    x.lines.foldl (fun s p => if p.1 = lu then arrayStore lu p.2 s else s) s) s
  { s' with settles := s'.settles.map fun x => { x with lines := x.lines.filter fun p => p.1 != lu } }

/-- A whole granule's mask of bytes. -/
def wholeGranule : Nat := 2 ^ 32 - 1

/-- The mask of granule i in a mask of bytes. -/
def granuleMask (mask i : Nat) : Nat := bitsGet mask (32 * i) 32

/-- Granules from a test. -/
def granuleSet (lu : Nat) (p : Nat → Bool) : Nat :=
  (upTo (granulesOf lu)).foldl (fun x i => if p i then x + 2 ^ i else x) 0

/-- A granule of a line is poisoned after bytes of it have been written (R265): a whole granule is not, nor one
whose bytes have all been written piece by piece. A granule that is wholly dirty and poisoned holds poison that was
written (R355), which a part written later leaves. -/
def poisonedAfter (l : LineData) (mask i : Nat) : Bool :=
  let m := granuleMask mask i
  bitAt l.pois i && (m == 0 || (m != wholeGranule &&
    (granuleMask l.dirty i == wholeGranule || (granuleMask l.dirty i ||| m) != wholeGranule)))

/-- Bytes of y laid over a line where the mask has ones, those bytes dirty. -/
def overlay (l : LineData) (size data mask : Nat) : LineData :=
  { l with data := mergeBytes size l.data data mask, dirty := l.dirty ||| mask }

/-- Bytes written to a line of a unit, with its poison (R265). -/
def writtenLine (lu : Nat) (l : LineData) (data mask : Nat) : LineData :=
  let r := overlay l (luSize lu) data mask
  { r with pois := granuleSet lu (poisonedAfter l mask) }

/-- The writes of parts of poisoned granules of a cached line are counted (R265); the record is posted when the
granule is stored with its poison syndrome (R372). -/
def notePoisonWrites (lu : Nat) (l : LineData) (mask : Nat) (s : State) : State :=
  (upTo (granulesOf lu)).foldl (fun s i =>
    if bitAt l.pois i && granuleMask mask i != 0 && granuleMask mask i != wholeGranule
    then countErr 1 s else s) s

/-- Granule i of a line is poisoned after a written-back line w has been laid over it. -/
def poisonedUnder (l w : LineData) (i : Nat) : Bool :=
  let m := granuleMask w.dirty i
  if m = wholeGranule then bitAt w.pois i
  else if m = 0 ∨ granuleMask l.dirty i = wholeGranule then bitAt l.pois i
  else (granuleMask l.dirty i ||| m) != wholeGranule && (bitAt l.pois i || bitAt w.pois i)

/-- A written-back line laid over another: its dirty bytes and, for them, its poison (R288). -/
def absorb (size : Nat) (l : LineData) (w : LineData) : LineData :=
  let r := overlay l size w.data w.dirty
  { r with pois := (upTo (size / 32)).foldl (fun p i => if poisonedUnder l w i then p + 2 ^ i else p) 0 }

/-- The home's current copy of a line: its own, or the arrays' (R241, R307). -/
def homeCopy (s : State) (lu : Nat) : LineData := ((getDir s lu).copy).getD (arrayLine s lu)

/-- The home reads the arrays when it has no copy of its own. -/
def homeLooks (lu : Nat) (s : State) : State := if (getDir s lu).copy.isSome then s else readArrays lu s

/-- The home's copy takes bytes and timestamps; its way is used. The way has been found before (`installHome`). -/
def setHomeCopy (lu : Nat) (l : LineData) (stamps : Nat × Nat) (s : State) : State :=
  setDir lu { getDir s lu with copy := some l, wts := stamps.1, rts := stamps.2, used := s.tick } (tickUp s)

/-- The home's copy, when there is one, is used (R247). -/
def useHome (lu : Nat) (s : State) : State :=
  if (getDir s lu).copy.isSome then setDir lu { getDir s lu with used := s.tick } (tickUp s) else s

/-- The greatest `rts` of a line the slice has given up (R302, R305). -/
def mtsOf (s : State) (d n : Nat) : Nat := tgetD (getDie s d).mts n 0

def raiseMts (d n rts : Nat) (s : State) : State :=
  let k := getDie s d
  setDie d { k with mts := tset k.mts n (max (tgetD k.mts n 0) rts) } s

/-- The home's own copy leaves its slice, whatever becomes of its bytes: its `rts` joins `mts` (R302, R305). -/
def dropHomeCopy (lu : Nat) (s : State) : State :=
  let e := getDir s lu
  if e.copy.isNone then s
  else setDir lu { e with copy := none } (raiseMts (homeDie lu) (sliceOf lu) e.rts s)

/-- The L1 copies after an acquire by a hart of core c: its copies under read leases go, and its read-only copies serve
read-only loads alone. -/
def acquiredCopies (c : Nat) (l : Table L1Copy) : Table L1Copy :=
  (l.filter fun p => !(p.1 / 2 ^ 44 == c && p.2.st == .s)).map fun p =>
    if p.1 / 2 ^ 44 = c ∧ p.2.st = .o then (p.1, { p.2 with aged := true }) else p

/-- An acquire by a hart of core c (R321 to R323): the core's copies under read leases go, as an eviction may take them
at any time (R290), and its read-only copies stay for the loads that R328 exempts, so that every other later load or
fetch reaches the die slice (log 42). -/
def acquire (c : Nat) (s : State) : State := { s with l1 := acquiredCopies c s.l1 }

/-- An acquire within a scope (R318): harts of one core share its L1, so nothing is left to do below die scope. -/
def acquireAt (scope c : Nat) (s : State) : State := if 2 ≤ scope then acquire c s else s

/-- The read copy of core c of a unit goes, leased or read-only, so that its next load reaches the die slice. -/
def dropRead (c lu : Nat) (s : State) : State :=
  if (getCopy s c lu).st = .s ∨ (getCopy s c lu).st = .o then dropCopy c lu s else s

/-- The tenant of a region; of none, tenant 0. -/
def tenantOfRegion (s : State) (r : Option Nat) : Nat :=
  match r with
  | some r => (tgetD s.regions r {}).tenant
  | none => 0

/-- The tenant on whose behalf the harts of a core access (R246). -/
def tenantOf (s : State) (c : Nat) : Nat := tenantOfRegion s (getCore s c).region

/-- The core of an agent: a hart, or a copy channel numbered from 4608 on. -/
def coreOfAgent (n : Nat) : Nat := if n < 4608 then n / 8 else (n - 4608) / 4

/-- The tenant on whose behalf an agent accesses (R246): a copy command goes on for the region whose hart pushed it,
whatever region its core is bound to since (R352). -/
def tenantOfAgent (s : State) (n : Nat) : Nat :=
  if 4608 ≤ n ∧ n < 6912 then
    match ((getCore s (coreOfAgent n)).channels.toArray.getD (n % 4) {}).queue with
    | q :: _ => tenantOfRegion s (q.region.map (·.1))
    | [] => tenantOf s (coreOfAgent n)
  else tenantOf s (coreOfAgent n)

end Sys2Proof.Machine
end

