-- ==== Sys2Proof/Machine/Coherence.lean ====
section
/-! DEFINITION. Coherence between dies: the messages of R304, the die caches of R306, the ways of a level-2 set
(R236, R246, R247), the directory of R307, home operations (R308), update-only lines (R309 to R311) and the host
half-states (R314, R316). Every message is delivered by one function; `pump` delivers the messages about one line
that can be delivered. -/

namespace Sys2Proof.Machine

/-! ## Inside a die: recalls and merges (R288, R297) -/

/-- The write lease of a line is recalled: the holder writes back its dirty bytes and keeps the copy as S
(R288). -/
def recallLine (d lu : Nat) (s : State) : State :=
  let l := getLine s d lu
  match l.holder with
  | .w x =>
    match coreOfLogical s d x.core with
    | none => setLine d lu { l with holder := .none } s
    | some c =>
      let k := getCopy s c lu
      if k.st = .w then
        setCopy c lu { k with st := .s, line := { k.line with dirty := 0 } }
          (setLine d lu { l with holder := .none, line := absorb (luSize lu) l.line k.line,
                                 wts := k.wts, rts := max l.rts k.rts } s)
      else setLine d lu { l with holder := .none } s
  | _ => s

/-! ## Rollover (R289) -/

/-- The deadline of logical time: no timestamp may pass it (R289). -/
def tsLimit : Nat := 2 ^ 47

def coreDie (c : Nat) : Nat := dieOfCore c

/-- A die rolls its timestamps over (R289): W copies are written back, S copies dropped, everything 0, the lines of
its home slices included. -/
def rollover (d : Nat) (s : State) : State :=
  let cs := coresOfDie d
  let s := (s.l2.filter fun p => p.1 / 2 ^ 44 == d).foldl (fun s p =>
    let lu := p.1 % 2 ^ 44
    match p.2.holder with
    | .w x =>
      -- the lease stays with its holder; its dirty bytes are written back
      let s' := recallLine d lu s
      match coreOfLogical s d x.core with
      | some c =>
        let k := getCopy s' c lu
        setLine d lu { getLine s' d lu with holder := .w x } (setCopy c lu { k with st := if k.st = .s then .w else k.st } s')
      | none => s'
    | _ => s) s
  let s := { s with
    l1 := (s.l1.filter fun p => !(coreDie (p.1 / 2 ^ 44) == d && p.2.st == .s)).map fun p =>
      if coreDie (p.1 / 2 ^ 44) == d then (p.1, { p.2 with wts := 0, rts := 0 }) else p
    l2 := s.l2.map fun p => if p.1 / 2 ^ 44 == d then (p.1, { p.2 with wts := 0, rts := 0 }) else p
    dir := s.dir.map fun p => if homeDie p.1 == d then (p.1, { p.2 with wts := 0, rts := 0 }) else p }
  let s := cs.foldl (fun s c => setCore c { getCore s c with pts := 0 } s) s
  setDie d { getDie s d with mts := [] } s

/-- Roll over before a die takes a new timestamp past the limit (R289). -/
def rollFor (d : Nat) (stamp : State → Nat) (s : State) : State := if tsLimit < stamp s then rollover d s else s

/-! ## What a die holds -/

/-- The die's slice or the write lease's holder there holds dirty bytes of the unit. -/
def holdsDirty (s : State) (d lu : Nat) : Bool :=
  let l := getLine s d lu
  l.line.dirty != 0 || (match l.holder with
    | .w x => (match coreOfLogical s d x.core with
      | some c => (getCopy s c lu).st == .w && (getCopy s c lu).line.dirty != 0
      | none => false)
    | _ => false)

/-- A copy whose request is on its way to the slice (R290). -/
def inFlight (k : L1Copy) : Bool := k.st == .is || k.st == .iw || k.st == .iu

/-- A copy that holds an update-only partial: in U, or on its way out of U with a request that has not been served. -/
def holdsPartial (k : L1Copy) : Bool := k.st == .u || (inFlight k && k.upd.touched != 0)

/-- A core gives its partial away: it drops to I, or waits on for its request (R297). -/
def yieldPartial (c lu : Nat) (s : State) : State :=
  let k := getCopy s c lu
  if k.st = .u then dropCopy c lu s else setCopy c lu { k with upd := {} } s

/-- The partials of a die's cores, which drop to I (R297), as leaf number and partial. -/
def takePartials (d lu : Nat) (s : State) : List (Nat × Partial) × State :=
  let l := getLine s d lu
  match l.holder with
  | .u cs =>
    cs.foldl (fun (acc : List (Nat × Partial) × State) x =>
      match coreOfLogical acc.2 d x.core with
      | none => acc
      | some c =>
        let k := getCopy acc.2 c lu
        if holdsPartial k then (acc.1 ++ [(x.core, k.upd)], yieldPartial c lu acc.2) else acc)
      ([], setLine d lu { l with holder := .none } s)
  | _ => ([], s)

/-- The die result of a U line: the tree over the cores, joined with the die partial (R310). -/
def dieResult (d lu : Nat) (s : State) : Partial × State :=
  let (ps, s) := takePartials d lu s
  let l := getLine s d lu
  let n := updCount l.tag (luSize lu)
  (joinPartial l.tag n l.upd (treePartial l.tag n ps), s)

/-- Elements of a partial that lie in granule g. -/
def elementsIn (tag size : Nat) (p : Partial) (g : Nat) : Nat :=
  ((upTo (updCount tag size)).filter fun e => bitAt p.touched e && updMemWidth tag * e / 256 == g).length

/-- Post one UNCORR_DATA record for each lost granule of a merge, and count its lost partial elements (R264). -/
def lostGranules (lu tag lost : Nat) (p : Partial) (s : State) : State :=
  (upTo (granulesOf lu)).foldl (fun s g =>
    if bitAt lost g then
      let at0 := luBase lu + 32 * g
      let s := (upTo (elementsIn tag (luSize lu) p g)).foldl (fun s _ => countErr 6 s) (countErr 1 s)
      postErr (recordDie lu) 2 (unitOfSlice (homeDie lu) (sliceOf lu)) at0 (syndromeOf s (at0 / 32)) none none s
    else s) s

/-! ## Giving up a line -/

/-- The home slice is the home die's own slice (R285): the home's copy knows the timestamps of the line that the die
gives up. -/
def noteStamps (d lu : Nat) (s : State) : State :=
  let l := getLine s d lu
  let e := getDir s lu
  if d = homeDie lu ∧ e.copy.isSome then setDir lu { e with wts := max e.wts l.wts, rts := max e.rts l.rts } s else s

/-- The slice gives up a line: its `rts` joins `mts` (R302, R305); the tag stays (R297). -/
def giveUp (d lu : Nat) (s : State) : State :=
  let l := getLine s d lu
  setLine d lu { l with st := .i, holder := .none, line := {}, upd := {}, acks := 0 }
    (raiseMts d (sliceOf lu) l.rts (noteStamps d lu s))

/-- The timestamp of a line that comes to a slice from another die or from the arrays (R305). -/
def freshStamp (s : State) (d lu : Nat) : Nat := mtsOf s d (sliceOf lu) + 1

/-- The timestamps of the line at its home slice (R284): those of the home's copy, or of a line from the arrays. -/
def homeStamps (s : State) (lu : Nat) : Nat × Nat :=
  let e := getDir s lu
  if e.copy.isSome then (e.wts, e.rts) else (freshStamp s (homeDie lu) lu, freshStamp s (homeDie lu) lu)

/-- A die takes a line into its slice: from another die or from the arrays under a new timestamp (R305), on the home
die from the home's own copy under the timestamps that it has there. -/
def installLine (d lu : Nat) (st : DieSt) (m : Msg) (s : State) : State :=
  let stamps (s : State) : Nat × Nat :=
    if m.src = .home ∧ d = homeDie lu then homeStamps s lu else (freshStamp s d lu, freshStamp s d lu)
  let s := rollFor d (fun s => (stamps s).2) s
  let l := getLine s d lu
  let (w, r) := stamps s
  setLine d lu { l with st := st, line := m.line, wts := w, rts := r, used := s.tick } (tickUp s)

def send (m : Msg) (s : State) : State := { s with net := s.net ++ [m] }

/-- Send a request of a die and mark the line (R306). -/
def request (d lu : Nat) (k : MsgKind) (tag : Nat) (st : DieSt) (s : State) : State :=
  let l := getLine s d lu
  send { kind := k, lu := lu, src := .die d, dst := .home, req := .die d, tag := tag, tenant := l.tenant }
    (setLine d lu { l with st := st } s)

/-- Send a request of a die that holds the line in U, which it keeps until the merge (R310). -/
def requestFromU (d lu : Nat) (k : MsgKind) (tag : Nat) (s : State) : State :=
  send { kind := k, lu := lu, src := .die d, dst := .home, req := .die d, tag := tag
         tenant := (getLine s d lu).tenant } s

/-- A die evicts a line (R306): the Put of its state, or nothing from S. -/
def evictDie (d lu : Nat) (s : State) : State :=
  let s := recallLine d lu s
  let l := getLine s d lu
  let put (k : MsgKind) (st : DieSt) : State :=
    send { kind := k, lu := lu, src := .die d, dst := .home, req := .die d, line := l.line, tenant := l.tenant }
      (setLine d lu { l with st := st } s)
  match l.st with
  | .s => giveUp d lu s
  | .m => put .putM .miA
  | .o => put .putO .oiA
  | .e => put .putE .eiA
  | .u =>
    let (p, s) := dieResult d lu s
    send { kind := .putU, lu := lu, src := .die d, dst := .home, req := .die d, upd := p, tag := l.tag
           tenant := l.tenant } (giveUp d lu s)
  | _ => s

/-! ## What the home waits for -/

/-- Whether a host half-state must change before a device access (R314). -/
def halfBlocks (write : Bool) (h : HostSt) : Bool :=
  match h with
  | .none => false
  | .shared => write
  | .owned => true

/-- The back-invalidations a device access needs, if any (R314): of the halves it touches, bit 0 and bit 1 of
`touch`. -/
def needSnoop (lu : Nat) (write : Bool) (touch : Nat) (s : State) : List (Nat × Bool) :=
  if isHostLu lu then []
  else
    let e := getDir s lu
    (if bitAt touch 0 && halfBlocks write e.half0 then [(2 * lu, write)] else []) ++
    (if bitAt touch 1 && halfBlocks write e.half1 then [(2 * lu + 1, write)] else [])

/-- The halves that n bytes from an offset of a line touch. -/
def halvesOf (off n : Nat) : Nat := (if off < 64 then 1 else 0) + (if 64 < off + n then 2 else 0)

/-- The back-invalidations about a line that are in flight. -/
def snoopsInFlight (s : State) (lu : Nat) : Bool := s.backInv.any fun p => p.1 / 2 == lu

/-- Send the missing back-invalidations. -/
def sendSnoops (lu : Nat) (l : List (Nat × Bool)) (s : State) : State :=
  if snoopsInFlight s lu then s else { s with backInv := s.backInv ++ l }

/-- The part holds less of a host half than an access needs (R316). -/
def rightMissing (s : State) (lu : Nat) (write : Bool) : Bool :=
  let r := (getDir s lu).hostRight
  isHostLu lu && (r == .none || (write && r == .shared))

/-- The host has been asked for a half, which has not come yet. -/
def hostFill (s : State) (lu : Nat) : Bool :=
  isHostLu lu && s.cxl.any fun p => p.1 == lu - hostUnits && decide (p.2 ≤ 1)

/-- A line may be granted exclusively: no half of it is the host's, or the part owns the host half (R314, R316,
log 57). -/
def exclusiveFree (s : State) (lu : Nat) : Bool :=
  let e := getDir s lu
  if isHostLu lu then e.hostRight == .owned else e.half0 == .none && e.half1 == .none

/-- The home cannot serve a new request now: a transaction is under way, or a back-invalidation. -/
def homeBusy (s : State) (lu : Nat) : Bool :=
  let e := getDir s lu
  e.busy || e.awaited != 0 || snoopsInFlight s lu

/-- The dies of a list other than d. -/
def without (d : Nat) (l : List Nat) : List Nat := l.filter (· != d)

def sendInvs (lu form : Nat) (ds : List Nat) (req : Agent) (s : State) : State :=
  ds.foldl (fun s x => send { kind := .inv form, lu := lu, src := .home, dst := .die x, req := req } s) s

/-- A merge is a switch (R300), which leaves the line without a tag. -/
def isSwitch (p : Pending) : Bool :=
  match p with
  | .serve m => m.kind != .getS
  | .homeOp switch => switch
  | _ => false

/-- Start a merge at the home: MrgReq to every die in U (R311), which says whether it is a switch. -/
def startMerge (lu : Nat) (p : Pending) (s : State) : State :=
  let e := getDir s lu
  let s := setDir lu { e with awaited := e.sharers.length, pending := p, merged := [] } s
  e.sharers.foldl (fun s d => send { kind := .mrgReq, lu := lu, src := .home, dst := .die d, excl := isSwitch p } s) s

/-- The messages with which the home collects a line for an operation of its own (R308): for a read the owner keeps
the line as O, for a write every die gives it up. A merge for it is a switch or a read (R300). -/
def startCollect (lu : Nat) (write switch : Bool) (s : State) : State :=
  let e := getDir s lu
  let fwd (k : MsgKind) (s : State) : State :=
    send { kind := k, lu := lu, src := .home, dst := .die e.owner, req := .home } s
  match e.st with
  | .i => s
  | .s =>
    if write then sendInvs lu 0 e.sharers .home
      (setDir lu { e with st := .i, sharers := [], awaited := e.sharers.length, pending := .homeOp true } s)
    else s
  | .x =>
    if write then fwd .fwdGetM (setDir lu { e with st := .i, awaited := 1, pending := .homeOp true } s)
    else fwd .fwdGetS (setDir lu { e with st := .o, sharers := [], awaited := 1, pending := .homeOp false } s)
  | .o =>
    if write then sendInvs lu 0 e.sharers .home (fwd .fwdGetM
      (setDir lu { e with st := .i, sharers := [], awaited := e.sharers.length + 1, pending := .homeOp true } s))
    else fwd .fwdGetS (setDir lu { e with awaited := 1, pending := .homeOp false } s)
  | .u => startMerge lu (.homeOp switch) s

/-! ## The ways of a level-2 set (R236, R246, R247) -/

/-- The line of a unit: both halves of a host line share a way (R316). -/
def wayLine (lu : Nat) : Nat := if isHostLu lu then hostUnits + (lu - hostUnits) / 2 else lu

/-- A line in a way of its slice, or on its way to one; what stands in a write-back buffer or is not there does not. -/
def occupies (st : DieSt) : Bool :=
  match st with
  | .i | .miA | .oiA | .eiA | .iiA => false
  | _ => true

/-- Two units of one set of the slices of one number. -/
def sameSet (x y : Nat) : Bool := sliceOf x == sliceOf y && l2SetOf x == l2SetOf y

/-- The home has a copy of its own of a unit, or one on its way from the host. -/
def homeHolds (s : State) (p : Nat × DirEntry) : Bool := p.2.copy.isSome || hostFill s p.1

/-- The units that stand in the ways of one set of a slice: lines of the die as peer cache, and the home's own
copies on their home die (R303). -/
def setLines (s : State) (d lu : Nat) : List (Nat × Bool) :=
  ((s.l2.filter fun p => p.1 / 2 ^ 44 == d && occupies p.2.st && sameSet (p.1 % 2 ^ 44) lu).map
    fun p => (p.1 % 2 ^ 44, true)) ++
  ((s.dir.filter fun p => homeHolds s p && homeDie p.1 == d && sameSet p.1 lu).map fun p => (p.1, false))

/-- The number of ways that units occupy. -/
def waysUsed (l : List (Nat × Bool)) : Nat := ((l.map fun x => (wayLine x.1, x.2)).eraseDups).length

/-- Working ways of a slice. -/
def workingWays (s : State) (d lu : Nat) : Nat :=
  16 - popCount 16 (tgetD (getDie s d).retiredWays (sliceOf lu) 0)

/-- The request of the die about the line that is on its way or waits at the home. -/
def requestInFlight (s : State) (d lu : Nat) : Option Msg :=
  let isReq (m : Msg) : Bool := m.lu == lu && m.src == .die d &&
    (m.kind == .getS || m.kind == .getM || m.kind == .upg || m.kind == .getU)
  match s.net.find? isReq, (getDir s lu).waiting.find? isReq, (getDir s lu).pending with
  | some m, _, _ => some m
  | none, some m, _ => some m
  | none, none, .serve m => if isReq m then some m else none
  | none, none, _ => none

/-- A unit that no transaction locks, a merge on its way among them (R291). The home's copy of a host half stays while
a die holds the half: the data are nowhere else in the part. -/
def evictable (s : State) (d : Nat) (x : Nat × Bool) : Bool :=
  if x.2 then
    match (getLine s d x.1).st with
    | .s | .e | .o | .m => true
    | .u => (requestInFlight s d x.1).isNone
    | _ => false
  else (getDir s x.1).copy.isSome && !homeBusy s x.1 && (!isHostLu x.1 || (getDir s x.1).st == .i)

def usedAt (s : State) (d : Nat) (x : Nat × Bool) : Nat :=
  if x.2 then (getLine s d x.1).used else (getDir s x.1).used

def tenantAt (s : State) (d : Nat) (x : Nat × Bool) : Nat :=
  if x.2 then (getLine s d x.1).tenant else (getDir s x.1).tenant

/-- Lines a tenant holds in the slice of a number (R246). -/
def tenantCount (s : State) (d slice t : Nat) : Nat :=
  waysUsed
    (((s.l2.filter fun p => p.1 / 2 ^ 44 == d && occupies p.2.st && sliceOf (p.1 % 2 ^ 44) == slice &&
      p.2.tenant == t).map fun p => (p.1 % 2 ^ 44, true)) ++
    ((s.dir.filter fun p => homeHolds s p && homeDie p.1 == d && sliceOf p.1 == slice && p.2.tenant == t).map
      fun p => (p.1, false)))

/-- The units in the way of a unit. -/
def sameWay (l : List (Nat × Bool)) (x : Nat × Bool) : List (Nat × Bool) :=
  l.filter fun y => wayLine y.1 == wayLine x.1 && y.2 == x.2

/-- The last use of the way of a unit. -/
def wayUse (s : State) (d : Nat) (l : List (Nat × Bool)) (x : Nat × Bool) : Nat :=
  (sameWay l x).foldl (fun m y => max m (usedAt s d y)) 0

/-- The unit of the least recently used way among some of those of a set. -/
def oldest (s : State) (d : Nat) (all : List (Nat × Bool)) : List (Nat × Bool) → Option (Nat × Bool)
  | [] => none
  | x :: l =>
    match oldest s d all l with
    | none => some x
    | some y => if wayUse s d all x ≤ wayUse s d all y then some x else some y

/-- The victim of a set (R247), not in the way of the unit itself: over-target tenants first, else the least
recently used. -/
def victimOf (s : State) (d : Nat) (me : Nat × Bool) : Option (Nat × Bool) :=
  let all := setLines s d me.1
  let l := all.filter fun x =>
    !(wayLine x.1 == wayLine me.1 && x.2 == me.2) && (sameWay all x).all (evictable s d)
  let overTarget := l.filter fun x =>
    decide (s.tenantTargets.getD (tenantAt s d x) 0 < tenantCount s d (sliceOf me.1) (tenantAt s d x))
  match oldest s d all overTarget with
  | some x => some x
  | none => oldest s d all l

/-- The home's own copy leaves its slice: its dirty bytes go to the arrays first (R247), or back to the host, clean
or dirty (R316); its `rts` joins `mts` (R302). -/
def evictHome (lu : Nat) (s : State) : State :=
  let s := finishWrites lu s
  let e := getDir s lu
  match e.copy with
  | none => s
  | some l =>
    let s := dropHomeCopy lu (if l.dirty = 0 then s else arrayStore lu l s)
    if isHostLu lu then
      setDir lu { getDir s lu with hostRight := .none }
        { s with cxl := s.cxl ++ [(lu - hostUnits, if l.dirty = 0 then 3 else 2)] }
    else s

/-- The units of a way leave the slice. -/
def evictWay (d lu : Nat) (x : Nat × Bool) (s : State) : State :=
  (sameWay (setLines s d lu) x).foldl (fun s y => if y.2 then evictDie d y.1 s else evictHome y.1 s) s

/-- A host half that dies still hold is called back, so that its way can be taken later. -/
def callBack (d : Nat) (me : Nat × Bool) (s : State) : State :=
  match (setLines s d me.1).find? fun x => !x.2 && isHostLu x.1 && x.1 != me.1 && !homeBusy s x.1 && (getDir s x.1).st != .i with
  | some x => startCollect x.1 true true s
  | none => s

/-- Make room for a unit in its set: the state, and whether a way is free for it. A fill without a way waits. -/
def makeRoom : (fuel d : Nat) → (me : Nat × Bool) → State → State × Bool
  | 0, _, _, s => (s, false)
  | n + 1, d, me, s =>
    let l := setLines s d me.1
    if !(sameWay l me).isEmpty || decide (waysUsed l < workingWays s d me.1) then (s, true)
    else match victimOf s d me with
      | none => (callBack d me s, false)
      | some x => makeRoom n d me (evictWay d me.1 x s)

/-- More evictions than a set has ways. -/
def roomFuel : Nat := 18

/-- Install the home's own copy of a line under timestamps: in its way, for which a victim has left before the line
counts (R247); a line that comes when every other way is locked goes on to the arrays at once (log 12). The home's copy
of a host half stays while a die holds the half. -/
def installHome (lu : Nat) (l : LineData) (stamps : State → Nat × Nat) (s : State) : State :=
  let (s, room) := makeRoom roomFuel (homeDie lu) (lu, false) s
  let s := rollFor (homeDie lu) (fun s => (stamps s).2) s
  let s := setHomeCopy lu l (stamps s) s
  if room || (isHostLu lu && (getDir s lu).st != .i) then s else evictHome lu s

/-- A new value of the line at its home: `wts` = `rts` + 1 and `rts` = `wts`, above every lease on the value it
replaces (R287, R297, R299). -/
def putHome (lu : Nat) (l : LineData) (s : State) : State :=
  installHome lu l (fun s => ((homeStamps s lu).2 + 1, (homeStamps s lu).2 + 1)) s

/-- Data of a die come to the home (R307): from another die under a new timestamp (R305), the copy that stood here
being given up, and from the home die's own line under the timestamps that it has. -/
def takeData (d lu : Nat) (l : LineData) (s : State) : State :=
  let home := homeDie lu
  if d = home then
    installHome lu l (fun s =>
      let x := getLine s d lu
      let (w, r) := if (getDir s lu).copy.isSome then homeStamps s lu else (0, 0)
      (max w x.wts, max r x.rts)) s
  else
    let s := if (getDir s lu).copy.isSome then raiseMts home (sliceOf lu) (getDir s lu).rts s else s
    installHome lu l (fun s => (freshStamp s home lu, freshStamp s home lu)) s

/-- A combined partial written into the home's copy, `wts` = `rts` + 1 (R299, R311). -/
def mergeHome (lu tag : Nat) (p : Partial) (s : State) : State :=
  if p.touched = 0 then s
  else
    let s := homeLooks lu s
    let (l, _, lost) := combineBase tag (luSize lu) (homeCopy s lu) p
    lostGranules lu tag lost p (putHome lu l s)

/-- The home's copy, when there is none yet, is allocated on behalf of a tenant (R246). -/
def forTenant (lu t : Nat) (s : State) : State :=
  let e := getDir s lu
  if homeHolds s (lu, e) then s else setDir lu { e with tenant := t } s

/-! ## The order of the fills of a set (R247) -/

/-- The fills of a set that wait: those of the die's lines, or those of the home's own copies. -/
def fillsKey (d : Nat) (me : Nat × Bool) : Nat := ((d * 48 + sliceOf me.1) * 2048 + l2SetOf me.1) * 2 + me.2.toNat

def fillsAt (s : State) (d : Nat) (me : Nat × Bool) : List Nat := tgetD s.fills (fillsKey d me) []

def setFills (d : Nat) (me : Nat × Bool) (l : List Nat) (s : State) : State :=
  { s with fills := if l.isEmpty then tdel s.fills (fillsKey d me) else tset s.fills (fillsKey d me) l }

/-- A request still waits for the fill: at the slice, or at the home. -/
def fillWanted (s : State) (d : Nat) (me : Nat × Bool) : Bool :=
  if me.2 then !(getLine s d me.1).queue.isEmpty else !(getDir s me.1).waiting.isEmpty

/-- The fill takes its place behind those of its set that arrived earlier and are still wanted. -/
def joinFills (d : Nat) (me : Nat × Bool) (s : State) : State :=
  let l := (fillsAt s d me).filter fun x => x == me.1 || fillWanted s d (x, me.2)
  setFills d me (if l.contains me.1 then l else l ++ [me.1]) s

def leaveFills (d : Nat) (me : Nat × Bool) (s : State) : State :=
  if s.fills.isEmpty then s else setFills d me ((fillsAt s d me).filter (· != me.1)) s

/-- A fill takes a way of its set in its turn: those that arrived earlier have theirs, and `flying` says that one of them
has not been installed yet. The state, and whether the fill has a way. -/
def claimWay (d : Nat) (me : Nat × Bool) (flying : Bool) (s : State) : State × Bool :=
  if !(sameWay (setLines s d me.1) me).isEmpty then (leaveFills d me s, true)
  else
    let s := joinFills d me s
    if flying || (fillsAt s d me).head? != some me.1 then (s, false)
    else
      let (s, ok) := makeRoom roomFuel d me s
      (if ok then leaveFills d me s else s, ok)

/-- The die lines on their way to ways of the set of a unit in the slice of a die, other than its own. -/
def dieFills (s : State) (d lu : Nat) : List Nat :=
  let coming (st : DieSt) : Bool := st == .isD || st == .imAD || st == .iuA
  (s.l2.filter fun p => p.1 / 2 ^ 44 == d && coming p.2.st && wayLine (p.1 % 2 ^ 44) != wayLine lu &&
    sameSet (p.1 % 2 ^ 44) lu).map fun p => p.1 % 2 ^ 44

/-- The host halves on their way to ways of the set of a unit on their home die, other than its own. -/
def hostFills (s : State) (d lu : Nat) : List Nat :=
  (s.cxl.filter fun p =>
    let x := hostUnits + p.1
    decide (p.2 ≤ 1) && homeDie x == d && wayLine x != wayLine lu && sameSet x lu).map fun p => hostUnits + p.1

/-- A request of the die about the line waits at the home, which has not begun with it. -/
def waitsAtHome (s : State) (d lu : Nat) : Bool := (getDir s lu).waiting.any fun m => m.src == .die d

/-- A fill of the home's own copy takes its way once every earlier fill of the set that has come so far has been
installed. A line of the die whose request waits at its home may itself wait for a fill of the home, and is not waited
for. -/
def claimHome (lu : Nat) (s : State) : State × Bool :=
  let d := homeDie lu
  claimWay d (lu, false)
    (!(hostFills s d lu).isEmpty || (dieFills s d lu).any fun x => !waitsAtHome s d x) s

/-- The bridge asks the host for a half on behalf of a tenant, RdShared for a read and RdOwn for a write (R316), once
the half has a way (R236, R247). -/
def askHost (lu : Nat) (write : Bool) (t : Nat) (s : State) : State :=
  if s.cxl.any fun p => p.1 == lu - hostUnits then s
  else
    let (s, ok) := claimHome lu s
    if ok then { forTenant lu t s with cxl := s.cxl ++ [(lu - hostUnits, if write then 1 else 0)] } else s

/-! ## The home (R307) -/

/-- Data from the home to a die. -/
def homeData (lu d : Nat) (excl : Bool) (count : Nat) (s0 : State) : State :=
  let s := useHome lu (homeLooks lu s0)
  send { kind := .data, lu := lu, src := .home, dst := .die d, req := .die d, excl := excl, count := count
         line := { homeCopy s lu with dirty := 0 } } s

/-- A Put of a die's partial: it joins the merge that has asked for it, or is combined at once (R306, R310). -/
def servePutU (m : Msg) (d : Nat) (s : State) : State :=
  let e := getDir s m.lu
  if e.st = .u ∧ e.sharers.contains d then
    let s := mergeHome m.lu e.tag m.upd s
    let e := getDir s m.lu
    let left := without d e.sharers
    setDir m.lu { e with sharers := left, st := if left.isEmpty then .i else .u } s
  else s

/-- The home serves one request or Put (R307). -/
def serveHome (m : Msg) (s0 : State) : State :=
  let lu := m.lu
  let s := forTenant lu m.tenant s0
  let e := getDir s lu
  let d := match m.src with | .die x => x | .home => 0
  let ackTo (s : State) : State :=
    send { kind := .ackDie, lu := lu, src := .home, dst := .die d, plain := true } s
  let put (write : Bool) : State :=
    let s := if write then
        takeData d lu (absorb (luSize lu) (homeCopy s lu) m.line) s else s
    let e := getDir s lu
    let left := if e.st = .o then e.sharers else []
    ackTo (setDir lu { e with st := if left.isEmpty then .i else .s, sharers := left } s)
  let getM : State :=
    match e.st with
    | .s =>
      let ds := without d e.sharers
      sendInvs lu 0 ds (.die d) (homeData lu d true ds.length
        (setDir lu { e with st := .x, owner := d, sharers := [], busy := true } s))
    | .x =>
      send { kind := .fwdGetM, lu := lu, src := .home, dst := .die e.owner, req := .die d }
        (setDir lu { e with st := .x, owner := d, busy := true } s)
    | .o =>
      let ds := without d e.sharers
      sendInvs lu 0 ds (.die d)
        (send { kind := .fwdGetM, lu := lu, src := .home, dst := .die e.owner, req := .die d
                count := ds.length }
          (setDir lu { e with st := .x, owner := d, sharers := [], busy := true } s))
    | _ => homeData lu d true 0 (setDir lu { e with st := .x, owner := d, sharers := [], busy := true } s)
  match m.kind with
  | .getS =>
    match e.st with
    | .i =>
      if exclusiveFree s lu then homeData lu d true 0 (setDir lu { e with st := .x, owner := d, busy := true } s)
      else homeData lu d false 0 (setDir lu { e with st := .s, sharers := [d], busy := true } s)
    | .s => homeData lu d false 0 (setDir lu { e with sharers := without d e.sharers ++ [d], busy := true } s)
    | .x =>
      send { kind := .fwdGetS, lu := lu, src := .home, dst := .die e.owner, req := .die d }
        (setDir lu { e with st := .o, sharers := [d], busy := true } s)
    | .o =>
      send { kind := .fwdGetS, lu := lu, src := .home, dst := .die e.owner, req := .die d }
        (setDir lu { e with sharers := without d e.sharers ++ [d], busy := true } s)
    | .u => startMerge lu (.serve m) s
  | .getM => if e.st = .u then startMerge lu (.serve m) s else getM
  | .upg =>
    if e.st = .u then startMerge lu (.serve m) s
    else if (e.st = .s ∧ e.sharers.contains d) ∨ (e.st = .o ∧ e.owner = d) then
      let ds := without d e.sharers
      sendInvs lu 0 ds (.die d)
        (send { kind := .ackDie, lu := lu, src := .home, dst := .die d, count := ds.length }
          (setDir lu { e with st := .x, owner := d, sharers := [], busy := true } s))
    else getM
  | .putM => if (e.st = .x ∨ e.st = .o) ∧ e.owner = d then put true else ackTo s
  | .putO => if (e.st = .x ∨ e.st = .o) ∧ e.owner = d then put true else ackTo s
  | .putE => if (e.st = .x ∨ e.st = .o) ∧ e.owner = d then put false else ackTo s
  | .putU => servePutU m d s
  | .getU =>
    let grant (s : State) : State :=
      ackTo (setDir lu { getDir s lu with st := .u, sharers := [d], tag := m.tag } s)
    match e.st with
    | .i => grant s
    | .s =>
      let ds := without d e.sharers
      if ds.isEmpty then grant s
      else sendInvs lu 0 ds .home
        (setDir lu { e with awaited := ds.length, pending := .grantU d m.tag } s)
    | .x =>
      send { kind := .fwdGetM, lu := lu, src := .home, dst := .die e.owner, req := .home }
        (setDir lu { e with awaited := 1, pending := .grantU d m.tag } s)
    | .o =>
      let ds := without d e.sharers
      sendInvs lu 0 ds .home
        (send { kind := .fwdGetM, lu := lu, src := .home, dst := .die e.owner, req := .home }
          (setDir lu { e with awaited := ds.length + 1, pending := .grantU d m.tag } s))
    | .u =>
      if e.tag = m.tag then
        ackTo (setDir lu { e with sharers := without d e.sharers ++ [d] } s)
      else startMerge lu (.serve m) s
  | _ => s

/-- Whether a request writes, for the host half-states. -/
def requestWrites (k : MsgKind) : Bool := k == .getM || k == .upg || k == .getU

def isPut (k : MsgKind) : Bool := k == .putM || k == .putO || k == .putE || k == .putU

/-- An operation at the home that waits among the requests; the agent goes on with it when its turn has come. -/
def isOp (k : MsgKind) : Bool :=
  match k with
  | .op _ => true
  | _ => false

/-- Serve the request whose turn it is, when that can be done now: a device line's host halves are snooped first
(R314; a request is for the whole line, log 57), and a host half must be held from the host (R316). -/
def tryServe (m : Msg) (s : State) : State × Bool :=
  let lu := m.lu
  let write := requestWrites m.kind
  if homeBusy s lu || isOp m.kind then (s, false)
  else if isPut m.kind then (serveHome m s, true)
  else
    let sn := needSnoop lu write 3 s
    if !sn.isEmpty then (sendSnoops lu sn s, false)
    else if rightMissing s lu write then (askHost lu write m.tenant s, false)
    else (serveHome m s, true)

/-- A merge at the home has asked the die for its result. -/
def mergeAsks (s : State) (lu d : Nat) : Bool :=
  let e := getDir s lu
  e.st == .u && e.awaited != 0 && e.sharers.contains d && !e.merged.any fun x => x.1 == d

/-- A request or Put reaches the home: it is served, or waits in order (R307). -/
def arriveHome (m : Msg) (s : State) : State :=
  let wait (s : State) : State :=
    let e := getDir s m.lu
    setDir m.lu { e with waiting := e.waiting ++ [m] } s
  if !(getDir s m.lu).waiting.isEmpty then wait s
  else
    let (s, ok) := tryServe m s
    if ok then s else wait s

/-- The requests waiting at a home that is free are served in order of arrival (R307). -/
def serveWaiting : (fuel lu : Nat) → State → State
  | 0, _, s => s
  | n + 1, lu, s =>
    let e := getDir s lu
    match e.waiting with
    | [] => s
    | m :: l =>
      let (s', ok) := tryServe m (setDir lu { e with waiting := l } s)
      if ok then serveWaiting n lu s'
      else
        let e' := getDir s' lu
        setDir lu { e' with waiting := m :: e'.waiting } s'

/-- The merge results have arrived: the value goes into the home's copy and the line leaves U; the tag stays unless
the reason was a switch (R297, R300, R311). -/
def finishMerge (lu : Nat) (switch : Bool) (s : State) : State :=
  let e := getDir s lu
  let s := mergeHome lu e.tag (treePartial e.tag (updCount e.tag (luSize lu)) e.merged) s
  let e := getDir s lu
  setDir lu { e with st := .i, sharers := [], tag := if switch then 0 else e.tag, pending := .none, merged := [] } s

/-- The home has collected everything it awaited. -/
def collected (lu : Nat) (s : State) : State :=
  let e := getDir s lu
  match e.pending with
  | .none => s
  | .grantU d tag =>
    serveWaiting 64 lu <| send { kind := .ackDie, lu := lu, src := .home, dst := .die d, plain := true }
      (setDir lu { e with st := .u, sharers := [d], tag := tag, pending := .none } s)
  | .serve m => serveWaiting 64 lu (serveHome m (finishMerge lu (m.kind != .getS) s))
  | .homeOp switch =>
    if e.st = .u then finishMerge lu switch s else setDir lu { e with pending := .none } s

/-- One of the things the home awaits has arrived. -/
def arrived (lu : Nat) (s : State) : State :=
  let e := getDir s lu
  let s := setDir lu { e with awaited := e.awaited - 1 } s
  if e.awaited ≤ 1 then collected lu s else s

/-! ## Delivery -/

/-- The data a die sends for a forward: its cores' W copies are given up first (R306). -/
def forwardData (m : Msg) (d : Nat) (excl : Bool) (s : State) : State × LineData :=
  let s := recallLine d m.lu s
  let l := getLine s d m.lu
  (send { kind := .data, lu := m.lu, src := .die d, dst := m.req, req := m.req, excl := excl
          count := m.count, line := if excl ∨ m.req = .home then l.line else { l.line with dirty := 0 } } s,
   l.line)

/-- A message reaches a die slice (R306): the new state, or nothing while the event has to wait. An InvAck
waits for the Ack with the number to expect. A MrgReq that crosses the die's own PutU is answered by it. An
Inv that meets IM_AD, IU_A or, as a DISCARD or a RENEW, OM_A is not held up, so that no die stalls the home (R308,
log 57). -/
def deliverDie (m : Msg) (d : Nat) (s : State) : Option State :=
  let lu := m.lu
  let l := getLine s d lu
  let ackHome (s : State) : State := send { kind := .ackHome, lu := lu, src := .die d, dst := .home } s
  let invAck (kept : Bool) (s : State) : State :=
    send { kind := .invAck kept, lu := lu, src := .die d, dst := m.req } s
  let setSt (st : DieSt) (s : State) : State := setLine d lu { getLine s d lu with st := st } s
  match m.kind with
  | .fwdGetS =>
    match l.st with
    | .e | .m | .o =>
      let (s, _) := forwardData m d false s
      let s := if m.req = .home then
          setLine d lu { getLine s d lu with line := { (getLine s d lu).line with dirty := 0 } } s else s
      some (setSt .o s)
    | .omA | .miA | .oiA | .eiA => some (forwardData m d false s).1
    | _ => none
  | .fwdGetM =>
    match l.st with
    | .e | .m | .o => some (giveUp d lu (forwardData m d true s).1)
    | .omA => let s := (forwardData m d true s).1
              some (setSt .imAD (giveUp d lu s))
    | .miA | .oiA | .eiA => some (setSt .iiA (forwardData m d true s).1)
    | _ => none
  | .inv form =>
    match l.st with
    | .i | .isD | .imAD | .iuA => some (invAck false s)
    | .s => some (invAck false (giveUp d lu s))
    | .smAD => some (invAck false (setSt .imAD (giveUp d lu s)))
    | .e => if form = 0 then none else some (invAck false (giveUp d lu (recallLine d lu s)))
    | .o | .m =>
      if form = 0 then none
      else if form = 1 then some (invAck true s)
      else some (invAck false (giveUp d lu s))
    | .miA | .oiA | .eiA =>
      if form = 2 then some (invAck false (setSt .iiA s)) else some (invAck true s)
    | .omA =>
      if form = 2 then some (invAck false (setSt .imAD (giveUp d lu s)))
      else if form = 1 then some (invAck true s) else none
    | .u => if form = 2 then some (invAck false (giveUp d lu s)) else none
    | _ => none
  | .invAck _ =>
    match l.st with
    | .imA | .smA | .omA =>
      if l.acks = 0 then none
      else if l.acks = 1 then some (ackHome (setLine d lu { l with st := .m, acks := 0 } s))
      else some (setLine d lu { l with acks := l.acks - 1 } s)
    | _ => none
  | .data =>
    match l.st with
    | .isD => some (ackHome (installLine d lu (if m.excl then .e else .s) m s))
    | .imAD | .smAD =>
      let s := if l.st = .smAD then giveUp d lu s else s
      let s := installLine d lu .imA m s
      if m.count = 0 then some (ackHome (setSt .m s))
      else some (setLine d lu { getLine s d lu with acks := m.count } s)
    | _ => none
  | .ackDie =>
    match l.st with
    | .smAD | .omA =>
      if m.plain then none
      else if m.count = 0 then some (ackHome (setSt .m s))
      else some (setLine d lu { l with st := if l.st = .smAD then .smA else .omA, acks := m.count } s)
    | .miA | .oiA | .eiA | .iiA => some (giveUp d lu s)
    | .iuA => some (setLine d lu { l with st := .u, holder := .u [], upd := {} } s)
    | _ => none
  | .mrgReq =>
    match l.st with
    | .u =>
      let (p, s) := dieResult d lu s
      let kept := if m.excl then 0 else l.tag
      let (next, tag) : DieSt × Nat := match requestInFlight s d lu with
        | some q => if q.kind = .getS then (.isD, kept) else if q.kind = .getU then (.iuA, q.tag) else (.imAD, 0)
        | none => (.i, kept)
      let s := giveUp d lu s
      let s := setLine d lu { getLine s d lu with st := next, tag := tag } s
      some (send { kind := .mrgData, lu := lu, src := .die d, dst := .home, upd := p } s)
    | _ => some s
  | _ => none

/-- A merge result reaches the home. -/
def mergeArrived (m : Msg) (s : State) : State :=
  let e := getDir s m.lu
  let d := match m.src with | .die x => x | .home => 0
  arrived m.lu (setDir m.lu { e with merged := e.merged ++ [(d, m.upd)] } s)

/-- A message reaches the home. -/
def deliverHome (m : Msg) (s : State) : Option State :=
  let lu := m.lu
  let e := getDir s lu
  match m.kind with
  | .ackHome => some (serveWaiting 64 lu (setDir lu { e with busy := false } s))
  | .invAck _ => some (arrived lu s)
  | .data =>
    let c := homeCopy s lu
    let d := match m.src with | .die x => x | .home => homeDie lu
    some (arrived lu (takeData d lu { m.line with dirty := c.dirty ||| m.line.dirty } s))
  | .mrgData => some (mergeArrived m s)
  | .putU =>
    let d := match m.src with | .die x => x | .home => 0
    some (if mergeAsks s lu d then mergeArrived m s else arriveHome m s)
  | _ => some (arriveHome m s)

/-- Deliver one message that is no longer in flight. -/
def deliver (m : Msg) (s : State) : Option State :=
  match m.dst with
  | .die d => deliverDie m d s
  | .home => deliverHome m s

/-- Deliver the first message that satisfies the test and can be delivered; messages between the same two
agents about one line keep their order (R303). -/
def deliverFirst (p : Msg → Bool) (s : State) : Option State :=
  let rec go : List Msg → List Msg → Option State
    | _, [] => none
    | before, m :: rest =>
      if p m && !before.any (fun b => b.lu == m.lu && b.src == m.src && b.dst == m.dst) then
        match deliver m { s with net := before ++ rest } with
        | some s' => some s'
        | none => go (before ++ [m]) rest
      else go (before ++ [m]) rest
  go [] s.net

/-- A Put of a partial that waits at the home and that the merge under way asks for is its answer: its die no longer
holds the line in U (R306, R310). -/
def takeWaitingPut (lu : Nat) (s : State) : Option State :=
  let e := getDir s lu
  let asked (m : Msg) : Bool := m.kind == .putU && match m.src with | .die d => mergeAsks s lu d | .home => false
  (e.waiting.find? asked).map fun m => mergeArrived m (setDir lu { e with waiting := e.waiting.erase m } s)

/-- The next thing that happens to a line: a message about it is delivered, or answers a merge where it waits. -/
def nextArrival (lu : Nat) (s : State) : Option State :=
  (deliverFirst (fun m => m.lu == lu) s).orElse fun _ => takeWaitingPut lu s

/-- Deliver messages about one line and serve what waits at its home until nothing more can be done. -/
def pump : (fuel lu : Nat) → State → State
  | 0, _, s => s
  | n + 1, lu, s =>
    match nextArrival lu s with
    | some s' => pump n lu s'
    | none =>
      if (getDir s lu).waiting.isEmpty || homeBusy s lu then s
      else
        let s' := serveWaiting 64 lu s
        if (getDir s' lu).waiting.length < (getDir s lu).waiting.length then pump n lu s' else s'

/-- Deliver messages about one line until its home has collected what it awaits. -/
def pumpCollect : (fuel lu : Nat) → State → State
  | 0, _, s => s
  | n + 1, lu, s =>
    if (getDir s lu).awaited = 0 then s
    else match nextArrival lu s with
      | some s' => pumpCollect n lu s'
      | none => s

/-- The number of deliveries one transaction can need: eight dies, a request, data and acknowledgements
each, several times over. -/
def pumpFuel : Nat := 96

/-! ## What a die asks for -/

def canRead (st : DieSt) : Bool :=
  st == .s || st == .e || st == .o || st == .m || st == .smAD || st == .smA || st == .omA

/-- Deliver the messages about some lines. -/
def pumpAll (l : List Nat) (s : State) : State := l.foldl (fun s x => pump pumpFuel x s) s

/-- Deliver messages about a line; while a fill of its home waits for others, theirs go first. -/
def pumpLine (lu : Nat) (s : State) : State :=
  let d := homeDie lu
  let ahead := fillsAt s d (lu, false)
  pump pumpFuel lu (if ahead.isEmpty then s else pumpAll ahead (pumpAll (dieFills s d lu) s))

/-- The line is not in the slice and a request for it will be sent: it is allocated on behalf of a tenant (R246), once
every earlier fill of its set has been installed (R247). -/
def allocate (d lu t : Nat) (s : State) : State × Bool :=
  if (getLine s d lu).st = .i then
    let s := pumpAll (dieFills s d lu) s
    let (s, ok) := claimWay d (lu, true) (!(dieFills s d lu).isEmpty || !(hostFills s d lu).isEmpty) s
    (if ok then setLine d lu { getLine s d lu with tenant := t } s else s, ok)
  else (s, true)

/-- A die obtains the right to read a line for an access of a tenant: the new state, and whether it holds the
right. A request that cannot finish now stays in flight. -/
def ensureRead (d lu t : Nat) (s : State) : State × Bool :=
  if canRead (getLine s d lu).st then (s, true)
  else
    let (s, room) := allocate d lu t s
    if !room then (s, false)
    else
      let s := match (getLine s d lu).st with
        | .i => request d lu .getS 0 .isD s
        | .u => if (requestInFlight s d lu).isSome then s else requestFromU d lu .getS 0 s
        | _ => s
      let s := pumpLine lu s
      (s, canRead (getLine s d lu).st)

/-- A die obtains the right to write a line (R306). -/
def ensureWrite (d lu t : Nat) (s : State) : State × Bool :=
  match (getLine s d lu).st with
  | .m => (s, true)
  | .e => (setLine d lu { getLine s d lu with st := .m } s, true)
  | _ =>
    let (s, room) := allocate d lu t s
    if !room then (s, false)
    else
      let s := match (getLine s d lu).st with
        | .i => request d lu .getM 0 .imAD s
        | .s => request d lu .upg 0 .smAD s
        | .o => request d lu .upg 0 .omA s
        | .u => if (requestInFlight s d lu).isSome then s else requestFromU d lu .getM 0 s
        | _ => s
      let s := pumpLine lu s
      (s, (getLine s d lu).st == .m)

/-- The GetU of a die that does not hold the line. -/
def askUpdate (d lu tag t : Nat) (s : State) : State × Bool :=
  let (s, room) := allocate d lu t s
  if !room then (s, false)
  else
    let s := request d lu .getU tag .iuA s
    (setLine d lu { getLine s d lu with tag := tag, holder := .u [], upd := {} } s, true)

/-- A die obtains update-only permission under a tag (R309). A copy it holds otherwise is given up first; a line in
U under another tag is merged whole, the die's own partials with everyone's (R300, R310). -/
def ensureUpdate (d lu tag t : Nat) (s : State) : State × Bool :=
  let l := getLine s d lu
  if l.st = .u ∧ l.tag = tag then (s, true)
  else
    let s := match l.st with
      | .i => (askUpdate d lu tag t s).1
      | .u => if (requestInFlight s d lu).isSome then s else requestFromU d lu .getU tag s
      | .s | .e | .o | .m =>
        let s := pump pumpFuel lu (evictDie d lu s)
        if (getLine s d lu).st = .i then (askUpdate d lu tag t s).1 else s
      | _ => s
    let s := pumpLine lu s
    let l := getLine s d lu
    (s, l.st == .u && l.tag == tag)

/-! ## Home operations (R308) -/

/-- The home has a way for the copy of its own that an operation will leave: data come from a die or from a merge, or
the operation writes (R236, R247). -/
def roomHome (lu : Nat) (write : Bool) (s : State) : State × Bool :=
  let e := getDir s lu
  if e.copy.isSome || (!write && (e.st == .i || e.st == .s)) then (s, true) else claimHome lu s

/-- Collect a line at its home for an operation there of a tenant: the new state, and whether the home's copy is now
current, and alone for a write. -/
def collectHome (lu : Nat) (write switch : Bool) (touch t : Nat) (s : State) : State × Bool :=
  let s := pumpLine lu s
  if homeBusy s lu then (s, false)
  else
    let sn := needSnoop lu write touch s
    if !sn.isEmpty then (sendSnoops lu sn s, false)
    else if rightMissing s lu write then (askHost lu write t s, false)
    else
      let (s, room) := roomHome lu write s
      if !room then (s, false)
      else
        let s := pumpCollect pumpFuel lu (startCollect lu write switch (forTenant lu t s))
        if (getDir s lu).awaited = 0 then (useHome lu (homeLooks lu s), true) else (s, false)

/-- The same for an operation that writes as a switch, or reads (R300). -/
def homeFetchAt (lu : Nat) (write : Bool) (touch t : Nat) (s : State) : State × Bool :=
  collectHome lu write write touch t s

/-- The same for an operation on the whole line, which takes it out of U (R269). -/
def homeFetch (lu : Nat) (write : Bool) (t : Nat) (s : State) : State × Bool := collectHome lu write true 3 t s

/-! ## The order of operations at a home (R291, R300) -/

/-- Something that arrived earlier waits at the home: an operation goes on only from the head of the queue. -/
def behind (s : State) (lu : Nat) (who : HomeUser) : Bool :=
  match (getDir s lu).waiting with
  | [] => false
  | m :: _ => m.kind != .op who

/-- An operation that has to wait takes its place among the requests at the home; it waits at one home at a time. -/
def joinHome (lu : Nat) (who : HomeUser) (s : State) : State :=
  if (getDir s lu).waiting.any fun m => m.kind == .op who then s
  else
    let s := { s with dir := s.dir.map fun p =>
      (p.1, { p.2 with waiting := p.2.waiting.filter fun m => m.kind != .op who }) }
    let e := getDir s lu
    setDir lu { e with waiting := e.waiting ++ [{ kind := .op who, lu := lu, src := .home, dst := .home }] } s

/-- An operation has performed. -/
def leaveHome (lu : Nat) (who : HomeUser) (s : State) : State :=
  let e := getDir s lu
  if e.waiting.any fun m => m.kind == .op who then
    setDir lu { e with waiting := e.waiting.filter fun m => m.kind != .op who } s
  else s

/-- An operation at a home in its turn: `collect` says what it needs there. -/
def inTurn (lu : Nat) (who : HomeUser) (collect : State → State × Bool) (s : State) : State × Bool :=
  let s := pumpLine lu s
  if behind s lu who then (joinHome lu who s, false)
  else
    let (s, ok) := collect s
    if ok then (leaveHome lu who s, true) else (joinHome lu who s, false)

end Sys2Proof.Machine
end

