-- ==== Sys2Proof/Machine/Lease.lean ====
section
/-! DEFINITION. Coherence inside a die (spec/16): fills, write leases, update-only permission, renewals,
expiry, the placement of lines in the L1 (R242), writes at a home (R287), and discards (R273). -/

namespace Sys2Proof.Machine

/-- Cycles of the 1.8 GHz lease clock between two die timer values (R292). -/
def leaseCycles (t0 t1 : Nat) : Nat := (t1 - t0) * 9 / 5

/-- Granules of a line that have received a byte of a poisoned granule, those of the mask, become poisoned (R355). -/
def taintedLine (lu bad : Nat) (l : LineData) : LineData :=
  if bad = 0 then l else { l with pois := l.pois ||| granuleSet lu fun i => granuleMask bad i != 0 }

/-- The home writes bytes of its copy as an AMO does (R287): `wts` above every lease. Bytes of a poisoned source are
marked in `bad` (R355). -/
def homeWrite (lu data mask : Nat) (s : State) (bad : Nat := 0) : State :=
  let l := homeCopy s lu
  putHome lu (taintedLine lu bad (writtenLine lu l data mask)) (notePoisonWrites lu l mask s)

/-- The home writes more bytes of its copy in the same locked operation, which writes the line once: the timestamps
stand (R260). -/
def homeJoin (lu data mask : Nat) (s : State) : State :=
  let l := homeCopy s lu
  installHome lu (writtenLine lu l data mask) (fun s => homeStamps s lu) (notePoisonWrites lu l mask s)

/-! ## L1 placement (R242) -/

/-- The virtual side of an access: the tag and set of the address, the ASID and the global bit. -/
structure VTag where
  tag : Nat
  set : Nat
  asid : Nat
  global : Bool
  deriving DecidableEq, Repr

def vtagOf (va asid : Nat) (global : Bool) : VTag :=
  { tag := bitsGet va 13 35, set := bitsGet va 7 6, asid := asid, global := global }

def copyMatches (k : L1Copy) (v : VTag) : Bool :=
  k.vtag == v.tag && k.set == v.set && (k.global || k.asid == v.asid)

/-- The ways of a core's L1: its banks in cache mode. -/
def cacheWays (k : Core) : List Nat := (upTo 96).filter fun b => k.banks.getD b .scratch == .cache

/-- The record of a core's own hold on a line at the slice goes. -/
def withoutHolder (n : Nat) (h : Holder) : Holder :=
  match h with
  | .none => .none
  | .w x => if x.core = n then .none else .w x
  | .u cs => .u (cs.filter fun x => x.core != n)

/-- The slice still counts the core as a holder: a hold that has expired there is gone (R293). -/
def stillHolds (n : Nat) (h : Holder) : Bool :=
  match h with
  | .none => false
  | .w x => x.core == n
  | .u cs => cs.any fun x => x.core == n

/-- A U copy's partial is combined at the slice at once: into the base on the home die, into the die partial elsewhere
(R299, R309). -/
def combineEvicted (d lu : Nat) (p : Partial) (s : State) : State :=
  let l := getLine s d lu
  if d = homeDie lu then mergeHome lu l.tag p s
  else
    let s := rollFor d (fun s => (getLine s d lu).rts + 1) s
    let l := getLine s d lu
    setLine d lu { l with upd := joinPartial l.tag (updCount l.tag (luSize lu)) l.upd p
                          wts := l.rts + 1, rts := l.rts + 1 } s

/-- An L1 copy leaves: W is written back, U goes to the slice (R290, R299), the others are dropped; so is a copy whose
hold has expired at the slice (R293). -/
def evictCopy (c lu : Nat) (s : State) : State :=
  let d := coreDie c
  let n := (getCore s c).logical
  let k := getCopy s c lu
  let l := getLine s d lu
  if !stillHolds n l.holder then dropCopy c lu s
  else if k.st = .w then dropCopy c lu (recallLine d lu s)
  else if holdsPartial k then
    combineEvicted d lu k.upd (setLine d lu { l with holder := withoutHolder n l.holder } (dropCopy c lu s))
  else dropCopy c lu s

/-- Follow the replacement tree of a set to one of its leaves that may be taken: 32 leaves, one bit per inner node in
heap order; leaf i is the i-th bank in cache mode (log 12). -/
def plruVictim (bits : BitVec 32) (free : List Nat) : (depth node lo : Nat) → Nat
  | 0, _, lo => lo
  | n + 1, node, lo =>
    let half := 2 ^ n
    let present (a b : Nat) : Bool := free.any fun i => decide (a ≤ i) && decide (i < b)
    let right := bits.getLsbD node
    let goRight := if right then present (lo + half) (lo + 2 * half) else !present lo (lo + half)
    if goRight then plruVictim bits free n (2 * node + 1) (lo + half) else plruVictim bits free n (2 * node) lo

/-- Point the tree away from a way just used. -/
def plruTouch (way : Nat) : (depth node lo : Nat) → BitVec 32 → BitVec 32
  | 0, _, _, bits => bits
  | n + 1, node, lo, bits =>
    let half := 2 ^ n
    let bit : BitVec 32 := BitVec.ofNat 32 (2 ^ node)
    if way < lo + half then plruTouch way n (2 * node) lo (bits ||| bit)
    else plruTouch way n (2 * node + 1) (lo + half) (bits &&& ~~~bit)

/-- The units of a core's L1 in one way of one set. -/
def copiesIn (s : State) (c set way : Nat) : List Nat :=
  (copiesOf s c).filter fun x =>
    let k := getCopy s c x
    k.set == set && (k.way == way || k.way2 == some way)

/-- A free or freed way of a set for a new copy: the way's number (a bank). -/
def takeWay (c set : Nat) (avoid : Option Nat) (s : State) : Nat × State :=
  let k := getCore s c
  let ways := cacheWays k
  match ways.find? fun w => some w != avoid && (copiesIn s c set w).isEmpty with
  | some w => (w, s)
  | none =>
    let i := plruVictim (k.plru.getD set 0) ((upTo ways.length).filter fun i => some (ways.getD i 0) != avoid) 5 1 0
    let w := ways.getD i 0
    (w, (copiesIn s c set w).foldl (fun s x => evictCopy c x s) s)

/-- Note the use of a way. -/
def touchWay (c set way : Nat) (s : State) : State :=
  let k := getCore s c
  let i := ((cacheWays k).findIdx? fun w => w == way).getD 0
  setCore c { k with plru := k.plru.setIfInBounds set (plruTouch i 5 1 0 (k.plru.getD set 0)) } s

/-- Note the use of a copy: of its way, or of both ways of an ADD.BF16 partial (R296). -/
def touchCopy (c lu : Nat) (s : State) : State :=
  let k := getCopy s c lu
  let s := touchWay c k.set k.way s
  match k.way2 with
  | some w => touchWay c k.set w s
  | none => s

/-- Place a copy of a unit in the core's L1 under a virtual tag: a copy of the same physical line under another tag,
of either half of a host line, is written back or dropped first (R242). A host half shares the way of the other half
of its line. -/
def placeCopy (c lu : Nat) (v : VTag) (perms : Nat) (two : Bool) (s : State) : State :=
  let k0 := getCopy s c lu
  let same := k0.st != .i && copyMatches k0 v
  let s := if k0.st != .i && !same then evictCopy c lu s else s
  let mate := if lu % 2 = 0 then lu + 1 else lu - 1
  let paired := isHostLu lu && (getCopy s c mate).st != .i
  let together := paired && copyMatches (getCopy s c mate) v
  let s := if paired && !together then evictCopy c mate s else s
  let (w, s) : Nat × State :=
    if same then (k0.way, s)
    else if together then ((getCopy s c mate).way, s)
    else takeWay c v.set none s
  let (w2, s) : Option Nat × State :=
    if two then
      match (if same then k0.way2 else none) with
      | some x => (some x, s)
      | none => let (x, s) := takeWay c v.set (some w) s; (some x, s)
    else (none, s)
  touchCopy c lu
    (setCopy c lu { getCopy s c lu with vtag := v.tag, set := v.set, asid := v.asid, global := v.global,
                                        perms := perms, way := w, way2 := w2 } s)

/-- Ask the slice, and keep the place of the copy whatever the request did to the old one. -/
def keepPlace (c lu : Nat) (ask : State → State × Bool) (s : State) : State × Bool :=
  let p := getCopy s c lu
  let (s, ok) := ask s
  let k := getCopy s c lu
  (setCopy c lu { k with vtag := p.vtag, set := p.set, asid := p.asid, global := p.global
                         perms := p.perms, way := p.way, way2 := p.way2 } s, ok)

/-! ## Requests of a core to its die slice -/

/-- The lease that a grant or renewal now gives a core (R292, R294). -/
def leaseNow (s : State) (c : Nat) : Lease :=
  { core := (getCore s c).logical, granted := timerOf s (coreDie c), window := (getDie s (coreDie c)).leasewin }

/-- Another core's write lease of the line is recalled before the slice serves core c (R291). -/
def recallOthers (c lu : Nat) (s : State) : State :=
  let d := coreDie c
  match (getLine s d lu).holder with
  | .w x => if x.core = (getCore s c).logical then s else recallLine d lu s
  | _ => s

/-- A request of the die slice for a unit has been sent since the state before: a level-2 miss, which counts for the
hart whose access it is, when there is one (R378). -/
def sliceMissOf (n : Option Nat) (d lu : Nat) (before s : State) : State :=
  match n with
  | some n => if (getLine before d lu).st = .i ∧ (getLine s d lu).st ≠ .i ∧ n < 4608 then perfAddOf n 4 1 s else s
  | none => s

/-- The same for the request of core c that is in flight. -/
def sliceMiss (c lu : Nat) (before s : State) : State :=
  sliceMissOf (getCopy before c lu).asker (coreDie c) lu before s

/-- A line has been delivered to the access that has asked for it (R378). -/
def lineDelivered (c lu : Nat) (s : State) : State :=
  let k := getCopy s c lu
  let s := match k.asker, k.path with
    | some n, some i => perfAddOf n i 1 s
    | _, _ => s
  setCopy c lu { k with asker := none, path := none } s

/-- The logical lease that a fill or renewal of core c gives a line (R286). -/
def grantRts (s : State) (c lu : Nat) : Nat :=
  let l := getLine s (coreDie c) lu
  max l.rts (max (l.wts + 16) ((getCore s c).pts + 16))

/-- The slice serves a fill or renewal of core c (R286): the new state, and whether the copy is now S (or
W, for the holder itself). -/
def fillRequest (c lu : Nat) (s : State) : State × Bool :=
  let d := coreDie c
  let s := recallOthers c lu s
  let (s', ok) := ensureRead d lu (getCopy s c lu).tenant s
  let s := sliceMiss c lu s s'
  if !ok then (s, false)
  else
    let s := if (getCopy s c lu).st = .w then s else rollFor d (fun s => grantRts s c lu) s
    let l := getLine s d lu
    let x := leaseNow s c
    let k := getCopy s c lu
    if k.st = .w then
      -- the holder itself renews: its dirty bytes are written back and its lease extended (R292)
      (setCopy c lu { k with line := { k.line with dirty := 0 }, granted := x.granted, window := x.window }
        (setLine d lu { l with line := absorb (luSize lu) l.line k.line, wts := k.wts, rts := max l.rts k.rts
                               holder := .w x, used := s.tick } (tickUp s)), true)
    else
      let rts := grantRts s c lu
      (setCopy c lu { k with st := .s, line := { l.line with dirty := 0 }, wts := l.wts, rts := rts
                             granted := x.granted, window := x.window, upd := {}, tag := 0, ro := false }
        (setLine d lu { l with rts := rts, holder := .none, used := s.tick } (tickUp s)), true)

/-- The slice serves a read-only fill of core c, which takes no lease (R258): whether the copy is now O. -/
def fillReadOnly (c lu : Nat) (s : State) : State × Bool :=
  let d := coreDie c
  let s := recallOthers c lu s
  let (s', ok) := ensureRead d lu (getCopy s c lu).tenant s
  let s := sliceMiss c lu s s'
  if !ok then (s, false)
  else
    let l := getLine s d lu
    let k := getCopy s c lu
    (setCopy c lu { k with st := .o, line := { l.line with dirty := 0 }, wts := l.wts, rts := l.rts
                           upd := {}, tag := 0, ro := false, aged := false }
      (setLine d lu { l with used := s.tick } (tickUp s)), true)

/-- The slice serves a GetW of core c (R287): whether the copy is now W. -/
def getWrite (c lu : Nat) (s : State) : State × Bool :=
  let d := coreDie c
  let s := recallOthers c lu s
  let (s', ok) := ensureWrite d lu (getCopy s c lu).tenant s
  let s := sliceMiss c lu s s'
  if !ok then (s, false)
  else
    let l := getLine s d lu
    let k := getCopy s c lu
    let x := leaseNow s c
    if k.st = .w then (s, true)
    else
      (setCopy c lu { k with st := .w, line := { l.line with dirty := 0 }, wts := l.wts, rts := l.rts
                             granted := x.granted, window := x.window, upd := {}, tag := 0, ro := false }
        (setLine d lu { l with holder := .w x, used := s.tick } (tickUp s)), true)

/-- A core that asks for U gives up what it holds otherwise: W is written back, S and O are dropped (R290, R296). -/
def clearForUpdate (c lu : Nat) (s : State) : State :=
  let gone (s : State) : State := setCopy c lu { getCopy s c lu with st := .i, line := {} } s
  match (getCopy s c lu).st with
  | .w => gone (recallLine (coreDie c) lu s)
  | .s | .o => gone s
  | _ => s

/-- The slice serves a GetU of core c under a tag (R291, R296): whether the copy is now U. -/
def getUpdate (c lu tag : Nat) (s : State) : State × Bool :=
  let d := coreDie c
  let s := recallLine d lu (clearForUpdate c lu s)
  let (s', ok) := ensureUpdate d lu tag (getCopy s c lu).tenant s
  let s := sliceMiss c lu s s'
  if !ok then (s, false)
  else
    let l := getLine s d lu
    let x := leaseNow s c
    let k := getCopy s c lu
    if k.st = .u ∧ k.tag = tag then (s, true)
    else
      let cs := match l.holder with | .u cs => cs.filter (fun y => y.core != x.core) | _ => []
      (setCopy c lu { k with st := .u, tag := tag, line := {}, upd := {}, granted := x.granted, window := x.window, ro := false }
        (setLine d lu { l with holder := .u (cs ++ [x]), used := s.tick } (tickUp s)), true)

/-! ## Requests in flight and their order at the slice (R290, R291) -/

/-- What an access asks the slice for. -/
inductive Ask where
  | read | readOnly | write
  | update (tag : Nat)
  deriving DecidableEq, Repr

/-- The copy while the request is on its way. A partial stays with it until the merge takes it. -/
def asking (a : Ask) (k : L1Copy) : L1Copy :=
  match a with
  | .read => { k with st := .is, ro := false }
  | .readOnly => { k with st := .is, ro := true }
  | .write => { k with st := .iw }
  | .update tag => { k with st := .iu, tag := tag }

/-- The slice serves the request of core c that is in flight; a request whose copy has gone is forgotten. -/
def serveCopy (c lu : Nat) (s : State) : State × Bool :=
  let k := getCopy s c lu
  let serve (ask : State → State × Bool) : State × Bool :=
    let (s, ok) := keepPlace c lu ask s
    (if ok then lineDelivered c lu s else s, ok)
  match k.st with
  | .is => serve (if k.ro then fillReadOnly c lu else fillRequest c lu)
  | .iw => serve (getWrite c lu)
  | .iu => serve (getUpdate c lu k.tag)
  | _ => (s, true)

/-- The slice serves a renewal of core c (R292): S and W as the request of R286, U only extends. It refuses one for a
holder it has expired, and the copy is dropped. -/
def serveRenewal (c lu : Nat) (s : State) : State × Bool :=
  let d := coreDie c
  let k := getCopy s c lu
  let l := getLine s d lu
  let x := leaseNow s c
  match k.st with
  | .s => keepPlace c lu (fillRequest c lu) s
  | .w => if stillHolds x.core l.holder then keepPlace c lu (fillRequest c lu) s else (dropCopy c lu s, true)
  | .u =>
    match l.holder with
    | .u cs =>
      if stillHolds x.core l.holder then
        (setCopy c lu { k with granted := x.granted, window := x.window }
          (setLine d lu { l with holder := .u (cs.map fun y => if y.core = x.core then x else y) } s), true)
      else (dropCopy c lu s, true)
    | _ => (dropCopy c lu s, true)
  | _ => (s, true)

/-- The slice serves the read of a walker of agent n (R387): a write lease is recalled, and the slice may read the line.
A miss counts for the hart whose access it is (R378). -/
def serveWalker (n d lu : Nat) (s : State) : State × Bool :=
  let s := recallLine d lu s
  let (s', ok) := ensureRead d lu (tenantOfAgent s n) s
  (sliceMissOf (some n) d lu s s', ok)

/-- The places of a walker's read and of a renewal among the requests that wait at a slice. -/
def walkerPlace (n : Nat) : Nat := 2 ^ 10 + n
def renewalPlace (c : Nat) : Nat := 2 ^ 13 + c

/-- The slice serves the request that holds a place. -/
def servePlace (x d lu : Nat) (s : State) : State × Bool :=
  if 2 ^ 13 ≤ x then serveRenewal (x - 2 ^ 13) lu s
  else if 2 ^ 10 ≤ x then serveWalker (x - 2 ^ 10) d lu s
  else serveCopy x lu s

/-- The requests that wait at a die slice are served one at a time in the order in which they arrived (R291). -/
def serveQueue : (fuel d lu : Nat) → State → State
  | 0, _, _, s => s
  | n + 1, d, lu, s =>
    match (getLine s d lu).queue with
    | [] => s
    | x :: _ =>
      let (s, ok) := servePlace x d lu s
      if ok then
        let l := getLine s d lu
        serveQueue n d lu (setLine d lu { l with queue := l.queue.drop 1 } s)
      else s

/-- Every core of a die can wait twice, and every hart and channel once. -/
def queueFuel : Nat := 1024

/-- A request joins the queue of its slice under its place. -/
def joinQueue (x d lu : Nat) (s : State) : State :=
  let l := getLine s d lu
  if l.queue.contains x then s else setLine d lu { l with queue := l.queue ++ [x] } s

/-- The requests at a slice are served, after those whose fills of the same set arrived earlier (R247). -/
def serveSlice (d lu : Nat) (s : State) : State :=
  serveQueue queueFuel d lu ((fillsAt s d (lu, true)).foldl (fun s x => serveQueue queueFuel d x s) s)

/-- A request takes its place at a slice: the state, and whether it has been served. -/
def sliceTurn (x d lu : Nat) (s : State) : State × Bool :=
  let s := serveSlice d lu (joinQueue x d lu s)
  (s, !(getLine s d lu).queue.contains x)

/-- The requests at core c's slice are served, and core c's own is no longer in flight. -/
def awaitReply (c lu : Nat) (s : State) : State × Bool :=
  let s := serveSlice (coreDie c) lu s
  (s, !inFlight (getCopy s c lu))

/-- Place the copy and ask the slice on behalf of a hart, for a vector access on a path. -/
def placedRequest (c lu : Nat) (v : VTag) (perms : Nat) (two : Bool) (a : Ask) (n : Nat) (path : Option Nat) (s : State) :
    State × Bool :=
  let s := placeCopy c lu v perms two s
  let s := match a with | .update _ => clearForUpdate c lu s | _ => s
  awaitReply c lu (joinQueue c (coreDie c) lu
    (setCopy c lu { asking a (getCopy s c lu) with asker := some n, path := path, tenant := tenantOf s c } s))

/-! ## Physical leases (R292, R293) -/

/-- A renewal at half a window takes its place at the slice (R291); while it waits there it leaves the copy as it is. -/
def renewLease (c lu : Nat) (s : State) : State := (sliceTurn (renewalPlace c) (coreDie c) lu s).1

/-- The lost-update flag of every region table entry whose pinned frames contain an address (R293); the
regions that run under the ASID of one report it at their end (R398). -/
def markLost (pa : Nat) (s : State) : State :=
  let hit (e : RegionEntry) : Bool := e.frames.contains (pa / 4096)
  let asids := (s.regionTable.filter fun p => hit p.2).map fun p => p.2.asid
  { s with
    regionTable := s.regionTable.map fun p => if hit p.2 then (p.1, { p.2 with lost := true }) else p
    regions := s.regions.map fun p =>
      if (p.2.state == 1 || p.2.state == 5) && asids.contains p.2.asid.toNat then (p.1, { p.2 with lost := true }) else p }

/-- One holder's window lapses at the die slice (R293). -/
def expireHolder (d lu n : Nat) (s : State) : State :=
  let l := getLine s d lu
  let isU := match l.holder with | .u _ => true | _ => false
  let c := (coreOfLogical s d n).getD (72 * d)
  let s := setLine d lu { l with holder := withoutHolder n l.holder } s
  let s := if isU then countErr 6 s else s
  let s := markLost (luBase lu) s
  let s := postErr d 5 (unitOfCore c) (luBase lu) 6 none none (countErr 3 s)
  raiseIrq (supervisorHart s d) 0x21 (word (luBase lu)) s

/-- The full window of a hold has lapsed at the slice. -/
def leaseOver (s : State) (d : Nat) (x : Lease) : Bool := decide (x.window ≤ leaseCycles x.granted (timerOf s d))

/-- Every W or U holder of the line whose full window has lapsed expires (R293). -/
def leaseExpiry (d lu : Nat) (s : State) : State :=
  match (getLine s d lu).holder with
  | .w x => if leaseOver s d x then expireHolder d lu x.core s else s
  | .u cs => cs.foldl (fun s x => if leaseOver s d x then expireHolder d lu x.core s else s) s
  | .none => s

/-! ## DISCARD of a unit (R273, R308) -/

/-- The cores of the package that hold an L1 copy of a unit. -/
def copyHolders (s : State) (lu : Nat) : List Nat :=
  (s.l1.filter fun p => p.1 % 2 ^ 44 == lu && p.2.st != .i).map fun p => p.1 / 2 ^ 44

/-- The unit's dirty bytes stand somewhere in the package. -/
def dirtyAnywhere (s : State) (lu : Nat) : Bool :=
  (match (getDir s lu).copy with | some l => l.dirty != 0 | none => false) ||
  (upTo 8).any (fun d => (getLine s d lu).st != .i && (getLine s d lu).line.dirty != 0) ||
  (copyHolders s lu).any fun c => (getCopy s c lu).st == .w && (getCopy s c lu).line.dirty != 0

/-- Update-only partials that a discard of the unit drops: those of cores, and those the dies have gathered. -/
def partialsHeld (s : State) (lu : Nat) : Nat :=
  ((copyHolders s lu).filter fun c => holdsPartial (getCopy s c lu)).length +
  ((upTo 8).filter fun d => (getLine s d lu).st == .u && (getLine s d lu).upd.touched != 0).length

def countTimes (i n : Nat) (s : State) : State := (upTo n).foldl (fun s _ => countErr i s) s

/-- Every L1 copy of a unit goes; a request on its way goes on, without a partial. What the copies had seen of logical
time stays with their slices (R305). -/
def dropCopies (lu : Nat) (s : State) : State :=
  (copyHolders s lu).foldl (fun s c =>
    let k := getCopy s c lu
    let s := raiseMts (coreDie c) (sliceOf lu) k.rts s
    if inFlight k then setCopy c lu { k with line := {}, upd := {} } s else dropCopy c lu s) s

/-- The dies that the directory of a unit records: sharers, owner, or holders of partials. -/
def recordedDies (e : DirEntry) : List Nat :=
  e.sharers ++ (if e.st = .x ∨ e.st = .o then [e.owner] else [])

/-- DISCARD of a unit when it reaches its home (R273, R308): the new state, and whether it is done. -/
def discardLine (lu : Nat) (s : State) : State × Bool :=
  let s := finishWrites lu (pump pumpFuel lu s)
  let e := getDir s lu
  if homeBusy s lu then (s, false)
  else
    let s := if dirtyAnywhere s lu then countErr 5 s else s
    let s := countTimes 6 (partialsHeld s lu) s
    let s := dropCopies lu s
    let ds := recordedDies e
    let s := if ds.isEmpty then s else
      pumpCollect pumpFuel lu (sendInvs lu 2 ds .home
        (setDir lu { getDir s lu with awaited := ds.length, pending := .none, st := .i, sharers := [] } s))
    let s := dropHomeCopy lu s
    let e := getDir s lu
    let s := setDir lu { e with st := .i, sharers := [], tag := 0, hostRight := .none, merged := [] } s
    (if e.hostRight = .none then s else { s with cxl := s.cxl ++ [(lu - hostUnits, 3)] }, true)

/-- The discards of a unit that are on their way are tried; a hart's own accesses to the unit wait for them (R329). -/
def tryDiscards (lu : Nat) (s : State) : State :=
  if s.discards.any fun x => x.1 == lu then
    let (s, ok) := discardLine lu s
    if ok then { s with discards := s.discards.filter fun x => x.1 != lu } else s
  else s

/-- A discard of a unit is sent to its home on behalf of a hart. -/
def sendDiscard (n lu : Nat) (s : State) : State :=
  tryDiscards lu (if s.discards.contains (lu, n) then s else { s with discards := s.discards ++ [(lu, n)] })

end Sys2Proof.Machine
end

