-- ==== Sys2Proof/Machine/Mmio.lean ====
section
/-! DEFINITION. The registers of BAR0 and the MMIO window (spec/12, R425): reading one, and the writes a
supervisor hart may make. The host's own writes stand with the host's events. -/

namespace Sys2Proof.Machine

/-- One more ignored access (HOSTERR, R221); the 32-bit count wraps (log 14). -/
def hostErr (s : State) : State := { s with hosterr := (s.hosterr + 1) % 2 ^ 32 }

/-- The number of harts a unit code's row and column name: the core of die d (R224, kind 1). -/
def coreOfCode (d code : Nat) : Nat := 72 * d + bitsGet code 4 3 * 9 + bitsGet code 0 4

/-- FQSEL's value names a core: bits beyond the row and column of kind 1 are zero, the column is 0 to 8 (R228). DESIGN
CHOICE (log 64): of any other, FQCNT reads 0 and FQREC zeros. -/
def selNamesCore (sel : Nat) : Bool := decide (bitsGet sel 0 4 < 9) && decide (sel < 128)

/-- A word of a record. -/
def recWord (r : Rec4) (i : Nat) : Word :=
  word (match i with | 0 => r.w0 | 1 => r.w1 | 2 => r.w2 | _ => r.w3)

/-- The word of the head record of a queue; 0 for an empty one (R226). -/
def headWord (l : List Rec4) (i : Nat) : Word :=
  match l with
  | [] => 0
  | r :: _ => recWord r i

/-- FWSTAT (R425). -/
def fwStat (s : State) : Nat :=
  s.fwRecovery.toNat * 2 ^ 16 + s.flash.lastBank * 2 ^ 8 + (if s.fwBusy then 1 else s.fwResult)

/-- A register of the global block (R223, R425). -/
def globalRead (off : Nat) (s : State) : Nat :=
  if off = 0x0 then 0x7196 * 2 ^ 48 + 0x00A0 * 2 ^ 32
  else if off = 0x8 then s.hosterr
  else if off = 0x100 then s.pwrlim
  else if off = 0x108 then s.pwrIo * 2 ^ 32 + s.pwrStacks * 2 ^ 16 + s.pwrDies
  else if off = 0x110 then s.clock
  else if off = 0x208 then s.snapId
  else if off = 0x210 then s.snapSel
  else if off = 0x300 then s.bootUnit * 2 ^ 16 + s.bootReason * 2 ^ 8 + s.bootPhase
  else if off = 0x308 then s.fwOp
  else if off = 0x310 then s.fwaddr
  else if off = 0x318 then fwStat s
  else if off = 0x320 then s.bar2off * 2 ^ 30
  else if off = 0x328 then s.fabid
  else if 0x400 ≤ off ∧ off < 0x500 then (tgetD s.snapData (s.snapSel * 32 + (off - 0x400) / 8) 0).toNat
  else 0

/-- LANEMAP of a core (R231). -/
def laneMap (s : State) (c : Nat) : Nat :=
  let k := getCore s c
  k.retired.toNat * 2 ^ 23 + k.logical * 2 ^ 16 + k.retiredGroups.toNat

/-- A register of a die block (R223, R225 to R231, R234). -/
def dieRead (d off : Nat) (s : State) : Nat :=
  let k := getDie s d
  if off = 0x000 ∨ off = 0x008 then k.launch
  else if off = 0x010 then k.accepted % 2 ^ 32 * 2 ^ 32 + k.code * 2 ^ 16 + k.overrun.toNat
  else if off = 0x018 then k.ldone
  else if off = 0x020 then k.schedent.toNat
  else if off = 0x028 then k.schedpt.toNat
  else if off = 0x100 then k.errOwn.toNat
  else if off = 0x108 then k.errs.length
  else if 0x120 ≤ off ∧ off < 0x140 then (headWord k.errs ((off - 0x120) / 8)).toNat
  else if off = 0x200 then k.fqsel
  else if off = 0x208 then if selNamesCore k.fqsel then (getCore s (coreOfCode d k.fqsel)).faults.length else 0
  else if 0x220 ≤ off ∧ off < 0x240 then
    if !selNamesCore k.fqsel then 0 else (headWord (getCore s (coreOfCode d k.fqsel)).faults ((off - 0x220) / 8)).toNat
  else if off = 0x300 then k.bistUnit
  else if off = 0x308 then k.bistRunning.toNat * 2 ^ 32 + k.bistResult * 2 ^ 24 + k.bistStatUnit
  else if 0x400 ≤ off ∧ off < 0x640 then laneMap s (72 * d + (off - 0x400) / 8)
  else if 0x800 ≤ off ∧ off < 0x980 then tgetD k.retiredWays ((off - 0x800) / 8) 0
  else if off = 0xA00 then k.retreq
  else if off = 0xB00 then k.scrub0
  else if off = 0xB08 then k.scrub1
  else if off = 0xB10 then k.retcfg
  else if off = 0xB20 then (spareCount - k.spent0) * 2 ^ 32 + k.rowsRetired0
  else if off = 0xB28 then (spareCount - k.spent1) * 2 ^ 32 + k.rowsRetired1
  else if off = 0xB30 then k.retrow
  else if off = 0xC00 then k.tempd
  else if off = 0xC08 then k.temps
  else 0

/-- PORTSTAT and PORTCTL of a port (R233). -/
def portRead (p : Nat) (ctl : Bool) (s : State) : Nat :=
  let k := tgetD s.ports p {}
  if ctl then k.enable.toNat else k.retries * 2 ^ 32 + k.peerPort * 2 ^ 24 + k.peerDev * 2 ^ 16 + k.state

/-- The register at an aligned BAR0 offset (R220). -/
def regRead (off : Nat) (s : State) : Word :=
  word (if off < 0x100000 then globalRead off s
    else if 0x1000000 ≤ off ∧ off < 0x1800000 then
      dieRead ((off - 0x1000000) / 0x100000) (off % 0x100000) s
    else if 0x2000000 ≤ off ∧ off < 0x2000480 then portRead ((off - 0x2000000) / 16) (off % 16 = 8) s
    else 0)

/-- A device load that takes the mailbox (LTAKE, R225): the die, when the offset is one's LTAKE. -/
def ltakeDie (off : Nat) : Option Nat :=
  if 0x1000000 ≤ off ∧ off < 0x1800000 ∧ off % 0x100000 = 8 then some ((off - 0x1000000) / 0x100000) else none

/-- LTAKE: the mailbox becomes empty. -/
def takeLaunch (d : Nat) (s : State) : State := setDie d { getDie s d with launch := 0 } s

/-- A read of n bytes at a BAR0 offset (R221); `device` tells a supervisor hart's load from a host read. -/
def mmioRead (device : Bool) (off n : Nat) (s : State) : Nat × State :=
  if n = 8 ∧ off % 8 = 0 then
    let v := (regRead off s).toNat
    match ltakeDie off with
    | some d => (v, if device then takeLaunch d s else s)
    | none => (v, s)
  else if n = 4 ∧ off % 4 = 0 then
    (bitsGet (regRead (off - off % 8) s).toNat (8 * (off % 8)) 32, s)
  else (0, hostErr s)

/-- The base of a die block. -/
def dieBlock (d : Nat) : Nat := 0x1000000 + d * 0x100000

/-- The host port trains from phase 1 onward; before that no access of the host to BAR0 reaches the part (R426). -/
def hostLink (s : State) : Bool := s.bootPhase != 0

/-- A host write of n bytes at a BAR0 offset, whose effect is given: it takes effect now, or after the BAR2 writes that
arrived before it and still wait (R222). -/
def inHostOrder (off n val : Nat) (effect : State → State) (s : State) : State :=
  if !hostLink s then s
  else if s.posted.isEmpty then effect s
  else { s with posted := s.posted ++ [{ bar2 := false, off := off, bytes := n, val := val }] }

/-- A write of PWRLIM (R223): 1500 to 4200 W. -/
def writePwrlim (val : Nat) (s : State) : State :=
  if 1500 ≤ val % 2 ^ 16 ∧ val % 2 ^ 16 ≤ 4200 then { s with pwrlim := val % 2 ^ 16 } else hostErr s

/-- A write of FABID (R425): ignored while any port is up. -/
def writeFabid (val : Nat) (s : State) : State :=
  if s.ports.any (fun p => p.2.state == 2) then s
  else if val % 2 ^ 7 ≤ 72 ∨ val % 2 ^ 7 = 0x7F then { s with fabid := val % 2 ^ 7 } else hostErr s

/-- A write of ERROWN (R227): MSI-X 8 at once on a change to the host with a record queued. -/
def writeErrown (d : Nat) (b : Bool) (s : State) : State :=
  let k := getDie s d
  let s1 := setDie d { k with errOwn := b } s
  if b && !k.errOwn && !k.errs.isEmpty then signalMsix 8 s1 else s1

/-- A write of LDONE with the next count (R225, R235): the firmware's answer to a notice that a root has ended (R403). -/
def writeLdone (d val : Nat) (s : State) : State :=
  let k := getDie s d
  signalMsix d (setDie d { k with ldone := val % 2 ^ 64, notices := k.notices - 1 } s)

/-- A supervisor hart's write of a register: the fields marked S (R223, R225, R227, R425). The others are
read-only to it, or the host's: ignored. DESIGN CHOICE (log 64): bits 0 and 1 of a SCHEDENT that is no multiple of 4
are written as 0. -/
def deviceRegWrite (off val : Nat) (s : State) : State :=
  if off = 0x100 then writePwrlim val s
  else if off = 0x328 then writeFabid val s
  else if 0x1000000 ≤ off ∧ off < 0x1800000 then
    let d := (off - 0x1000000) / 0x100000
    let k := getDie s d
    let r := off % 0x100000
    if r = 0x010 then setDie d { k with code := bitsGet val 16 8 } s
    else if r = 0x018 then writeLdone d val s
    else if r = 0x020 then firmwareReady (setDie d { k with schedent := word val &&& ~~~3, entSet := true } s)
    else if r = 0x028 then firmwareReady (setDie d { k with schedpt := word val &&& 0xFFFFFFFFF000, ptSet := true } s)
    else if r = 0x100 then writeErrown d (bitAt val 0) s
    else s
  else s

/-- A write of n bytes by a supervisor hart at a BAR0 offset (R221). -/
def mmioWrite (off n val : Nat) (s : State) : State :=
  if n = 8 ∧ off % 8 = 0 then deviceRegWrite off val s else hostErr s

end Sys2Proof.Machine
end

