-- ==== Sys2Proof/Machine/Mem.lean ====
section
/-! DEFINITION. One access to memory, wherever it is performed (R248): the core SRAM window (R238),
translation (R385 to R388), the L1 (R286 to R300), the home (R308), a peer (R312) or the host, and MMIO. An
access answers a value, or that it must wait, or the fault it takes; a wait leaves its requests in flight. -/

namespace Sys2Proof.Machine

/-- How an access ends without a value. -/
inductive Stop where
  /-- It cannot be performed yet. -/
  | wait
  /-- It faults with a cause at an address (R262). -/
  | fault (cause va : Nat)
  deriving DecidableEq, Repr

/-- An access: it changes the state and answers a value or a stop. -/
abbrev Acc (α : Type) := ExceptT Stop (StateM State) α

/-- Run an access. -/
def runAcc {α : Type} (m : Acc α) (s : State) : Except Stop α × State := (ExceptT.run m).run s

/-- A request to the coherence machinery: wait unless it is granted. -/
def demand (f : State → State × Bool) : Acc Unit := do
  let s ← get
  let (s', ok) := f s
  set s'
  if ok then pure () else throw .wait

/-- Who accesses: a core, a hart number (or a number of a channel of its own), and the translation; for a vector
access the performance counter of the path its lines take (R244, R378). `locked` marks an access of an operation that
holds its line at the home already, and `again` one that has written it (R260); `pages` are translations that stand for the whole of a block (R182). -/
structure Who where
  core : Nat
  hart : Nat
  asid : Nat
  root : Nat
  priv : Bool
  path : Option Nat := none
  locked : Bool := false
  again : Bool := false
  pages : List MtbEntry := []
  deriving DecidableEq, Repr

/-- The hart whose turn it is; after a scheduler entry ASID 0 and the tables of SCHEDPT (R343). -/
def currentWho (s : State) : Who :=
  { core := curCore s, hart := s.cur
    asid := if schedBit s.h then 0 else s.h.asid.toNat
    root := (if schedBit s.h then (getDie s (curDie s)).schedpt else s.h.ptbase).toNat &&& 0xFFFFFFFFF000
    priv := isSuper s.h }

/-- Kinds of access, for translation and permission (R386). -/
inductive Kind where
  | load | store | amo | fetch
  deriving DecidableEq, Repr

/-- The permissions a kind needs: 1 R, 2 W, 4 X. -/
def Kind.need : Kind → Nat
  | .load => 1
  | .store => 2
  | .amo => 3
  | .fetch => 4

/-- The page fault of a kind (R386). -/
def Kind.pageFault : Kind → Nat
  | .load => 0x08
  | .store => 0x09
  | .amo => 0x09
  | .fetch => 0x0A

/-! ## Translation -/

/-- Bits [63:48] equal bit 47 (R237). -/
def canonical (va : Nat) : Bool := bitsGet va 47 17 == 0 || bitsGet va 47 17 == 2 ^ 17 - 1

/-- A read of a PTE by the walker through the level-2 cache, never through an L1 (R387): the die slice's
line. A miss there counts for the hart whose access it is (R378). -/
def sliceRead (w : Who) (lu : Nat) : Acc LineData := do
  let d := coreDie w.core
  demand (sliceTurn (walkerPlace w.hart) d lu)
  modify fun s => setLine d lu { getLine s d lu with used := s.tick } (tickUp s)
  pure (getLine (← get) d lu).line

/-- An uncorrectable granule is met: it is counted once (R264). -/
def countGranules (gs : List Nat) (s : State) : State := gs.eraseDups.foldl (fun s _ => countErr 1 s) s

/-- The record of a read that delivers poison (R264), naming an address in the granule. -/
def uncorrRecord (d pa : Nat) (element lane : Option Nat) (s : State) : State :=
  postErr d 2 (unitOfStack (stackOf pa)) pa (syndromeOf s (pa / 32)) element lane s

/-- The scalar side of the turn's hart accesses, and earlier queued instructions have not completed: its fault, with
all that goes with it, comes after them (R68). -/
def scalarEarly (w : Who) (s : State) : Bool :=
  w.hart == s.cur && s.h.performing.isNone && queueBusy s.h

/-- A leaf: some permission is set. -/
def pteLeaf (pte : Nat) : Bool := bitsGet pte 1 3 != 0

def pteFrame (pte : Nat) : Nat := bitsGet pte 12 36 * 4096

/-- The window of a frame allows a leaf of the SL and CD bits given (R386). -/
def leafWindowOk (pte : Nat) : Bool :=
  match windowOf (pteFrame pte) with
  | .outside => false
  | .stackLocal => bitAt pte 7 && !bitAt pte 8
  | .host => bitAt pte 8 && !bitAt pte 7
  | _ => !bitAt pte 7 && !bitAt pte 8

/-- Bytes mapped by a leaf at a level. -/
def pageSize (level : Nat) : Nat := if level = 1 then 2 ^ 30 else if level = 2 then 2 ^ 21 else 2 ^ 12

/-- A walk treats the PTE as invalid (R386). -/
def pteInvalid (level pte : Nat) : Bool :=
  !bitAt pte 0 || (bitAt pte 2 && !bitAt pte 1) || bitsGet pte 48 16 != 0 || bitsGet pte 10 2 != 0 ||
  (if pteLeaf pte then
    level == 0 || pteFrame pte % pageSize level != 0 || !leafWindowOk pte
  else
    level == 3 ||
    (match windowOf (pteFrame pte) with
     | .interleaved | .stackLocal | .host => false
     | _ => true))

/-- The cause of a valid leaf that does not allow the access: R, W, X, MMIO with NC = 0, MMIO from user
mode, a fetch from MMIO (R386, R108). -/
def leafRefuses (w : Who) (kind : Kind) (pte : Nat) : Bool :=
  (bitsGet pte 1 3 &&& kind.need) != kind.need ||
  (windowOf (pteFrame pte) == .mmio && (!bitAt pte 9 || !w.priv || kind == .fetch))

/-- Walk the tables from a level: the level, the leaf and the leaf's address (R386, R387). The record of an
uncorrectable PTE names the PTE. -/
def walkFrom (w : Who) (va : Nat) (kind : Kind) : (fuel level table : Nat) → Acc (Nat × Nat × Nat)
  | 0, _, _ => throw (.fault kind.pageFault va)
  | n + 1, level, table => do
    let pa := table + 8 * bitsGet va (39 - 9 * level) 9
    let l ← sliceRead w (luOf pa)
    let off := pa - luBase (luOf pa)
    if bitAt l.pois (off / 32) then do
      if scalarEarly w (← get) then throw .wait
      modify fun s => uncorrRecord (homeDie (luOf pa)) pa none none (countErr 1 s)
      throw (.fault kind.pageFault va)
    else
      let pte := bitsGet l.data (8 * off) 64
      if pteInvalid level pte then throw (.fault kind.pageFault va)
      else if pteLeaf pte then pure (level, pte, pa)
      else walkFrom w va kind n (level + 1) (pteFrame pte)

/-- The reply of an atomic moves the requester's clock (R287). -/
def passClock (c lu : Nat) (s : State) : State :=
  let k := getCore s c
  setCore c { k with pts := max k.pts (getDir s lu).wts } s

/-- The queued entry whose access a hart's is, for its place among those that wait at a home. -/
def queuedOf (w : Who) (s : State) : Option Nat := if w.hart = s.cur then s.h.performing else none

/-- Collect a unit at its home for an operation there, in its turn (R291, R308); an operation that holds the line goes
on at once. -/
def atHome (w : Who) (lu : Nat) (write : Bool) (touch : Nat) : Acc Unit :=
  if w.locked then pure ()
  else demand fun s =>
    inTurn lu (.agent w.hart (queuedOf w s)) (homeFetchAt lu write touch (tenantOfAgent s w.hart)) s

/-- An atomic OR into a PTE at its home slice for a core's walk (R387), timestamped as an AMO's (R287). -/
def setPteBits (w : Who) (pa bits : Nat) : Acc Unit := do
  let lu := luOf pa
  let c := w.core
  atHome { w with locked := false } lu true (halvesOf (pa - luBase lu) 8)
  modify fun s =>
    let l := homeCopy s lu
    let off := pa - luBase lu
    passClock c lu (homeWrite lu (l.data ||| bits <<< (8 * off)) (maskOf off 8) s)

def mtbMatches (e : MtbEntry) (asid va : Nat) : Bool :=
  decide (bitsGet va 12 36 * 4096 / pageSize e.level = e.vpn * 4096 / pageSize e.level) &&
  (e.asid == asid || bitAt e.pte 6)

/-- Install an entry as the most recently used; at most one per page, size and ASID, and 512 in all
(R388). -/
def mtbInstall (c : Nat) (e : MtbEntry) (s : State) : State :=
  let k := getCore s c
  let l := k.mtb.filter fun x => !(x.vpn == e.vpn && x.level == e.level && (x.asid == e.asid || bitAt x.pte 6))
  let l := l ++ [e]
  setCore c { k with mtb := l.drop (l.length - 512) } s

/-- A walk that fills the MTB: A set, and D for a write (R387). Whoever walks waits at no home. -/
def walk (w : Who) (va : Nat) (kind : Kind) : Acc MtbEntry := do
  modify (leaveHomes w.hart)
  let (level, pte, pa) ← walkFrom w va kind 4 0 w.root
  if leafRefuses w kind pte then throw (.fault 0x0B va)
  else do
    let bits := if kind = .store ∨ kind = .amo then 0x30 else 0x10
    let pte' := pte ||| bits
    if pte' = pte then pure () else setPteBits w pa bits
    let e : MtbEntry := { vpn := bitsGet va 12 36 * 4096 / pageSize level * (pageSize level / 4096)
                          level := level, asid := w.asid, pte := pte' }
    modify (mtbInstall w.core e)
    pure e

/-- Translate(va, acc) of R249 outside the window: the entry of the page. A write that finds D = 0 walks again (R387). -/
def translate (w : Who) (va : Nat) (kind : Kind) : Acc MtbEntry := do
  if !canonical va then throw (.fault kind.pageFault va)
  else do
    let s ← get
    match w.pages.find? (fun e => mtbMatches e w.asid va), (getCore s w.core).mtb.find? (fun e => mtbMatches e w.asid va) with
    | some e, _ => pure e
    | none, none => walk w va kind
    | none, some e =>
      if (kind = .store ∨ kind = .amo) ∧ !bitAt e.pte 5 then walk w va kind
      else if leafRefuses w kind e.pte then throw (.fault 0x0B va)
      else do
        modify (mtbInstall w.core e)
        pure e

/-- The physical address of a byte under an entry. -/
def paOf (e : MtbEntry) (va : Nat) : Nat := pteFrame e.pte + va % pageSize e.level

/-- The permission bits an L1 copy keeps: W only where D is set. -/
def permsOf (e : MtbEntry) : Nat :=
  bitsGet e.pte 1 3 &&& (if bitAt e.pte 5 then 7 else 5)

/-! ## What an access reads -/

/-- Bytes read and the poisoned granules met (R264). -/
structure Rd where
  val : Nat
  pois : List Nat := []
  deriving DecidableEq, Repr

/-- Bytes of a unit, with the poisoned granules among them. -/
def lineBytes (lu : Nat) (l : LineData) (off n : Nat) : Rd :=
  { val := bitsGet l.data (8 * off) (8 * n)
    pois := ((fromTo (off / 32) ((off + n - 1) / 32 + 1)).filter fun i => bitAt l.pois i).map
      fun i => luBase lu / 32 + i }

/-! ## The core SRAM window (R238) -/

/-- Key of the first byte of a core's SRAM in the memory. -/
def sramBase (c : Nat) : Nat := 2 ^ 48 + c * 2 ^ 20

/-- The fault of a window access, or its offset and the mode of its banks (R238, R390). -/
def windowCheck (s : State) (c va n : Nat) : Except Stop (Nat × BankMode) :=
  let off := va - windowBase
  let k := getCore s c
  let b0 := off / 8192
  let b1 := (off + n - 1) / 8192
  if va < windowBase ∨ windowBase + 2 ^ 32 < va + n then .error (.fault 0x0B va)
  else if 0xC0000 ≤ off + n - 1 then .error (.fault 0x0B (max va (windowBase + 0xC0000)))
  else if k.budget ≤ b1 then .error (.fault 0x0B (max va (windowBase + 8192 * k.budget)))
  else
    let m := k.banks.getD b0 .cache
    if m = .cache ∨ (fromTo b0 (b1 + 1)).any (fun b => k.banks.getD b .cache != m) then .error (.fault 0x0C va)
    else .ok (off, m)

/-- Wait for outstanding copy commands that overlap: those that arrived before the queued entry whose access
this is, or all of them for a scalar access (R361). -/
def awaitCopies (c va n : Nat) (write : Bool) : Acc Unit := do
  let s ← get
  if copyConflict s c va (va + n) write s.h.performing then throw .wait else pure ()

def scratchRead (c off n : Nat) (s : State) : Nat := memRead s.mem (sramBase c + off) n

def scratchWrite (c off n val : Nat) (s : State) : State :=
  { s with mem := memWrite s.mem (sramBase c + off) n val }

def fifoOf (s : State) (c b : Nat) : List Word := tgetD (getCore s c).fifos b []

def setFifo (c b : Nat) (l : List Word) (s : State) : State :=
  let k := getCore s c
  setCore c { k with fifos := tset k.fifos b l } s

/-- The number of an access of a hart or a channel among those that wait at a bank. -/
def accessId (w : Who) (s : State) : Nat :=
  match queuedOf w s with
  | none => w.hart
  | some n => (n + 1) * 2 ^ 13 + w.hart

/-- Take the turn of access w at one side of a bank: it waits behind those that came first, and while the bank
cannot serve it (R347). -/
def fifoTurn (c key w : Nat) (can : Bool) : Acc Unit := do
  let s ← get
  let k := getCore s c
  let l := tgetD k.waiters key []
  if can && (l.isEmpty || l.head? == some w) then
    if l.isEmpty then pure () else set (setCore c { k with waiters := tset k.waiters key (l.drop 1) } s)
  else do
    if l.contains w then pure () else set (setCore c { k with waiters := tset k.waiters key (l ++ [w]) } s)
    throw .wait

/-- The turn of access w at one side of a bank has come, and the bank can serve it; else it waits there. -/
def fifoReady (c key w : Nat) (can : Bool) : Acc Unit := do
  let s ← get
  let k := getCore s c
  let l := tgetD k.waiters key []
  if can && (l.isEmpty || l.head? == some w) then pure ()
  else do
    if l.contains w then pure () else set (setCore c { k with waiters := tset k.waiters key (l ++ [w]) } s)
    throw .wait

/-- An access was waiting at one side of a bank when the bank left FIFO mode. -/
def isOusted (s : State) (w : Who) (key : Nat) : Bool := (getCore s w.core).ousted.contains (accessId w s, key)

/-- The side of the bank of a window address: the pops of a read, the pushes of a write. -/
def sideOf (va : Nat) (write : Bool) : Nat := 2 * ((va - windowBase) / 8192) + write.toNat

/-- An access that was waiting at a bank when the bank left FIFO mode meets cause 0x0C (R347). A queued entry meets it
once; a hart or a channel leaves the bank when it stops. -/
def meetOust (w : Who) (va : Nat) (write : Bool) : Acc Unit := do
  let s ← get
  let key := sideOf va write
  if isOusted s w key then do
    let k := getCore s w.core
    if (queuedOf w s).isSome then
      set (setCore w.core { k with ousted := k.ousted.filter (· != (accessId w s, key)) } s)
    throw (.fault 0x0C va)
  else pure ()

/-- Pop n entries of a FIFO-mode bank, first at the low bits. -/
def fifoPop (c b w n : Nat) : Acc Nat := do
  let l := fifoOf (← get) c b
  fifoTurn c (2 * b) w (decide (n ≤ l.length))
  modify (setFifo c b (l.drop n))
  pure ((l.take n).foldr (fun x y => x.toNat + 2 ^ 64 * y) 0)

/-- Push n entries to a FIFO-mode bank. -/
def fifoPush (c b w n x : Nat) : Acc Unit := do
  let l := fifoOf (← get) c b
  fifoTurn c (2 * b + 1) w (decide (l.length + n ≤ 1024))
  modify (setFifo c b (l ++ (upTo n).map fun i => word (bitsGet x (64 * i) 64)))

/-- A read in the window: a scratchpad bank is read, a FIFO bank gives an entry to an 8-byte access. -/
def windowRead (w : Who) (va n : Nat) : Acc Rd := do
  let c := w.core
  meetOust w va false
  match windowCheck (← get) c va n with
  | .error e => throw e
  | .ok (off, .scratch) => do
    awaitCopies c va n false
    pure { val := scratchRead c off n (← get) }
  | .ok (off, _) =>
    if n ≠ 8 then throw (.fault 0x0C va)
    else do
      let x ← fifoPop c (off / 8192) (accessId w (← get)) 1
      pure { val := x }

/-- A write in the window: a FIFO bank takes an 8-byte access as an entry. -/
def windowWrite (w : Who) (va n val : Nat) : Acc Unit := do
  let c := w.core
  meetOust w va true
  match windowCheck (← get) c va n with
  | .error e => throw e
  | .ok (off, .scratch) => do
    awaitCopies c va n true
    modify (scratchWrite c off n val)
  | .ok (off, _) =>
    if n ≠ 8 then throw (.fault 0x0C va) else fifoPush c (off / 8192) (accessId w (← get)) 1 val

/-! ## The L1 (R286 to R300) -/

/-- The L1 copy a canonical virtual address hits, with enough permission: translation takes place only on a miss
(R237, R242). -/
def virtualHit (s : State) (w : Who) (va need : Nat) : Option (Nat × L1Copy) :=
  (s.l1.find? fun p =>
    canonical va && p.1 / 2 ^ 44 == w.core && p.2.st != .i && copyMatches p.2 (vtagOf va w.asid false) &&
    (p.2.perms &&& need) == need && (!isHostLu (p.1 % 2 ^ 44) || p.1 % 2 == bitsGet va 6 1)).map
  fun p => (p.1 % 2 ^ 44, p.2)

/-- An L1 miss counts for the hart whose access it is (R378). -/
def l1Miss (w : Who) (s : State) : State := if s.cur = w.hart then perfAdd 3 1 s else s

/-- An access that misses in its L1 asks the slice; the line is delivered to it later. -/
def missRequest (w : Who) (lu : Nat) (v : VTag) (perms : Nat) (two : Bool) (a : Ask) : Acc Unit := do
  modify (l1Miss w)
  demand (placedRequest w.core lu v perms two a w.hart w.path)

/-- Discards of the unit on their way are tried first; a hart's own access waits for its own (R329). -/
def awaitDiscards (w : Who) (lu : Nat) : Acc Unit := do
  if (← get).discards.isEmpty then pure ()
  else do
    modify (tryDiscards lu)
    if (← get).discards.contains (lu, w.hart) then throw .wait else pure ()

/-- An access waits for the reply to a request for its copy that is in flight (R290). -/
def awaitCopy (w : Who) (lu : Nat) : Acc Unit := do
  awaitDiscards w lu
  if inFlight (getCopy (← get) w.core lu) then demand (awaitReply w.core lu) else pure ()

/-- The hint of an element under `mo` = 2 that is not read-only: no read-only copy serves it (R326). -/
def hintLatest : Nat := 3

/-- A load of bytes of one unit through the L1 (R286, R290); hint 1 fills a read-only copy (R258), and alone still hits
one that an acquire has passed (R323, R328). -/
def cachedRead (w : Who) (lu off n hint : Nat) (v : VTag) (perms : Nat) : Acc Rd := do
  let c := w.core
  awaitCopy w lu
  let s ← get
  let k := getCopy s c lu
  let own := k.st != .i && copyMatches k v
  let pts := (getCore s c).pts
  let fresh := own && (k.st == .w || (k.st == .o && hint != hintLatest && (hint == 1 || !k.aged)) ||
    (k.st == .s && (hint == 1 || decide (pts ≤ k.rts))))
  if fresh then do
    let rts := if k.st = .w then max k.rts pts else k.rts
    set (touchCopy c lu (setCopy c lu { k with rts := rts } s))
    modify fun s => if k.st = .o then s else setCore c { getCore s c with pts := max pts k.wts } s
    pure (lineBytes lu k.line off n)
  else do
    missRequest w lu v perms false (if hint = 1 then .readOnly else .read)
    let s ← get
    let k := getCopy s c lu
    if hint ≠ 1 then set (setCore c { getCore s c with pts := max (getCore s c).pts k.wts } s)
    pure (lineBytes lu k.line off n)

/-- The timestamp of a store to a copy held in W, above every lease (R287). -/
def storeStamp (s : State) (c lu : Nat) : Nat := max (getCore s c).pts ((getCopy s c lu).rts + 1)

/-- Bytes written to a copy held in W (R287), with its poison (R265). -/
def writeCopy (c lu data mask : Nat) (s : State) : State :=
  let s := rollFor (coreDie c) (fun s => storeStamp s c lu) s
  let k := getCopy s c lu
  let t := storeStamp s c lu
  notePoisonWrites lu k.line mask
    (touchCopy c lu
      (setCopy c lu { k with line := writtenLine lu k.line data mask, wts := t, rts := t }
        (setCore c { getCore s c with pts := t } s)))

/-- Obtain the unit in W for a store (R287). -/
def obtainWrite (w : Who) (lu : Nat) (v : VTag) (perms : Nat) : Acc Unit := do
  awaitCopy w lu
  let k := getCopy (← get) w.core lu
  if k.st = .w && copyMatches k v then pure () else missRequest w lu v perms false .write

/-- A store of bytes of one unit through the L1 (R287). -/
def cachedWrite (w : Who) (lu off n val : Nat) (v : VTag) (perms : Nat) : Acc Unit := do
  obtainWrite w lu v perms
  modify (writeCopy w.core lu (val <<< (8 * off)) (maskOf off n))

/-- One element joins the core's partial for its location (R296). -/
def cachedUpdate (w : Who) (lu off tag x : Nat) (v : VTag) (perms : Nat) : Acc Unit := do
  let c := w.core
  awaitCopy w lu
  let k := getCopy (← get) c lu
  if k.st = .u && k.tag == tag && copyMatches k v then pure ()
  else missRequest w lu v perms (tag == 4) (.update tag)
  modify fun s =>
    let k := getCopy s c lu
    touchCopy c lu (setCopy c lu { k with upd := updatePartial tag (8 * off / updMemWidth tag) x k.upd } s)

/-! ## At the home (R308) -/

/-- Collect a unit at its home for an access there, once discards of the hart have reached it (R329). The core's own
read copies go, so that no later load of it returns an older value (R319). -/
def fetchHome (w : Who) (lu : Nat) (write : Bool) (touch : Nat) : Acc Unit := do
  if w.locked then pure () else awaitDiscards w lu
  atHome w lu write touch
  modify (dropRead w.core lu)

/-- A read of bytes at a unit's home. -/
def homeRead (w : Who) (lu off n : Nat) : Acc Rd := do
  fetchHome w lu false (halvesOf off n)
  pure (lineBytes lu (homeCopy (← get) lu) off n)

/-- A write of bytes at a unit's home, timestamped as an AMO's (R287, R312); those of the mask `bad` come from a poisoned
granule (R355). -/
def homeStore (w : Who) (lu off n val : Nat) (bad : Nat := 0) : Acc Unit := do
  fetchHome w lu true (halvesOf off n)
  modify fun s => passClock w.core lu (homeWrite lu (val <<< (8 * off)) (maskOf off n) s (bad <<< off))

/-- The half-byte merges of `combine`, which a store makes (R259). -/
def isHalfStore (op : Nat) : Bool := op == 12 || op == 13

/-- A read-modify-write at a unit's home (R248, R254): an atomic leaves a poisoned granule as it is (R264), and the store
of half a byte is stored there (R265). -/
def homeRmw (w : Who) (lu off n op x expected : Nat) : Acc Rd := do
  fetchHome w lu true (halvesOf off n)
  let r := lineBytes lu (homeCopy (← get) lu) off n
  if r.pois.isEmpty || isHalfStore op then do
    let write := if w.again then homeJoin else homeWrite
    modify fun s => passClock w.core lu (write lu (combine op n r.val x expected <<< (8 * off)) (maskOf off n) s)
    pure r
  else pure r

/-! ## Peers and uncached host memory (R312, R317, R430) -/

/-- The port an access through peer window p travels on (R430). -/
def portTo (s : State) (p : Nat) : Option Nat :=
  let up (q : Nat) : Bool := (tgetD s.ports q {}).state == 2
  let dev := (tgetD s.ports p {}).peerDev
  if up p then some p
  else if dev = 0xFF then none
  else (upTo 72).find? fun q => up q && (tgetD s.ports q {}).peerDev == dev

/-- The port of an access, and whether it can travel: host accesses use none. -/
def routeOf (s : State) (pa : Nat) : Option (Option Nat) :=
  match windowOf pa with
  | .peer p => (portTo s p).map some
  | _ => some none

/-- The record of an access that reaches no device (R430). -/
def unreachRecord (d pa : Nat) (element lane : Option Nat) (s : State) : State :=
  let p := match windowOf pa with | .peer p => p | _ => 0
  postErr d 2 (unitOfPort p) pa 6 element lane s

/-- A write that reaches no device: counted, and recorded with syndrome 6 (R430). -/
def unreachable (w : Who) (pa : Nat) (s : State) : State := unreachRecord (coreDie w.core) pa none none (countErr 1 s)

/-- So many more outstanding remote writes of a hart (R317). -/
def addRemoteWrites (n k : Nat) (s : State) : State :=
  if n < 4608 then
    let h := getHart s n
    setHart n { h with remoteWrites := (h.remoteWrites + k) % 2 ^ 16 } s
  else s

/-- The address that an address of a peer window names at the peer (R239); others name themselves. -/
def targetOf (pa : Nat) : Nat :=
  match windowOf pa with
  | .peer _ =>
    let o := (pa - 0x840000000000) % 0x18000000000
    if o < 0xC000000000 then o else 0x10000000000 + (o - 0xC000000000)
  | _ => pa

/-- An access leaves for a peer or the host: numbered, with the address it names there and whose it is. -/
def sendRemote (r : Remote) (s : State) : State :=
  let r := { r with id := s.nextRemote, target := targetOf r.addr
                    owner := if r.hart < 4608 then (getHart s r.hart).logical else none }
  { s with remotes := s.remotes ++ [r], nextRemote := s.nextRemote + 1 }

def dropRemote (id : Nat) (s : State) : State :=
  { s with remotes := s.remotes.filter (·.id != id) }

/-- Send an access that answers and wait for its answer; nothing when no port reaches the device. The answer
stays until the instruction or the element is done (`dropReplies`). -/
def remoteAsk (w : Who) (kind pa n op val expected elem : Nat) (more : List (Nat × Nat) := []) : Acc (Option Nat) := do
  let s ← get
  match s.remotes.find? fun r => r.hart == w.hart && r.kind == kind && r.addr == pa && r.bytes == n && r.elem == elem with
  | some r =>
    match r.reply with
    | none => throw .wait
    | some v => pure (some v)
  | none =>
    match routeOf s pa with
    | none => pure none
    | some port => do
      let s := sendRemote { id := 0, hart := w.hart, kind := kind, addr := pa, bytes := n, op := op, val := val
                            expected := expected, elem := elem, port := port, more := more } s
      set (if kind = 0 then s else addRemoteWrites w.hart (1 + more.length) s)
      throw .wait

/-- The answers to accesses of an agent that an access has used are dropped: those numbered from lo up to hi. -/
def dropUsed (hart lo hi : Nat) (s : State) : State :=
  { s with remotes := s.remotes.filter fun r =>
      !(r.hart == hart && r.reply.isSome && decide (lo ≤ r.elem) && decide (r.elem < hi)) }

/-- The answers a scalar access has used. -/
def dropReplies (hart : Nat) (s : State) : State := dropUsed hart 0 1 s

/-- First of the numbers of parcel fetches, above those of elements. -/
def fetchElem : Nat := 2 ^ 20

/-- What stands among the poisoned granules for an address that reaches no device: no granule has such a number. -/
def noGranule (pa : Nat) : Nat := 2 ^ 48 + pa

/-- What a read of n bytes has received, poison when no port reaches the device (R430). The core's own read copies of
the place go, so that no later load returns an older value (R319). -/
def remoteValue (w : Who) (pa n : Nat) (v : Option Nat) : Acc Rd := do
  modify (dropRead w.core (luOf pa))
  match v with
  | some v => pure { val := v % 2 ^ (8 * n) }
  | none => pure { val := 0, pois := [noGranule pa] }

def remoteRead (w : Who) (pa n elem : Nat) : Acc Rd := do remoteValue w pa n (← remoteAsk w 0 pa n 0 0 0 elem)

/-- A store to a peer or to uncached host memory: sent, and acknowledged later (R312). -/
def remoteWrite (w : Who) (pa n val : Nat) : Acc Unit := do
  modify (dropRead w.core (luOf pa))
  let s ← get
  match routeOf s pa with
  | none => set (unreachable w pa s)
  | some port =>
    set (addRemoteWrites w.hart 1 (sendRemote
      { id := 0, hart := w.hart, kind := 1, addr := pa, bytes := n, val := val, port := port } s))

def remoteRmw (w : Who) (pa n op x expected elem : Nat) : Acc Rd := do
  remoteValue w pa n (← remoteAsk w 2 pa n op x expected elem)

/-! ## One access -/

/-- Where an access outside the window is performed (R248). -/
inductive Site where
  | cached | home | remote | mmio
  deriving DecidableEq, Repr

def placeOfPa (pa : Nat) (nc : Bool) : Site :=
  match windowOf pa with
  | .mmio => .mmio
  | .peer _ => .remote
  | .host => if nc then .remote else .cached
  | _ => if nc then .home else .cached

/-- The MMIO offset of a physical address. -/
def mmioOff (pa : Nat) : Nat := pa - 0xF00000000000

/-- A load of bytes inside one 64-byte piece. -/
def readPiece (w : Who) (va n hint elem : Nat) (kind : Kind) : Acc Rd := do
  let s ← get
  match virtualHit s w va kind.need with
  | some (lu, k) =>
    cachedRead w lu (va % luSize lu) n hint (vtagOf va k.asid k.global) k.perms
  | none => do
    let e ← translate w va kind
    let pa := paOf e va
    match placeOfPa pa (bitAt e.pte 9) with
    | .cached =>
      cachedRead w (luOf pa) (pa - luBase (luOf pa)) n hint (vtagOf va w.asid (bitAt e.pte 6)) (permsOf e)
    | .home => homeRead w (luOf pa) (pa - luBase (luOf pa)) n
    | .remote => remoteRead w pa n elem
    | .mmio => do
      -- part of an access that leaves the page: no register takes part in it (R221)
      modify hostErr
      pure { val := 0 }

/-- A store of bytes inside one 64-byte piece. -/
def writePiece (w : Who) (va n val : Nat) : Acc Unit := do
  let s ← get
  match virtualHit s w va 2 with
  | some (lu, k) => cachedWrite w lu (va % luSize lu) n val (vtagOf va k.asid k.global) k.perms
  | none => do
    let e ← translate w va .store
    let pa := paOf e va
    match placeOfPa pa (bitAt e.pte 9) with
    | .cached =>
      cachedWrite w (luOf pa) (pa - luBase (luOf pa)) n val (vtagOf va w.asid (bitAt e.pte 6)) (permsOf e)
    | .home => homeStore w (luOf pa) (pa - luBase (luOf pa)) n val
    | .remote => remoteWrite w pa n val
    | .mmio => modify hostErr

/-- What the store of a piece needs is obtained before a byte of the store moves. -/
def preparePiece (w : Who) (va n : Nat) : Acc Unit := do
  let s ← get
  match virtualHit s w va 2 with
  | some (lu, k) => obtainWrite w lu (vtagOf va k.asid k.global) k.perms
  | none => do
    let e ← translate w va .store
    let pa := paOf e va
    match placeOfPa pa (bitAt e.pte 9) with
    | .cached => obtainWrite w (luOf pa) (vtagOf va w.asid (bitAt e.pte 6)) (permsOf e)
    | .home => fetchHome w (luOf pa) true (halvesOf (pa - luBase (luOf pa)) n)
    | _ => pure ()

/-- The pieces of a range: address, length and the offset of the first byte. -/
def piecesFrom : (fuel va n off : Nat) → List (Nat × Nat × Nat)
  | 0, _, _, _ => []
  | f + 1, va, n, off =>
    if n = 0 then []
    else
      let m := min n (64 - va % 64)
      (va % 2 ^ 64, m, off) :: piecesFrom f (va + m) (n - m) (off + m)

def pieces (va n : Nat) : List (Nat × Nat × Nat) := piecesFrom (n / 64 + 2) va n 0

/-- The first byte of each page a range touches. -/
def pagesOf (va n : Nat) : List Nat :=
  va :: ((fromTo (va / 4096 + 1) ((va + n - 1) / 4096 + 1)).map fun p => p * 4096 % 2 ^ 64)

/-- Every page a range touches is translated before a byte moves (R250). -/
def checkPages (w : Who) (va n : Nat) (kind : Kind) : Acc Unit :=
  (pagesOf va n).forM fun a => do
    let s ← get
    match virtualHit s w a kind.need with
    | some _ => pure ()
    | none => do
      let _ ← translate w a kind

/-- An MMIO access is one access whatever its alignment (R221): its offset, when the range lies in MMIO. -/
def mmioRange (w : Who) (va n : Nat) (kind : Kind) : Acc (Option Nat) := do
  let offs ← (pagesOf va n).mapM fun a => do
    let s ← get
    match virtualHit s w a kind.need with
    | some _ => pure none
    | none => do
      let e ← translate w a kind
      pure (if placeOfPa (paOf e a) (bitAt e.pte 9) = .mmio then some (mmioOff (paOf e a)) else none)
  pure (if offs.all (·.isSome) then offs.head?.join else none)

/-- ReadMem of R249 (R250): n bytes of the live image. -/
def readMem (w : Who) (va n hint elem : Nat) (kind : Kind) : Acc Rd := do
  if touchesWindow va n then
    if kind = .fetch then throw (.fault 0x0B va) else windowRead w va n
  else
    match ← mmioRange w va n kind with
    | some off => do
      let s ← get
      let (v, s) := mmioRead true off n s
      set s
      pure { val := v }
    | none =>
      (pieces va n).foldlM (fun (acc : Rd) p => do
        let r ← readPiece w p.1 p.2.1 hint elem kind
        pure { val := acc.val + r.val <<< (8 * p.2.2), pois := acc.pois ++ r.pois }) { val := 0 }

/-- WriteMem of R249 (R250): n bytes written. -/
def writeMem (w : Who) (va n val : Nat) : Acc Unit := do
  if touchesWindow va n then windowWrite w va n (val % 2 ^ (8 * n))
  else
    match ← mmioRange w va n .store with
    | some off => modify (mmioWrite off n (val % 2 ^ (8 * n)))
    | none => do
      let ps := pieces va n
      if 1 < ps.length then ps.forM fun p => preparePiece w p.1 p.2.1 else pure ()
      ps.forM fun p => writePiece w p.1 p.2.1 (bitsGet val (8 * p.2.2) (8 * p.2.1))

/-- AtomicRmw of R249 at the place of R248: the old value. The address is a multiple of n. -/
def atomicRmw (w : Who) (va n op x expected elem : Nat) (kind : Kind) : Acc Rd := do
  if touchesWindow va n then
    match windowCheck (← get) w.core va n with
    | .error e => throw e
    | .ok (off, .scratch) => do
      awaitCopies w.core va n true
      let s ← get
      let old := scratchRead w.core off n s
      set (scratchWrite w.core off n (combine op n old x expected) s)
      pure { val := old }
    | .ok _ => throw (.fault 0x0C va)
  else do
    let e ← translate w va kind
    let pa := paOf e va
    match placeOfPa pa (bitAt e.pte 9) with
    | .cached => homeRmw w (luOf pa) (pa - luBase (luOf pa)) n op x expected
    | .home => homeRmw w (luOf pa) (pa - luBase (luOf pa)) n op x expected
    | .remote => remoteRmw w pa n op x expected elem
    | .mmio => do
      let s ← get
      let (v, s) := mmioRead true (mmioOff pa) n s
      set (mmioWrite (mmioOff pa) n (combine op n v x expected) s)
      pure { val := v }

/-- UpdatePartial of R249, and the remote atomic that takes its place where no partial is kept (R261). -/
def updateElem (w : Who) (va tag x elem : Nat) : Acc Rd := do
  if touchesWindow va (updMemWidth tag / 8) then
    match windowCheck (← get) w.core va (updMemWidth tag / 8) with
    | .error e => throw e
    | .ok _ => throw (.fault 0x0C va)
  else do
    let datum := if tag = 4 then (x % 2 ^ 16) <<< 16 else x
    let s ← get
    match virtualHit s w va 2 with
    | some (lu, k) =>
      if isHostLu lu then atomicRmw w va (updMemWidth tag / 8) (combineOfTag tag) x 0 elem .store
      else do
        cachedUpdate w lu (va % luSize lu) tag datum (vtagOf va k.asid k.global) k.perms
        pure { val := 0 }
    | none => do
      let e ← translate w va .store
      let pa := paOf e va
      let lu := luOf pa
      match placeOfPa pa (bitAt e.pte 9), isHostLu lu with
      | .cached, false => do
        cachedUpdate w lu (pa - luBase lu) tag datum (vtagOf va w.asid (bitAt e.pte 6)) (permsOf e)
        pure { val := 0 }
      | _, _ => atomicRmw w va (updMemWidth tag / 8) (combineOfTag tag) x 0 elem .store

/-! ## What a poisoned read leaves -/

/-- The address that a poisoned granule, or what stands for one, names. -/
def poisonPa (g : Nat) : Nat := if 2 ^ 48 ≤ g then g - 2 ^ 48 else g * 32

/-- A read on die d delivered poison: the granules are counted, the delivery is counted once, and one record names
the first (R264, R430). -/
def deliverPoisonAt (d : Nat) (gs : List Nat) (element lane : Option Nat) (s : State) : State :=
  match gs with
  | [] => s
  | g :: _ =>
    let s := countErr 2 (countGranules (gs.map fun g => poisonPa g / 32) s)
    if 2 ^ 48 ≤ g then unreachRecord d (poisonPa g) element lane s
    else uncorrRecord (homeDie (luOf (g * 32))) (g * 32) element lane s

/-- The same on the die of the turn's hart. -/
def deliverPoison (gs : List Nat) (element lane : Option Nat) (s : State) : State :=
  deliverPoisonAt (curDie s) gs element lane s

end Sys2Proof.Machine
end

