-- ==== Sys2Proof/Machine/Settle.lean ====
section
/-! DEFINITION. What SETTLE and RENEW do to one unit (R269, R271, R308), and the units of a range (R268). -/

namespace Sys2Proof.Machine

/-! ## One unit -/

/-- Some die holds the unit, or a transaction about it is under way. -/
def heldByDies (s : State) (lu : Nat) : Bool := (getDir s lu).st != .i || homeBusy s lu

/-- The home collects the unit's dirty bytes from every cache of the package into its copy (R269, R308), in the turn of
the hart's operation and on behalf of a tenant; the line leaves U, with tag 0 (R300): the new state, and whether that is
done. -/
def settleFetch (t lu : Nat) (s : State) : State × Bool :=
  let s := pump pumpFuel lu s
  let (s, ok) := if heldByDies s lu then inTurn lu (.agent s.cur none) (homeFetch lu false t) s else (s, true)
  (if ok ∧ (getDir s lu).tag ≠ 0 then setDir lu { getDir s lu with tag := 0 } s else s, ok)

/-- The collected bytes that a settle will write; the home's copy stays and is clean (R269). -/
def settleTake (lu : Nat) (s : State) : Option LineData × State :=
  let e := getDir s lu
  match e.copy with
  | none => (none, s)
  | some l =>
    if l.dirty = 0 then (none, s)
    else (some l, setDir lu { e with copy := some { l with dirty := 0 } } s)

/-- The RENEW Inv of R308: to every die in S and to the owner, of which a die in S or E drops its copy and a die in M or O
keeps it. The entry afterwards names the owner alone when it has kept its copy. -/
def renewDies (lu : Nat) (s : State) : State :=
  let e := getDir s lu
  let ds := recordedDies e
  if ds.isEmpty then s
  else
    let s := pumpCollect pumpFuel lu
      (sendInvs lu 1 ds .home (setDir lu { e with awaited := ds.length, pending := .homeOp false } s))
    let kept := (e.st == .x || e.st == .o) && (getLine s e.owner lu).st != .i
    setDir lu { getDir s lu with sharers := [], st := if kept then e.st else .i } s

/-- Dirty bytes of a line stand in its home's copy or with its owner. -/
def renewDirty (lu : Nat) (s : State) : Bool :=
  let e := getDir s lu
  (match e.copy with | some l => l.dirty != 0 | none => false) ||
  ((e.st == .x || e.st == .o) && holdsDirty s e.owner lu)

/-- The clean copies of a line go: an owner that has kept a clean copy gives it up to the home, as for a write there, then
the home's copy goes, and the issuing core's (R271, log 9). -/
def renewClean (c lu : Nat) (s : State) : State × Bool :=
  let s := if (getDir s lu).st = .i then s else pumpCollect pumpFuel lu (startCollect lu true true s)
  if (getDir s lu).awaited ≠ 0 then (s, false)
  else
    let s := evictHome lu s
    (match (getCopy s c lu).st with
      | .s | .o | .w => dropCopy c lu s
      | _ => s, true)

/-- RENEW of a unit at its home (R271, R308): the new state, whether it is done, and whether the line is left
where it is. -/
def renewLine (c lu : Nat) (s : State) : State × Bool × Bool :=
  let s := finishWrites lu (pump pumpFuel lu s)
  if homeBusy s lu then (s, false, false)
  else if (getDir s lu).st = .u then (s, true, true)
  else
    let s := renewDies lu s
    if (getDir s lu).awaited ≠ 0 then (s, false, false)
    else if renewDirty lu s then (setDir lu { getDir s lu with pending := .none } s, true, true)
    else
      let (s, ok) := renewClean c lu s
      (s, ok, false)

/-! ## Ranges (R268) -/

/-- The range widened to whole lines: first address and number of bytes. -/
def widened (base len : Nat) : Nat × Nat :=
  if len = 0 then (base / 128 * 128, 0)
  else
    let a := base / 128 * 128
    (a, (base + len + 127) / 128 * 128 - a)

/-- The first address of each page a range meets. -/
def rangePages (a n : Nat) : List Nat :=
  if n = 0 then [] else (fromTo (a / 4096) ((a + n - 1) / 4096 + 1)).map fun p => p * 4096

/-- The units of the lines of a page that lie in a range: none of NC pages and peer windows. -/
def pageUnits (a n : Nat) (page : Nat) (e : MtbEntry) : List Nat :=
  let lo := max a page
  let hi := min (a + n) (page + 4096)
  if placeOfPa (paOf e page) (bitAt e.pte 9) = .cached then
    (upTo ((hi - lo) / 128)).flatMap fun i =>
      let lu := luOf (paOf e (lo + 128 * i))
      if isHostLu lu then [lu, lu + 1] else [lu]
  else []

/-- A range that leaves the canonical addresses: its first such address. -/
def nonCanonical (a n : Nat) : Option Nat :=
  if n = 0 then none
  else if !canonical a then some a
  else if a < 2 ^ 47 ∧ 2 ^ 47 < a + n then some (2 ^ 47)
  else if 2 ^ 64 < a + n then some 0
  else none

/-- The units of a range, every page translated first (R268); `need` is the kind whose fault a page takes. -/
def rangeUnits (w : Who) (a n : Nat) (need : Kind) : Acc (List Nat) := do
  match nonCanonical a n with
  | some va => throw (.fault 0x08 va)
  | none =>
    if n ≠ 0 ∧ touchesWindow a n then throw (.fault 0x0B (max a windowBase))
    else
      (rangePages a n).foldlM (fun (acc : List Nat) page => do
        let va := max a page
        let e ← translateRange w va need
        if placeOfPa (paOf e va) (bitAt e.pte 9) = .mmio then throw (.fault 0x0B va)
        else pure (acc ++ pageUnits a n page e)) []
where
  /-- The entry of a page for a range: a page without V faults with 0x08; a kind that reads accepts any leaf. -/
  translateRange (w : Who) (va : Nat) (need : Kind) : Acc MtbEntry := fun s =>
    match (translate w va need).run s with
    | (.error (.fault 0x09 a), s') => (.error (.fault 0x08 a), s')
    | (.error (.fault 0x0B a), s') =>
      if need = .load then (translate w va .fetch).run s' else (.error (.fault 0x0B a), s')
    | r => r

end Sys2Proof.Machine
end

