-- ==== Sys2Proof/Machine/Operands.lean ====
section
/-! DEFINITION. The operands of the vector side: the captured configuration (R207, R208), elements of vector and
mask registers (R78, R112), captured scalar operands (R18), and rounding (R80, R81). -/

namespace Sys2Proof.Machine

/-! ## Configuration (R207, R208) -/

def confN (c : VConf) : Nat := 8 * 2 ^ bitsGet c.vcfg.toNat 0 2
def confFmt (c : VConf) : Nat := bitsGet c.vcfg.toNat 2 4
def confBlk (c : VConf) : Nat := bitsGet c.vcfg.toNat 6 3
def confScope (c : VConf) : Nat := bitsGet c.vcfg.toNat 9 3
def confMo (c : VConf) : Nat := bitsGet c.vcfg.toNat 12 2

/-- Element width of the captured format. -/
def confW (c : VConf) : Nat := fmtWidth (confFmt c)

/-- Block length of a blk code (R207): 0 for none. -/
def blockLen (blk : Nat) : Nat := if blk = 0 then 0 else 4 * 2 ^ blk

/-- Bits of a register: L × 4096 × 8 / N (R112). -/
def regBits (c : VConf) : Nat := c.lanes * 32768 / confN c

/-- Elements of width w that a register holds (R112). -/
def regElems (c : VConf) (w : Nat) : Nat := regBits c / w

/-- VLmax (R208). -/
def vlmaxOf (lanes nreg fmt : Nat) : Nat := min 16384 (lanes * 32768 / (8 * 2 ^ nreg * fmtWidth fmt))

/-- Registers a vector of format f occupies (R117). -/
def groupLen (c : VConf) (f : Nat) : Nat := max 1 (fmtWidth f / confW c)

/-- Element i lies below the pad elements. -/
def isPad (c : VConf) (i : Nat) : Bool := decide (c.vl - c.vlpad ≤ i)

/-! ## Registers -/

def vreg (h : Hart) (r : Nat) : Nat := h.v.toArray.getD r 0

/-- Element i of width w of the vector at register r (R78, R117). -/
def vgetW (c : VConf) (h : Hart) (r w i : Nat) : Nat :=
  let e := regElems c w
  bitsGet (vreg h (r + i / e)) (w * (i % e)) w

/-- Element i of the vector at register r in a format. -/
def vget (c : VConf) (h : Hart) (r f i : Nat) : Nat := vgetW c h r (fmtWidth f) i

/-- Write bits of a register, mark it dirty and raise its mark (R114, R211). -/
def vsetBits (r pos w x : Nat) (h : Hart) : Hart :=
  { h with
    v := h.v.setIfInBounds r (bitsSet (vreg h r) pos w x)
    vdirty := h.vdirty ||| BitVec.ofNat 64 (2 ^ r)
    marks := h.marks.setIfInBounds r (max (h.marks.toArray.getD r 0) (pos + w)) }

/-- Write element i of the vector at register r in a format (R114). -/
def vset (c : VConf) (r f i x : Nat) (h : Hart) : Hart :=
  let w := fmtWidth f
  let e := regElems c w
  vsetBits (r + i / e) (w * (i % e)) w x h

/-- Bit i of mask register k; m0 is all ones (R69). -/
def maskBit (h : Hart) (k i : Nat) : Bool := k == 0 || bitAt (h.m.toArray.getD k 0) i

def mreg (h : Hart) (k : Nat) : Nat := if k = 0 then 2 ^ 16384 - 1 else h.m.toArray.getD k 0

def msetBit (k i : Nat) (b : Bool) (h : Hart) : Hart :=
  { h with m := h.m.setIfInBounds k (bitsSet (h.m.toArray.getD k 0) i 1 b.toNat) }

/-- The elements an instruction visits (R115). -/
def visited (c : VConf) (h : Hart) : List Nat := fromTo h.vstart c.vl

/-! ## Register fields and captured scalars (R18, R58) -/

/-- A field that names a vector register names one at or above N (R58). -/
def vecBad (n : Nat) (r : Role) (x : BitVec 6) : Bool := r == .vec && decide (n ≤ x.toNat)

/-- Some vector register field of an instruction is at or above N. -/
def indexBad (i : Instr) (c : VConf) : Bool :=
  match rolesOf i with
  | none => false
  | some (r, f) =>
    vecBad (confN c) r.d f.d || (!f.sa && vecBad (confN c) r.a f.a) || vecBad (confN c) r.b f.b ||
      vecBad (confN c) r.c f.c

/-- The scalar registers an instruction captures (R18). -/
def capturesOf (i : Instr) : List SReg :=
  match rolesOf i with
  | none => []
  | some (r, f) => (if f.sa then [sregOf f.a] else []) ++ (if r.b = .scal then [sregOf f.b] else [])

/-- The captured operands A and B (R332). -/
def captureA (i : Instr) (s : State) : Word :=
  match rolesOf i with
  | some (_, f) => if f.sa then readS s (sregOf f.a) else 0
  | none => 0

def captureB (i : Instr) (s : State) : Word :=
  match rolesOf i with
  | some (r, f) => if r.b = .scal then readS s (sregOf f.b) else 0
  | none => 0

/-! ## Rounding (R80, R81) -/

/-- The rounding mode: code 7 is the mode in `frm`. -/
def rmOf (rm : BitVec 3) (h : Hart) : Nat := if rm = 7 then h.frm.toNat else rm.toNat

/-- The bias byte of element i in a bias register (R81). -/
def biasByte (h : Hart) (r i : Nat) : Nat := bitsGet (vreg h r) (8 * i) 8

/-- The checks of RSB at commit, for a mode named in the instruction: width and register (R81). -/
def rsbBad04 (rm : BitVec 3) (c : VConf) : Bool := rm == 6 && decide (confW c < 8)
def rsbBad03 (rm : BitVec 3) (reg : Nat) (c : VConf) : Bool := rm == 6 && decide (confN c ≤ reg)

end Sys2Proof.Machine
end

