-- ==== Sys2Proof/Machine/VRun.lean ====
section
/-! DEFINITION. The vector side: the element-wise loop (R115), commit (R68, R333), and what the entry at the head
of the queue leaves (R334, R340, R367). -/

namespace Sys2Proof.Machine

/-! ## The element-wise loop (R115) -/

/-- What an instruction does to each element: the value and its flags. -/
abbrev ElemFn := Hart → Nat → Nat × Nat

/-- The element-wise loop of R115; each element is computed from the registers as the earlier ones left
them. -/
def elemLoop (c : VConf) (f : VF) (dfmt : Nat) (res : ElemFn) (h : Hart) : Hart × Nat :=
  (visited c h).foldl (fun (acc : Hart × Nat) i =>
    if isPad c i then (vset c f.d.toNat dfmt i (padValue dfmt) acc.1, acc.2)
    else if maskBit acc.1 f.m.toNat i then
      let (x, fl) := res acc.1 i
      (vset c f.d.toNat dfmt i x acc.1, acc.2 ||| fl)
    else if f.mz then (vset c f.d.toNat dfmt i 0 acc.1, acc.2)
    else acc) (h, 0)

/-- The loop of a compare (R116): the result is bit 0 of the value. -/
def compareLoop (c : VConf) (f : VF) (res : ElemFn) (h : Hart) : Hart × Nat :=
  (visited c h).foldl (fun (acc : Hart × Nat) i =>
    if isPad c i then (msetBit f.d.toNat i false acc.1, acc.2)
    else if maskBit acc.1 f.m.toNat i then
      let (x, fl) := res acc.1 i
      (msetBit f.d.toNat i (x % 2 == 1) acc.1, acc.2 ||| fl)
    else if f.mz then (msetBit f.d.toNat i false acc.1, acc.2)
    else acc) (h, 0)

/-- An instruction has visited all its elements. -/
def endLoop (r : Hart × Nat) : Hart := { orFlags r.2 r.1 with vstart := 0 }

/-! ## What the entry at the head leaves -/

/-- How the execution of an entry at the head ends. -/
inductive Perf where
  /-- It completes and leaves the queue. -/
  | done (s : State)
  /-- It cannot go on yet; what it did so far stands, and `vstart` tells where it goes on. -/
  | wait (s : State)
  /-- It traps and keeps its slot (R340): cause, and `trapval` when that is not its parcels. -/
  | trap (cause : Nat) (val : Option Word) (s : State)
  /-- It completes and then traps with cause 0x20 (R264). -/
  | after (val : Word) (s : State)
  /-- Elements faulted, those of `pass.faults`; of `total` elements the others are done (R263). `access` is
  the record's access code. -/
  | faulted (access total : Nat) (s : State)
  /-- It traps with one fault record and keeps its slot; nothing was done (R182). -/
  | recorded (access cause element va : Nat) (s : State)

/-- The execution of an entry: captured configuration and scalar operands. -/
abbrev PerfFn := VConf → Word → Word → State → Perf

/-- An instruction that only changes registers of its hart. -/
def perfRegs (g : VConf → Word → Word → Hart → Hart) : PerfFn :=
  fun c a b s => .done { s with h := g c a b s.h }

/-- A condition checked at the head: cause 0x04 with the parcels when it fails (R367). -/
def perfWhen (ok : VConf → Hart → Bool) (p : PerfFn) : PerfFn :=
  fun c a b s => if ok c s.h then p c a b s else .trap 0x04 none s

/-- A replay has completed every element (R370). -/
def endReplay (h : Hart) : Hart :=
  if h.replay then { setPartial false h with md := 0, replay := false } else h

/-- The load-data queue of the first load entry left when n slots have gone: the loads take them in turn, from 0
when the vector queue is empty (R336). -/
def loadFirstAfter (n : Nat) (h : Hart) : Nat :=
  if h.queue.length ≤ n then 0 else (h.loadFirst + ((h.queue.take n).filter isLoadEntry).length) % 2

/-- The groups read early for the n slots at the head are gone. -/
def dropEarly (n : Nat) (h : Hart) : Vector (List EarlyGroup) 2 :=
  h.loadData.map fun l => l.filter fun g => decide (n ≤ (g.slot + 32 - h.qhead) % 32)

/-- Remove n slots from the head of the queue (R333). -/
def popSlots (n : Nat) (h : Hart) : Hart :=
  { endReplay h with queue := h.queue.drop n, arrived := h.arrived.drop n, qhead := (h.qhead + n) % 32
                     loadFirst := loadFirstAfter n h, loadData := dropEarly n h
                     memberPass := [], front := 16384 }

/-- Element groups executed between elements x and y: those complete below y, or up to the end (R378). -/
def groupsRun (c : VConf) (x y : Nat) (ended : Bool) : Nat :=
  (y * confW c + if ended then 255 else 0) / 256 - x * confW c / 256

/-- A run of an instruction that began at element x counts the element groups that it executed. -/
def countGroups (c : VConf) (x : Nat) (ended : Bool) (s : State) : State :=
  perfAdd 2 (groupsRun c x (if ended then c.vl else s.h.vstart) ended) s

/-- The lowest faulting element of each 4 KiB page among faults in rising order of element (R263). -/
def pageFaults : List (Nat × Nat × Nat) → List Nat → List (Nat × Nat × Nat)
  | [], _ => []
  | x :: l, seen =>
    if seen.contains (x.2.2 / 4096) then pageFaults l seen else x :: pageFaults l (x.2.2 / 4096 :: seen)

/-- Insert a fault by its element. -/
def insertFault (x : Nat × Nat × Nat) : List (Nat × Nat × Nat) → List (Nat × Nat × Nat)
  | [] => [x]
  | y :: l => if x.1 < y.1 then x :: y :: l else y :: insertFault x l

/-- The trap of an entry of which elements faulted (R263): records, `md`, `status.partial`, `vstart`. In a
replay `md` has been kept element by element (R370). -/
def faultedTrap (slot access total : Nat) (s : State) : State :=
  let fs := s.h.pass.faults.foldl (fun l x => insertFault x l) []
  let asid := (currentWho s).asid
  let s := (pageFaults fs []).foldl (fun s x =>
    postFault (curCore s) (faultWord0 asid access slot (s.cur % 8) 0 x.2.1) x.1 x.2.2 s) s
  let left := fs.foldl (fun m x => m ||| maskOf x.1 1) 0
  let md := if s.h.replay then s.h.md else (2 ^ total - 1) &&& ((2 ^ total - 1) ^^^ left)
  let (e, cause, va) := fs.headD (0, 0x08, 0)
  let s := { s with h := { setPartial true s.h with md := md, vstart := e, pass := {} } }
  takeTrap false cause (word va) s.h.pc (BitVec.ofNat 6 slot) s

/-- The accesses of an entry that arrived with that number begin, or end. -/
def performAs (seq : Option Nat) (s : State) : State := { s with h := { s.h with performing := seq } }

def idlePerf : Perf → Perf
  | .done s => .done (performAs none s)
  | .wait s => .wait (performAs none s)
  | .trap c v s => .trap c v (performAs none s)
  | .after v s => .after v (performAs none s)
  | .faulted a t s => .faulted a t (performAs none s)
  | .recorded a c e v s => .recorded a c e v (performAs none s)

/-- What an entry's execution from element x leaves: n slots leave on completion; a trap names the slot and the first
instruction not committed (R340, R367). -/
def finishHead (n slot x : Nat) (parcels : Word) (p : Perf) : State :=
  match idlePerf p with
  | .done s => countGroups s.h.headConf x true { s with h := popSlots n s.h }
  | .wait s => countGroups s.h.headConf x false { s with h := { s.h with front := 16384 } }
  | .trap cause val s => takeTrap false cause (val.getD parcels) s.h.pc (BitVec.ofNat 6 slot) s
  | .faulted access total s =>
    let t := faultedTrap slot access total s
    countGroups s.h.headConf x false t
  | .recorded access cause element va s =>
    takeTrap false cause (word va) s.h.pc (BitVec.ofNat 6 slot)
      (postFault (curCore s) (faultWord0 (currentWho s).asid access slot (s.cur % 8) 0 cause) element va s)
  | .after val s =>
    let s := countGroups s.h.headConf x true { s with h := popSlots n s.h }
    takeTrap false 0x20 val s.h.pc (BitVec.ofNat 6 slot) s

/-! ## Commit (R68, R333) -/

/-- The checks of an instruction against a configuration: 0, or the cause of the first that fails. -/
abbrev CheckFn := VConf → Nat

/-- The order of R68: `vcfg` and shape fields (0x04), then register indices (0x03). -/
def checks (bad04 bad03 : Bool) : Nat := if bad04 then 0x04 else if bad03 then 0x03 else 0

/-- Read-back entries in use (R335). -/
def readbackUsed (h : Hart) : Nat :=
  h.readback.length + (deliveries [] h.queue).length


/-- A trap raised at commit, with the parcels in `trapval` (R68). -/
def commitTrap (cause : Nat) (i : Instr) (s : State) : Result := scalarTrap cause (parcelsOf i) s

/-- The configuration under which the last entry of the queue runs, or the next does when it is empty. -/
def tailConf (h : Hart) : VConf := h.queue.foldl (fun c e => match e with | .config _ c' => c' | _ => c) h.headConf

/-- The configuration of the hart is not the one that the entry after the last would run under: a hart resumed under
fewer lanes commits nothing behind entries that were captured under more (R18, R219). -/
def confAhead (h : Hart) : Bool := !h.queue.isEmpty && tailConf h != h.conf

/-- The configuration as it stands becomes the head's when nothing is queued (R18). -/
def headAsCaptured (s : State) : State :=
  if s.h.queue.isEmpty then { s with h := { s.h with headConf := s.h.conf } } else s

/-- The entry at the tail of the queue and the PC past the instruction (R333). -/
def pushEntry (e : Entry) (s : State) : State :=
  perfAdd 1 1 { tickUp s with
    h := { s.h with
      queue := s.h.queue ++ [e], arrived := s.h.arrived ++ [s.tick], pc := s.h.pc + 8, stalled := false, full := false
      waitT0 := none } }

/-- Commit a vector instruction (R68, R333). An entry that is alone in the queue is at the head and executes
at once. -/
def commitVector (i : Instr) (check : CheckFn) (perf : PerfFn) (s : State) : Result :=
  if s.h.frozen then commitTrap 0x04 i s
  else if check s.h.conf ≠ 0 then commitTrap (check s.h.conf) i s
  else whenReady (capturesOf i) s <|
    if 32 ≤ s.h.queue.length then stallFull s
    else if confAhead s.h then stall s
    else if (deliversTo i).isSome && decide (8 ≤ readbackUsed s.h) then stallFull s
    else
      let a := captureA i s
      let b := captureB i s
      let s' := pushEntry (.instr i a b) (headAsCaptured s)
      .next (if s.h.queue.isEmpty then
          finishHead 1 s'.h.qhead s'.h.vstart (parcelsOf i) (perf s'.h.headConf a b (performAs s'.h.arrived.head? s'))
        else s')

/-! ## Rounding of an instruction (R80, R81) -/

/-- The same checks at the head, for a mode that comes from `frm`. -/
def rsbHead (rm : BitVec 3) (reg : Nat) (p : PerfFn) : PerfFn :=
  fun c a b s =>
    if rm = 7 ∧ s.h.frm = 6 then
      if confW c < 8 then .trap 0x04 none s
      else if confN c ≤ reg then .trap 0x03 none s
      else p c a b s
    else p c a b s

end Sys2Proof.Machine
end

