-- ==== Sys2Proof/Machine/VInt.lean ====
section
/-! DEFINITION. VINT, integer arithmetic on vectors (R121). -/

namespace Sys2Proof.Machine

/-- The integer formats VINT and VRED accept (R118). -/
def intOnly (c : VConf) : Bool := isInt (confFmt c)

def checkInt (i : Instr) : CheckFn := fun c => checks (!intOnly c) (indexBad i c)

/-- Element i of the a operand: a scalar gives its low w bits to every element (R119). -/
def srcA (c : VConf) (f : VF) (a : Word) (h : Hart) (i : Nat) : Nat :=
  if f.sa then a.toNat % 2 ^ confW c else vget c h f.a.toNat (confFmt c) i

def srcB (c : VConf) (f : VF) (h : Hart) (i : Nat) : Nat := vget c h f.b.toNat (confFmt c) i

/-- The signed reading of an element; under UINT8 the unsigned one (R121). -/
def signedOf (fmt x : Nat) : Int := if fmt = 9 then (x : Int) else toSigned (fmtWidth fmt) x

/-- A two-source integer instruction: the exact result is cut to w bits (R121). -/
def intOp (f : VF) (g : (fmt a b : Nat) → Int) : PerfFn :=
  perfRegs fun c a _ h => endLoop (elemLoop c f (confFmt c)
    (fun h i => (ofInt (confW c) (g (confFmt c) (srcA c f a h i) (srcB c f h i)), 0)) h)

/-- A saturating one: SAT when clamped (R76, R121). -/
def satOp (f : VF) (g : (fmt a b : Nat) → Int) : PerfFn :=
  perfRegs fun c a _ h => endLoop (elemLoop c f (confFmt c)
    (fun h i =>
      let x := g (confFmt c) (srcA c f a h i) (srcB c f h i)
      if x < intMin (confFmt c) then (ofInt (confW c) (intMin (confFmt c)), fSAT)
      else if intMax (confFmt c) < x then (ofInt (confW c) (intMax (confFmt c)), fSAT)
      else (ofInt (confW c) x, 0)) h)

/-- An integer compare (R116, R121). -/
def intCompare (f : VF) (g : (fmt a b : Nat) → Bool) : PerfFn :=
  perfRegs fun c a _ h => endLoop (compareLoop c f
    (fun h i => ((g (confFmt c) (srcA c f a h i) (srcB c f h i)).toNat, 0)) h)

/-- The shift amount: the low log2 w bits of B. -/
def vshift (fmt b : Nat) : Nat := b % fmtWidth fmt

/-- The checks of VADD at commit. -/
def checkVadd (f : VF) : CheckFn :=
  checkInt (.vadd f)

/-- VADD (R121) at the head of the queue. -/
def perfVadd (f : VF) : PerfFn :=
  intOp f (fun _ a b => (a : Int) + b)

def execVadd (f : VF) (s : State) : Result :=
  commitVector (.vadd f) (checkVadd f) (perfVadd f) s

/-- The checks of VSUB at commit. -/
def checkVsub (f : VF) : CheckFn :=
  checkInt (.vsub f)

/-- VSUB (R121) at the head of the queue. -/
def perfVsub (f : VF) : PerfFn :=
  intOp f (fun _ a b => (a : Int) - b)

def execVsub (f : VF) (s : State) : Result :=
  commitVector (.vsub f) (checkVsub f) (perfVsub f) s

/-- The checks of VMUL at commit. -/
def checkVmul (f : VF) : CheckFn :=
  checkInt (.vmul f)

/-- VMUL (R121) at the head of the queue. -/
def perfVmul (f : VF) : PerfFn :=
  intOp f (fun _ a b => (a : Int) * b)

def execVmul (f : VF) (s : State) : Result :=
  commitVector (.vmul f) (checkVmul f) (perfVmul f) s

/-- The checks of VMULH at commit. -/
def checkVmulh (f : VF) : CheckFn :=
  checkInt (.vmulh f)

/-- VMULH (R121) at the head of the queue. -/
def perfVmulh (f : VF) : PerfFn :=
  intOp f (fun fmt a b => signedOf fmt a * signedOf fmt b / 2 ^ fmtWidth fmt)

def execVmulh (f : VF) (s : State) : Result :=
  commitVector (.vmulh f) (checkVmulh f) (perfVmulh f) s

/-- The checks of VMULHU at commit. -/
def checkVmulhu (f : VF) : CheckFn :=
  checkInt (.vmulhu f)

/-- VMULHU (R121) at the head of the queue. -/
def perfVmulhu (f : VF) : PerfFn :=
  intOp f (fun fmt a b => ((a * b / 2 ^ fmtWidth fmt : Nat) : Int))

def execVmulhu (f : VF) (s : State) : Result :=
  commitVector (.vmulhu f) (checkVmulhu f) (perfVmulhu f) s

/-- The checks of VMIN at commit. -/
def checkVmin (f : VF) : CheckFn :=
  checkInt (.vmin f)

/-- VMIN (R121) at the head of the queue. -/
def perfVmin (f : VF) : PerfFn :=
  intOp f (fun fmt a b => min (signedOf fmt a) (signedOf fmt b))

def execVmin (f : VF) (s : State) : Result :=
  commitVector (.vmin f) (checkVmin f) (perfVmin f) s

/-- The checks of VMAX at commit. -/
def checkVmax (f : VF) : CheckFn :=
  checkInt (.vmax f)

/-- VMAX (R121) at the head of the queue. -/
def perfVmax (f : VF) : PerfFn :=
  intOp f (fun fmt a b => max (signedOf fmt a) (signedOf fmt b))

def execVmax (f : VF) (s : State) : Result :=
  commitVector (.vmax f) (checkVmax f) (perfVmax f) s

/-- The checks of VMINU at commit. -/
def checkVminu (f : VF) : CheckFn :=
  checkInt (.vminu f)

/-- VMINU (R121) at the head of the queue. -/
def perfVminu (f : VF) : PerfFn :=
  intOp f (fun _ a b => ((min a b : Nat) : Int))

def execVminu (f : VF) (s : State) : Result :=
  commitVector (.vminu f) (checkVminu f) (perfVminu f) s

/-- The checks of VMAXU at commit. -/
def checkVmaxu (f : VF) : CheckFn :=
  checkInt (.vmaxu f)

/-- VMAXU (R121) at the head of the queue. -/
def perfVmaxu (f : VF) : PerfFn :=
  intOp f (fun _ a b => ((max a b : Nat) : Int))

def execVmaxu (f : VF) (s : State) : Result :=
  commitVector (.vmaxu f) (checkVmaxu f) (perfVmaxu f) s

/-- The checks of VAND at commit. -/
def checkVand (f : VF) : CheckFn :=
  checkInt (.vand f)

/-- VAND (R121) at the head of the queue. -/
def perfVand (f : VF) : PerfFn :=
  intOp f (fun _ a b => ((a &&& b : Nat) : Int))

def execVand (f : VF) (s : State) : Result :=
  commitVector (.vand f) (checkVand f) (perfVand f) s

/-- The checks of VOR at commit. -/
def checkVor (f : VF) : CheckFn :=
  checkInt (.vor f)

/-- VOR (R121) at the head of the queue. -/
def perfVor (f : VF) : PerfFn :=
  intOp f (fun _ a b => ((a ||| b : Nat) : Int))

def execVor (f : VF) (s : State) : Result :=
  commitVector (.vor f) (checkVor f) (perfVor f) s

/-- The checks of VXOR at commit. -/
def checkVxor (f : VF) : CheckFn :=
  checkInt (.vxor f)

/-- VXOR (R121) at the head of the queue. -/
def perfVxor (f : VF) : PerfFn :=
  intOp f (fun _ a b => ((a ^^^ b : Nat) : Int))

def execVxor (f : VF) (s : State) : Result :=
  commitVector (.vxor f) (checkVxor f) (perfVxor f) s

/-- The checks of VSLL at commit. -/
def checkVsll (f : VF) : CheckFn :=
  checkInt (.vsll f)

/-- VSLL (R121) at the head of the queue. -/
def perfVsll (f : VF) : PerfFn :=
  intOp f (fun fmt a b => ((a <<< vshift fmt b : Nat) : Int))

def execVsll (f : VF) (s : State) : Result :=
  commitVector (.vsll f) (checkVsll f) (perfVsll f) s

/-- The checks of VSRL at commit. -/
def checkVsrl (f : VF) : CheckFn :=
  checkInt (.vsrl f)

/-- VSRL (R121) at the head of the queue. -/
def perfVsrl (f : VF) : PerfFn :=
  intOp f (fun fmt a b => ((a >>> vshift fmt b : Nat) : Int))

def execVsrl (f : VF) (s : State) : Result :=
  commitVector (.vsrl f) (checkVsrl f) (perfVsrl f) s

/-- The checks of VSRA at commit. -/
def checkVsra (f : VF) : CheckFn :=
  checkInt (.vsra f)

/-- VSRA (R121) at the head of the queue. -/
def perfVsra (f : VF) : PerfFn :=
  intOp f (fun fmt a b => signedOf fmt a / 2 ^ vshift fmt b)

def execVsra (f : VF) (s : State) : Result :=
  commitVector (.vsra f) (checkVsra f) (perfVsra f) s

/-- The checks of VADDSAT at commit. -/
def checkVaddsat (f : VF) : CheckFn :=
  checkInt (.vaddsat f)

/-- VADDSAT (R121) at the head of the queue. -/
def perfVaddsat (f : VF) : PerfFn :=
  satOp f (fun fmt a b => signedOf fmt a + signedOf fmt b)

def execVaddsat (f : VF) (s : State) : Result :=
  commitVector (.vaddsat f) (checkVaddsat f) (perfVaddsat f) s

/-- The checks of VSUBSAT at commit. -/
def checkVsubsat (f : VF) : CheckFn :=
  checkInt (.vsubsat f)

/-- VSUBSAT (R121) at the head of the queue. -/
def perfVsubsat (f : VF) : PerfFn :=
  satOp f (fun fmt a b => signedOf fmt a - signedOf fmt b)

def execVsubsat (f : VF) (s : State) : Result :=
  commitVector (.vsubsat f) (checkVsubsat f) (perfVsubsat f) s

/-- The checks of VCMPEQ at commit. -/
def checkVcmpeq (f : VF) : CheckFn :=
  checkInt (.vcmpeq f)

/-- VCMPEQ (R121) at the head of the queue. -/
def perfVcmpeq (f : VF) : PerfFn :=
  intCompare f (fun _ a b => a == b)

def execVcmpeq (f : VF) (s : State) : Result :=
  commitVector (.vcmpeq f) (checkVcmpeq f) (perfVcmpeq f) s

/-- The checks of VCMPLT at commit. -/
def checkVcmplt (f : VF) : CheckFn :=
  checkInt (.vcmplt f)

/-- VCMPLT (R121) at the head of the queue. -/
def perfVcmplt (f : VF) : PerfFn :=
  intCompare f (fun fmt a b => decide (signedOf fmt a < signedOf fmt b))

def execVcmplt (f : VF) (s : State) : Result :=
  commitVector (.vcmplt f) (checkVcmplt f) (perfVcmplt f) s

/-- The checks of VCMPLTU at commit. -/
def checkVcmpltu (f : VF) : CheckFn :=
  checkInt (.vcmpltu f)

/-- VCMPLTU (R121) at the head of the queue. -/
def perfVcmpltu (f : VF) : PerfFn :=
  intCompare f (fun _ a b => decide (a < b))

def execVcmpltu (f : VF) (s : State) : Result :=
  commitVector (.vcmpltu f) (checkVcmpltu f) (perfVcmpltu f) s

end Sys2Proof.Machine
end

