-- ==== Sys2Proof/Machine/VFp.lean ====
section
/-! DEFINITION. VFP, floating-point arithmetic on vectors (R122), and VSFU, special functions (R123). -/

namespace Sys2Proof.Machine

/-- The formats VFP and VSFU accept (R118). -/
def floatOnly (c : VConf) : Bool := isFloat16Up (confFmt c)

/-- The register RSB takes its bias bytes from: v[c + k] (R81, R122). -/
def biasRegOf (k : Nat) (f : VF) : Nat := f.c.toNat + k

def checkFp (i : Instr) (rm : BitVec 3) (k : Nat) (f : VF) : CheckFn :=
  fun c => checks (!floatOnly c || rsbBad04 rm c) (indexBad i c || rsbBad03 rm (biasRegOf k f) c)

/-- A floating instruction of two or three sources: op of format, a, b, c, rounding mode and bias. -/
def fpOp (rm : BitVec 3) (k : Nat) (f : VF) (op : (fmt a b c rm bias : Nat) → Nat × Nat) : PerfFn :=
  rsbHead rm (biasRegOf k f) <| perfRegs fun c a _ h => endLoop (elemLoop c f (confFmt c)
    (fun h i => op (confFmt c) (srcA c f a h i) (srcB c f h i) (vget c h f.c.toNat (confFmt c) i)
      (rmOf rm h) (biasByte h (biasRegOf k f) i)) h)

/-- A floating compare: NV for a signalling NaN, or with `anyNan` for any (R122). -/
def fpCompare (rm : BitVec 3) (f : VF) (anyNan : Bool) (g : Int → Bool) : PerfFn :=
  rsbHead rm (biasRegOf 0 f) <| perfRegs fun c a _ h => endLoop (compareLoop c f
    (fun h i =>
      let x := decodeX (confFmt c) (srcA c f a h i)
      let y := decodeX (confFmt c) (srcB c f h i)
      let nan := isNanX x || isNanX y
      let sig := isSigX x || isSigX y
      ((!nan && g (cmpX x y)).toNat, if sig || (anyNan && nan) then fNV else 0)) h)

/-- The class of a floating encoding as a bit number (R122). -/
def fpClass (fmt a : Nat) : Nat :=
  let x := decodeX fmt a
  let neg := bitAt a (fmtWidth fmt - 1)
  match x with
  | .nan s => if s then 8 else 9
  | .inf n => if n then 0 else 7
  | .fin _ m _ _ =>
    if m = 0 then (if neg then 3 else 4)
    else if isSubnormal fmt a then (if neg then 2 else 5)
    else if neg then 1 else 6

def checkSfu (i : Instr) : CheckFn := fun c => checks (!floatOnly c) (indexBad i c)

/-- A special function of one or two sources (R123). -/
def sfuOp (f : VF) (op : (fmt a b : Nat) → Nat × Nat) : PerfFn :=
  perfRegs fun c _ _ h => endLoop (elemLoop c f (confFmt c)
    (fun h i => op (confFmt c) (vget c h f.a.toNat (confFmt c) i) (srcB c f h i)) h)

/-- The checks of VFADD at commit. -/
def checkVfadd (rm : BitVec 3) (f : VF) : CheckFn :=
  checkFp (.vfadd rm f) rm 0 f

/-- VFADD (R122) at the head of the queue. -/
def perfVfadd (rm : BitVec 3) (f : VF) : PerfFn :=
  fpOp rm 0 f (fun fmt a b _ rm bias => fAdd fmt a b rm bias)

def execVfadd (rm : BitVec 3) (f : VF) (s : State) : Result :=
  commitVector (.vfadd rm f) (checkVfadd rm f) (perfVfadd rm f) s

/-- The checks of VFSUB at commit. -/
def checkVfsub (rm : BitVec 3) (f : VF) : CheckFn :=
  checkFp (.vfsub rm f) rm 0 f

/-- VFSUB (R122) at the head of the queue. -/
def perfVfsub (rm : BitVec 3) (f : VF) : PerfFn :=
  fpOp rm 0 f (fun fmt a b _ rm bias => fAdd fmt a (fNeg fmt b) rm bias)

def execVfsub (rm : BitVec 3) (f : VF) (s : State) : Result :=
  commitVector (.vfsub rm f) (checkVfsub rm f) (perfVfsub rm f) s

/-- The checks of VFMUL at commit. -/
def checkVfmul (rm : BitVec 3) (f : VF) : CheckFn :=
  checkFp (.vfmul rm f) rm 0 f

/-- VFMUL (R122) at the head of the queue. -/
def perfVfmul (rm : BitVec 3) (f : VF) : PerfFn :=
  fpOp rm 0 f (fun fmt a b _ rm bias => fMul fmt a b rm bias)

def execVfmul (rm : BitVec 3) (f : VF) (s : State) : Result :=
  commitVector (.vfmul rm f) (checkVfmul rm f) (perfVfmul rm f) s

/-- The checks of VFMA at commit. -/
def checkVfma (rm : BitVec 3) (f : VF) : CheckFn :=
  checkFp (.vfma rm f) rm 1 f

/-- VFMA (R122) at the head of the queue. -/
def perfVfma (rm : BitVec 3) (f : VF) : PerfFn :=
  fpOp rm 1 f (fun fmt a b c rm bias => fFma fmt a b c rm bias)

def execVfma (rm : BitVec 3) (f : VF) (s : State) : Result :=
  commitVector (.vfma rm f) (checkVfma rm f) (perfVfma rm f) s

/-- The checks of VFMS at commit. -/
def checkVfms (rm : BitVec 3) (f : VF) : CheckFn :=
  checkFp (.vfms rm f) rm 1 f

/-- VFMS (R122) at the head of the queue. -/
def perfVfms (rm : BitVec 3) (f : VF) : PerfFn :=
  fpOp rm 1 f (fun fmt a b c rm bias => fFma fmt a b (fNeg fmt c) rm bias)

def execVfms (rm : BitVec 3) (f : VF) (s : State) : Result :=
  commitVector (.vfms rm f) (checkVfms rm f) (perfVfms rm f) s

/-- The checks of VFNMA at commit. -/
def checkVfnma (rm : BitVec 3) (f : VF) : CheckFn :=
  checkFp (.vfnma rm f) rm 1 f

/-- VFNMA (R122) at the head of the queue. -/
def perfVfnma (rm : BitVec 3) (f : VF) : PerfFn :=
  fpOp rm 1 f (fun fmt a b c rm bias => fFma fmt (fNeg fmt a) b c rm bias)

def execVfnma (rm : BitVec 3) (f : VF) (s : State) : Result :=
  commitVector (.vfnma rm f) (checkVfnma rm f) (perfVfnma rm f) s

/-- The checks of VFMIN at commit. -/
def checkVfmin (rm : BitVec 3) (f : VF) : CheckFn :=
  checkFp (.vfmin rm f) rm 0 f

/-- VFMIN (R122) at the head of the queue. -/
def perfVfmin (rm : BitVec 3) (f : VF) : PerfFn :=
  fpOp rm 0 f (fun fmt a b _ _ _ => fMin fmt a b)

def execVfmin (rm : BitVec 3) (f : VF) (s : State) : Result :=
  commitVector (.vfmin rm f) (checkVfmin rm f) (perfVfmin rm f) s

/-- The checks of VFMAX at commit. -/
def checkVfmax (rm : BitVec 3) (f : VF) : CheckFn :=
  checkFp (.vfmax rm f) rm 0 f

/-- VFMAX (R122) at the head of the queue. -/
def perfVfmax (rm : BitVec 3) (f : VF) : PerfFn :=
  fpOp rm 0 f (fun fmt a b _ _ _ => fMax fmt a b)

def execVfmax (rm : BitVec 3) (f : VF) (s : State) : Result :=
  commitVector (.vfmax rm f) (checkVfmax rm f) (perfVfmax rm f) s

/-- The checks of VFABS at commit. -/
def checkVfabs (rm : BitVec 3) (f : VF) : CheckFn :=
  checkFp (.vfabs rm f) rm 0 f

/-- VFABS (R122) at the head of the queue. -/
def perfVfabs (rm : BitVec 3) (f : VF) : PerfFn :=
  fpOp rm 0 f (fun fmt a _ _ _ _ => (a % 2 ^ (fmtWidth fmt - 1), 0))

def execVfabs (rm : BitVec 3) (f : VF) (s : State) : Result :=
  commitVector (.vfabs rm f) (checkVfabs rm f) (perfVfabs rm f) s

/-- The checks of VFNEG at commit. -/
def checkVfneg (rm : BitVec 3) (f : VF) : CheckFn :=
  checkFp (.vfneg rm f) rm 0 f

/-- VFNEG (R122) at the head of the queue. -/
def perfVfneg (rm : BitVec 3) (f : VF) : PerfFn :=
  fpOp rm 0 f (fun fmt a _ _ _ _ => (fNeg fmt a, 0))

def execVfneg (rm : BitVec 3) (f : VF) (s : State) : Result :=
  commitVector (.vfneg rm f) (checkVfneg rm f) (perfVfneg rm f) s

/-- The checks of VFCMPEQ at commit. -/
def checkVfcmpeq (rm : BitVec 3) (f : VF) : CheckFn :=
  checkFp (.vfcmpeq rm f) rm 0 f

/-- VFCMPEQ (R122) at the head of the queue. -/
def perfVfcmpeq (rm : BitVec 3) (f : VF) : PerfFn :=
  fpCompare rm f false (fun x => x == 0)

def execVfcmpeq (rm : BitVec 3) (f : VF) (s : State) : Result :=
  commitVector (.vfcmpeq rm f) (checkVfcmpeq rm f) (perfVfcmpeq rm f) s

/-- The checks of VFCMPLT at commit. -/
def checkVfcmplt (rm : BitVec 3) (f : VF) : CheckFn :=
  checkFp (.vfcmplt rm f) rm 0 f

/-- VFCMPLT (R122) at the head of the queue. -/
def perfVfcmplt (rm : BitVec 3) (f : VF) : PerfFn :=
  fpCompare rm f true (fun x => decide (x < 0))

def execVfcmplt (rm : BitVec 3) (f : VF) (s : State) : Result :=
  commitVector (.vfcmplt rm f) (checkVfcmplt rm f) (perfVfcmplt rm f) s

/-- The checks of VFCMPLE at commit. -/
def checkVfcmple (rm : BitVec 3) (f : VF) : CheckFn :=
  checkFp (.vfcmple rm f) rm 0 f

/-- VFCMPLE (R122) at the head of the queue. -/
def perfVfcmple (rm : BitVec 3) (f : VF) : PerfFn :=
  fpCompare rm f true (fun x => decide (x ≤ 0))

def execVfcmple (rm : BitVec 3) (f : VF) (s : State) : Result :=
  commitVector (.vfcmple rm f) (checkVfcmple rm f) (perfVfcmple rm f) s

/-- The checks of VFCLASS at commit. -/
def checkVfclass (rm : BitVec 3) (f : VF) : CheckFn :=
  checkFp (.vfclass rm f) rm 0 f

/-- VFCLASS (R122) at the head of the queue. -/
def perfVfclass (rm : BitVec 3) (f : VF) : PerfFn :=
  fpOp rm 0 f (fun fmt a _ _ _ _ => (2 ^ fpClass fmt a, 0))

def execVfclass (rm : BitVec 3) (f : VF) (s : State) : Result :=
  commitVector (.vfclass rm f) (checkVfclass rm f) (perfVfclass rm f) s

/-- The checks of VFRCP at commit. -/
def checkVfrcp (f : VF) : CheckFn :=
  checkSfu (.vfrcp f)

/-- VFRCP (R92) at the head of the queue. -/
def perfVfrcp (f : VF) : PerfFn :=
  sfuOp f (fun fmt a _ => rcpApprox fmt a)

def execVfrcp (f : VF) (s : State) : Result :=
  commitVector (.vfrcp f) (checkVfrcp f) (perfVfrcp f) s

/-- The checks of VFRSQ at commit. -/
def checkVfrsq (f : VF) : CheckFn :=
  checkSfu (.vfrsq f)

/-- VFRSQ (R92) at the head of the queue. -/
def perfVfrsq (f : VF) : PerfFn :=
  sfuOp f (fun fmt a _ => rsqApprox fmt a)

def execVfrsq (f : VF) (s : State) : Result :=
  commitVector (.vfrsq f) (checkVfrsq f) (perfVfrsq f) s

/-- The checks of VFRCPS at commit. -/
def checkVfrcps (f : VF) : CheckFn :=
  checkSfu (.vfrcps f)

/-- VFRCPS (R93) at the head of the queue. -/
def perfVfrcps (f : VF) : PerfFn :=
  sfuOp f (fun fmt a x => stepApprox fmt false a x)

def execVfrcps (f : VF) (s : State) : Result :=
  commitVector (.vfrcps f) (checkVfrcps f) (perfVfrcps f) s

/-- The checks of VFRSQS at commit. -/
def checkVfrsqs (f : VF) : CheckFn :=
  checkSfu (.vfrsqs f)

/-- VFRSQS (R93) at the head of the queue. -/
def perfVfrsqs (f : VF) : PerfFn :=
  sfuOp f (fun fmt a x => stepApprox fmt true a x)

def execVfrsqs (f : VF) (s : State) : Result :=
  commitVector (.vfrsqs f) (checkVfrsqs f) (perfVfrsqs f) s

/-- The checks of VFEXP2 at commit. -/
def checkVfexp2 (f : VF) : CheckFn :=
  checkSfu (.vfexp2 f)

/-- VFEXP2 (R123) at the head of the queue. -/
def perfVfexp2 (f : VF) : PerfFn :=
  sfuOp f (fun fmt a _ => specialFn 0 fmt a)

def execVfexp2 (f : VF) (s : State) : Result :=
  commitVector (.vfexp2 f) (checkVfexp2 f) (perfVfexp2 f) s

/-- The checks of VFLOG2 at commit. -/
def checkVflog2 (f : VF) : CheckFn :=
  checkSfu (.vflog2 f)

/-- VFLOG2 (R123) at the head of the queue. -/
def perfVflog2 (f : VF) : PerfFn :=
  sfuOp f (fun fmt a _ => specialFn 1 fmt a)

def execVflog2 (f : VF) (s : State) : Result :=
  commitVector (.vflog2 f) (checkVflog2 f) (perfVflog2 f) s

/-- The checks of VFTANH at commit. -/
def checkVftanh (f : VF) : CheckFn :=
  checkSfu (.vftanh f)

/-- VFTANH (R123) at the head of the queue. -/
def perfVftanh (f : VF) : PerfFn :=
  sfuOp f (fun fmt a _ => specialFn 2 fmt a)

def execVftanh (f : VF) (s : State) : Result :=
  commitVector (.vftanh f) (checkVftanh f) (perfVftanh f) s

end Sys2Proof.Machine
end

