-- ==== Sys2Proof/Machine/VCvt.lean ====
section
/-! DEFINITION. The VCVT group: conversion, quantisation, dequantisation and codebook decoding (R124 to R127),
with the block scales of R85 and R86 and the codebook of R88. -/

namespace Sys2Proof.Machine

/-! ## Register groups (R117) -/

/-- A group of n registers from r reaches past v(N − 1). -/
def groupBad (c : VConf) (r n : Nat) : Bool := decide (confN c < r + n)

/-- Two register ranges share a register. -/
def groupsMeet (r n q k : Nat) : Bool := decide (r < q + k) && decide (q < r + n)

/-- A destination group of another width that meets the source (R117). -/
def groupClash (c : VConf) (tf d a : Nat) : Bool :=
  fmtWidth tf != confW c && groupsMeet d (groupLen c tf) a 1

/-! ## Block scales (R85, R86) -/

/-- Index of the scale byte of element i of register r with elements of width w (R85). -/
def scaleIndex (c : VConf) (w r i : Nat) : Nat :=
  let b := blockLen (confBlk c)
  ((r % (b * w / 8)) * regElems c w + i) / b

/-- The scale byte of an element, in the scale register. -/
def scaleByte (c : VConf) (h : Hart) (sreg w r i : Nat) : Nat :=
  bitsGet (vreg h sreg) (8 * scaleIndex c w r i) 8

/-- A value times 2^(s − 127); a scale byte 0xFF makes it a NaN (R86). -/
def applyScale (x : XVal) (s : Nat) : XVal := if s = 0xFF then .nan false else scaleX x ((s : Int) - 127)

def isOB (f : Nat) : Bool := f == 10 || f == 11

/-- The largest OB code. -/
def obMax (f : Nat) : Int := if f = 10 then 255 else 15

/-! ## The codebook (R88) -/

/-- The 32-bit word of a codebook entry. -/
def codebookWord (s : State) (core x : Nat) : Nat := ((getCore s core).codebook.toArray.getD (x % 256) 0).toNat

/-- Coordinate j of index x, in quarters. -/
def cbDecode (w x j : Nat) : Int :=
  let y := 2 * toSigned 4 (bitsGet w (4 * j) 4)
  let odd := popCount 7 (bitsGet x 8 7) % 2 == 1
  let y := if (j < 7 ∧ bitAt x (8 + j)) ∨ (j = 7 ∧ odd) then -y else y
  if bitAt x 15 then y + 1 else y

/-- Weight i of the CB2 vector at register r, as an exact value. -/
def cbWeight (c : VConf) (s : State) (r i : Nat) : XVal :=
  let x := bitsGet (vreg s.h (r + i / regElems c 2)) (16 * ((i % regElems c 2) / 8)) 16
  xSigned (cbDecode (codebookWord s (curCore s) x) x (i % 8)) (-2)

/-! ## VCVT (R124) -/

/-- A format that VCVT converts from or to. -/
def cvtFormat (f : Nat) : Bool := !(f == 10 || f == 11 || f == 12 || f == 15)

def cvtTo (f : VF) : Nat := bitsGet f.imm.toNat 0 4

def cvtElem (fmt tf rm bias : Nat) (sat : Bool) (a : Nat) : Nat × Nat :=
  if fmt = tf then
    if isSigX (decodeX fmt a) then (qNaN fmt, fNV) else (a, 0)
  else roundX (decodeX fmt a) tf rm bias sat

/-- The checks of VCVT at commit. -/
def checkVcvt (rm : BitVec 3) (sat : Bool) (f : VF) : CheckFn :=
  fun c => checks (!cvtFormat (confFmt c) || !cvtFormat (cvtTo f) || rsbBad04 rm c ||
      groupClash c (cvtTo f) f.d.toNat f.a.toNat)
    (indexBad (.vcvt rm sat f) c || rsbBad03 rm f.c.toNat c || groupBad c f.d.toNat (groupLen c (cvtTo f)))

/-- VCVT (R124) at the head of the queue. -/
def perfVcvt (rm : BitVec 3) (sat : Bool) (f : VF) : PerfFn :=
  rsbHead rm f.c.toNat <| perfRegs fun c _ _ h => endLoop (elemLoop c f (cvtTo f)
    (fun h i => cvtElem (confFmt c) (cvtTo f) (rmOf rm h) (biasByte h f.c.toNat i) sat
      (vget c h f.a.toNat (confFmt c) i)) h)

def execVcvt (rm : BitVec 3) (sat : Bool) (f : VF) (s : State) : Result :=
  commitVector (.vcvt rm sat f) (checkVcvt rm sat f) (perfVcvt rm sat f) s

/-! ## VQNT (R125) -/

def qntMax (tf : Nat) : Nat :=
  match tf with
  | 3 => 448 | 4 => 57344 | 5 => 6 | 8 => 127 | 10 => 255 | _ => 15

def qntTo (tf : Nat) : Bool := tf == 3 || tf == 4 || tf == 5 || tf == 8 || tf == 10 || tf == 11

/-- Where RSB takes its bias bytes: after the scale register and, for OB, the zero points (R125, R126). -/
def qntBias (f : VF) (ob : Bool) : Nat := f.c.toNat + if ob then 2 else 1

/-- The smallest k from a starting point with span ≤ qmax × 2^k, in at most n steps. -/
def leastScale (span : XVal) (qmax : Nat) : (n : Nat) → Int → Int
  | 0, k => k
  | n + 1, k =>
    if cmpX span (mulX (xInt (qmax : Int)) (xPow2 k)).1 ≤ 0 then k else leastScale span qmax n (k + 1)

/-- k of a block (R125): 0 for a zero span, clamped to −127 to 127. -/
def blockScale (span : XVal) (qmax : Nat) : Int :=
  match span with
  | .fin _ m e _ =>
    if m = 0 then 0
    else min (max (leastScale span qmax 4 (leadExp m e - (Nat.log2 qmax : Int) - 1)) (-127)) 127
  | _ => 0

def minX (x y : XVal) : XVal := if cmpX y x < 0 then y else x
def maxX (x y : XVal) : XVal := if cmpX x y < 0 then y else x

/-- RoundToInt of an exact value that is finite. -/
def intOfX (rm bias : Nat) (x : XVal) : Int × Bool :=
  match x with
  | .fin neg m e st => roundToInt rm bias neg m e st
  | _ => (0, false)

/-- One code of a block: value, k, zero point; the code and its flags (R83, R125). -/
def qntCode (tf rm bias : Nat) (sat : Bool) (x : XVal) (k zp : Int) : Nat × Nat :=
  let y := (mulX x (xPow2 (-k))).1
  if isOB tf then
    match y with
    | .inf neg => ((if neg then 0 else (obMax tf).toNat), fSAT ||| fNX)
    | _ =>
      let (q, nx) := intOfX rm bias y
      let q := q + zp
      if q < 0 then (0, fSAT ||| fNX)
      else if obMax tf < q then ((obMax tf).toNat, fSAT ||| fNX)
      else (q.toNat, if nx then fNX else 0)
  else roundX y tf rm bias sat

/-- Quantise the block of B elements from element i0 (R125). DESIGN CHOICE (log 54): the elements and bias bytes of a
block are read before its scale byte, its zero-point byte and its codes are written, in this order. -/
def qntBlock (c : VConf) (f : VF) (tf rm : Nat) (sat : Bool) (i0 : Nat) (acc : Hart × Nat) : Hart × Nat :=
  let b := blockLen (confBlk c)
  let h := acc.1
  let w := fmtWidth tf
  let d := f.d.toNat
  let val (i : Nat) : XVal := if isPad c i then xZero false else decodeX 0 (vget c h f.a.toNat 0 i)
  let xs := (upTo b).map fun j => val (i0 + j)
  let at8 := 8 * scaleIndex c w d i0
  let put (scale zp : Nat) (h : Hart) : Hart :=
    let h := vsetBits f.c.toNat at8 8 scale h
    if isOB tf then vsetBits (f.c.toNat + 1) at8 8 zp h else h
  if xs.any isNanX then
    ((upTo b).foldl (fun h j => vset c d tf (i0 + j) 0 h) (put 0xFF 0 h), acc.2 ||| fNV)
  else
    let fin := xs.filter fun x => !isInfX x
    let lo := fin.foldl minX (xZero false)
    let hi := fin.foldl maxX (xZero false)
    let span := if isOB tf then (addX hi (negX lo) false).1 else maxX (absX lo) (absX hi)
    let k := blockScale span (qntMax tf)
    let zp := if isOB tf then min (max (intOfX 0 0 (mulX (negX lo) (xPow2 (-k))).1).1 0) (obMax tf) else 0
    let codes := (upTo b).map fun j =>
      if isPad c (i0 + j) then ((if isOB tf then zp.toNat else 0), 0)
      else qntCode tf rm (biasByte h (qntBias f (isOB tf)) (i0 + j)) sat (xs.getD j (xZero false)) k zp
    let h := put (k + 127).toNat zp.toNat h
    ((upTo b).foldl (fun h j => vset c d tf (i0 + j) (codes.getD j (0, 0)).1 h) h,
      codes.foldl (fun fl x => fl ||| x.2) acc.2)

/-- The checks of VQNT at commit. -/
def checkVqnt (rm : BitVec 3) (sat : Bool) (f : VF) : CheckFn :=
  fun c => checks (confFmt c != 0 || confBlk c == 0 || c.vl % max 1 (blockLen (confBlk c)) != 0 || !qntTo (cvtTo f) ||
      groupClash c (cvtTo f) f.d.toNat f.a.toNat)
    (indexBad (.vqnt rm sat f) c || (isOB (cvtTo f) && decide (confN c ≤ f.c.toNat + 1)) ||
      rsbBad03 rm (qntBias f (isOB (cvtTo f))) c)

/-- VQNT (R125) at the head of the queue. -/
def perfVqnt (rm : BitVec 3) (sat : Bool) (f : VF) : PerfFn :=
  rsbHead rm (qntBias f (isOB (cvtTo f))) <| perfWhen (fun c h => h.vstart % blockLen (confBlk c) == 0) <|
    perfRegs fun c _ _ h =>
      let b := blockLen (confBlk c)
      endLoop ((fromTo (h.vstart / b) (c.vl / b)).foldl
        (fun acc n => qntBlock c f (cvtTo f) (rmOf rm h) sat (n * b) acc) (h, 0))

def execVqnt (rm : BitVec 3) (sat : Bool) (f : VF) (s : State) : Result :=
  commitVector (.vqnt rm sat f) (checkVqnt rm sat f) (perfVqnt rm sat f) s

/-! ## VDQNT (R126) and VCBDEC (R127) -/

def dqntFrom (f : Nat) : Bool := f == 3 || f == 4 || f == 5 || f == 8 || isOB f || f == 12

/-- The value of a blocked element before its scale: OB codes less their zero point (R77), CB2 coordinates. -/
def blockedValue (c : VConf) (s : State) (r sreg i : Nat) : XVal :=
  let fmt := confFmt c
  if fmt = 12 then cbWeight c s r i
  else if isOB fmt then
    let z := scaleByte c s.h (sreg + 1) (confW c) r i
    let z := if fmt = 11 then z % 16 else z
    xInt ((vget c s.h r fmt i : Int) - z)
  else decodeX fmt (vget c s.h r fmt i)

def dqntElem (c : VConf) (f : VF) (rm : Nat) (sat : Bool) (s : State) (i : Nat) : Nat × Nat :=
  let sc := scaleByte c s.h f.c.toNat (confW c) f.a.toNat i
  let x := applyScale (blockedValue c s f.a.toNat f.c.toNat i) sc
  let (r, fl) := roundX x (cvtTo f) rm (biasByte s.h (qntBias f (isOB (confFmt c))) i) sat
  (r, fl ||| if sc = 0xFF then fNV else 0)

/-- The checks of VDQNT at commit. -/
def checkVdqnt (rm : BitVec 3) (sat : Bool) (f : VF) : CheckFn :=
  fun c => checks (!dqntFrom (confFmt c) || confBlk c == 0 || decide (2 < cvtTo f) || rsbBad04 rm c ||
      groupClash c (cvtTo f) f.d.toNat f.a.toNat)
    (indexBad (.vdqnt rm sat f) c || (isOB (confFmt c) && decide (confN c ≤ f.c.toNat + 1)) ||
      rsbBad03 rm (qntBias f (isOB (confFmt c))) c || groupBad c f.d.toNat (groupLen c (cvtTo f)))

/-- VDQNT (R126) at the head of the queue. -/
def perfVdqnt (rm : BitVec 3) (sat : Bool) (f : VF) : PerfFn :=
  fun c a b s =>
    rsbHead rm (qntBias f (isOB (confFmt c))) (perfRegs fun c _ _ h => endLoop (elemLoop c f (cvtTo f)
      (fun h i => dqntElem c f (rmOf rm h) sat { s with h := h } i) h)) c a b s

def execVdqnt (rm : BitVec 3) (sat : Bool) (f : VF) (s : State) : Result :=
  commitVector (.vdqnt rm sat f) (checkVdqnt rm sat f) (perfVdqnt rm sat f) s

/-- The checks of VCBDEC at commit. -/
def checkVcbdec (rm : BitVec 3) (sat : Bool) (f : VF) : CheckFn :=
  fun c => checks (confFmt c != 12 || groupClash c 1 f.d.toNat f.a.toNat)
    (indexBad (.vcbdec rm sat f) c || groupBad c f.d.toNat (groupLen c 1))

/-- VCBDEC (R127) at the head of the queue. -/
def perfVcbdec (rm : BitVec 3) (sat : Bool) (f : VF) : PerfFn :=
  fun c a b s =>
    perfRegs (fun c _ _ h => endLoop (elemLoop c f 1
      (fun h i => roundX (cbWeight c { s with h := h } f.a.toNat i) 1 0 0 false) h)) c a b s

def execVcbdec (rm : BitVec 3) (sat : Bool) (f : VF) (s : State) : Result :=
  commitVector (.vcbdec rm sat f) (checkVcbdec rm sat f) (perfVcbdec rm sat f) s

end Sys2Proof.Machine
end

