-- ==== Sys2Proof/Machine/VMove.lean ====
section
/-! DEFINITION. VMASK (R137, R138) and VMOV (R139 to R142). -/

namespace Sys2Proof.Machine

/-- An instruction that is not stopped between element groups: a non-zero `vstart` faults (R134). -/
def wholeOp (g : VConf → Word → Word → Hart → Hart) : PerfFn :=
  perfWhen (fun _ h => h.vstart == 0) (perfRegs g)

/-- Mask logic: result bits below vl − vlpad, zero at the pads (R137). -/
def maskOp (f : VF) (g : (a b n : Nat) → Nat) : PerfFn :=
  wholeOp fun c a _ h =>
    let n := c.vl - c.vlpad
    let x := g (if f.sa then a.toNat else mreg h f.a.toNat) (mreg h f.b.toNat) n % 2 ^ n
    { h with m := h.m.setIfInBounds f.d.toNat (bitsSet (mreg h f.d.toNat) 0 c.vl x) }

def checkMask (i : Instr) : CheckFn := fun c => checks false (indexBad i c)

/-- A value leaves for a scalar register through the read-back queue (R19, R335). -/
def pushReadback (d : BitVec 6) (x : Word) (h : Hart) : Hart := { h with readback := h.readback ++ [(sregOf d, x)] }

/-- The positions MPOPC and MFIRST look at (R138). -/
def selectedBits (c : VConf) (f : VF) (h : Hart) : Nat :=
  (mreg h f.a.toNat &&& mreg h f.m.toNat) % 2 ^ (c.vl - c.vlpad)

/-- The lowest one among n bits from bit i. -/
def lowestOne (x : Nat) : (n i : Nat) → Option Nat
  | 0, _ => none
  | n + 1, i => if bitAt x i then some i else lowestOne x n (i + 1)

/-- VLmax under a captured configuration. -/
def confVlmax (c : VConf) : Nat := vlmaxOf c.lanes (bitsGet c.vcfg.toNat 0 2) (confFmt c)

/-- An element index at or above VLmax (R139, R140). -/
def elementBad (f : VF) (c : VConf) : Bool := decide (confVlmax c ≤ f.imm.toNat)

/-- An element-wise move: the value of each element (R139). -/
def moveOp (f : VF) (g : VConf → Word → (h0 h : Hart) → Nat → Nat) : PerfFn :=
  perfRegs fun c a _ h0 => endLoop (elemLoop c f (confFmt c) (fun h i => (g c a h0 h i, 0)) h0)

/-- Set bits of a mask register below position i (R141). -/
def countBelow (x i : Nat) : Nat := popCount i x

/-- The checks of MAND at commit. -/
def checkMand (f : VF) : CheckFn :=
  checkMask (.mand f)

/-- MAND (R137) at the head of the queue. -/
def perfMand (f : VF) : PerfFn :=
  maskOp f (fun a b _ => a &&& b)

def execMand (f : VF) (s : State) : Result :=
  commitVector (.mand f) (checkMand f) (perfMand f) s

/-- The checks of MOR at commit. -/
def checkMor (f : VF) : CheckFn :=
  checkMask (.mor f)

/-- MOR (R137) at the head of the queue. -/
def perfMor (f : VF) : PerfFn :=
  maskOp f (fun a b _ => a ||| b)

def execMor (f : VF) (s : State) : Result :=
  commitVector (.mor f) (checkMor f) (perfMor f) s

/-- The checks of MXOR at commit. -/
def checkMxor (f : VF) : CheckFn :=
  checkMask (.mxor f)

/-- MXOR (R137) at the head of the queue. -/
def perfMxor (f : VF) : PerfFn :=
  maskOp f (fun a b _ => a ^^^ b)

def execMxor (f : VF) (s : State) : Result :=
  commitVector (.mxor f) (checkMxor f) (perfMxor f) s

/-- The checks of MANDN at commit. -/
def checkMandn (f : VF) : CheckFn :=
  checkMask (.mandn f)

/-- MANDN (R137) at the head of the queue. -/
def perfMandn (f : VF) : PerfFn :=
  maskOp f (fun a b n => a &&& (2 ^ n - 1 - b % 2 ^ n))

def execMandn (f : VF) (s : State) : Result :=
  commitVector (.mandn f) (checkMandn f) (perfMandn f) s

/-- The checks of MSET at commit. -/
def checkMset (f : VF) : CheckFn :=
  checkMask (.mset f)

/-- MSET (R137) at the head of the queue. -/
def perfMset (f : VF) : PerfFn :=
  maskOp f (fun a _ n => 2 ^ min a n - 1)

def execMset (f : VF) (s : State) : Result :=
  commitVector (.mset f) (checkMset f) (perfMset f) s

/-- The checks of MPOPC at commit. -/
def checkMpopc (f : VF) : CheckFn :=
  checkMask (.mpopc f)

/-- MPOPC (R138) at the head of the queue. -/
def perfMpopc (f : VF) : PerfFn :=
  wholeOp fun c _ _ h => { pushReadback f.d (word (popCount 16384 (selectedBits c f h))) h with vstart := 0 }

def execMpopc (f : VF) (s : State) : Result :=
  commitVector (.mpopc f) (checkMpopc f) (perfMpopc f) s

/-- The checks of MFIRST at commit. -/
def checkMfirst (f : VF) : CheckFn :=
  checkMask (.mfirst f)

/-- MFIRST (R138) at the head of the queue. -/
def perfMfirst (f : VF) : PerfFn :=
  wholeOp fun c _ _ h =>
    let x := match lowestOne (selectedBits c f h) (c.vl - c.vlpad) 0 with
      | some i => word i
      | none => word (2 ^ 64 - 1)
    { pushReadback f.d x h with vstart := 0 }

def execMfirst (f : VF) (s : State) : Result :=
  commitVector (.mfirst f) (checkMfirst f) (perfMfirst f) s

/-- The checks of VMV at commit. -/
def checkVmv (f : VF) : CheckFn :=
  checkMask (.vmv f)

/-- VMV (R139) at the head of the queue. -/
def perfVmv (f : VF) : PerfFn :=
  moveOp f (fun c _ _ h i => vget c h f.a.toNat (confFmt c) i)

def execVmv (f : VF) (s : State) : Result :=
  commitVector (.vmv f) (checkVmv f) (perfVmv f) s

/-- The checks of VMVS at commit. -/
def checkVmvs (f : VF) : CheckFn :=
  fun c => checks (elementBad f c) (indexBad (.vmvs f) c)

/-- VMVS (R140) at the head of the queue. -/
def perfVmvs (f : VF) : PerfFn :=
  wholeOp fun c _ _ h =>
    let x := vget c h f.a.toNat (confFmt c) f.imm.toNat
    let y := if confFmt c = 6 ∨ confFmt c = 7 ∨ confFmt c = 8 ∨ confFmt c = 13 then
        ofInt 64 (toSigned (confW c) x) else x
    pushReadback f.d (word y) h

def execVmvs (f : VF) (s : State) : Result :=
  commitVector (.vmvs f) (checkVmvs f) (perfVmvs f) s

/-- The checks of VINS at commit. -/
def checkVins (f : VF) : CheckFn :=
  fun c => checks (elementBad f c) (indexBad (.vins f) c)

/-- VINS (R140) at the head of the queue. -/
def perfVins (f : VF) : PerfFn :=
  wholeOp fun c a _ h => vset c f.d.toNat (confFmt c) f.imm.toNat (a.toNat % 2 ^ confW c) h

def execVins (f : VF) (s : State) : Result :=
  commitVector (.vins f) (checkVins f) (perfVins f) s

/-- The checks of VBCAST at commit. -/
def checkVbcast (f : VF) : CheckFn :=
  fun c => checks (!f.sa && elementBad f c) (indexBad (.vbcast f) c)

/-- VBCAST (R139) at the head of the queue. -/
def perfVbcast (f : VF) : PerfFn :=
  moveOp f (fun c a h0 _ _ =>
    if f.sa then a.toNat % 2 ^ confW c else vget c h0 f.a.toNat (confFmt c) f.imm.toNat)

def execVbcast (f : VF) (s : State) : Result :=
  commitVector (.vbcast f) (checkVbcast f) (perfVbcast f) s

/-- The checks of VIOTA at commit. -/
def checkViota (f : VF) : CheckFn :=
  fun c => checks (!intOnly c) (indexBad (.viota f) c)

/-- VIOTA (R141) at the head of the queue. -/
def perfViota (f : VF) : PerfFn :=
  moveOp f (fun c _ _ h i =>
    countBelow (mreg h f.a.toNat % 2 ^ (c.vl - c.vlpad)) i % 2 ^ confW c)

def execViota (f : VF) (s : State) : Result :=
  commitVector (.viota f) (checkViota f) (perfViota f) s

/-- The checks of VMERGE at commit. -/
def checkVmerge (f : VF) : CheckFn :=
  checkMask (.vmerge f)

/-- VMERGE (R142) at the head of the queue. -/
def perfVmerge (f : VF) : PerfFn :=
  perfRegs fun c a _ h => { (visited c h).foldl (fun h i =>
      vset c f.d.toNat (confFmt c) i
        (if isPad c i then padValue (confFmt c)
         else if maskBit h f.m.toNat i then srcA c f a h i else srcB c f h i) h) h with vstart := 0 }

def execVmerge (f : VF) (s : State) : Result :=
  commitVector (.vmerge f) (checkVmerge f) (perfVmerge f) s

end Sys2Proof.Machine
end

