-- ==== Sys2Proof/Machine/Smat.lean ====
section
/-! DEFINITION. Small-matrix instructions that touch no memory (R150 to R163). Matrices are lists of 36 FP32
encodings, entry (p, q) at 6p + q. -/

namespace Sys2Proof.Machine

def smRows (f : VF) : Nat := bitsGet f.imm.toNat 0 3
def smCols (f : VF) : Nat := bitsGet f.imm.toNat 3 3
def smInner (f : VF) : Nat := bitsGet f.imm.toNat 6 3

def shapeBad (x : Nat) : Bool := x == 0 || x == 7

/-- The 0x04 checks every SMAT instruction shares (R54, R155). -/
def smBad (f : VF) : Bool := shapeBad (smRows f) || shapeBad (smCols f) || shapeBad (smInner f)

/-- Those with a vector operand need FP32 (R153). -/
def smBadV (f : VF) (c : VConf) : Bool := smBad f || confFmt c != 0

/-- The number of instances (R151). -/
def instancesOf (c : VConf) : Nat := min c.vl c.lanes

/-- The matrix of instance i in register g[n]. -/
def gmat (h : Hart) (n i : Nat) : List Nat :=
  (upTo 36).map fun k => bitsGet (h.g.toArray.getD n 0) (1152 * i + 32 * k) 32

/-- Write one entry of g[n][i]. -/
def gset (n i p q x : Nat) (h : Hart) : Hart :=
  { h with g := h.g.setIfInBounds n (bitsSet (h.g.toArray.getD n 0) (1152 * i + 32 * (6 * p + q)) 32 x) }

/-- Entry (p, q) of a matrix. -/
def ent (m : List Nat) (p q : Nat) : Nat := m.getD (6 * p + q) 0

def setEnt (m : List Nat) (p q x : Nat) : List Nat := m.set (6 * p + q) x

/-- The positions of an r × c block. -/
def block (r c : Nat) : List (Nat × Nat) := (upTo r).flatMap fun p => (upTo c).map fun q => (p, q)

/-- Component j of instance i of a vector operand (R153). -/
def vcomp (h : Hart) (r i j : Nat) : Nat := bitsGet (vreg h r) (32 * (8 * i + j)) 32

def setComps (r i : Nat) (l : List Nat) (h : Hart) : Hart :=
  (upTo 8).foldl (fun h j => vsetBits r (32 * (8 * i + j)) 32 (l.getD j 0) h) h

/-- What one active instance gives: a matrix, vector components, its flag bit and flags of `smflags`. -/
structure SmRes where
  mat : List Nat := []
  vec : List Nat := []
  flag : Bool := false
  fl : Nat := 0

def smNPD : Nat := 256
def smSING : Nat := 128

/-- Where an instruction writes: the entries of g[d] that it changes, a vector register, a flag mask. -/
structure SmDest where
  shape : List (Nat × Nat) := []
  vec : Option Nat := none
  mask : Nat := 0

def smFlagBit (k i : Nat) (b : Bool) (h : Hart) : Hart := if k = 0 then h else msetBit k i b h

/-- One instance (R152, R154). -/
def smInstance (c : VConf) (f : VF) (d : SmDest) (comp : Hart → Nat → SmRes) (h : Hart) (i : Nat) : Hart :=
  let zeroVec (h : Hart) : Hart := match d.vec with | some r => setComps r i [] h | none => h
  if isPad c i then smFlagBit d.mask i false (zeroVec h)
  else if maskBit h f.m.toNat i then
    let r := comp h i
    let h := d.shape.foldl (fun h pq => gset f.d.toNat i pq.1 pq.2 (ent r.mat pq.1 pq.2) h) h
    let h := match d.vec with | some v => setComps v i r.vec h | none => h
    smFlagBit d.mask i r.flag { h with smflags := h.smflags ||| BitVec.ofNat 9 r.fl }
  else if f.mz then
    smFlagBit d.mask i false (zeroVec (d.shape.foldl (fun h pq => gset f.d.toNat i pq.1 pq.2 0 h) h))
  else h

/-- Every instance; a non-zero `vstart` faults (R156). -/
def smOp (f : VF) (d : Word → SmDest) (comp : Word → Hart → Nat → SmRes) : PerfFn :=
  wholeOp fun c _ b h => (upTo (instancesOf c)).foldl (smInstance c f (d b) (comp b)) h

/-- A row index of 6 or more faults (R155). -/
def rowIndexed (p : PerfFn) : PerfFn := fun c a b s => if 6 ≤ b.toNat then .trap 0x04 none s else p c a b s

/-! ## Arithmetic on entries -/

/-- Round(x, FP32, RNE) of an exact value, and its flags. -/
def rd (x : XVal × Nat) : Nat × Nat :=
  let (r, fl) := roundX x.1 0 0 0 false
  (r, fl ||| x.2)

def ffma (a b c : Nat) : Nat × Nat := fFma 0 a b c 0 0

/-- A chain of fused multiply-adds t = FFma(x, y, t) with flags. -/
def chain (l : List (Nat × Nat)) (t : Nat × Nat) : Nat × Nat :=
  l.foldl (fun (t : Nat × Nat) p => let (r, fl) := ffma p.1 p.2 t.1; (r, t.2 ||| fl)) t

/-- The dot product of a row and a column: a product first unless a value is accumulated into (R159). -/
def dot (l : List (Nat × Nat)) (acc : Option Nat) : Nat × Nat :=
  match acc, l with
  | some t, l => chain l (t, 0)
  | none, [] => (0, 0)
  | none, p :: l => chain l (fMul 0 p.1 p.2 0 0)

/-- A matrix from its entries with flags. -/
def buildMat (shape : List (Nat × Nat)) (g : Nat → Nat → Nat × Nat) (m : List Nat) : List Nat × Nat :=
  shape.foldl (fun (acc : List Nat × Nat) pq =>
    let (x, fl) := g pq.1 pq.2
    (setEnt acc.1 pq.1 pq.2 x, acc.2 ||| fl)) (m, 0)

def zeroMat : List Nat := List.replicate 36 0

/-- SMMUL and SMMA (R159). -/
def smProduct (f : VF) (accumulate : Bool) (h : Hart) (i : Nat) : SmRes :=
  let a := gmat h f.a.toNat i
  let b := gmat h f.b.toNat i
  let g := gmat h f.d.toNat i
  let (m, fl) := buildMat (block (smRows f) (smCols f)) (fun p q =>
    dot ((upTo (smInner f)).map fun k => (ent a p k, ent b k q)) (if accumulate then some (ent g p q) else none)) zeroMat
  { mat := m, fl := fl }

/-! ## Cholesky (R160) -/

/-- One column of the factor: L, flags, and the column it stopped at. DESIGN CHOICE (log 63): the comparison t > 0
raises no NV, on a signalling NaN either, which column 0 can meet; R96 lists no helper for it. -/
def cholColumn (n : Nat) (a : List Nat) (acc : List Nat × Nat × Option Nat) (j : Nat) : List Nat × Nat × Option Nat :=
  match acc with
  | (l, fl, some k) => (l, fl, some k)
  | (l, fl, none) =>
    let (t, g) := chain ((upTo j).map fun k => (fNeg 0 (ent l j k), ent l j k)) (ent a j j, 0)
    let x := decodeX 0 t
    if isNanX x || decide (cmpX x (xZero false) ≤ 0) then (l, fl ||| g, some j)
    else
      let (r, g') := rd (sqrtX x)
      (fromTo (j + 1) n).foldl (fun (acc : List Nat × Nat × Option Nat) y =>
        let (t, g) := chain ((upTo j).map fun k => (fNeg 0 (ent acc.1 y k), ent acc.1 j k)) (ent a y j, 0)
        let (q, g') := rd (divX (decodeX 0 t) (decodeX 0 r))
        (setEnt acc.1 y j q, acc.2.1 ||| g ||| g', none)) (setEnt l j j r, fl ||| g ||| g', none)

def smCholesky (f : VF) (h : Hart) (i : Nat) : SmRes :=
  let n := smRows f
  let (l, fl, stop) := (upTo n).foldl (cholColumn n (gmat h f.a.toNat i)) (zeroMat, 0, none)
  match stop with
  | none => { mat := l, fl := fl }
  | some j =>
    { mat := (block n n).foldl (fun m pq =>
        if pq.2 ≤ pq.1 ∧ j ≤ pq.2 then setEnt m pq.1 pq.2 (qNaN 0) else m) l
      flag := true, fl := fl ||| smNPD }

/-! ## LU with partial pivoting (R161) -/

/-- |x| ranks above |y|; a NaN ranks above infinity. -/
def ranksAbove (x y : Nat) : Bool :=
  let a := decodeX 0 x
  let b := decodeX 0 y
  if isNanX a then !isNanX b else if isNanX b then false else decide (0 < cmpX (absX a) (absX b))

def swapRows (m : List Nat) (p q : Nat) : List Nat :=
  (upTo 6).foldl (fun m' k => setEnt (setEnt m' p k (ent m q k)) q k (ent m p k)) m

def swapAt (l : List Nat) (p q : Nat) : List Nat := (l.set p (l.getD q 0)).set q (l.getD p 0)

/-- One column: U, the permutation, flags, singular. -/
def luColumn (n : Nat) (acc : List Nat × List Nat × Nat × Bool) (j : Nat) : List Nat × List Nat × Nat × Bool :=
  let (u, perm, fl, sing) := acc
  let pv := (fromTo (j + 1) n).foldl (fun p x => if ranksAbove (ent u x j) (ent u p j) then x else p) j
  let u := if pv = j then u else swapRows u j pv
  let perm := if pv = j then perm else swapAt perm j pv
  if isZeroX (decodeX 0 (ent u j j)) then
    ((fromTo (j + 1) n).foldl (fun u x => setEnt u x j 0) u, perm, fl, true)
  else
    let (u, fl) := (fromTo (j + 1) n).foldl (fun (acc : List Nat × Nat) x =>
      let (l, g) := rd (divX (decodeX 0 (ent acc.1 x j)) (decodeX 0 (ent acc.1 j j)))
      (fromTo (j + 1) n).foldl (fun (acc : List Nat × Nat) q =>
        let (y, g) := ffma (fNeg 0 l) (ent acc.1 j q) (ent acc.1 x q)
        (setEnt acc.1 x q y, acc.2 ||| g)) (setEnt acc.1 x j l, acc.2 ||| g)) (u, fl)
    (u, perm, fl, sing)

def smFactor (f : VF) (h : Hart) (i : Nat) : SmRes :=
  let n := smRows f
  let (u, perm, fl, sing) := (upTo n).foldl (luColumn n) (gmat h f.a.toNat i, upTo 8, 0, false)
  { mat := u, vec := perm.map (8 * i + ·), flag := sing, fl := fl ||| if sing then smSING else 0 }

/-! ## Triangular solves (R162) -/

/-- The terms of row p: coefficient position and unknown, in order. -/
def solveTerms (mode n p : Nat) : List ((Nat × Nat) × Nat) :=
  if mode ≤ 2 then (upTo p).map fun k => ((p, k), k)
  else (fromTo (p + 1) n).reverse.map fun k => ((if mode = 3 then (p, k) else (k, p)), k)

def smSolve (f : VF) (h : Hart) (i : Nat) : SmRes :=
  let n := smRows f
  let mode := smInner f
  let g := gmat h f.a.toNat i
  let rows := if mode ≤ 2 then upTo n else (upTo n).reverse
  let (x, fl) := rows.foldl (fun (acc : List Nat × Nat) p =>
    let (t, fl) := chain ((solveTerms mode n p).map fun k => (fNeg 0 (ent g k.1.1 k.1.2), acc.1.getD k.2 0))
      (vcomp h f.b.toNat i p, 0)
    let (y, fl') := if mode = 1 then (t, 0) else rd (divX (decodeX 0 t) (decodeX 0 (ent g p p)))
    (acc.1.set p y, acc.2 ||| fl ||| fl')) (List.replicate 8 0, 0)
  let sing := mode != 1 && (upTo n).any fun p => isZeroX (decodeX 0 (ent g p p))
  { vec := x, flag := sing, fl := fl ||| if sing then smSING else 0 }

/-- The checks of SMGET at commit. -/
def checkSmget (f : VF) : CheckFn :=
  fun c => checks (smBadV f c) (indexBad (.smget f) c)

/-- SMGET (R158) at the head of the queue. -/
def perfSmget (f : VF) : PerfFn :=
  rowIndexed <| smOp f (fun _ => { vec := some f.d.toNat })
    fun b h i => { vec := (upTo (smCols f)).map fun q => ent (gmat h f.a.toNat i) b.toNat q }

def execSmget (f : VF) (s : State) : Result :=
  commitVector (.smget f) (checkSmget f) (perfSmget f) s

/-- The checks of SMPUT at commit. -/
def checkSmput (f : VF) : CheckFn :=
  fun c => checks (smBadV f c) (indexBad (.smput f) c)

/-- SMPUT (R158) at the head of the queue. -/
def perfSmput (f : VF) : PerfFn :=
  rowIndexed <| smOp f (fun b => { shape := (upTo (smCols f)).map fun q => (b.toNat, q) })
    fun b h i => { mat := (upTo (smCols f)).foldl (fun m q => setEnt m b.toNat q (vcomp h f.a.toNat i q)) zeroMat }

def execSmput (f : VF) (s : State) : Result :=
  commitVector (.smput f) (checkSmput f) (perfSmput f) s

/-- The checks of SMID at commit. -/
def checkSmid (f : VF) : CheckFn :=
  fun c => checks (smBad f) (indexBad (.smid f) c)

/-- SMID (R158) at the head of the queue. -/
def perfSmid (f : VF) : PerfFn :=
  smOp f (fun _ => { shape := block (smRows f) (smCols f) })
    fun _ _ _ => { mat := (upTo 6).foldl (fun m p => setEnt m p p 0x3F800000) zeroMat }

def execSmid (f : VF) (s : State) : Result :=
  commitVector (.smid f) (checkSmid f) (perfSmid f) s

/-- The checks of SMADD at commit. -/
def checkSmadd (f : VF) : CheckFn :=
  fun c => checks (smBad f) (indexBad (.smadd f) c)

/-- SMADD (R158) at the head of the queue. -/
def perfSmadd (f : VF) : PerfFn :=
  smOp f (fun _ => { shape := block (smRows f) (smCols f) }) fun _ h i =>
    let r := buildMat (block (smRows f) (smCols f)) (fun p q =>
      fAdd 0 (ent (gmat h f.a.toNat i) p q) (ent (gmat h f.b.toNat i) p q) 0 0) zeroMat
    { mat := r.1, fl := r.2 }

def execSmadd (f : VF) (s : State) : Result :=
  commitVector (.smadd f) (checkSmadd f) (perfSmadd f) s

/-- The checks of SMSCL at commit. -/
def checkSmscl (f : VF) : CheckFn :=
  fun c => checks (smBad f) (indexBad (.smscl f) c)

/-- SMSCL (R158) at the head of the queue. -/
def perfSmscl (f : VF) : PerfFn :=
  smOp f (fun _ => { shape := block (smRows f) (smCols f) }) fun b h i =>
    let r := buildMat (block (smRows f) (smCols f)) (fun p q =>
      fMul 0 (b.toNat % 2 ^ 32) (ent (gmat h f.a.toNat i) p q) 0 0) zeroMat
    { mat := r.1, fl := r.2 }

def execSmscl (f : VF) (s : State) : Result :=
  commitVector (.smscl f) (checkSmscl f) (perfSmscl f) s

/-- The checks of SMMUL at commit. -/
def checkSmmul (f : VF) : CheckFn :=
  fun c => checks (smBad f) (indexBad (.smmul f) c)

/-- SMMUL (R159) at the head of the queue. -/
def perfSmmul (f : VF) : PerfFn :=
  smOp f (fun _ => { shape := block (smRows f) (smCols f) }) fun _ => smProduct f false

def execSmmul (f : VF) (s : State) : Result :=
  commitVector (.smmul f) (checkSmmul f) (perfSmmul f) s

/-- The checks of SMMA at commit. -/
def checkSmma (f : VF) : CheckFn :=
  fun c => checks (smBad f) (indexBad (.smma f) c)

/-- SMMA (R159) at the head of the queue. -/
def perfSmma (f : VF) : PerfFn :=
  smOp f (fun _ => { shape := block (smRows f) (smCols f) }) fun _ => smProduct f true

def execSmma (f : VF) (s : State) : Result :=
  commitVector (.smma f) (checkSmma f) (perfSmma f) s

/-- The checks of SMTR at commit. -/
def checkSmtr (f : VF) : CheckFn :=
  fun c => checks (smBad f) (indexBad (.smtr f) c)

/-- SMTR (R158) at the head of the queue. -/
def perfSmtr (f : VF) : PerfFn :=
  smOp f (fun _ => { shape := block (smCols f) (smRows f) }) fun _ h i =>
    { mat := (block (smCols f) (smRows f)).foldl (fun m pq =>
        setEnt m pq.1 pq.2 (ent (gmat h f.a.toNat i) pq.2 pq.1)) zeroMat }

def execSmtr (f : VF) (s : State) : Result :=
  commitVector (.smtr f) (checkSmtr f) (perfSmtr f) s

/-- The checks of SMMV at commit. -/
def checkSmmv (f : VF) : CheckFn :=
  fun c => checks (smBadV f c) (indexBad (.smmv f) c)

/-- SMMV (R159) at the head of the queue. -/
def perfSmmv (f : VF) : PerfFn :=
  smOp f (fun _ => { vec := some f.d.toNat }) fun _ h i =>
    let ys := (upTo (smRows f)).map fun p =>
      dot ((upTo (smCols f)).map fun q => (ent (gmat h f.a.toNat i) p q, vcomp h f.b.toNat i q)) none
    { vec := ys.map (·.1), fl := ys.foldl (fun a y => a ||| y.2) 0 }

def execSmmv (f : VF) (s : State) : Result :=
  commitVector (.smmv f) (checkSmmv f) (perfSmmv f) s

/-- The checks of SMCHOL at commit. -/
def checkSmchol (f : VF) : CheckFn :=
  fun c => checks (smBad f || smCols f != smRows f) (indexBad (.smchol f) c)

/-- SMCHOL (R160) at the head of the queue. -/
def perfSmchol (f : VF) : PerfFn :=
  smOp f (fun _ => { shape := block (smRows f) (smRows f), mask := f.c.toNat }) fun _ => smCholesky f

def execSmchol (f : VF) (s : State) : Result :=
  commitVector (.smchol f) (checkSmchol f) (perfSmchol f) s

/-- The checks of SMLU at commit. -/
def checkSmlu (f : VF) : CheckFn :=
  fun c => checks (smBadV f c || smCols f != smRows f) (indexBad (.smlu f) c)

/-- SMLU (R161) at the head of the queue. -/
def perfSmlu (f : VF) : PerfFn :=
  smOp f (fun _ => { shape := block (smRows f) (smRows f), vec := some f.b.toNat, mask := f.c.toNat })
    fun _ => smFactor f

def execSmlu (f : VF) (s : State) : Result :=
  commitVector (.smlu f) (checkSmlu f) (perfSmlu f) s

/-- The checks of SMSOLV at commit. -/
def checkSmsolv (f : VF) : CheckFn :=
  fun c => checks (smBadV f c || decide (4 < smInner f)) (indexBad (.smsolv f) c)

/-- SMSOLV (R162) at the head of the queue. -/
def perfSmsolv (f : VF) : PerfFn :=
  smOp f (fun _ => { vec := some f.d.toNat, mask := f.c.toNat }) fun _ => smSolve f

def execSmsolv (f : VF) (s : State) : Result :=
  commitVector (.smsolv f) (checkSmsolv f) (perfSmsolv f) s

end Sys2Proof.Machine
end

