-- ==== Sys2Proof/Machine/VMem.lean ====
section
/-! DEFINITION. Vector memory instructions: vector loads, stores, VAMO and VUPD (R255 to R264), SMLD and SMST
(R157), partial completion (R263) and its replay (R370), and what queued entries may touch (R337). -/

namespace Sys2Proof.Machine

/-! ## Addresses (R256) -/

def eaUnit (c : VConf) (base : Word) (i : Nat) : Nat := (base.toNat + i * confW c / 8) % 2 ^ 64
def eaStride (base stride : Word) (i : Nat) : Nat := (base.toNat + i * stride.toNat) % 2 ^ 64
def eaIndex (c : VConf) (h : Hart) (base : Word) (r i : Nat) : Nat :=
  (base.toNat + vget c h r (confFmt c) i * confW c / 8) % 2 ^ 64

/-- A byte of the window that lies in a FIFO-mode bank. -/
def fifoBankAt (s : State) (va : Nat) : Bool :=
  touchesWindow va 1 && (getCore s (curCore s)).banks.getD ((va - windowBase) / 8192) .cache == .fifo

/-- Strided and indexed accesses do not reach FIFO banks (R252). -/
def refuseFifo (va : Nat) : Acc Unit := do
  if fifoBankAt (← get) va then throw (.fault 0x0C va) else pure ()

/-- An atomic element is naturally aligned (R250). -/
def needAligned (va n : Nat) : Acc Unit := if va % n ≠ 0 then throw (.fault 0x0D va) else pure ()

/-! ## Paths (R244) -/

/-- The performance counter of the lane-bound path (R378). -/
def laneBound : Nat := 5
/-- The performance counter of the permutation network (R378). -/
def permuted : Nat := 6

/-- The path of a unit-stride access from a base address (R244). -/
def unitPath (s : State) (base : Word) : Nat :=
  if lanesOf s s.cur = 32 ∧ base.toNat % 1024 = 0 then laneBound else permuted

/-- The turn's hart with a vector access on a path. -/
def vectorWho (path : Nat) (s : State) : Who := { currentWho s with path := some path }

/-! ## Order (R321, R326) -/

/-- A release waits for the hart's discards on their way (R329), and at system scope for its outstanding remote writes
(R317). -/
def releaseNow (c : VConf) (s : State) : Bool :=
  !s.discards.any (fun p => p.2 == s.cur) && (confScope c != 4 || s.h.remoteWrites == 0)

/-- The element before has performed, wherever it went: every remote write of the hart is acknowledged, and no discard of
it is on its way (R326). -/
def ticketReady (s : State) : Bool := !s.discards.any (fun p => p.2 == s.cur) && s.h.remoteWrites == 0

/-- An element of the hart is on its way to a peer or the host, or its answer has come. -/
def askedElement (s : State) : Bool :=
  s.remotes.any fun r => r.hart == s.cur && r.kind != 1 && decide (0 < r.elem) && decide (r.elem < fetchElem)

def drawTickets (n : Nat) (s : State) : State := { s with tickets := (s.tickets + n) % 2 ^ 64 }

/-- Under `mo` = 2 each of n elements is a release and an acquire, draws a ticket and performs before the next draws
(R326); one that goes to a peer draws as it is sent. It returns the last write by then, so that no read lease of before
may serve it (log 42). An element of a read-only load performs no acquire (R328). -/
def ticketed {α : Type} (c : VConf) (n : Nat) (acq : Bool) (m : Acc α) : Acc α :=
  if confMo c = 2 then fun s =>
    let asked := askedElement s
    if !asked && !ticketReady s then (.error .wait, s)
    else
      match (ExceptT.run m).run (if acq then acquire (curCore s) s else s) with
      | (.ok x, t) => (.ok x, if asked then t else drawTickets n t)
      | (.error .wait, t) => (.error .wait, if !asked && askedElement t then drawTickets n t else t)
      | (.error (.fault cause va), t) => (.error (.fault cause va), t)
  else m

/-- A load under a hint performs acquires: all but a read-only one (R328). -/
def hintAcquires (hint : Nat) : Bool := hint != 1

/-- The hint with which an element is read: under `mo` = 2 no read-only copy serves one that is not itself read-only
(R326). -/
def readHint (c : VConf) (hint : Nat) : Nat := if confMo c = 2 ∧ hint ≠ 1 then hintLatest else hint

/-! ## Passes over parts of a vector -/

/-- A part of a vector that performs as a whole: elements of one access, or those that a FIFO-mode bank moves. -/
structure Part where
  first : Nat
  size : Nat := 1
  fifo : Bool := false
  deriving DecidableEq, Repr

/-- An element delivered poison: noted for the end of the instruction (R264). -/
def notePoison (i va : Nat) (gs : List Nat) : Acc Unit :=
  if gs.isEmpty then pure ()
  else modify fun s =>
    let p := s.h.pass
    { s with h := { s.h with pass := { p with pois := p.pois ++ gs, first := p.first.orElse fun _ => some (i, va) } } }

/-- How a pass keeps its place: `vstart`, or a bit for each element. -/
inductive Track where
  | inOrder | byBits
  deriving DecidableEq, Repr

/-- Elements in an element group of the configuration at the head. -/
def groupElems (h : Hart) : Nat := max 1 (256 / confW h.headConf)

/-- Element groups read early that lie below an element of the entry at the head are consumed (R20). -/
def consumeEarly (i : Nat) (h : Hart) : Hart :=
  { h with loadData := h.loadData.map fun l =>
      l.filter fun g => g.slot != h.qhead || decide (i / groupElems h ≤ g.group) }

/-- A part has performed. -/
def partDone (t : Track) (p : Part) (s : State) : State :=
  let s := dropUsed s.cur (p.first + 1) (p.first + p.size + 1) s
  let next := p.first + p.size
  if s.h.replay then { s with h := { s.h with md := s.h.md ||| maskOf p.first p.size } }
  else match t with
    | .inOrder =>
      let mid := !p.fifo && next % groupElems s.h != 0
      { s with h := consumeEarly next { s.h with vstart := next, pass := { s.h.pass with mid := mid } } }
    | .byBits => { s with h := { s.h with pass := { s.h.pass with done := s.h.pass.done ||| maskOf p.first p.size } } }

/-- A part has faulted: those of its elements that count (R263). -/
def partFaulted (t : Track) (counts : Nat → Bool) (p : Part) (cause va : Nat) (s : State) : State :=
  let s := dropUsed s.cur (p.first + 1) (p.first + p.size + 1) s
  let l := ((upTo p.size).map (p.first + ·)).filter counts
  let s := { s with h := { s.h with pass := { s.h.pass with
    faults := s.h.pass.faults ++ l.map (fun i => (i, cause, va)), entry := 0, got := [] } } }
  if s.h.replay || t == .byBits then s
  else
    let next := p.first + p.size
    { s with h := { s.h with vstart := next, pass := { s.h.pass with mid := !p.fifo && next % groupElems s.h != 0 } } }

/-- Perform parts one after another: false when one waits. -/
def runParts (t : Track) (counts : Nat → Bool) (act : Part → Acc Unit) : List Part → State → State × Bool
  | [], s => (s, true)
  | p :: l, s =>
    match runAcc (act p) s with
    | (.ok _, s') => runParts t counts act l (partDone t p s')
    | (.error .wait, s') => (s', false)
    | (.error (.fault cause va), s') => runParts t counts act l (partFaulted t counts p cause va s')

/-- The parts still to perform: in a replay those with elements that count, else those from `vstart` up to the front
(R338, R370). -/
def partsTodo (counts : Nat → Bool) (parts : List Part) (s : State) : List Part :=
  parts.filter fun p =>
    !s.h.pass.faults.any (fun x => decide (p.first ≤ x.1) && decide (x.1 < p.first + p.size)) &&
    !bitAt s.h.pass.done p.first &&
    (if s.h.replay then (upTo p.size).any (fun j => counts (p.first + j)) else decide (s.h.vstart < p.first + p.size) && decide (p.first < s.h.front))

/-- Single elements as parts. -/
def singles (n : Nat) : List Part := (upTo n).map fun i => { first := i }

/-- The lane group of element i of width w (R16). -/
def laneOf (s : State) (w lanes i : Nat) : Nat := groupOfLane s s.cur lanes (i * w / 256 % max 1 lanes)

/-- The poison that the pass has met is delivered, and a data trap that `errctl` selects is owed from now on
(R264, R373). -/
def deliverPass (c : VConf) (w : Nat) (s : State) : State :=
  match s.h.pass.first with
  | none => s
  | some (i, va) =>
    let s := deliverPoison s.h.pass.pois (some i) (some (laneOf s w c.lanes i)) s
    let owed := s.h.owesTrap.orElse fun _ => if s.h.errctl.getLsbD 2 then some (word va) else none
    { s with h := { s.h with owesTrap := owed } }

/-- The last-use discards of a load whose elements have all been read (R258). -/
def sendDiscards (s : State) : State :=
  let s' := s.h.lastUse.foldl (fun s lu => sendDiscard s.cur lu s) s
  { s' with h := { s'.h with lastUse := [] } }

/-- The end of an instruction whose elements have all performed: poison (R264, R373), its acquire under `mo` ≠ 0, if it
is one (R321), discards (R258). -/
def memEnd (acq : Bool) (c : VConf) (w : Nat) (s : State) : Perf :=
  let s := deliverPass c w s
  let s := sendDiscards (if acq && confMo c != 0 then acquireAt (confScope c) (curCore s) s else s)
  let owed := s.h.owesTrap
  let s := { s with h := { s.h with pass := {}, vstart := 0, owesTrap := none } }
  match owed with
  | none => .done s
  | some va => .after va s

/-- The end of a pass with faults (R263): the poison of the elements read is delivered first. -/
def passEnd (c : VConf) (w access total : Nat) (s : State) : Perf := .faulted access total (deliverPass c w s)

/-- Access codes of a fault record (R364). -/
def accRead : Nat := 0
def accWrite : Nat := 1
def accAtomic : Nat := 2

/-- The end of a pass whose parts have all been tried. -/
def endPass (acq : Bool) (c : VConf) (access total : Nat) (s : State) : Perf :=
  if s.h.pass.faults.isEmpty then memEnd acq c (confW c) s else passEnd c (confW c) access total s

/-- The pass has come to the front and elements lie beyond it. -/
def atFront (c : VConf) (s : State) : Bool := !s.h.replay && decide (s.h.front < c.vl)

/-- A memory instruction over parts in order (R115, R263). -/
def memLoop (acq : Bool) (c : VConf) (access : Nat) (counts : Nat → Bool) (parts : List Part) (act : Part → Acc Unit) (s : State) :
    Perf :=
  let (s, ok) := runParts .inOrder counts act (partsTodo counts parts s) s
  if ok && !atFront c s then endPass acq c access c.vl s else .wait s

/-- An element that an instruction accesses: below the pads and selected. -/
def liveElem (c : VConf) (f : VF) (h : Hart) (i : Nat) : Bool := !isPad c i && maskBit h f.m.toNat i

/-- An element that a pass still has to access: from `vstart` on, in a replay outside `md` (R263, R370). -/
def dueElem (c : VConf) (f : VF) (h : Hart) (i : Nat) : Bool :=
  liveElem c f h i && (if h.replay then !bitAt h.md i else decide (h.vstart ≤ i))

/-- Of n elements from one on, those that a pass still has to access. -/
def dueCount (c : VConf) (f : VF) (h : Hart) (i n : Nat) : Nat := ((upTo n).filter fun j => dueElem c f h (i + j)).length

/-! ## Loads (R257, R258) -/

/-- The unit of each piece of an element that a last-use load has read through the L1. -/
def noteTouched (hint va n : Nat) : Acc Unit :=
  if hint ≠ 2 || touchesWindow va n then pure ()
  else modify fun s =>
    let l := (pieces va n).filterMap fun p => (virtualHit s (currentWho s) p.1 1).map (·.1)
    { s with h := { s.h with lastUse := l.foldl (fun l lu => insertNat lu l) s.h.lastUse } }

/-- The value of element i that has been read early for the entry at the head (R336). -/
def earlyValue (h : Hart) (i : Nat) : Option Nat :=
  let w := confW h.headConf
  let n := groupElems h
  ((h.loadData.toList.flatten).find? fun g => g.slot == h.qhead && g.group == i / n && bitAt g.read (i % n)).map
    fun g => bitsGet g.data (w * (i % n)) w

/-- The read of bytes for element i of a load. -/
def loadBytes (c : VConf) (path hint va n i : Nat) : Acc Rd := do
  let r ← readMem (vectorWho path (← get)) va n (readHint c hint) (i + 1) .load
  noteTouched hint va n
  notePoison i va r.pois
  pure r

/-- The read of one element of at least 8 bits, with its poison value (R264). -/
def loadElem (c : VConf) (path hint va i : Nat) : Acc Nat := do
  match earlyValue (← get).h i with
  | some x => pure x
  | none => do
    let r ← loadBytes c path hint va (confW c / 8) i
    pure (if r.pois.isEmpty then r.val else qNaN (confFmt c))

def setElem (c : VConf) (f : VF) (i x : Nat) : Acc Unit :=
  modify fun s => { s with h := vset c f.d.toNat (confFmt c) i x s.h }

/-- One element of a load (R115, R257). -/
def loadUnit (c : VConf) (f : VF) (path hint : Nat) (ea : Hart → Nat → Nat) (indexed : Bool) (i : Nat) :
    Acc Unit := do
  let s ← get
  if isPad c i then setElem c f i (padValue (confFmt c))
  else if maskBit s.h f.m.toNat i then
    let va := ea s.h i
    ticketed c 1 (hintAcquires hint) do
      if indexed then refuseFifo va else pure ()
      let x ← loadElem c path hint va i
      setElem c f i x
  else if f.mz then setElem c f i 0
  else pure ()

/-- One element of 4 bits of a unit-stride load: half of a byte (R256). -/
def loadNibble (c : VConf) (f : VF) (hint : Nat) (base : Word) (i : Nat) : Acc Unit := do
  if isPad c i then setElem c f i (padValue (confFmt c))
  else
    ticketed c 1 (hintAcquires hint) do
      let r ← loadBytes c (unitPath (← get) base) hint (eaUnit c base i) 1 i
      setElem c f i (if r.pois.isEmpty then bitsGet r.val (4 * (i % 2)) 4 else 0)

/-- Write bits of a vector that start at an element. -/
def setRun (c : VConf) (f : VF) (i n x : Nat) : Acc Unit :=
  modify fun s =>
    let w := confW c
    { s with h := (upTo n).foldl (fun h j => vset c f.d.toNat (confFmt c) (i + j) (bitsGet x (w * j) w) h) s.h }

/-- One 16-bit index of a CB2 load: eight weights, which move whole (R256). -/
def loadIndex (c : VConf) (f : VF) (hint : Nat) (base : Word) (i : Nat) : Acc Unit := do
  if isPad c i then setRun c f i 8 0
  else
    ticketed c (dueCount c f (← get).h i 8) (hintAcquires hint) do
      let r ← loadBytes c (unitPath (← get) base) hint (eaUnit c base i) 2 i
      setRun c f i 8 (if r.pois.isEmpty then r.val else 0)

/-! ## FIFO-mode banks (R252) -/

/-- Elements of an entry of a FIFO-mode bank. -/
def entryElems (c : VConf) : Nat := 64 / confW c

/-- The FIFO-mode bank that holds the first byte of element i of a unit-stride transfer, when the element is active and
still due. -/
def fifoOfElem (s : State) (c : VConf) (f : VF) (base : Word) (i : Nat) : Option Nat :=
  let va := eaUnit c base i
  if dueElem c f s.h i ∧ fifoBankAt s va then some ((va - windowBase) / 8192) else none

/-- The active elements from i on, at most n of them, that lie in one FIFO-mode bank. -/
def fifoRun (s : State) (c : VConf) (f : VF) (base : Word) (bank : Nat) : (n i : Nat) → Nat
  | 0, _ => 0
  | n + 1, i => if fifoOfElem s c f base i = some bank then fifoRun s c f base bank n (i + 1) + 1 else 0

/-- The entries that a FIFO-mode bank moves at once: up to the end of the element group, so that a stop finds the
group moved whole or not at all (R342), and one that reaches past the end of the bank alone. -/
def fifoSize (c : VConf) (base : Word) (i run : Nat) : Nat :=
  let e := entryElems c
  let n := 256 / confW c
  let inside := (8192 - (eaUnit c base i - windowBase) % 8192) / 8 * e
  min run (min (max e inside) ((((i / n + 1) * n - i) + e - 1) / e * e))

/-- The parts of a unit-stride transfer from element i on: entries of FIFO-mode banks, and between them parts of u
elements, of which the first due lies in the bank that the others lie in; none when the elements in a bank are no whole
entries. -/
def mixedParts (s : State) (c : VConf) (f : VF) (base : Word) (u : Nat) : (fuel i : Nat) → Option (List Part)
  | 0, _ => some []
  | n + 1, i =>
    if c.vl ≤ i then some []
    else match fifoOfElem s c f base i with
      | none =>
        if (upTo u).any fun j => (fifoOfElem s c f base (i + j)).isSome then none
        else (mixedParts s c f base u n (i + u)).map fun l => { first := i, size := u } :: l
      | some b =>
        let run := fifoRun s c f base b (c.vl - i) i
        if run % entryElems c ≠ 0 then none
        else
          let k := fifoSize c base i run
          (mixedParts s c f base u n (i + k)).map fun l => { first := i, size := k, fifo := true } :: l

/-- Some active element from `vstart` on lies in a FIFO-mode bank. -/
def meetsFifo (c : VConf) (f : VF) (base : Word) (s : State) : Bool :=
  touchesWindow (eaUnit c base s.h.vstart) ((c.vl - s.h.vstart) * confW c / 8 + 1) &&
  (fromTo s.h.vstart (c.vl - c.vlpad)).any fun i => (fifoOfElem s c f base i).isSome

/-- The bank of an entry, with the checks of a window access. -/
def fifoBankOf (va : Nat) (write : Bool) : Acc Nat := do
  meetOust (currentWho (← get)) va write
  match windowCheck (← get) (curCore (← get)) va 8 with
  | .error e => throw e
  | .ok (off, .fifo) => pure (off / 8192)
  | .ok _ => throw (.fault 0x0C va)

/-- Entries of a FIFO-mode bank for a load: 64 bits of consecutive elements each. -/
def loadEntries (c : VConf) (f : VF) (hint : Nat) (base : Word) (p : Part) : Acc Unit :=
  ticketed c p.size (hintAcquires hint) do
    let b ← fifoBankOf (eaUnit c base p.first) false
    let s ← get
    let x ← fifoPop (curCore s) b (accessId (currentWho s) s) (p.size / entryElems c)
    setRun c f p.first p.size x

/-- Parts of `size` elements from n to m. -/
def partsFrom (n m size : Nat) : List Part :=
  (upTo ((m - n + size - 1) / size)).map fun k => { first := n + size * k, size := size }

/-- A unit-stride transfer in parts of u elements; one that meets a FIFO-mode bank is unmasked and moves whole entries
there (R252). -/
def unitStride (acq : Bool) (c : VConf) (f : VF) (access u : Nat) (base : Word) (entries : Part → Acc Unit) (one : Nat → Acc Unit)
    (s : State) : Perf :=
  let due := dueElem c f s.h
  let from1 := s.h.vstart / u * u
  if meetsFifo c f base s then
    match f.m == 0, mixedParts s c f base u c.vl from1 with
    | true, some parts => memLoop acq c access due parts (fun p => if p.fifo then entries p else one p.first) s
    | _, _ => .trap 0x04 none s
  else memLoop acq c access due (partsFrom from1 c.vl u) (fun p => one p.first) s

/-- A unit-stride load (R252, R256). -/
def loadUnitStride (c : VConf) (f : VF) (hint : Nat) (base : Word) (s : State) : Perf :=
  unitStride (hintAcquires hint) c f accRead (if confW c = 2 then 8 else 1) base (loadEntries c f hint base)
    (if confW c = 2 then loadIndex c f hint base
     else if confW c = 4 then loadNibble c f hint base
     else loadUnit c f (unitPath s base) hint (fun _ i => eaUnit c base i) false) s

/-- A load of elements each at an address of its own. -/
def loadEach (c : VConf) (f : VF) (hint : Nat) (ea : Hart → Nat → Nat) (s : State) : Perf :=
  memLoop (hintAcquires hint) c accRead (dueElem c f s.h) (singles c.vl) (fun p => loadUnit c f permuted hint ea true p.first) s

/-! ## Stores (R259) -/

/-- A store or VUPD under `mo` = 1 is a release before any element (R321). -/
def releaseFirst (p : PerfFn) : PerfFn :=
  fun c a b s => if confMo c = 1 && !releaseNow c s then .wait s else p c a b s

def storeElem (path va n x : Nat) : Acc Unit := do writeMem (vectorWho path (← get)) va n x

def storeUnit (c : VConf) (f : VF) (path : Nat) (ea : Hart → Nat → Nat) (indexed : Bool) (i : Nat) : Acc Unit := do
  let s ← get
  if liveElem c f s.h i then
    let va := ea s.h i
    ticketed c 1 true do
      if indexed then refuseFifo va else pure ()
      storeElem path va (confW c / 8) (vget c s.h f.c.toNat (confFmt c) i)
  else pure ()

/-- Bits of a vector from element i on. -/
def getRun (c : VConf) (h : Hart) (r i n : Nat) : Nat :=
  (upTo n).foldl (fun x j => x + vget c h r (confFmt c) (i + j) <<< (confW c * j)) 0

/-- Where the bytes of a store are written, outside the window: nothing for the window. -/
def storeSite (va : Nat) : Acc (Option Site) := do
  if touchesWindow va 1 then pure none
  else do
    let s ← get
    match virtualHit s (currentWho s) va 2 with
    | some _ => pure (some .cached)
    | none => do
      let e ← translate (currentWho s) va .store
      pure (some (placeOfPa (paOf e va) (bitAt e.pte 9)))

/-- A half-byte store to a device that no port reaches is a write that is dropped (R430). -/
def halfDropped (r : Rd) (s : State) : State :=
  match r.pois with
  | g :: _ => if 2 ^ 48 ≤ g then unreachable (currentWho s) (poisonPa g) s else s
  | [] => s

/-- Half a byte is stored by one single-copy atomic read-modify-write of the byte (R259): where the byte is uncached, as
an atomic there; in the L1 once the line is held in W. The read needs W alone. -/
def storeHalf (path : Nat) (low : Bool) (va x i : Nat) : Acc Unit := do
  let op := if low then 12 else 13
  let merge : Acc Unit := do
    let old ← readMem (vectorWho path (← get)) va 1 0 (i + 1) .store
    storeElem path va 1 (combine op 1 old.val x 0)
  match ← storeSite va with
  | some .remote | some .home => do
    let r ← atomicRmw (vectorWho path (← get)) va 1 op x 0 (i + 1) .store
    modify (halfDropped r)
  | some .cached => do
    preparePiece (vectorWho path (← get)) va 1
    merge
  | _ => merge

/-- A byte of two 4-bit elements: one that is not stored keeps its bits of memory (R259). -/
def storeNibbles (c : VConf) (f : VF) (base : Word) (i : Nat) : Acc Unit := do
  let s ← get
  let lo := dueElem c f s.h i
  let hi := dueElem c f s.h (i + 1)
  let va := eaUnit c base i
  let x := getRun c s.h f.c.toNat i 2
  let path := unitPath s base
  if lo && hi then ticketed c 2 true (storeElem path va 1 x)
  else if lo || hi then ticketed c 1 true (storeHalf path lo va x i)
  else pure ()

def storeIndex (c : VConf) (f : VF) (base : Word) (i : Nat) : Acc Unit := do
  if isPad c i then pure ()
  else do
    let s ← get
    ticketed c (dueCount c f s.h i 8) true
      (storeElem (unitPath s base) (eaUnit c base i) 2 (getRun c s.h f.c.toNat i 8))

/-- Entries of a FIFO-mode bank for a store. -/
def storeEntries (c : VConf) (f : VF) (base : Word) (p : Part) : Acc Unit :=
  ticketed c p.size true do
    let b ← fifoBankOf (eaUnit c base p.first) true
    let s ← get
    fifoPush (curCore s) b (accessId (currentWho s) s) (p.size / entryElems c) (getRun c s.h f.c.toNat p.first p.size)

def storeUnitStride (c : VConf) (f : VF) (base : Word) (s : State) : Perf :=
  unitStride false c f accWrite (if confW c = 2 then 8 else if confW c = 4 then 2 else 1) base (storeEntries c f base)
    (if confW c = 2 then storeIndex c f base
     else if confW c = 4 then storeNibbles c f base
     else storeUnit c f (unitPath s base) (fun _ i => eaUnit c base i) false) s

def storeEach (c : VConf) (f : VF) (ea : Hart → Nat → Nat) (s : State) : Perf :=
  memLoop false c accWrite (dueElem c f s.h) (singles c.vl) (fun p => storeUnit c f permuted ea true p.first) s

/-! ## VAMO (R260) -/

/-- The Combine operation of a VAMO op code. -/
def vamoOp (op : Nat) : Nat :=
  match op with
  | 0 => 0 | 1 => 0 | 2 => 8 | 3 => 3 | 4 => 4 | 5 => 9 | 6 => 10 | 7 => 1 | 8 => 5 | 9 => 6 | _ => 7

/-- The captured format an op code needs. -/
def vamoFormat (op fmt : Nat) : Bool :=
  match op with
  | 0 => fmt == 6 | 3 => fmt == 6 | 4 => fmt == 6
  | 1 => fmt == 13
  | 2 => fmt == 0 | 5 => fmt == 0 | 6 => fmt == 0
  | _ => fmt == 6 || fmt == 13 || fmt == 0

/-- The line of an element, by which the elements of one VAMO are grouped; its faults (R250, R262). -/
def vamoLine (va n : Nat) : Acc Nat := do
  needAligned va n
  if touchesWindow va n then
    match windowCheck (← get) (curCore (← get)) va n with
    | .error e => throw e
    | .ok (_, .scratch) => pure (2 ^ 48 + va / 128)
    | .ok _ => throw (.fault 0x0C va)
  else do
    let e ← translate (currentWho (← get)) va .amo
    pure (paOf e va / 128)

/-- The lines of elements: nothing when one waits; an element that faults is noted and left out. -/
def vamoLines (c : VConf) (ea : Hart → Nat → Nat) : List Nat → State → State × Option (List (Nat × Nat))
  | [], s => (s, some [])
  | i :: l, s =>
    match runAcc (vamoLine (ea s.h i) (confW c / 8)) s with
    | (.error .wait, s') => (s', none)
    | (.error (.fault cause va), s') =>
      vamoLines c ea l (partFaulted .byBits (fun _ => true) { first := i } cause va s')
    | (.ok k, s') =>
      let (s', r) := vamoLines c ea l s'
      (s', r.map fun l => (i, k) :: l)

/-- Elements line by line, the lines in order of their first element; the elements of a line rise. -/
def byLines : (n : Nat) → List (Nat × Nat) → List (List Nat)
  | 0, _ => []
  | _, [] => []
  | n + 1, (i, k) :: l =>
    (i :: (l.filter fun x => x.2 == k).map (·.1)) :: byLines n (l.filter fun x => x.2 != k)

/-- The operand of an element. -/
def vamoData (c : VConf) (f : VF) (h : Hart) (i : Nat) : Nat := vget c h f.c.toNat (confFmt c) i

/-- The elements of a line on another device: one locked operation there, in one request, whose answer holds the old
values in the order of the elements (R260, R312). It stays until the last element of the line is done. -/
def vamoRemote (c : VConf) (f : VF) (op : Nat) (ea : Hart → Nat → Nat) (is : List Nat) (line i : Nat) : Acc Rd := do
  let s ← get
  let n := confW c / 8
  let w := vectorWho permuted s
  let at1 (j : Nat) : Nat := line * 128 + ea s.h j % 128
  let v ← remoteAsk w 2 (at1 (is.headD i)) n (vamoOp op) (vamoData c f s.h (is.headD i)) 0 (is.getLastD i + 1)
    ((is.drop 1).map fun j => (at1 j, vamoData c f s.h j))
  remoteValue w (at1 i) n (v.map fun v => bitsGet v (8 * n * is.idxOf i) (8 * n))

/-- An element of the line before i has written it: one that meets no poisoned granule there (R264). -/
def vamoWrote (s : State) (ea : Hart → Nat → Nat) (is : List Nat) (lu n i : Nat) : Bool :=
  let unit (j : Nat) : Nat := ea s.h j % 128 / luSize lu
  (is.takeWhile (· != i)).any fun j =>
    unit j == unit i && (lineBytes lu (homeCopy s lu) (ea s.h j % luSize lu) n).pois.isEmpty

/-- One access of an element among those of its line, which is there and held: the old value. -/
def vamoAccess (c : VConf) (f : VF) (op : Nat) (ea : Hart → Nat → Nat) (is : List Nat) (i : Nat) : Acc Rd := do
  let s ← get
  let n := confW c / 8
  let va := ea s.h i
  let w := vectorWho permuted s
  let here (again : Bool) : Acc Rd :=
    atomicRmw { w with locked := true, again := again } va n (vamoOp op) (vamoData c f s.h i) 0 (i + 1) .amo
  if touchesWindow va n then here false
  else do
    let e ← translate w va .amo
    match placeOfPa (paOf e va) (bitAt e.pte 9) with
    | .remote => vamoRemote c f op ea is (paOf e va / 128) i
    | _ => here (vamoWrote s ea is (luOf (paOf e va)) n i)

/-- What the elements of one line need is there before the first of them performs, so that nothing comes between
them: the line at its home, or every copy command out of the way. -/
def vamoPrepare (c : VConf) (ea : Hart → Nat → Nat) (is : List Nat) : Acc Unit :=
  is.forM fun i => do
    let s ← get
    let n := confW c / 8
    let va := ea s.h i
    if touchesWindow va n then awaitCopies (curCore s) va n true
    else do
      let w := currentWho s
      let e ← translate w va .amo
      let lu := luOf (paOf e va)
      match placeOfPa (paOf e va) (bitAt e.pte 9) with
      | .remote | .mmio => pure ()
      | _ =>
        let touch := is.foldl (fun t j => t ||| halvesOf (ea s.h j % 128) n) 0
        fetchHome w lu true (if isHostLu lu then 0 else touch)

/-- One element: the old value goes to the destination under return-old. -/
def vamoElem (c : VConf) (f : VF) (op : Nat) (old : Bool) (ea : Hart → Nat → Nat) (is : List Nat) (i : Nat) : Acc Unit := do
  let va := ea (← get).h i
  ticketed c 1 true do
    let r ← vamoAccess c f op ea is i
    notePoison i va r.pois
    if old then setElem c f i (if r.pois.isEmpty then r.val else qNaN (confFmt c)) else pure ()

/-- One element of a line, the whole line being prepared before its first. -/
def vamoStep (c : VConf) (f : VF) (op : Nat) (old : Bool) (ea : Hart → Nat → Nat) (lines : List (List Nat)) (i : Nat) :
    Acc Unit := do
  let is := (lines.find? fun l => l.contains i).getD [i]
  if is.head? == some i then vamoPrepare c ea is else pure ()
  vamoElem c f op old ea is i

/-- The elements of a return-old destination that are not performed (R115). -/
def vamoRest (c : VConf) (f : VF) (h : Hart) : Hart :=
  (visited c h).foldl (fun h i =>
    if isPad c i then vset c f.d.toNat (confFmt c) i (padValue (confFmt c)) h
    else if maskBit h f.m.toNat i then h
    else if f.mz then vset c f.d.toNat (confFmt c) i 0 h else h) h

/-- VAMO: line by line, each line's elements in one locked operation; in index order under `mo` = 2. The addresses are
those of the indices before an old value has taken the place of one (R117). -/
def vamoRun (c : VConf) (f : VF) (op : Nat) (old : Bool) (base : Word) (s : State) : Perf :=
  let h0 := s.h
  let ea (_ : Hart) (i : Nat) : Nat := eaIndex c h0 base f.b.toNat i
  let due := dueElem c f s.h
  match vamoLines c ea ((partsTodo due ((singles c.vl).filter fun p => due p.first) s).map (·.first)) s with
  | (s, none) => .wait s
  | (s, some l) =>
    let lines := if confMo c = 2 then l.map fun x => [x.1] else byLines l.length l
    let (s, ok) := runParts .byBits due (fun p => vamoStep c f op old ea lines p.first)
      (lines.flatten.map fun i => { first := i }) s
    if ok then
      endPass true c accAtomic c.vl (if old && !s.h.replay then { s with h := vamoRest c f s.h } else s)
    else .wait s

/-! ## VUPD (R261) -/

def vupdFormat (tag fmt : Nat) : Bool :=
  match tag with
  | 1 => fmt == 6 | 5 => fmt == 6 | 6 => fmt == 6
  | 3 => fmt == 0 | 7 => fmt == 0 | 8 => fmt == 0
  | 4 => fmt == 1
  | _ => fmt == 13

def vupdUnit (c : VConf) (f : VF) (tag : Nat) (base : Word) (i : Nat) : Acc Unit := do
  let s ← get
  if liveElem c f s.h i then
    let va := eaIndex c s.h base f.b.toNat i
    ticketed c 1 true do
      needAligned va (confW c / 8)
      let r ← updateElem (vectorWho permuted s) va tag (vget c s.h f.c.toNat (confFmt c) i) (i + 1)
      notePoison i va r.pois
  else pure ()

/-! ## SMLD and SMST (R157) -/

/-- The address of entry (p, q) of instance i. -/
def smAddr (f : VF) (base stride : Word) (i p q : Nat) : Nat :=
  (base.toNat + i * stride.toNat + 4 * (p * smCols f + q)) % 2 ^ 64

/-- One more entry of the instance is done, with what was read. -/
def entryDone (x : Nat) (s : State) : State :=
  let p := s.h.pass
  { s with h := { s.h with pass := { p with entry := p.entry + 1, got := p.got ++ [x] } } }

def smldEntry (c : VConf) (va i : Nat) : Acc Unit :=
  ticketed c 1 true do
    let r ← readMem (vectorWho permuted (← get)) va 4 (readHint c 0) (i + 1) .load
    notePoison i va r.pois
    modify (entryDone (if r.pois.isEmpty then r.val else qNaN 0))

def smstEntry (c : VConf) (va x : Nat) : Acc Unit :=
  ticketed c 1 true do
    storeElem permuted va 4 x
    modify (entryDone 0)

/-- The entries of an instance from where it stands, in row-major order; then a new instance begins. -/
def smEntries (f : VF) (one : Nat × Nat → Acc Unit) (fin : List Nat → Acc Unit) : Acc Unit := do
  ((block (smRows f) (smCols f)).drop (← get).h.pass.entry).forM one
  let got := (← get).h.pass.got
  modify fun s => { s with h := { s.h with pass := { s.h.pass with entry := 0, got := [] } } }
  fin got

/-- An instance of SMLD. DESIGN CHOICE (log 49): every entry is read before one is written, so that an instance that
faults leaves its part of the register as it was. -/
def smldUnit (c : VConf) (f : VF) (base stride : Word) (i : Nat) : Acc Unit := do
  let s ← get
  let put (g : Nat → Nat → Nat) : Acc Unit := modify fun s =>
    { s with h := (block (smRows f) (smCols f)).foldl (fun h pq => gset f.d.toNat i pq.1 pq.2 (g pq.1 pq.2) h) s.h }
  if isPad c i then pure ()
  else if maskBit s.h f.m.toNat i then
    smEntries f (fun pq => smldEntry c (smAddr f base stride i pq.1 pq.2) i)
      (fun xs => put fun p q => xs.getD (p * smCols f + q) 0)
  else if f.mz then put fun _ _ => 0
  else pure ()

/-- An instance of SMST. DESIGN CHOICE (log 49): entries before the first that faults, in row-major order, have
reached memory at the trap. -/
def smstUnit (c : VConf) (f : VF) (base stride : Word) (i : Nat) : Acc Unit := do
  let s ← get
  if liveElem c f s.h i then
    smEntries f (fun pq => smstEntry c (smAddr f base stride i pq.1 pq.2) (ent (gmat s.h f.c.toNat i) pq.1 pq.2))
      (fun _ => pure ())
  else pure ()

/-- SMLD and SMST go by instances; a start with `vstart` not 0 faults unless it is a replay (R156). -/
def smMemRun (acq : Bool) (c : VConf) (f : VF) (access : Nat) (act : Nat → Acc Unit) (s : State) : Perf :=
  if s.h.vstart ≠ 0 ∧ !s.h.replay then .trap 0x04 none s
  else
    let due := dueElem c f s.h
    let (s, ok) := runParts .byBits due (fun p => act p.first) (partsTodo due (singles (instancesOf c)) s) s
    if ok then
      if s.h.pass.faults.isEmpty then memEnd acq c 256 s else passEnd c 256 access (instancesOf c) s
    else .wait s

end Sys2Proof.Machine
end

