-- ==== Sys2Proof/Machine/Range.lean ====
section
/-! DEFINITION. What queued entries may touch (R337), and the range checker of a core (R327, R361). -/

namespace Sys2Proof.Machine

/-! ## What a queued entry may touch (R337) -/

/-- The bytes an entry may touch: none, from one address up to another, or every address. -/
inductive Touch where
  | none
  | span (lo hi : Nat)
  | all
  deriving DecidableEq, Repr

/-- From the lowest to the highest byte of n accesses of m bytes at a stride. -/
def spanStride (base stride : Word) (n m : Nat) : Touch :=
  if n = 0 then .none
  else
    let last : Int := base.toNat + (n - 1 : Nat) * stride.toInt
    if last < 0 ∨ 2 ^ 64 < last + m ∨ 2 ^ 64 < base.toNat + m then .all
    else .span (min base.toNat last.toNat) (max base.toNat last.toNat + m)

def spanUnit (base : Word) (n : Nat) : Touch :=
  if n = 0 then .none else if 2 ^ 64 < base.toNat + n then .all else .span base.toNat (base.toNat + n)

/-- Bytes of an engine object (R181). -/
def objectBytes (obj : Nat) : Nat := if obj < 4 then 24576 else if obj < 6 then 9280 else 64

/-- The whole lines that a touch lies in. -/
def wholeLines : Touch → Touch
  | .span lo hi => .span (lo / 128 * 128) ((hi + 127) / 128 * 128)
  | t => t

/-- What a load touches under a hint: one with last use orders as a store to whole lines (R258, R329). -/
def loadTouch (hint : BitVec 2) (t : Touch) : Bool × Touch := if hint = 2 then (true, wholeLines t) else (false, t)

/-- What an instruction with captured operands touches, and whether it writes. -/
def touchOf (i : Instr) (c : VConf) (a b : Word) : Bool × Touch :=
  match i with
  | .vld hint _ => loadTouch hint (spanUnit a ((c.vl * confW c + 15) / 16 * 2))
  | .vst _ => (true, spanUnit a ((c.vl * confW c + 15) / 16 * 2))
  | .vlds hint _ => loadTouch hint (spanStride a b c.vl (confW c / 8))
  | .vsts _ => (true, spanStride a b c.vl (confW c / 8))
  | .smld f => (false, spanStride a b (instancesOf c) (4 * smRows f * smCols f))
  | .smst f => (true, spanStride a b (instancesOf c) (4 * smRows f * smCols f))
  | .mspl f => (true, spanUnit a (objectBytes (bitsGet f.imm.toNat 0 3)))
  | .mfil f => (false, spanUnit a (objectBytes (bitsGet f.imm.toNat 0 3)))
  | .vldx hint _ => loadTouch hint .all
  | .vstx _ => (true, .all)
  | .vamo _ _ _ => (true, .all)
  | .vupd _ _ => (true, .all)
  | _ => (false, .none)

def touchMeets (t : Touch) (va n : Nat) : Bool :=
  match t with
  | .none => false
  | .span lo hi => decide (lo < va + n) && decide (va < hi)
  | .all => true

/-- Some bank in FIFO mode lies in the bytes of a touch. -/
def touchesFifo (banks : Vector BankMode 96) : Touch → Bool
  | .none => false
  | .span lo hi => (upTo 96).any fun b =>
      banks.getD b .cache == .fifo && touchMeets (.span lo hi) (windowBase + 8192 * b) 8192
  | .all => (upTo 96).any fun b => banks.getD b .cache == .fifo

/-- Bytes up to an end, with the whole of a FIFO-mode bank that one of them lies in: an access there is no access to its
bytes alone (R252, R361). -/
def wholeBanks (banks : Vector BankMode 96) : Touch → Touch
  | .span lo hi =>
    let fifo (x : Nat) : Bool := touchesWindow x 1 && banks.getD ((x - windowBase) / 8192) .cache == .fifo
    let start (x : Nat) : Nat := windowBase + (x - windowBase) / 8192 * 8192
    .span (if fifo lo then start lo else lo) (if fifo (hi - 1) then start (hi - 1) + 8192 else hi)
  | t => t

/-- Two touches meet, by bytes and by FIFO-mode banks. -/
def touchesMeet (banks : Vector BankMode 96) (t t' : Touch) : Bool :=
  match wholeBanks banks t' with
  | .none => false
  | .span lo hi => touchMeets (wholeBanks banks t) lo (hi - lo)
  | .all => t != .none

/-- An instruction changes what it touches: it writes, or pops a FIFO-mode bank, as VLD alone does (R252). -/
def changesTouched (banks : Vector BankMode 96) (i : Instr) (t : Bool × Touch) : Bool :=
  t.1 || match i with
    | .vld _ _ => touchesFifo banks t.2
    | _ => false

/-- No later access of the hart performs before an entry has: one that is an acquire, a load or atomic under `mo` = 1
or an access under `mo` = 2, but no read-only load (R257, R321, R326, R328); and a load from a FIFO-mode bank (R321). -/
def holdsAll (banks : Vector BankMode 96) (i : Instr) (c : VConf) (a : Word) : Bool :=
  (confMo c == 2 && (touchOf i c 0 0).2 != .none && !readOnlyLoad i) ||
  (confMo c == 1 && match i with
    | .vld hint _ => hintAcquires hint.toNat
    | .vlds hint _ => hintAcquires hint.toNat
    | .vldx hint _ => hintAcquires hint.toNat
    | .vamo _ _ _ => true
    | .smld _ => true
    | .mfil _ => true
    | _ => false) ||
  (match i with
    | .vld _ _ => touchesFifo banks (touchOf i c a 0).2
    | _ => false)
where
  /-- A load with the read-only hint. -/
  readOnlyLoad : Instr → Bool
    | .vld hint _ => hint == 1
    | .vlds hint _ => hint == 1
    | .vldx hint _ => hint == 1
    | _ => false

/-- A scalar access waits for an earlier queued entry: an acquire, one that writes bytes of it, or, for a store, one
that reads them. Frozen entries hold nothing back (R436). DESIGN CHOICE (log 61): the range checks of a hart compare
virtual addresses, so that two pages which map one frame do not meet. -/
def entryBlocks (banks : Vector BankMode 96) (va n : Nat) (write : Bool) : List Entry → VConf → Bool
  | [], _ => false
  | .config _ c :: l, _ => entryBlocks banks va n write l c
  | .convoy _ _ :: l, c => entryBlocks banks va n write l c
  | .instr i a b :: l, c =>
    let t := touchOf i c a b
    holdsAll banks i c a || ((t.1 || write) && touchesMeet banks t.2 (.span va (va + n))) ||
      entryBlocks banks va n write l c

def queueBlocks (s : State) (va n : Nat) (write : Bool) : Bool :=
  !s.h.frozen && entryBlocks (getCore s (curCore s)).banks va n write s.h.queue s.h.headConf

/-! ## The range table of a core (R345, R361) -/

/-- A range of window bytes that an entry of the table holds, and whether it counts as a write: one that takes in a
FIFO-mode bank does, since a pop changes the bank. -/
abbrev Range := (Int × Int) × Bool

/-- The part of a range that lies in the window. A FIFO-mode bank counts as its whole 8 KiB. -/
def windowPart (s : State) (c : Nat) (r : Int × Int) (write : Bool) : Option Range :=
  (windowSpan r).map fun (lo, hi) =>
    let bank (x : Int) : Nat := (x.toNat - windowBase) / 8192
    let fifo (b : Nat) : Bool := (getCore s c).banks.getD b .scratch == .fifo
    ((if fifo (bank lo) then ((windowBase + 8192 * bank lo : Nat) : Int) else lo,
      if fifo (bank (hi - 1)) then ((windowBase + 8192 * (bank (hi - 1) + 1) : Nat) : Int) else hi),
     write || (fromTo (bank lo) (min 96 (bank (hi - 1) + 1))).any fifo)

/-- The window ranges of a copy command, its source's and its destination's: one entry of the table (R361). -/
def windowRanges (s : State) (c record : Nat) : List Range :=
  (lnWindow record).filterMap fun x => windowPart s c x.1 x.2

/-- The window range of an instruction with captured operands: a vector access, or an object of MSPL or MFIL. -/
def touchRange (s : State) (c : Nat) (i : Instr) (k : VConf) (a b : Word) : Option Range :=
  match touchOf i k a b with
  | (_, .none) => none
  | (w, .span lo hi) => windowPart s c ((lo : Int), (hi : Int)) w
  | (w, .all) => some (((windowBase : Int), ((windowBase + 2 ^ 32 : Nat) : Int)), w)

def rangesMeet (a b : List Range) : Bool := a.any fun x => b.any fun y => (x.2 || y.2) && overlaps x.1 y.1

/-- The ranges of queued entries, each with its order of arrival. -/
def queueRanges (s : State) (core : Nat) : List Entry → List Nat → VConf → List (Nat × Range)
  | .config _ c :: l, _ :: ns, _ => queueRanges s core l ns c
  | .convoy _ _ :: l, _ :: ns, c => queueRanges s core l ns c
  | .instr i a b :: l, n :: ns, c =>
    ((touchRange s core i c a b).toList.map fun x => (n, x)) ++ queueRanges s core l ns c
  | _, _, _ => []

/-- The ranges of one hart's queue; entries frozen by a trap take no part (R337). -/
def hartRanges (s : State) (n : Nat) : List (Nat × Range) :=
  let h := getHart s n
  if h.frozen then [] else queueRanges s (coreOfHart n) h.queue h.arrived h.headConf

/-- The window ranges of a copy command's chunks that have not been performed (R361). -/
def windowRangesLeft (s : State) (c : Nat) (q : CopyCmd) : List Range :=
  (lnWindowFrom q.record q.chunk).filterMap fun x => windowPart s c x.1 x.2

/-- The ranges of the copy commands of a channel. -/
def channelRanges (s : State) (c ch : Nat) : List (Nat × Range) :=
  (((getCore s c).channels.toArray.getD ch {}).queue).flatMap fun q =>
    (windowRangesLeft s c q).map fun x => (q.seq, x)

/-- The range table of a core: what its channels and harts have outstanding in the window, with the order of
arrival. -/
def rangeTable (s : State) (c : Nat) : List (Nat × Range) :=
  (upTo 4).flatMap (channelRanges s c) ++ (upTo 8).flatMap fun slot => hartRanges s (8 * c + slot)

/-- Entries of the table in use: one for each command with bytes in the window, and those of the harts. -/
def tableUsed (s : State) (c : Nat) : Nat :=
  ((upTo 4).flatMap fun ch => (((getCore s c).channels.toArray.getD ch {}).queue).filter fun q =>
    !(lnWindow q.record).isEmpty).length +
  ((upTo 8).flatMap fun slot => hartRanges s (8 * c + slot)).length

/-- The table has no room for so many more entries (R361). -/
def tableFull (s : State) (c n : Nat) : Bool := decide (32 < tableUsed s c + n)

/-- Overlapping entries of other harts, or of the channels, that arrived before (R361). -/
def rangeWaits (i : Instr) (k : VConf) (a b : Word) (s : State) : Bool :=
  let c := curCore s
  match touchRange s c i k a b, s.h.performing with
  | some r, some seq =>
    let l := (upTo 4).flatMap (channelRanges s c) ++
      ((upTo 8).filter (· != s.cur % 8)).flatMap fun slot => hartRanges s (8 * c + slot)
    rangesMeet [r] ((l.filter fun x => decide (x.1 < seq)).map (·.2))
  | _, _ => false

/-- An entry at the head waits at the range checker before its first access. -/
def inOrder (i : Instr) (p : PerfFn) : PerfFn := fun c a b s => if rangeWaits i c a b s then .wait s else p c a b s

/-- Commit an instruction that accesses memory: it also waits for room in the range table (R361). -/
def commitMemory (i : Instr) (check : CheckFn) (perf : PerfFn) (s : State) : Result :=
  if !s.h.frozen && check s.h.conf == 0 && (capturesOf i).all (fun r => !isPending s.h r) &&
      (touchRange s (curCore s) i s.h.conf (captureA i s) (captureB i s)).isSome && tableFull s (curCore s) 1 then
    stall s
  else commitVector i check perf s

end Sys2Proof.Machine
end

