-- ==== Sys2Proof/Machine/VMemOps.lean ====
section
/-! DEFINITION. The vector memory instructions, SMLD and SMST: their checks at commit and what they do at the head of
the queue (R255 to R261, R157). -/

namespace Sys2Proof.Machine

/-! ## The instructions -/

/-- Elements of less than a byte take no mask, and no stride or index (R256). -/
def narrowBad (c : VConf) (f : VF) : Bool := decide (confW c < 8) && f.m != 0
def narrow (c : VConf) : Bool := decide (confW c < 8)

/-- The checks of VLD at commit. -/
def checkVld (hint : BitVec 2) (f : VF) : CheckFn :=
  fun c => checks (narrowBad c f) (indexBad (.vld hint f) c)

/-- VLD (R257) at the head of the queue. -/
def perfVld (hint : BitVec 2) (f : VF) : PerfFn :=
  inOrder (.vld hint f) <|
  fun c a _ s => loadUnitStride c f hint.toNat a s

def execVld (hint : BitVec 2) (f : VF) (s : State) : Result :=
  commitMemory (.vld hint f) (checkVld hint f) (perfVld hint f) s

/-- The checks of VLDS at commit. -/
def checkVlds (hint : BitVec 2) (f : VF) : CheckFn :=
  fun c => checks (narrow c) (indexBad (.vlds hint f) c)

/-- VLDS (R257) at the head of the queue. -/
def perfVlds (hint : BitVec 2) (f : VF) : PerfFn :=
  inOrder (.vlds hint f) <|
  fun c a b s => loadEach c f hint.toNat (fun _ i => eaStride a b i) s

def execVlds (hint : BitVec 2) (f : VF) (s : State) : Result :=
  commitMemory (.vlds hint f) (checkVlds hint f) (perfVlds hint f) s

/-- The checks of VLDX at commit. -/
def checkVldx (hint : BitVec 2) (f : VF) : CheckFn :=
  fun c => checks (narrow c) (indexBad (.vldx hint f) c)

/-- VLDX (R257) at the head of the queue. -/
def perfVldx (hint : BitVec 2) (f : VF) : PerfFn :=
  inOrder (.vldx hint f) <|
  fun c a _ s => loadEach c f hint.toNat (fun h i => eaIndex c h a f.b.toNat i) s

def execVldx (hint : BitVec 2) (f : VF) (s : State) : Result :=
  commitMemory (.vldx hint f) (checkVldx hint f) (perfVldx hint f) s

/-- The checks of VST at commit. -/
def checkVst (f : VF) : CheckFn :=
  fun c => checks (narrowBad c f) (indexBad (.vst f) c)

/-- VST (R259) at the head of the queue. -/
def perfVst (f : VF) : PerfFn :=
  inOrder (.vst f) <|
  releaseFirst fun c a _ s => storeUnitStride c f a s

def execVst (f : VF) (s : State) : Result :=
  commitMemory (.vst f) (checkVst f) (perfVst f) s

/-- The checks of VSTS at commit. -/
def checkVsts (f : VF) : CheckFn :=
  fun c => checks (narrow c) (indexBad (.vsts f) c)

/-- VSTS (R259) at the head of the queue. -/
def perfVsts (f : VF) : PerfFn :=
  inOrder (.vsts f) <|
  releaseFirst fun c a b s => storeEach c f (fun _ i => eaStride a b i) s

def execVsts (f : VF) (s : State) : Result :=
  commitMemory (.vsts f) (checkVsts f) (perfVsts f) s

/-- The checks of VSTX at commit. -/
def checkVstx (f : VF) : CheckFn :=
  fun c => checks (narrow c) (indexBad (.vstx f) c)

/-- VSTX (R259) at the head of the queue. -/
def perfVstx (f : VF) : PerfFn :=
  inOrder (.vstx f) <|
  releaseFirst fun c a _ s => storeEach c f (fun h i => eaIndex c h a f.b.toNat i) s

def execVstx (f : VF) (s : State) : Result :=
  commitMemory (.vstx f) (checkVstx f) (perfVstx f) s

/-- The checks of VAMO at commit. -/
def checkVamo (op : BitVec 4) (old : Bool) (f : VF) : CheckFn :=
  fun c => checks (!vamoFormat op.toNat (confFmt c)) (indexBad (.vamo op old f) c)

/-- VAMO (R260) at the head of the queue. -/
def perfVamo (op : BitVec 4) (old : Bool) (f : VF) : PerfFn :=
  inOrder (.vamo op old f) <|
  releaseFirst fun c a _ s => vamoRun c f op.toNat old a s

def execVamo (op : BitVec 4) (old : Bool) (f : VF) (s : State) : Result :=
  commitMemory (.vamo op old f) (checkVamo op old f) (perfVamo op old f) s

/-- The checks of VUPD at commit. -/
def checkVupd (tag : BitVec 4) (f : VF) : CheckFn :=
  fun c => checks (!vupdFormat tag.toNat (confFmt c)) (indexBad (.vupd tag f) c)

/-- VUPD (R261) at the head of the queue. -/
def perfVupd (tag : BitVec 4) (f : VF) : PerfFn :=
  inOrder (.vupd tag f) <|
  releaseFirst fun c a _ s =>
    memLoop false c accAtomic (dueElem c f s.h) (singles c.vl) (fun p => vupdUnit c f tag.toNat a p.first) s

def execVupd (tag : BitVec 4) (f : VF) (s : State) : Result :=
  commitMemory (.vupd tag f) (checkVupd tag f) (perfVupd tag f) s

/-- The checks of SMLD at commit. -/
def checkSmld (f : VF) : CheckFn :=
  fun c => checks (smBad f) (indexBad (.smld f) c)

/-- SMLD (R157) at the head of the queue. -/
def perfSmld (f : VF) : PerfFn :=
  inOrder (.smld f) <|
  fun c a b s => smMemRun true c f accRead (smldUnit c f a b) s

def execSmld (f : VF) (s : State) : Result :=
  commitMemory (.smld f) (checkSmld f) (perfSmld f) s

/-- The checks of SMST at commit. -/
def checkSmst (f : VF) : CheckFn :=
  fun c => checks (smBad f) (indexBad (.smst f) c)

/-- SMST (R157) at the head of the queue. -/
def perfSmst (f : VF) : PerfFn :=
  inOrder (.smst f) <|
  releaseFirst fun c a b s => smMemRun false c f accWrite (smstUnit c f a b) s

def execSmst (f : VF) (s : State) : Result :=
  commitMemory (.smst f) (checkSmst f) (perfSmst f) s

end Sys2Proof.Machine
end

