-- ==== Sys2Proof/Machine/LoadStore.lean ====
section
/-! DEFINITION. Scalar loads and stores (R251, R252) and AMO (R253), over one shared shape. -/

namespace Sys2Proof.Machine

/-! ## The shared shape -/

/-- A scalar access is done: continue at the next instruction; the trap that `errctl` selects for poison it
delivered comes after it (R264, R373). -/
def scalarDone (va : Nat) (r : Rd) (s : State) : State :=
  let s := dropReplies s.cur (advance s)
  if r.pois.isEmpty then s
  else
    let s := deliverPoison r.pois none none s
    if s.h.errctl.getLsbD 2 then takeTrap false 0x20 (word va) s.h.pc 32 s else s

/-- The trap that `errctl` selects for poison would come while earlier instructions run: the access is tried again once
they have completed, so that their records are posted first (R68, R418). -/
def poisonWaits (r : Rd) (s : State) : Bool := !r.pois.isEmpty && s.h.errctl.getLsbD 2 && queueBusy s.h

/-- A scalar instruction with one access: it waits for pending registers and for overlapping queued accesses
(R109, R337), and its fault traps at the instruction with nothing accessed (R262). -/
def scalarAccess (regs : List SReg) (va n : Nat) (write : Bool) (act : Acc Rd) (fin : Rd → State → State)
    (s : State) : Result :=
  whenReady regs s <|
    if queueBlocks s va n write then stall s
    else match runAcc act s with
      | (.error .wait, s) => stall s
      | (.error (.fault cause fa), s) => scalarTrap cause (word fa) s
      | (.ok r, s) => if poisonWaits r s then stall s else .next (scalarDone va r (fin r s))

/-- The address of the I and S forms. -/
def memAddr (a : SReg) (imm : BitVec 15) (s : State) : Nat := (readS s a + imm.signExtend 64).toNat

/-- The word a load delivers: poison reads as 0 (R264). -/
def loadedWord (signed : Bool) (n : Nat) (r : Rd) : Word :=
  if !r.pois.isEmpty then 0
  else if signed then intWordOf n r.val else word r.val
where
  /-- n bytes sign-extended. -/
  intWordOf (n x : Nat) : Word := BitVec.ofInt 64 (toSigned (8 * n) x)

/-- A scalar load of n bytes (R251). -/
def loadOp (signed : Bool) (n : Nat) (d a : SReg) (imm : BitVec 15) (s : State) : Result :=
  let va := memAddr a imm s
  scalarAccess [d, a] va n false (do readMem (currentWho (← get)) va n 0 0 .load)
    (fun r s => writeS d (loadedWord signed n r) s) s

/-- A scalar store of n bytes (R251). -/
def storeOp (n : Nat) (a b : SReg) (imm : BitVec 15) (s : State) : Result :=
  let va := memAddr a imm s
  scalarAccess [a, b] va n true
    (do writeMem (currentWho (← get)) va n (readS s b).toNat; pure { val := 0 }) (fun _ s => s) s

/-! ## Releases (R321) -/

/-- Instructions whose queued entries read memory, and all that access it. -/
def readsMemory : Instr → Bool
  | .vld _ _ => true
  | .vlds _ _ => true
  | .vldx _ _ => true
  | .vamo _ _ _ => true
  | .smld _ => true
  | .mfil _ => true
  | _ => false

def accessesMemory (i : Instr) : Bool :=
  readsMemory i ||
  match i with
  | .vst _ => true
  | .vsts _ => true
  | .vstx _ => true
  | .vupd _ _ => true
  | .smst _ => true
  | .mspl _ => true
  | _ => false

def entryHas (p : Instr → Bool) : Entry → Bool
  | .instr i _ _ => p i
  | _ => false

/-- Some earlier queued instruction of the kind has not performed; frozen entries are none (R436). -/
def queuedWork (p : Instr → Bool) (h : Hart) : Bool := !h.frozen && h.queue.any (entryHas p)

/-- A release can take place: every earlier access has performed, discards among them (R329), at system scope with
the acknowledgements of the remote writes (R317, R321). -/
def released (scope : Nat) (s : State) : Bool :=
  !queuedWork accessesMemory s.h && !s.discards.any (fun p => p.2 == s.cur) &&
  (scope != 4 || s.h.remoteWrites == 0)

/-! ## Atomics (R253) -/

/-- AMO: `op` is the code of its op field; `rl` makes it a release and `aq` an acquire (R321). -/
def amoOp (op : Nat) (scope : BitVec 3) (aq rl wide : Bool) (d a b : SReg) (s : State) : Result :=
  let n := if wide then 8 else 4
  let va := (readS s a).toNat
  whenReady [d, a, b] s <|
    if va % n ≠ 0 then scalarTrap 0x0D (word va) s
    else if rl && !released scope.toNat s then stall s
    else scalarAccess [d, a, b] va n true
      (do atomicRmw (currentWho (← get)) va n op (readS s b).toNat (readS s d).toNat 0 .amo)
      (fun r s =>
        writeS d (loadedWord true n r) (if aq then acquireAt scope.toNat (curCore s) s else s)) s

/-! ## The instructions -/

/-- LDB (R251). -/
def execLdb (d a : SReg) (imm : BitVec 15) (s : State) : Result := loadOp true 1 d a imm s

/-- LDBU (R251). -/
def execLdbu (d a : SReg) (imm : BitVec 15) (s : State) : Result := loadOp false 1 d a imm s

/-- LDH (R251). -/
def execLdh (d a : SReg) (imm : BitVec 15) (s : State) : Result := loadOp true 2 d a imm s

/-- LDHU (R251). -/
def execLdhu (d a : SReg) (imm : BitVec 15) (s : State) : Result := loadOp false 2 d a imm s

/-- LDW (R251). -/
def execLdw (d a : SReg) (imm : BitVec 15) (s : State) : Result := loadOp true 4 d a imm s

/-- LDWU (R251). -/
def execLdwu (d a : SReg) (imm : BitVec 15) (s : State) : Result := loadOp false 4 d a imm s

/-- LDD (R251). -/
def execLdd (d a : SReg) (imm : BitVec 15) (s : State) : Result := loadOp false 8 d a imm s

/-- STB (R251). -/
def execStb (a b : SReg) (imm : BitVec 15) (s : State) : Result := storeOp 1 a b imm s

/-- STH (R251). -/
def execSth (a b : SReg) (imm : BitVec 15) (s : State) : Result := storeOp 2 a b imm s

/-- STW (R251). -/
def execStw (a b : SReg) (imm : BitVec 15) (s : State) : Result := storeOp 4 a b imm s

/-- STD (R251). -/
def execStd (a b : SReg) (imm : BitVec 15) (s : State) : Result := storeOp 8 a b imm s

/-- AMO_ADD (R253). -/
def execAmoAdd (scope : BitVec 3) (aq rl wide : Bool) (d a b : SReg) (s : State) : Result :=
  amoOp 0 scope aq rl wide d a b s

/-- AMO_SWAP (R253). -/
def execAmoSwap (scope : BitVec 3) (aq rl wide : Bool) (d a b : SReg) (s : State) : Result :=
  amoOp 1 scope aq rl wide d a b s

/-- AMO_CAS (R253). -/
def execAmoCas (scope : BitVec 3) (aq rl wide : Bool) (d a b : SReg) (s : State) : Result :=
  amoOp 2 scope aq rl wide d a b s

/-- AMO_MIN (R253). -/
def execAmoMin (scope : BitVec 3) (aq rl wide : Bool) (d a b : SReg) (s : State) : Result :=
  amoOp 3 scope aq rl wide d a b s

/-- AMO_MAX (R253). -/
def execAmoMax (scope : BitVec 3) (aq rl wide : Bool) (d a b : SReg) (s : State) : Result :=
  amoOp 4 scope aq rl wide d a b s

/-- AMO_AND (R253). -/
def execAmoAnd (scope : BitVec 3) (aq rl wide : Bool) (d a b : SReg) (s : State) : Result :=
  amoOp 5 scope aq rl wide d a b s

/-- AMO_OR (R253). -/
def execAmoOr (scope : BitVec 3) (aq rl wide : Bool) (d a b : SReg) (s : State) : Result :=
  amoOp 6 scope aq rl wide d a b s

/-- AMO_XOR (R253). -/
def execAmoXor (scope : BitVec 3) (aq rl wide : Bool) (d a b : SReg) (s : State) : Result :=
  amoOp 7 scope aq rl wide d a b s

end Sys2Proof.Machine
end

