-- ==== Sys2Proof/Machine/Copy.lean ====
section
/-! DEFINITION. Copy channels (R345, R352 to R358): the chunks of a command, faults, abort and retry, and the
order of arrival at the range checker (R361). -/

namespace Sys2Proof.Machine

def getChannel (s : State) (c ch : Nat) : Channel := (getCore s c).channels.toArray.getD ch {}

def setChannel (c ch : Nat) (x : Channel) (s : State) : State :=
  let k := getCore s c
  setCore c { k with channels := k.channels.setIfInBounds ch x } s

/-- The number a channel has where harts have theirs. -/
def channelId (c ch : Nat) : Nat := 4608 + 4 * c + ch

/-- The translation a command runs with. -/
def copyWho (c ch : Nat) (q : CopyCmd) : Who :=
  { core := c, hart := channelId c ch, asid := q.asid, root := q.root, priv := q.priv }

/-! ## The range checker (R361) -/

/-- A command waits for the overlapping entries that arrived before it: commands of the other channels and
queued vector accesses of the core's harts. -/
def copyWaits (s : State) (c ch : Nat) (q : CopyCmd) : Bool :=
  let l := ((upTo 4).filter (· != ch)).flatMap (channelRanges s c) ++
    (upTo 8).flatMap fun slot => hartRanges s (8 * c + slot)
  rangesMeet (windowRanges s c q.record) ((l.filter fun x => decide (x.1 < q.seq)).map (·.2))

/-! ## One chunk (R353, R355, R356) -/

/-- The bank of a FIFO-mode side, when it is one. -/
inductive Side where
  | fifo (bank : Nat)
  | window (off : Nat)
  | memory
  deriving DecidableEq, Repr

/-- A side of a chunk is usable: its banks, or every page of it (R356). -/
def chunkSide (w : Who) (va n : Nat) (kind : Kind) : Acc Side := do
  if touchesWindow va n then do
    meetOust w va (kind == .store)
    match windowCheck (← get) w.core va n with
    | .error e => throw e
    | .ok (off, .scratch) => pure (.window off)
    | .ok (off, _) => if n % 8 ≠ 0 then throw (.fault 0x0C va) else pure (.fifo (off / 8192))
  else do
    (pagesOf va n).forM fun a => do
      let _ ← translate w a kind
    pure .memory

/-- Pieces of a range cut at multiples of m: address, length, offset. -/
def cutAt (m : Nat) : (fuel va n off : Nat) → List (Nat × Nat × Nat)
  | 0, _, _, _ => []
  | f + 1, va, n, off =>
    if n = 0 then []
    else
      let k := min n (m - va % m)
      (va % 2 ^ 64, k, off) :: cutAt m f (va + k) (n - k) (off + k)

/-- Bytes read by a chunk, with the granules that were poisoned and a mask of the bytes that lie in them. -/
structure ChunkData where
  val : Nat := 0
  bad : Nat := 0
  gs : List Nat := []
  deriving DecidableEq, Repr

/-- One piece of memory that lies in one granule. -/
def chunkRead1 (w : Who) (va n : Nat) : Acc Rd := do
  let e ← translate w va .load
  let pa := paOf e va
  match placeOfPa pa (bitAt e.pte 9) with
  | .remote => remoteRead w pa n 0
  | .mmio => do
    let (v, s) := mmioRead true (mmioOff pa) n (← get)
    set s
    pure { val := v }
  | _ => homeRead w (luOf pa) (pa - luBase (luOf pa)) n

def chunkRead (w : Who) (side : Side) (va n : Nat) : Acc ChunkData := do
  match side with
  | .fifo b => do
    let x ← fifoPop w.core b w.hart (n / 8)
    pure { val := x }
  | .window off => pure { val := scratchRead w.core off n (← get) }
  | .memory =>
    (cutAt 32 (n / 32 + 2) va n 0).foldlM (fun (a : ChunkData) p => do
      let r ← chunkRead1 w p.1 p.2.1
      pure { val := a.val + r.val <<< (8 * p.2.2)
             bad := if r.pois.isEmpty then a.bad else a.bad ||| maskOf p.2.2 p.2.1
             gs := a.gs ++ r.pois }) {}

/-- The destination is ready to take the whole chunk, so that nothing is read in vain: a FIFO-mode bank has room and
the channel's turn has come there (R347), or the lines are collected at their homes. -/
def chunkPrepare (w : Who) (src dst : Side) (va n : Nat) : Acc Unit := do
  match dst with
  | .fifo b => do
    let room := decide (src = .fifo b) || decide ((fifoOf (← get) w.core b).length + n / 8 ≤ 1024)
    fifoReady w.core (2 * b + 1) w.hart room
  | .window _ => pure ()
  | .memory =>
    (cutAt 64 (n / 64 + 2) va n 0).forM fun p => do
      let e ← translate w p.1 .store
      let pa := paOf e p.1
      let lu := luOf pa
      match placeOfPa pa (bitAt e.pte 9) with
      | .cached => fetchHome w lu true (halvesOf (pa - luBase lu) p.2.1)
      | .home => fetchHome w lu true (halvesOf (pa - luBase lu) p.2.1)
      | _ => pure ()

def chunkWrite1 (w : Who) (va n val bad : Nat) : Acc Unit := do
  let e ← translate w va .store
  let pa := paOf e va
  let lu := luOf pa
  let off := pa - luBase lu
  match placeOfPa pa (bitAt e.pte 9) with
  | .remote => remoteWrite w pa n val
  | .mmio => modify (mmioWrite (mmioOff pa) n val)
  | _ => do
    homeStore w lu off n val bad
    modify (dropCopy w.core lu)

def chunkWrite (w : Who) (side : Side) (va n : Nat) (d : ChunkData) : Acc Unit := do
  let clean := mergeBytes n d.val 0 d.bad
  match side with
  | .fifo b => fifoPush w.core b w.hart (n / 8) clean
  | .window off => modify (scratchWrite w.core off n clean)
  | .memory =>
    (cutAt 64 (n / 64 + 2) va n 0).forM fun p =>
      chunkWrite1 w p.1 p.2.1 (bitsGet d.val (8 * p.2.2) (8 * p.2.1)) (bitsGet d.bad p.2.2 p.2.1)

/-- One chunk of a command: the bytes read and written (R353, R354). -/
def chunkMove (c ch : Nat) (q : CopyCmd) : Acc (Nat × Nat) := do
  let r := q.record
  let n := lnChunk r
  let w := copyWho c ch q
  let dst := lnDst r q.chunk
  if lnInside r q.chunk then do
    let src := lnSrc r q.chunk
    let from1 ← chunkSide w src n .load
    let to1 ← chunkSide w dst n .store
    chunkPrepare w from1 to1 dst n
    let d ← chunkRead w from1 src n
    chunkWrite w to1 dst n d
    modify (deliverPoisonAt (coreDie c) d.gs none none)
    pure (n, n)
  else if lnFen r then do
    let to1 ← chunkSide w dst n .store
    chunkPrepare w .memory to1 dst n
    chunkWrite w to1 dst n { val := fillBits n 8 (lnFill r) }
    pure (0, n)
  else pure (0, 0)

/-- The hart that pushed a command, where it runs on the core now (R356). -/
def pusherOf (s : State) (c : Nat) (q : CopyCmd) : Option Nat :=
  ((upTo 8).map (8 * c + ·)).find? fun n =>
    let h := getHart s n
    h.run == .running && h.logical == q.region && (q.region.isSome || n == q.hart)

/-- The access of a chunk that fails: 0 for the source, 1 for the destination (R364). -/
def faultAccess (c ch : Nat) (q : CopyCmd) (s : State) : Nat :=
  if !lnInside q.record q.chunk then 1
  else match runAcc (chunkSide (copyWho c ch q) (lnSrc q.record q.chunk) (lnChunk q.record) .load) s with
    | (.error (.fault _ _), _) => 0
    | _ => 1

/-- A chunk fails (R356): the channel halts, one record, one interrupt. -/
def chunkFault (c ch : Nat) (q : CopyCmd) (va : Nat) (s : State) : State :=
  let acc := faultAccess c ch q s
  let s := setChannel c ch { getChannel s c ch with halted := true } s
  let s := postFault c (faultWord0 q.asid acc 32 ch 1 0x30) q.chunk va s
  raiseIrq ((pusherOf s c q).getD (supervisorHart s (dieOfCore c))) 0x30 (word va) s

/-- The step of a channel that moves its next chunk; nothing while the channel is halted, has no chunk to move,
or has to wait. -/
def copyStep (c ch : Nat) (s : State) : State :=
  let k := getChannel s c ch
  match k.queue with
  | [] => s
  | q :: l =>
    if k.halted || decide (lnPoints q.record ≤ q.chunk) || copyWaits s c ch q then s
    else match runAcc (chunkMove c ch q) s with
      | (.error .wait, s) => s
      | (.error (.fault _ va), s) => chunkFault c ch q va (dropReplies (channelId c ch) (leaveFifos c (channelId c ch) (leaveHomes (channelId c ch) s)))
      | (.ok (r, wr), s) =>
        let s := dropReplies (channelId c ch) s
        let k := getChannel s c ch
        setChannel c ch { k with queue := { q with chunk := q.chunk + 1 } :: l
                                 bytesRead := (k.bytesRead + r) % 2 ^ 64
                                 bytesWritten := (k.bytesWritten + wr) % 2 ^ 64 } s

/-- Every write of the channel has performed at package scope (R354). -/
def writesPerformed (s : State) (c ch : Nat) : Bool :=
  !s.remotes.any fun r => r.hart == channelId c ch && r.kind == 1

/-- The step that completes a channel's command (R354). -/
def copyComplete (c ch : Nat) (s : State) : State :=
  let k := getChannel s c ch
  match k.queue with
  | [] => s
  | q :: l =>
    if !k.halted && decide (lnPoints q.record ≤ q.chunk) && writesPerformed s c ch then
      setChannel c ch { k with queue := l, mark := q.id, aborted := false } s
    else s

/-! ## Abort and retry (R357) -/

/-- An abort of a halted channel: its command completes with error status. -/
def copyAbort (c ch : Nat) (s : State) : State :=
  let k := getChannel s c ch
  match k.queue with
  | [] => s
  | q :: l =>
    if k.halted then setChannel c ch { k with queue := l, mark := q.id, aborted := true, halted := false } s else s

/-- A retry of a halted channel: it resumes at the faulted chunk. -/
def copyRetry (c ch : Nat) (s : State) : State :=
  let k := getChannel s c ch
  if k.halted then setChannel c ch { k with halted := false } s else s

/-- A write of `cpctl`: a go to a core of the die that exists. -/
def writeCpctl (d val : Nat) (s : State) : State :=
  if !bitAt val 3 then s
  else match coreOfLogical s d (bitsGet val 4 7) with
    | none => s
    | some c => if bitAt val 2 then copyRetry c (val % 4) s else copyAbort c (val % 4) s

/-- Byte c of `cpstat`. -/
def cpstatByte (k : Channel) : Nat :=
  min 8 (k.queue.length - 1) * 8 + k.aborted.toNat * 4 +
    (if k.queue.isEmpty then 0 else if k.halted then 2 else 1)

def cpstatOf (s : State) (c : Nat) : Nat :=
  (upTo 4).foldl (fun x ch => x + cpstatByte (getChannel s c ch) <<< (8 * ch)) 0

end Sys2Proof.Machine
end

