-- ==== Sys2Proof/Machine/Count.lean ====
section
/-! DEFINITION. Counters (R376): RDCNT and WAITC (R382, R383), BARARV and BARWAIT (R384). -/

namespace Sys2Proof.Machine

/-- The number of indices of a space (R381). -/
def spaceSize (space : Nat) : Nat :=
  match space with
  | 0 => 2 | 1 => 8192 | 2 => 12 | 3 => 2 | 4 => 1 | 5 => 1 | 6 => 1024 | 7 => 13 | 8 => 8 | _ => 0

/-- A region's settle counters: the watermark below 4096, the issue counter above. -/
def regionCounter (s : State) (idx : Nat) : Nat :=
  match tget s.regionTable (idx % 4096) with
  | some e => if idx < 4096 then e.mark else e.issue
  | none => 0

/-- A copy channel's counters. -/
def channelCounter (s : State) (c idx : Nat) : Nat :=
  let k := getChannel s c (idx % 4)
  if idx < 4 then k.mark else if idx < 8 then k.bytesRead else k.bytesWritten

/-- The value of a counter, for a hart on core c (R376). -/
def counterRead (s : State) (c : Nat) (h : Hart) (space idx : Nat) : Nat :=
  match space with
  | 0 => if idx = 0 then s.cycles % 2 ^ 64 else timerOf s (dieOfCore c)
  | 1 => regionCounter s idx
  | 2 => channelCounter s c idx
  | 3 => if idx = 0 then h.ipMark else h.ipErrors
  | 4 => s.tickets
  | 5 => (getCore s c).pts
  | 6 => (tgetD s.barriers idx {}).generation
  | 7 => s.errCounters.getD idx 0
  | 8 => (h.perf.getD idx 0).toNat
  | _ => 0

/-- An index beyond its space, or a region not defined under the hart's ASID (R381). -/
def indexIllegal (s : State) (space idx : Nat) : Bool :=
  decide (spaceSize space ≤ idx) ||
  (space == 1 && match tget s.regionTable (idx % 4096) with
    | some e => e.asid != (if schedBit s.h then 0 else s.h.asid.toNat)
    | none => true)

/-- A read of a counter of spaces 1, 2, 3 and 6 is an acquire at package scope (R321, R382). -/
def acquireCounter (space : Nat) (s : State) : State :=
  if space = 1 ∨ space = 2 ∨ space = 3 ∨ space = 6 then acquire (curCore s) s else s

def execRdcnt (space : BitVec 6) (d a : SReg) (s : State) : Result :=
  let idx := (readS s a).toNat
  if 9 ≤ space.toNat then scalarTrap 0x01 (parcelsOf (.rdcnt space d a)) s
  else whenReady [d, a] s <|
    if indexIllegal s space.toNat idx then scalarTrap 0x04 (readS s a) s
    else
      .next (advance (writeS d (word (counterRead s (curCore s) s.h space.toNat idx)) (acquireCounter space.toNat s)))

/-- The limit of a WAITC that issued at t0 has passed (R383). -/
def waitOver (s : State) (t0 : Nat) : Bool :=
  s.h.waitlim != 0 && decide (s.h.waitlim.toNat * 5 ≤ (timerOf s (curDie s) - t0) * 9)

def execWaitc (space : BitVec 6) (d a b : SReg) (s : State) : Result :=
  let idx := (readS s a).toNat
  if 9 ≤ space.toNat then scalarTrap 0x01 (parcelsOf (.waitc space d a b)) s
  else whenReady [d, a, b] s <|
    if indexIllegal s space.toNat idx then scalarTrap 0x04 (readS s a) s
    else
      let t0 := s.h.waitT0.getD (timerOf s (curDie s))
      let x := counterRead s (curCore s) s.h space.toNat idx
      if (readS s b).toNat ≤ x ∨ waitOver s t0 then .next (advance (writeS d (word x) (acquireCounter space.toNat s)))
      else stall { s with h := { s.h with waitT0 := some t0, waitOn := some (space.toNat, idx, (readS s b).toNat) } }

/-- The arrival of BARARV at a barrier (R384): the barrier after it. -/
def arrive (x : Barrier) (n : Nat) : Barrier :=
  if x.arrived + 1 = n then { generation := (x.generation + 1) % 2 ^ 64, arrived := 0, expected := 0 }
  else { x with arrived := x.arrived + 1, expected := n }

def execBararv (d a b : SReg) (s : State) : Result :=
  let id := (readS s a).toNat
  let n := (readS s b).toNat
  whenReady [d, a, b] s <|
    if 1024 ≤ id then scalarTrap 0x04 (readS s a) s
    else if n = 0 ∨ 65536 < n then scalarTrap 0x04 (readS s b) s
    else if !released 3 s then stall s
    else
      let x := tgetD s.barriers id {}
      if x.expected ≠ 0 ∧ x.expected ≠ n then scalarTrap 0x19 (readS s a) s
      else .next (advance (writeS d (word x.generation) { s with barriers := tset s.barriers id (arrive x n) }))

def execBarwait (d a b : SReg) (s : State) : Result :=
  let id := (readS s a).toNat
  whenReady [d, a, b] s <|
    if 1024 ≤ id then scalarTrap 0x04 (readS s a) s
    else
      let g := (tgetD s.barriers id {}).generation
      if (readS s b).toNat < g then .next (advance (writeS d (word g) (acquire (curCore s) s))) else stall s

end Sys2Proof.Machine
end

