-- ==== Sys2Proof/Machine/Csr.lean ====
section
/-! DEFINITION. The configuration and status registers by number (R202) and the CSR instructions (R203 to
R205). -/

namespace Sys2Proof.Machine

/-- Who may access a register (R202). -/
inductive CsrAccess where
  /-- Any mode reads, none writes. -/
  | userRo
  /-- Any mode reads and writes. -/
  | user
  /-- Any mode reads, supervisor mode writes. -/
  | userRead
  /-- Supervisor mode alone. -/
  | super
  /-- Supervisor mode and a user-mode handler. -/
  | handler
  /-- Supervisor mode reads, none writes. -/
  | superRo
  /-- `status`: any mode reads; supervisor mode and a handler write. -/
  | status
  deriving DecidableEq, Repr

/-- The registers that exist, and who may access them. -/
def csrAccess (n : Nat) : Option CsrAccess :=
  match n with
  | 0x000 => some .userRo
  | 0x001 => some .userRo
  | 0x002 => some .userRo
  | 0x010 => some .status
  | 0x011 => some .super
  | 0x012 => some .handler
  | 0x013 => some .handler
  | 0x014 => some .handler
  | 0x015 => some .handler
  | 0x016 => some .handler
  | 0x020 => some .super
  | 0x021 => some .super
  | 0x030 => some .userRo
  | 0x031 => some .userRo
  | 0x032 => some .userRo
  | 0x033 => some .userRead
  | 0x034 => some .userRo
  | 0x035 => some .userRo
  | 0x036 => some .user
  | 0x037 => some .userRo
  | 0x040 => some .user
  | 0x041 => some .user
  | 0x050 => some .user
  | 0x051 => some .user
  | 0x060 => some .userRo
  | 0x061 => some .userRo
  | 0x070 => some .super
  | 0x071 => some .super
  | 0x072 => some .user
  | 0x080 => some .userRead
  | 0x090 => some .super
  | 0x0A0 => some .super
  | 0x0A1 => some .superRo
  | _ => none

/-- `vlmax` (R208). -/
def csrVlmax (h : Hart) : Nat := vlmaxOf h.conf.lanes (bitsGet h.conf.vcfg.toNat 0 2) (confFmt h.conf)

/-- `vhwval` (R211): the mark of v[vhwsel] as an element index in the current format, all ones for none. -/
def csrVhwval (h : Hart) : Word :=
  let k := h.vhwsel.toNat
  let m := h.marks.toArray.getD k 0
  if confN h.conf ≤ k ∨ m = 0 then BitVec.allOnes 64 else word ((m - 1) / confW h.conf)

/-- `lanemask`: a bit per logical lane group of the core. -/
def csrLanemask (s : State) : Nat := (getCore s (curCore s)).retiredGroups.toNat

/-- `snapctl` (R215). -/
def csrSnapctl (s : State) : Word :=
  let k := getDie s (curDie s)
  word (s.snapId * 2 ^ 16 + k.snapClass.toNat * 2 ^ 8 + k.snapEn.toNat)

/-- The value of a register. A user-mode read of `status` shows every field, those whose Access column lists no user read
among them: DESIGN CHOICE, log 60. -/
def csrRead (n : Nat) (s : State) : Word :=
  let h := s.h
  match n with
  | 0x000 => word (s.cur % 8)
  | 0x001 => word (getCore s (curCore s)).logical
  | 0x002 => word (curDie s)
  | 0x010 => h.status.zeroExtend 64
  | 0x011 => h.trapvec
  | 0x012 => h.epc
  | 0x013 => h.trapcause
  | 0x014 => h.trapval
  | 0x015 => h.trapqpos.zeroExtend 64
  | 0x016 => h.scratch
  | 0x020 => h.asid.zeroExtend 64
  | 0x021 => h.ptbase
  | 0x030 => h.conf.vcfg.zeroExtend 64
  | 0x031 => word h.conf.vl
  | 0x032 => word (csrVlmax h)
  | 0x033 => word h.vstart
  | 0x034 => word h.conf.vlpad
  | 0x035 => h.vdirty
  | 0x036 => h.vhwsel.zeroExtend 64
  | 0x037 => csrVhwval h
  | 0x040 => h.fflags.zeroExtend 64
  | 0x041 => h.frm.zeroExtend 64
  | 0x050 => h.smflags.zeroExtend 64
  | 0x051 => h.mxflags.zeroExtend 64
  | 0x060 => word (lanesOf s s.cur)
  | 0x061 => word (csrLanemask s)
  | 0x070 => h.errctl.zeroExtend 64
  | 0x071 => h.waityield
  | 0x072 => h.waitlim
  | 0x080 => word (getDie s (curDie s)).leasewin
  | 0x090 => csrSnapctl s
  | 0x0A0 => 0
  | 0x0A1 => word (cpstatOf s (curCore s))
  | _ => 0

/-- A value written that a register refuses (R202): `trapqpos` above 32, `frm` 7, a `leasewin` that is no power
of two from 2^12 to 2^24. -/
def csrRefuses (n : Nat) (v : Word) : Bool :=
  match n with
  | 0x015 => decide (32 < v.toNat)
  | 0x041 => v.toNat % 8 == 7
  | 0x080 => !(fromTo 12 25).any fun k => v.toNat == 2 ^ k
  | _ => false

/-- `status` after a write: supervisor mode writes every field, a handler only `ie`, `pie` and `partial`. -/
def statusWrite (h : Hart) (v : Word) : BitVec 8 :=
  let x : BitVec 8 := v.truncate 8
  if isSuper h then x else (h.status &&& 0xE9) ||| (x &&& 0x16)

/-- A register written; read-only and reserved bits keep their values. -/
def csrWrite (n : Nat) (v : Word) (s : State) : State :=
  let h := s.h
  let d := curDie s
  let k := getDie s d
  match n with
  | 0x010 => { s with h := { h with status := statusWrite h v } }
  | 0x011 => { s with h := { h with trapvec := v &&& ~~~3 } }
  | 0x012 => { s with h := { h with epc := v } }
  | 0x013 => { s with h := { h with trapcause := v &&& 0x80000000000000FF } }
  | 0x014 => { s with h := { h with trapval := v } }
  | 0x015 => { s with h := { h with trapqpos := v.truncate 6 } }
  | 0x016 => { s with h := { h with scratch := v } }
  | 0x020 => { s with h := { h with asid := v.truncate 16 } }
  | 0x021 => { s with h := { h with ptbase := v &&& 0xFFFFFFFFF000 } }
  | 0x033 => { s with h := { h with vstart := v.toNat % 2 ^ 15 } }
  | 0x036 => { s with h := { h with vhwsel := v.truncate 6 } }
  | 0x040 => { s with h := { h with fflags := v.truncate 7 } }
  | 0x041 => { s with h := { h with frm := v.truncate 3 } }
  | 0x050 => { s with h := { h with smflags := v.truncate 9 } }
  | 0x051 => { s with h := { h with mxflags := v.truncate 7 } }
  | 0x070 => { s with h := { h with errctl := v.truncate 5 &&& 0x14 } }
  | 0x071 => { s with h := { h with waityield := if v.toNat < 4096 then 4096 else v } }
  | 0x072 => { s with h := { h with waitlim := v } }
  | 0x080 => setDie d { k with leasewin := v.toNat } s
  | 0x090 => setDie d { k with snapEn := v.truncate 3, snapClass := (v >>> 8).truncate 8 } s
  | 0x0A0 => writeCpctl d v.toNat s
  | _ => s

/-- Registers whose access waits for every earlier vector instruction (R95, R205). -/
def csrVector (n : Nat) : Bool :=
  [0x030, 0x031, 0x032, 0x033, 0x034, 0x035, 0x037, 0x040, 0x050, 0x051, 0x060].contains n

/-- Mode of an access that `status` does not grant (R204). -/
def csrDenied (h : Hart) (acc : CsrAccess) (writes : Bool) : Bool :=
  !isSuper h &&
  match acc with
  | .userRo => false
  | .user => false
  | .userRead => writes
  | .super => true
  | .handler => !hndBit h
  | .superRo => true
  | .status => writes && !hndBit h

/-- The access a CSR instruction makes: the value it writes from the old one, none for a read. -/
def csrOp (i : Instr) (d a : SReg) (csr : BitVec 12) (writes : Bool) (new : Word → Word) (s : State) : Result :=
  let n := csr.toNat
  match csrAccess n with
  | none => scalarTrap 0x01 (parcelsOf i) s
  | some acc =>
    if writes && (acc == .userRo || acc == .superRo) then scalarTrap 0x01 (parcelsOf i) s
    else if csrDenied s.h acc writes then scalarTrap 0x05 (parcelsOf i) s
    else whenReady [d, a] s <|
      if csrVector n && queueBusy s.h then stall s
      else if writes && (n == 0x020 || n == 0x021) && !released 4 s then stall s
      else
        let old := csrRead n s
        if writes then
          if csrRefuses n (new old) then scalarTrap 0x04 (new old) s
          else .next (advance (writeS d old (csrWrite n (new old) s)))
        else .next (advance (writeS d old s))

/-- CFGRD (R203). -/
def execCfgrd (d : SReg) (csr : BitVec 12) (s : State) : Result :=
  csrOp (.cfgrd d csr) d 0 csr false (fun x => x) s

/-- CFGWR (R203). -/
def execCfgwr (d a : SReg) (csr : BitVec 12) (s : State) : Result :=
  csrOp (.cfgwr d a csr) d a csr true (fun _ => readS s a) s

/-- CFGSET (R203); with a = 0 it only reads. -/
def execCfgset (d a : SReg) (csr : BitVec 12) (s : State) : Result :=
  csrOp (.cfgset d a csr) d a csr (a != 0) (fun x => x ||| readS s a) s

/-- CFGCLR (R203); with a = 0 it only reads. -/
def execCfgclr (d a : SReg) (csr : BitVec 12) (s : State) : Result :=
  csrOp (.cfgclr d a csr) d a csr (a != 0) (fun x => x &&& ~~~readS s a) s

end Sys2Proof.Machine
end

