-- ==== Sys2Proof/Machine/MemSys.lean ====
section
/-! DEFINITION. SETTLE, RENEW, DISCARD, PREF and REGDEF (R268 to R275), TLBINV and TLBWAIT (R392, R393),
BANKCFG (R390) and CBLD (R391). -/

namespace Sys2Proof.Machine

/-! ## Ranges -/

/-- The longest range, 64 GiB (R268). -/
def maxRange : Nat := 2 ^ 36

/-- An instruction over the units of a widened range (R268): the length, the hart's earlier accesses, then every
page, and only then the units. -/
def rangeOp (regs : List SReg) (a b : SReg) (need : Kind) (k : Nat → Nat → List Nat → State → Result)
    (s : State) : Result :=
  whenReady regs s <|
    let len := (readS s b).toNat
    if maxRange < len then scalarTrap 0x04 (readS s b) s
    else if !released 3 s then stall s
    else
      let (base, n) := widened (readS s a).toNat len
      match runAcc (rangeUnits (currentWho s) base n need) s with
      | (.error .wait, s) => stall s
      | (.error (.fault cause va), s) => scalarTrap cause (word va) s
      | (.ok lus, s) => k base n lus s

/-- An action on every unit in turn, up to the first that is not done: the state, and whether all are done. -/
def allUnits (act : Nat → State → State × Bool) : List Nat → State → State × Bool
  | [], s => (s, true)
  | lu :: l, s =>
    match act lu s with
    | (s, true) => allUnits act l s
    | (s, false) => (s, false)

/-! ## SETTLE (R269, R270) -/

/-- The region under an ASID that holds a whole range. -/
def regionHolding (s : State) (asid base n : Nat) : Option Nat :=
  (s.regionTable.find? fun p =>
    p.2.asid == asid && decide (p.2.base ≤ base) && decide (base + n ≤ p.2.base + p.2.length)).map fun p => p.1

/-- The number a settle draws: the region and the number; region 4096 and a number of the model's for a settle
that no counter reports. -/
def drawSettle (base n : Nat) (s : State) : Nat × Nat × State :=
  match regionHolding s (currentWho s).asid base n with
  | some r =>
    let e := tgetD s.regionTable r { asid := 0, base := 0, length := 0, frames := [] }
    let num := (e.issue + 1) % 2 ^ 48
    (r, num, { s with regionTable := tset s.regionTable r { e with issue := num } })
  | none => (4096, s.tick, tickUp s)

/-- The bytes every line of a settle carries. -/
def collectSettle (lus : List Nat) (s : State) : List (Nat × LineData) × State :=
  lus.foldl (fun (x : List (Nat × LineData) × State) lu =>
    match settleTake lu x.2 with
    | (some l, s) => (x.1 ++ [(lu, l)], s)
    | (none, s) => (x.1, s)) ([], s)

def execSettle (d a b : SReg) (s : State) : Result :=
  rangeOp [d, a, b] a b .load (fun base n lus s =>
    if n = 0 then .next (advance (writeS d 0 s))
    else
      let (s, ok) := allUnits (settleFetch (tenantOf s (curCore s))) lus s
      if !ok then stall s
      else
        let (lines, s) := collectSettle lus s
        let (r, num, s) := drawSettle base n s
        let s := { s with settles := s.settles ++ [{ region := r, num := num, lines := lines }] }
        .next (advance (writeS d (if r = 4096 then 0 else word num) s))) s

/-! ## RENEW, DISCARD and PREF (R271 to R273) -/

/-- RENEW of every unit: the lines left where they are, and whether all are done. -/
def renewAll (c : Nat) (lus : List Nat) (s : State) : State × Bool × Nat :=
  lus.foldl (fun (x : State × Bool × Nat) lu =>
    let (s, ok, left) := renewLine c lu x.1
    (s, x.2.1 && ok, x.2.2 + left.toNat)) (s, true, 0)

def execRenew (a b : SReg) (s : State) : Result :=
  rangeOp [a, b] a b .load (fun _ _ lus s =>
    let (s, ok, left) := renewAll (curCore s) lus s
    if ok then .next (advance (countTimes 4 left s)) else stall s) s

/-- DISCARD sends the discard of every unit and goes on (R268, R273); later accesses of the hart to the units wait for
them (R329). -/
def execDiscard (a b : SReg) (s : State) : Result :=
  rangeOp [a, b] a b .store (fun _ _ lus s => .next (advance (lus.foldl (fun s lu => sendDiscard s.cur lu s) s))) s

/-- One line of a PREF: filled as a load would, unless the line is not cached or its page fails (R272). A line that the
L1 holds needs no translation (R242). -/
def prefLine (w : Who) (va : Nat) : Acc Unit := do
  match virtualHit (← get) w va Kind.load.need with
  | some (lu, k) => do
    let _ ← cachedRead w lu 0 1 0 (vtagOf va k.asid k.global) k.perms
  | none => do
    let e ← translate w va .load
    let pa := paOf e va
    if placeOfPa pa (bitAt e.pte 9) = .cached then do
      let _ ← cachedRead w (luOf pa) 0 1 0 (vtagOf va w.asid (bitAt e.pte 6)) (permsOf e)
    else pure ()

/-- A line lies in host memory, which is cached in halves. -/
def hostLine (w : Who) (va : Nat) (s : State) : Bool :=
  match virtualHit s w va Kind.load.need, (getCore s w.core).mtb.find? (fun e => mtbMatches e w.asid va) with
  | some (lu, _), _ => isHostLu lu
  | none, some e => isHostLu (luOf (paOf e va))
  | none, none => false

/-- The lines of a range are fetched as far as each can be at once; one that cannot is left to its request. -/
def prefRange (w : Who) (base n : Nat) (s : State) : State :=
  (upTo (n / 128)).foldl (fun s i =>
    let va := (base + 128 * i) % 2 ^ 64
    if touchesWindow va 128 then s
    else
      let s := (runAcc (prefLine w va) s).2
      if hostLine w va s then (runAcc (prefLine w (va + 64)) s).2 else s) s

/-- PREF: a hint without faults. -/
def execPref (a b : SReg) (s : State) : Result :=
  whenReady [a, b] s <|
    let (base, n) := widened (readS s a).toNat (min maxRange (readS s b).toNat)
    .next (advance (prefRange (currentWho s) base n s))

/-! ## REGDEF (R274, R275) -/

/-- The frames of a region's pages: valid, with R and W. -/
def regionFrames (w : Who) (base n : Nat) : Acc (List Nat) := do
  match nonCanonical base n with
  | some va => throw (.fault 0x08 va)
  | none =>
    if touchesWindow base n then throw (.fault 0x0B (max base windowBase))
    else
      (upTo (n / 4096)).foldlM (fun (l : List Nat) i => do
        let va := base + 4096 * i
        let e ← translate w va .load
        if bitAt e.pte 2 then pure (l ++ [paOf e va / 4096]) else throw (.fault 0x0B va)) []

def regionsOf (s : State) (asid : Nat) : List (Nat × RegionEntry) :=
  s.regionTable.filter fun p => p.2.asid == asid

/-- The definition is refused: a full table, a user-mode ASID at its limit of 64, an overlap (R274, R389). -/
def regionRefused (s : State) (asid base n : Nat) : Bool :=
  decide (4096 ≤ s.regionTable.length) ||
  (!isSuper s.h && decide (64 ≤ (regionsOf s asid).length)) ||
  (regionsOf s asid).any fun p => decide (p.2.base < base + n) && decide (base < p.2.base + p.2.length)

/-- A free entry of the table; which one the spec leaves open. -/
def freeRegion (s : State) : Nat :=
  let l := (upTo 4096).filter fun i => (tget s.regionTable i).isNone
  l.getD (Config.regionChoice s.tick % max 1 l.length) 0

/-- A command names a region. -/
def namesRegion (r : Nat) (q : IpCmd) : Bool :=
  bitsGet q.record 32 12 == r || (bitsGet q.record 0 8 != 6 && bitsGet q.record 48 12 == r)

/-- An in-place command of any hart that names a region has not completed. -/
def regionBusy (s : State) (r asid : Nat) : Bool :=
  let p (q : IpCmd) : Bool := q.asid == asid && namesRegion r q
  s.ipRunning.any (fun q => !q.done && p q) || s.h.ipFifo.any p || s.others.any fun h => h.2.ipFifo.any p

/-- The region's entry is freed; its settles go on without a counter, each under a number of its own. -/
def releaseRegion (r : Nat) (s : State) : State :=
  { s with
    regionTable := tdel s.regionTable r
    settles := (s.settles.zip (upTo s.settles.length)).map fun p =>
      if p.1.region = r then { p.1 with region := 4096, num := s.tick + p.2 } else p.1
    tick := s.tick + s.settles.length }

def allOnes : Word := BitVec.allOnes 64

def execRegdef (d a b : SReg) (s : State) : Result :=
  whenReady [d, a, b] s <|
    let w := currentWho s
    let base := (readS s a).toNat
    let n := (readS s b).toNat
    if n = 0 then
      match tget s.regionTable base with
      | none => .next (advance (writeS d allOnes s))
      | some e =>
        if e.asid ≠ w.asid then .next (advance (writeS d allOnes s))
        else if regionBusy s base w.asid then stall s
        else .next (advance (writeS d 0 (releaseRegion base s)))
    else if base % 4096 ≠ 0 then scalarTrap 0x04 (readS s a) s
    else if n % 4096 ≠ 0 ∨ maxRange < n then scalarTrap 0x04 (readS s b) s
    else match runAcc (regionFrames w base n) s with
      | (.error .wait, s) => stall s
      | (.error (.fault cause va), s) => scalarTrap cause (word va) s
      | (.ok frames, s) =>
        if regionRefused s w.asid base n then .next (advance (writeS d allOnes s))
        else
          let r := freeRegion s
          let e : RegionEntry := { asid := w.asid, base := base, length := n, frames := frames }
          .next (advance (writeS d (word r) (tickUp { s with regionTable := tset s.regionTable r e })))

/-! ## TLBINV and TLBWAIT (R392, R393) -/

/-- The first page and the number of pages of a range; every page for the length of all ones. -/
def invRange (base len : Nat) : Nat × Nat :=
  if len = 2 ^ 64 - 1 then (0, 2 ^ 52)
  else if len = 0 then (base / 4096, 0)
  else (base / 4096, (base + len - 1) / 4096 - base / 4096 + 1)

/-- Every core of the package acknowledges, for itself, its channels and its walker. -/
def invAgents : List Nat := upTo 576

/-- The invalidations of a hart whose acknowledgements have not all arrived, wherever it stood when it issued them. -/
def invsOf (s : State) (n : Nat) : List TlbInv :=
  let l := (getHart s n).logical
  s.tlbInvs.filter fun t => t.logical == l && (l.isSome || t.hart == n)

def execTlbinv (d a b : SReg) (s : State) : Result :=
  if !isSuper s.h then scalarTrap 0x05 (parcelsOf (.tlbinv d a b)) s
  else whenReady [d, a, b] s <|
    let asid := (readS s d).toNat
    let base := (readS s a).toNat
    let len := (readS s b).toNat
    if 2 ^ 16 ≤ asid then scalarTrap 0x04 (readS s d) s
    else if len ≠ 2 ^ 64 - 1 ∧ (nonCanonical base len).isSome then scalarTrap 0x04 (readS s a) s
    else if !released 3 s then stall s
    else if len = 0 then .next (advance s)
    else if 4 ≤ (invsOf s s.cur).length then stall s
    else
      let (first, count) := invRange base len
      let t : TlbInv := { hart := s.cur, logical := s.h.logical, asid := asid, first := first, count := count
                          waiting := invAgents }
      .next (advance { s with tlbInvs := s.tlbInvs ++ [t] })

/-- TLBWAIT: an acquire at package scope once every acknowledgement has arrived (R393). -/
def execTlbwait (s : State) : Result :=
  if !isSuper s.h then scalarTrap 0x05 (parcelsOf .tlbwait) s
  else if (invsOf s s.cur).isEmpty then .next (advance (acquire (curCore s) s))
  else stall s

/-- A page number of 4 KiB, of the 2^52 that 64 bits have, lies in an invalidation, or a larger page meets it. -/
def invHits (t : TlbInv) (vpn pages : Nat) : Bool :=
  let v := if 2 ^ 35 ≤ vpn % 2 ^ 36 then vpn % 2 ^ 36 + (2 ^ 52 - 2 ^ 36) else vpn % 2 ^ 36
  decide (t.first < v + pages) && decide (v < t.first + t.count)

/-- The page number of an L1 copy's virtual address, from its tag and set (R242). -/
def copyPage (k : L1Copy) : Nat := (k.vtag * 2 ^ 13 + k.set * 128) / 4096

/-- What a hart has read early under an old translation is read again at the head (R336, R392). -/
def dropEarlyReads (c : Nat) (s : State) : State :=
  (upTo 8).foldl (fun s slot =>
    let h := getHart s (8 * c + slot)
    if h.loadData.all (·.isEmpty) then s
    else setHart (8 * c + slot) { h with loadData := Vector.replicate 2 [] } s) s

/-- Last-use loads that stand frozen in a handler's hands discard nothing of what they read under an old translation:
DESIGN CHOICE (log 42), since waiting for them would keep the handler's own TLBWAIT from returning. -/
def dropFrozenUse (c : Nat) (s : State) : State :=
  (upTo 8).foldl (fun s slot =>
    let h := getHart s (8 * c + slot)
    if h.frozen && !h.lastUse.isEmpty then setHart (8 * c + slot) { h with lastUse := [] } s else s) s

/-- Core c acts on an invalidation: its MTB and its L1 lose what the range covers, and early reads go (R392). -/
def invCore (t : TlbInv) (c : Nat) (s : State) : State :=
  let k := getCore s c
  let s := dropFrozenUse c <| dropEarlyReads c (setCore c { k with mtb := k.mtb.filter fun e =>
    !((e.asid == t.asid || bitAt e.pte 6) && invHits t e.vpn (pageSize e.level / 4096)) } s)
  (copiesOf s c).foldl (fun s lu =>
    let x := getCopy s c lu
    if x.st != .i && (x.asid == t.asid || x.global) && invHits t (copyPage x) 1 then evictCopy c lu s else s) s

/-- A block that moves under translations of its own (R182, R216). -/
def blockMoves (h : Hart) : Bool := !h.pass.pages.isEmpty || h.memberPass.any fun p => !p.2.pages.isEmpty

/-- Accesses of a core's harts and channels under a translation found before that are still on their way, discards and
the last-use loads that owe them among them (R329, R358, R392). -/
def coreInFlight (s : State) (c : Nat) : Bool :=
  (s.remotes.any fun r => r.reply.isNone && (r.hart / 8 == c || (decide (4608 ≤ r.hart) && (r.hart - 4608) / 4 == c))) ||
  (s.discards.any fun p => p.2 % 2 ^ 20 / 8 == c) ||
  (upTo 8).any fun slot =>
    let h := getHart s (8 * c + slot)
    blockMoves h || (!h.frozen && !h.lastUse.isEmpty)

/-- Core c acknowledges the invalidations that a test names and that still wait for it. -/
def acknowledgeFor (mine : TlbInv → Bool) (c : Nat) (s : State) : State :=
  if coreInFlight s c then s
  else
    let s := s.tlbInvs.foldl (fun s t => if mine t && t.waiting.contains c then invCore t c s else s) s
    let l := s.tlbInvs.map fun t => if mine t then { t with waiting := t.waiting.filter (· != c) } else t
    { s with tlbInvs := l.filter fun t => !t.waiting.isEmpty }

/-- Core c acknowledges the invalidations of hart n. -/
def acknowledge (n c : Nat) (s : State) : State :=
  let l := invsOf s n
  acknowledgeFor (fun t => l.contains t) c s

/-! ## BANKCFG (R390) -/

def modeCode (m : BankMode) : Nat := match m with | .cache => 0 | .scratch => 1 | .fifo => 2
def modeOfCode (n : Nat) : BankMode := if n = 0 then .cache else if n = 1 then .scratch else .fifo

/-- An entry of the range table lies on a bank. -/
def bankBusy (s : State) (c b : Nat) : Bool :=
  let lo := windowBase + 8192 * b
  rangesMeet [(((lo : Int), ((lo + 8192 : Nat) : Int)), true)] ((rangeTable s c).map (·.2))

/-- Every copy that a bank's way holds leaves the L1. -/
def emptyWay (c b : Nat) (s : State) : State :=
  (copiesOf s c).foldl (fun s lu =>
    let k := getCopy s c lu
    if k.way = b ∨ k.way2 = some b then evictCopy c lu s else s) s

/-- A bank changes to another mode: what it held leaves as the table of R390 says; agents that wait at a FIFO-mode bank
will meet cause 0x0C (R347). -/
def changeBank (c b : Nat) (m : BankMode) (s : State) : State :=
  let old := (getCore s c).banks.getD b .cache
  let s := if old = .cache then emptyWay c b s else s
  let s := scratchWrite c (8192 * b) 8192 0 s
  let k := getCore s c
  setCore c { k with banks := k.banks.setIfInBounds b m, fifos := tdel k.fifos b
                     waiters := tdel (tdel k.waiters (2 * b)) (2 * b + 1)
                     ousted := k.ousted ++ [2 * b, 2 * b + 1].flatMap fun key =>
                       (tgetD k.waiters key []).map fun x => (x, key) } s

def execBankcfg (d a b : SReg) (s : State) : Result :=
  whenReady [d, a, b] s <|
    let bank := (readS s a).toNat
    let mode := (readS s b).toNat
    let c := curCore s
    let k := getCore s c
    if 95 < bank then scalarTrap 0x04 (readS s a) s
    else if 3 ≤ mode then scalarTrap 0x04 (readS s b) s
    else if k.budget ≤ bank then scalarTrap 0x0B (word (windowBase + 8192 * bank)) s
    else if !released 4 s || bankBusy s c bank then stall s
    else
      let old := k.banks.getD bank .cache
      let m := modeOfCode mode
      let ways := (cacheWays { k with banks := k.banks.setIfInBounds bank m }).length
      if old = m then .next (advance (writeS d (word (modeCode old)) s))
      else if ways < 4 ∨ 32 < ways then .next (advance (writeS d allOnes s))
      else .next (advance (writeS d (word (modeCode old)) (changeBank c bank m s)))

/-! ## CBLD (R391) -/

/-- Instructions that decode CB2. -/
def decodesCb2 : Instr → Bool
  | .vcbdec _ _ _ => true
  | .vdqnt _ _ _ => true
  | .mldw _ => true
  | _ => false

/-- The table from the 32-byte parts read; the words of a poisoned part are 0. -/
def codebookOf (parts : List Rd) : Vector (BitVec 32) 256 :=
  Vector.ofFn fun i =>
    let p := parts.getD (i.val / 8) { val := 0 }
    if p.pois.isEmpty then BitVec.ofNat 32 (bitsGet p.val (32 * (i.val % 8)) 32) else 0

def readCodebook (va : Nat) : Acc (List Rd) := do
  let w := currentWho (← get)
  (upTo 32).foldlM (fun (l : List Rd) i => do
    let r ← readMem w ((va + 32 * i) % 2 ^ 64) 32 0 0 .load
    pure (l ++ [r])) []

def execCbld (a : SReg) (s : State) : Result :=
  let va := (readS s a).toNat
  whenReady [a] s <|
    if va % 1024 ≠ 0 then scalarTrap 0x04 (readS s a) s
    else if fifoBankAt s va then scalarTrap 0x0C (readS s a) s
    else if queuedWork decodesCb2 s.h || queueBlocks s va 1024 false then stall s
    else match runAcc (readCodebook va) s with
      | (.error .wait, s) => stall s
      | (.error (.fault cause fa), s) => scalarTrap cause (word fa) s
      | (.ok parts, s) =>
        let c := curCore s
        let r : Rd := { val := 0, pois := parts.flatMap fun p => p.pois }
        if poisonWaits r s then stall s
        else .next (scalarDone va r
          (setCore c { getCore s c with codebook := codebookOf parts } s))

end Sys2Proof.Machine
end

