-- ==== Sys2Proof/Machine/VPermute.lean ====
section
/-! DEFINITION. VPERM, permutes, slides, compress, expand and transposes (R143 to R147), and VBIT, shifts of a
vector's whole bit string (R148). -/

namespace Sys2Proof.Machine

def byteWide (c : VConf) : Bool := decide (8 ≤ confW c)

/-- Write elements given by position; positions without a value are left undisturbed. -/
def writeElems (c : VConf) (d fmt : Nat) (l : List (Nat × Option Nat)) (h : Hart) : Hart :=
  l.foldl (fun h p => match p.2 with | some x => vset c d fmt p.1 x h | none => h) h

/-- A permute: every source is read first; destinations follow R115. `skip` leaves a position as it is. -/
def permOp (f : VF) (skip : (b : Word) → Nat → Bool) (g : VConf → Word → Hart → Nat → Nat) : PerfFn :=
  wholeOp fun c _ b h => writeElems c f.d.toNat (confFmt c) ((upTo c.vl).map fun i =>
    (i, if skip b i then none
        else if isPad c i then some (padValue (confFmt c))
        else if maskBit h f.m.toNat i then some (g c b h i)
        else if f.mz then some 0 else none)) h

/-- The selected elements below the pads, in order (R145). -/
def selectedElems (c : VConf) (f : VF) : List Nat → Hart → List Nat
  | l, h => l.filter fun i => maskBit h f.m.toNat i && !isPad c i

/-! ## Transposes (R146, R147) -/

def transposeBad04 (c : VConf) (f : VF) : Bool :=
  let n := f.imm.toNat
  n == 0 || decide (64 < n) || decide (confVlmax c < n) || c.vl == 0 || confFmt c == 12 ||
    groupsMeet f.a.toNat n f.d.toNat c.vl

def transposeBad03 (c : VConf) (f : VF) : Bool :=
  groupBad c f.a.toNat f.imm.toNat || groupBad c f.d.toNat c.vl

/-- The rows of one scale group (R85). -/
def oneScaleGroup (c : VConf) (r n : Nat) : Bool :=
  let g := blockLen (confBlk c) * confW c / 8
  r / g == (r + n - 1) / g

def qtrnFormat (f : Nat) : Bool := f == 3 || f == 4 || f == 5 || f == 8

def qtrnBad04 (c : VConf) (f : VF) : Bool :=
  let b := blockLen (confBlk c)
  let n := f.imm.toNat
  !qtrnFormat (confFmt c) || b == 0 || n % max 1 b != 0 || c.vl % max 1 b != 0 || transposeBad04 c f ||
    !oneScaleGroup c f.a.toNat n || !oneScaleGroup c f.d.toNat c.vl ||
    groupsMeet f.c.toNat 2 f.a.toNat n || groupsMeet f.c.toNat 2 f.d.toNat c.vl

/-- One element re-expressed at a new scale (R147). DESIGN CHOICE (log 63): an E5M2 infinity goes through Round with
sat = 1, as the pseudocode has it, which gives ±M with SAT (R83), where the prose says that no result saturates. -/
def qtrnElem (fmt x sIn snew : Nat) : Nat × Nat :=
  if snew = 0xFF then ((if fmt = 5 ∨ fmt = 8 then 0 else qNaN fmt), fNV)
  else roundX (scaleX (decodeX fmt x) ((sIn : Int) - snew)) fmt 0 0 true

/-- Block of B rows from b0 at column j, read from the registers h0 (R147). -/
def qtrnBlock (c : VConf) (f : VF) (h0 : Hart) (acc : Hart × Nat) (j b0 : Nat) : Hart × Nat :=
  let b := blockLen (confBlk c)
  let fmt := confFmt c
  let w := confW c
  let rows := (upTo b).map (b0 + ·)
  let sIn (r : Nat) : Nat := scaleByte c h0 f.c.toNat w (f.a.toNat + r) j
  let out (x : Nat) (h : Hart) : Hart :=
    vsetBits (f.c.toNat + 1) (8 * scaleIndex c w (f.d.toNat + j) b0) 8 x h
  if isPad c j then (rows.foldl (fun h r => vset c (f.d.toNat + j) fmt r 0 h) (out 0x7F acc.1), acc.2)
  else
    let snew := rows.foldl (fun s r => max s (sIn r)) 0
    rows.foldl (fun (acc : Hart × Nat) r =>
      let (x, fl) := qtrnElem fmt (vget c h0 (f.a.toNat + r) fmt j) (sIn r) snew
      (vset c (f.d.toNat + j) fmt r x acc.1, acc.2 ||| fl)) (out snew acc.1, acc.2)

/-! ## Bit strings (R148) -/

/-- A shift of the bit string of vl elements: A, C, k and S to the string's new bits. -/
def bitOp (f : VF) (g : (a c k s : Nat) → Nat) : PerfFn :=
  wholeOp fun c _ b h =>
    let s := c.vl * confW c
    let str (r : Nat) : Nat := bitsGet (vreg h r) 0 s
    if s = 0 then h else vsetBits f.d.toNat 0 s (g (str f.a.toNat) (str f.c.toNat) (min b.toNat s) s % 2 ^ s) h

def checkMove (i : Instr) : CheckFn := fun c => checks false (indexBad i c)

/-- The checks of VPERM at commit. -/
def checkVperm (f : VF) : CheckFn :=
  fun c => checks (!byteWide c) (indexBad (.vperm f) c)

/-- VPERM (R143) at the head of the queue. -/
def perfVperm (f : VF) : PerfFn :=
  permOp f (fun _ _ => false) fun c _ h i =>
    let x := vget c h f.b.toNat (confFmt c) i
    if x < c.vl then vget c h f.a.toNat (confFmt c) x else 0

def execVperm (f : VF) (s : State) : Result :=
  commitVector (.vperm f) (checkVperm f) (perfVperm f) s

/-- The checks of VSLIDEUP at commit. -/
def checkVslideup (f : VF) : CheckFn :=
  checkMove (.vslideup f)

/-- VSLIDEUP (R144) at the head of the queue. -/
def perfVslideup (f : VF) : PerfFn :=
  permOp f (fun b i => decide (i < b.toNat)) fun c b h i => vget c h f.a.toNat (confFmt c) (i - b.toNat)

def execVslideup (f : VF) (s : State) : Result :=
  commitVector (.vslideup f) (checkVslideup f) (perfVslideup f) s

/-- The checks of VSLIDEDN at commit. -/
def checkVslidedn (f : VF) : CheckFn :=
  checkMove (.vslidedn f)

/-- VSLIDEDN (R144) at the head of the queue. -/
def perfVslidedn (f : VF) : PerfFn :=
  permOp f (fun _ _ => false) fun c b h i =>
    if i + b.toNat < c.vl then vget c h f.a.toNat (confFmt c) (i + b.toNat) else 0

def execVslidedn (f : VF) (s : State) : Result :=
  commitVector (.vslidedn f) (checkVslidedn f) (perfVslidedn f) s

/-- The checks of VCOMPRESS at commit. -/
def checkVcompress (f : VF) : CheckFn :=
  fun c => checks (!byteWide c) (indexBad (.vcompress f) c)

/-- VCOMPRESS (R145) at the head of the queue. -/
def perfVcompress (f : VF) : PerfFn :=
  wholeOp fun c _ _ h =>
    let l := selectedElems c f (upTo c.vl) h
    writeElems c f.d.toNat (confFmt c) ((upTo c.vl).map fun i =>
      (i, match l[i]? with
          | some j => some (vget c h f.a.toNat (confFmt c) j)
          | none => if f.mz then some 0 else none)) h

def execVcompress (f : VF) (s : State) : Result :=
  commitVector (.vcompress f) (checkVcompress f) (perfVcompress f) s

/-- The checks of VEXPAND at commit. -/
def checkVexpand (f : VF) : CheckFn :=
  fun c => checks (!byteWide c) (indexBad (.vexpand f) c)

/-- VEXPAND (R145) at the head of the queue. -/
def perfVexpand (f : VF) : PerfFn :=
  wholeOp fun c _ _ h =>
    let r := (upTo c.vl).foldl (fun (acc : List (Nat × Option Nat) × Nat) i =>
      if isPad c i then (acc.1 ++ [(i, some (padValue (confFmt c)))], acc.2)
      else if maskBit h f.m.toNat i then
        (acc.1 ++ [(i, some (vget c h f.a.toNat (confFmt c) acc.2))], acc.2 + 1)
      else if f.mz then (acc.1 ++ [(i, some 0)], acc.2) else acc) ([], 0)
    writeElems c f.d.toNat (confFmt c) r.1 h

def execVexpand (f : VF) (s : State) : Result :=
  commitVector (.vexpand f) (checkVexpand f) (perfVexpand f) s

/-- The checks of VGTRN at commit. -/
def checkVgtrn (f : VF) : CheckFn :=
  fun c => checks (transposeBad04 c f) (indexBad (.vgtrn f) c || transposeBad03 c f)

/-- VGTRN (R146) at the head of the queue. -/
def perfVgtrn (f : VF) : PerfFn :=
  wholeOp fun c _ _ h =>
    (upTo c.vl).foldl (fun h' j => (upTo f.imm.toNat).foldl (fun h' r =>
      vset c (f.d.toNat + j) (confFmt c) r
        (if isPad c j then padValue (confFmt c) else vget c h (f.a.toNat + r) (confFmt c) j) h') h') h

def execVgtrn (f : VF) (s : State) : Result :=
  commitVector (.vgtrn f) (checkVgtrn f) (perfVgtrn f) s

/-- The checks of VQTRN at commit. DEDUCED (log 55): a group past v(N − 1) is cause 0x03, as R146 has it, though R147
lists the conditions of R146 under 0x04. -/
def checkVqtrn (f : VF) : CheckFn :=
  fun c => checks (qtrnBad04 c f)
    (indexBad (.vqtrn f) c || transposeBad03 c f || decide (confN c ≤ f.c.toNat + 1))

/-- VQTRN (R147) at the head of the queue. -/
def perfVqtrn (f : VF) : PerfFn :=
  wholeOp fun c _ _ h =>
    let b := blockLen (confBlk c)
    let r := (upTo c.vl).foldl (fun acc j => (upTo (f.imm.toNat / b)).foldl (fun acc n =>
      qtrnBlock c f h acc j (n * b)) acc) (h, 0)
    orFlags r.2 r.1

def execVqtrn (f : VF) (s : State) : Result :=
  commitVector (.vqtrn f) (checkVqtrn f) (perfVqtrn f) s

/-- The checks of VBSLL at commit. -/
def checkVbsll (f : VF) : CheckFn :=
  checkMove (.vbsll f)

/-- VBSLL (R148) at the head of the queue. -/
def perfVbsll (f : VF) : PerfFn :=
  bitOp f (fun a _ k _ => a <<< k)

def execVbsll (f : VF) (s : State) : Result :=
  commitVector (.vbsll f) (checkVbsll f) (perfVbsll f) s

/-- The checks of VBSRL at commit. -/
def checkVbsrl (f : VF) : CheckFn :=
  checkMove (.vbsrl f)

/-- VBSRL (R148) at the head of the queue. -/
def perfVbsrl (f : VF) : PerfFn :=
  bitOp f (fun a _ k _ => a >>> k)

def execVbsrl (f : VF) (s : State) : Result :=
  commitVector (.vbsrl f) (checkVbsrl f) (perfVbsrl f) s

/-- The checks of VBFSL at commit. -/
def checkVbfsl (f : VF) : CheckFn :=
  checkMove (.vbfsl f)

/-- VBFSL (R148) at the head of the queue. -/
def perfVbfsl (f : VF) : PerfFn :=
  bitOp f (fun a c k s => (a <<< k) ||| (c >>> (s - k)))

def execVbfsl (f : VF) (s : State) : Result :=
  commitVector (.vbfsl f) (checkVbfsl f) (perfVbfsl f) s

/-- The checks of VBFSR at commit. -/
def checkVbfsr (f : VF) : CheckFn :=
  checkMove (.vbfsr f)

/-- VBFSR (R148) at the head of the queue. -/
def perfVbfsr (f : VF) : PerfFn :=
  bitOp f (fun a c k s => (a >>> k) ||| (c <<< (s - k)))

def execVbfsr (f : VF) (s : State) : Result :=
  commitVector (.vbfsr f) (checkVbfsr f) (perfVbfsr f) s

end Sys2Proof.Machine
end

