-- ==== Sys2Proof/Machine/Matrix.lean ====
section
/-! DEFINITION. The matrix engine (R166 to R184): planes, streaming and the set-free drain; the drain through
the Facet unit is in Proj, spills and fills in Spill. -/

namespace Sys2Proof.Machine

/-! ## Ownership and registers -/

/-- The turn's hart owns the engine of its core (R14). -/
def ownsEngine (s : State) : Bool := (getCore s (curCore s)).owner == some (s.cur % 8)

/-- The ownership check at the head of the queue (R68, R170). -/
def engineOwned (p : PerfFn) : PerfFn := fun c a b s => if ownsEngine s then p c a b s else .trap 0x18 none s

/-- An engine entry as an exact value (R73). -/
def a48 (x : Nat) : XVal := decodeX fmtA48 x

/-- Registers that n elements of width w occupy (R117, R172). -/
def spanOf (c : VConf) (w n : Nat) : Nat := (n + regElems c w - 1) / max 1 (regElems c w)

/-- A bit string of elements of width w, the first lowest. -/
def packBits (w : Nat) : List Nat → Nat
  | [] => 0
  | x :: l => x % 2 ^ w + packBits w l <<< w

/-- Entry (m, n) of an accumulator. -/
def accEntry (acc m n : Nat) : Nat := bitsGet acc (48 * (64 * m + n)) 48

/-- An accumulator with one row written. -/
def accRow (acc m : Nat) (row : List Nat) : Nat := bitsSet acc (3072 * m) 3072 (packBits 48 row)

def getAcc (k : Core) (n : Nat) : Nat := k.acc.toArray.getD n 0

def setAcc (k : Core) (n x : Nat) : Core := { k with acc := k.acc.setIfInBounds n x }

/-! ## Formats (R169, R172) -/

/-- A format of streamed rows. -/
def afFormat (f : Nat) : Bool := decide (1 ≤ f) && decide (f ≤ 5)

/-- A format of a plane. -/
def bfFormat (f : Nat) : Bool := afFormat f || f == 11 || f == 12

/-- BF16 and FP16, which take no block scale. -/
def unscaledFormat (f : Nat) : Bool := f == 1 || f == 2

def afOf (k : Core) : Nat := bitsGet k.engConf.toNat 0 4
def bfOf (k : Core) : Nat := bitsGet k.engConf.toNat 4 4

/-- The captured block length that applies to a format. -/
def planeBlk (c : VConf) : Nat := if unscaledFormat (confFmt c) then 0 else confBlk c

/-- The rules of a source group of n registers and its scale register (R172): the 0x04 conditions. -/
def scaledBad04 (c : VConf) (a creg n : Nat) : Bool :=
  if planeBlk c = 0 then creg != 0
  else !oneScaleGroup c a n || groupsMeet creg (if confFmt c = 11 then 2 else 1) a n

/-! ## Planes (R167, R172, R173) -/

def planeCode (p : Plane) (k n : Nat) : Nat := bitsGet p.codes (16 * (64 * k + n)) 16

/-- Index of the scale byte of entry (k, n), as a spill lays them (R181). -/
def planeScaleAt (p : Plane) (k n : Nat) : Nat := 8 * n + k / max 1 (blockLen p.blk)

def planeScale (p : Plane) (k n : Nat) : Nat := bitsGet p.scales (8 * planeScaleAt p k n) 8

/-- The value of an entry before its scale. -/
def planeRaw (p : Plane) (k n : Nat) : XVal :=
  let x := planeCode p k n
  if p.fmt = 12 then xSigned (toSigned 16 x) (-2)
  else if p.fmt = 11 then xInt ((x % 16 : Nat) - (bitsGet p.zps (8 * planeScaleAt p k n) 8 % 16 : Nat))
  else decodeX p.fmt (x % 2 ^ fmtWidth p.fmt)

/-- PlaneValue (R174) and its flags. -/
def planeValue (p : Plane) (k n : Nat) : XVal × Nat :=
  if p.blk = 0 then (planeRaw p k n, 0)
  else
    let s := planeScale p k n
    (applyScale (planeRaw p k n) s, if s = 0xFF then fNV else 0)

/-- Positions of a plane in the order of its codes: (k, n). -/
def planePositions : List (Nat × Nat) := (upTo 64).flatMap fun k => (upTo 64).map fun n => (k, n)

/-- The bytes of a per-block table: one for each block of each column, zero for the absent ones. -/
def planeTable (b : Nat) (g : (n kb : Nat) → Nat) : Nat :=
  packBits 8 ((upTo 64).flatMap fun n => (upTo 8).map fun kb => if b ≠ 0 ∧ kb * b < 64 then g n kb else 0)

/-- The code a plane keeps for source element i: CB2 coordinates are decoded when the load runs (R172). -/
def sourceCode (c : VConf) (s : State) (a i : Nat) : Nat :=
  if confFmt c = 12 then
    let e := regElems c 2
    let x := bitsGet (vreg s.h (a + i / e)) (16 * (i % e / 8)) 16
    ofInt 16 (cbDecode (codebookWord s (curCore s) x) x (i % 8))
  else vget c s.h a (confFmt c) i

/-- The plane of MLDW in modes 0 and 1. -/
def loadPlane (c : VConf) (f : VF) (s : State) : Plane :=
  let tr := f.imm.toNat == 1
  let src (k n : Nat) : Nat := if tr then 64 * n + k else 64 * k + n
  let b := blockLen (planeBlk c)
  let byte (r n kb : Nat) : Nat := scaleByte c s.h r (confW c) f.a.toNat (64 * n + kb * b)
  { loaded := true, fmt := confFmt c, blk := planeBlk c
    codes := packBits 16 (planePositions.map fun p => sourceCode c s f.a.toNat (src p.1 p.2))
    scales := planeTable b (byte f.c.toNat)
    zps := if confFmt c = 11 then planeTable b (byte (f.c.toNat + 1)) else 0 }

/-- The plane of MLDW in mode 2 and its flags (R173). -/
def requantPlane (c : VConf) (f : VF) (h : Hart) : Plane × Nat :=
  let b := blockLen (confBlk c)
  let sIn (k n : Nat) : Nat := scaleByte c h f.c.toNat (confW c) f.a.toNat (64 * k + n)
  let snew (n kb : Nat) : Nat := (upTo b).foldl (fun x j => max x (sIn (kb * b + j) n)) 0
  let entries := planePositions.map fun p =>
    qtrnElem (confFmt c) (vget c h f.a.toNat (confFmt c) (64 * p.1 + p.2)) (sIn p.1 p.2) (snew p.2 (p.1 / b))
  ({ loaded := true, fmt := confFmt c, blk := confBlk c
     codes := packBits 16 (entries.map (·.1)), scales := planeTable b snew },
    entries.foldl (fun fl e => fl ||| e.2) 0)

/-- Mode, format and block length go together (R172). -/
def mldwMode (f : VF) (c : VConf) : Bool :=
  match f.imm.toNat with
  | 0 => afFormat (confFmt c) && confBlk c == 0
  | 1 => bfFormat (confFmt c) && (confBlk c != 0 || afFormat (confFmt c))
  | _ => (confFmt c == 3 || confFmt c == 4 || confFmt c == 5) && confBlk c != 0

/-! ## Streaming (R90, R174) -/

/-- The exact sum of a list of products with the accumulator value, and the flags: a NaN gives NaN, opposite
infinities give NaN with NV. -/
def exactSum (t : XVal) (l : List (XVal × Nat)) : XVal × Nat :=
  let fl := l.foldl (fun fl p => fl ||| p.2) (if isSigX t then fNV else 0)
  if isNanX t || l.any (fun p => isNanX p.1) then (.nan false, fl)
  else
    let r := l.foldl (fun (acc : XVal × Nat) p => let (x, g) := addX acc.1 p.1 false; (x, acc.2 ||| g)) (t, 0)
    (r.1, fl ||| r.2)

/-- MatGroupAdd (R90): no product leaves the accumulator value as it is. -/
def matGroupAdd (t : Nat) (l : List (XVal × Nat)) : Nat × Nat :=
  if l.isEmpty then (t, 0)
  else
    let (x, fl) := exactSum (a48 t) l
    let (r, fl') := roundX x fmtA48 0 0 false
    (r, fl ||| fl')

/-- The value of a streamed element and its flags: its block scale applies unless the format takes none. -/
def rowValue (c : VConf) (f : VF) (h : Hart) (i : Nat) : XVal × Nat :=
  let x := decodeX (confFmt c) (vget c h f.a.toNat (confFmt c) i)
  if planeBlk c = 0 then (x, 0)
  else
    let s := scaleByte c h f.c.toNat (confW c) f.a.toNat i
    (applyScale x s, if s = 0xFF then fNV else 0)

/-- The exact product of two valued operands. -/
def mulVals (a b : XVal × Nat) : XVal × Nat :=
  let (x, fl) := mulX a.1 b.1
  (x, a.2 ||| b.2 ||| fl)

/-- Row m of the result, with its flags: the row's elements, none at the pads, against the plane's columns. -/
def streamRow (row : List (Option (XVal × Nat))) (col : Nat → List (XVal × Nat)) (t : Nat → Nat) : List Nat × Nat :=
  let rs := (upTo 64).map fun n =>
    let ps := (row.zip (col n)).map fun p => p.1.map fun x => mulVals x p.2
    (upTo 8).foldl (fun (acc : Nat × Nat) g =>
      let (x, fl) := matGroupAdd acc.1 (((ps.drop (8 * g)).take 8).filterMap id)
      (x, acc.2 ||| fl)) (t n, 0)
  (rs.map (·.1), rs.foldl (fun fl r => fl ||| r.2) 0)

/-- The length of MSTRM, MDRN, VPROJ and VPJADJ: whole rows (R174, R196). -/
def rowsBad (c : VConf) : Bool := c.vl % 64 != 0 || c.vl == 0 || decide (4096 < c.vl)

/-- A start at a row boundary, checked at the head (R174). -/
def rowAligned (p : PerfFn) : PerfFn := perfWhen (fun _ h => h.vstart % 64 == 0) p

/-- The rows that MSTRM, MDRN, VPROJ and VPJADJ go through now: up to the front (R175, R199, R338). -/
def rowsTodo (c : VConf) (h : Hart) : List Nat := fromTo (h.vstart / 64) (min c.vl h.front / 64)

/-- The end of those rows: the instruction is done, or stands at a row boundary. -/
def rowsEnd (c : VConf) (s : State) : Perf :=
  if s.h.front < c.vl then .wait { s with h := { s.h with vstart := max s.h.vstart (s.h.front / 64 * 64) } }
  else .done { s with h := { s.h with vstart := 0 } }

/-- A condition on the engine, checked at the head: 0x04. -/
def engineWhen (ok : VConf → Core → Bool) (p : PerfFn) : PerfFn :=
  fun c a b s => if ok c (getCore s (curCore s)) then p c a b s else .trap 0x04 none s

/-- MSTRM's rows up to the front added into an accumulator (R174). -/
def streamRows (c : VConf) (f : VF) (s : State) : State :=
  let core := curCore s
  let k := getCore s core
  let cols := (upTo 64).map fun n => (upTo 64).map fun j => planeValue k.wpa j n
  let zero := f.imm.toNat % 2 == 1 && s.h.vstart == 0
  let acc0 := getAcc k f.d.toNat
  let acc0 := if zero then bitsSet acc0 0 (48 * c.vl) 0 else acc0
  let (acc, fl) := (rowsTodo c s.h).foldl (fun (st : Nat × Nat) m =>
    let row := (upTo 64).map fun j => if isPad c (64 * m + j) then none else some (rowValue c f s.h (64 * m + j))
    let (r, fl) := streamRow row (fun n => cols.getD n []) (accEntry st.1 m)
    (accRow st.1 m r, st.2 ||| fl)) (acc0, 0)
  let s := setCore core (setAcc k f.d.toNat acc) s
  { s with h := orMx fl s.h }

/-- The checks of MCFG at commit. -/
def checkMcfg (f : VF) : CheckFn :=
  fun _ => checks (!afFormat (bitsGet f.imm.toNat 0 4) || !bfFormat (bitsGet f.imm.toNat 4 4)) false

/-- MCFG (R169) at the head of the queue. -/
def perfMcfg (f : VF) : PerfFn :=
  engineOwned fun _ _ _ s =>
    .done (setCore (curCore s) { getCore s (curCore s) with engConf := BitVec.ofNat 8 f.imm.toNat } s)

def execMcfg (f : VF) (s : State) : Result :=
  commitVector (.mcfg f) (checkMcfg f) (perfMcfg f) s

/-- The checks of MLDW at commit. -/
def checkMldw (f : VF) : CheckFn :=
  fun c =>
    let n := spanOf c (confW c) 4096
    checks (!mldwMode f c || scaledBad04 c f.a.toNat f.c.toNat n)
      (indexBad (.mldw f) c || groupBad c f.a.toNat n || (confFmt c == 11 && decide (confN c ≤ f.c.toNat + 1)))

/-- MLDW (R172) at the head of the queue. -/
def perfMldw (f : VF) : PerfFn :=
  engineOwned <| engineWhen (fun c k => confFmt c == bfOf k) fun c _ _ s =>
    let k := getCore s (curCore s)
    if f.imm.toNat = 2 then
      let (p, fl) := requantPlane c f s.h
      .done { setCore (curCore s) { k with wps := p } s with h := orMx fl s.h }
    else .done (setCore (curCore s) { k with wps := loadPlane c f s } s)

def execMldw (f : VF) (s : State) : Result :=
  commitVector (.mldw f) (checkMldw f) (perfMldw f) s

/-- The checks of MSWAP at commit. -/
def checkMswap (f : VF) : CheckFn :=
  fun _ => 0

/-- MSWAP (R180) at the head of the queue. -/
def perfMswap (f : VF) : PerfFn :=
  engineOwned fun _ _ _ s =>
    let k := getCore s (curCore s)
    .done (setCore (curCore s) { k with wpa := k.wps, wps := k.wpa } s)

def execMswap (f : VF) (s : State) : Result :=
  commitVector (.mswap f) (checkMswap f) (perfMswap f) s

/-- The checks of MSTRM at commit. -/
def checkMstrm (f : VF) : CheckFn :=
  fun c =>
    let n := spanOf c (confW c) c.vl
    checks (rowsBad c || scaledBad04 c f.a.toNat f.c.toNat n) (indexBad (.mstrm f) c || groupBad c f.a.toNat n)

/-- MSTRM (R174) at the head of the queue. -/
def perfMstrm (f : VF) : PerfFn :=
  engineOwned <| rowAligned <| engineWhen (fun c k => confFmt c == afOf k && k.wpa.loaded) fun c _ _ s =>
    rowsEnd c (streamRows c f s)

def execMstrm (f : VF) (s : State) : Result :=
  commitVector (.mstrm f) (checkMstrm f) (perfMstrm f) s

/-- The checks of MZERO at commit. -/
def checkMzero (f : VF) : CheckFn :=
  fun _ => 0

/-- MZERO (R180) at the head of the queue. -/
def perfMzero (f : VF) : PerfFn :=
  engineOwned fun _ _ _ s =>
    .done (setCore (curCore s) (setAcc (getCore s (curCore s)) f.d.toNat 0) s)

def execMzero (f : VF) (s : State) : Result :=
  commitVector (.mzero f) (checkMzero f) (perfMzero f) s

end Sys2Proof.Machine
end

