-- ==== Sys2Proof/Machine/Proj.lean ====
section
/-! DEFINITION. The Facet unit (R185 to R200): projections of rows, their records, MDRN and the gradient. -/

namespace Sys2Proof.Machine

/-! ## A48 arithmetic on rows -/

/-- RndA48 of an exact value with flags: the A48 value and the flags. -/
def rndA (x : XVal × Nat) : XVal × Nat :=
  let (r, fl) := roundX x.1 fmtA48 0 0 false
  (a48 r, x.2 ||| fl)

/-- The A48 encoding of an A48 value. -/
def codeA (x : XVal) : Nat := (roundX x fmtA48 0 0 false).1

/-- A considered value converted to A48: a subnormal becomes a zero of its sign, with DN (R187). -/
def flushA (x : XVal) : XVal × Nat :=
  match x with
  | .fin neg m e _ => if m ≠ 0 ∧ leadExp m e < eMin fmtA48 then (xZero neg, fDN) else (x, 0)
  | _ => (x, 0)

/-- The value of a column. -/
def colVal (x : List XVal) (j : Nat) : XVal := x.getD j (xZero false)

/-- An exact sum with flags carried along. -/
def addF (a b : XVal × Nat) : XVal × Nat :=
  let (x, fl) := addX a.1 b.1 false
  (x, a.2 ||| b.2 ||| fl)

def subF (a b : XVal × Nat) : XVal × Nat := addF a (negX b.1, b.2)

def mulF (a b : XVal × Nat) : XVal × Nat := mulVals a b

def divF (a b : XVal × Nat) : XVal × Nat :=
  let (x, fl) := divX a.1 b.1
  (x, a.2 ||| b.2 ||| fl)

/-- SumA48 of values in ascending order of column, each exact before its add. -/
def sumA (l : List (XVal × Nat)) : XVal × Nat := l.foldl (fun t x => rndA (addF t x)) (xZero false, 0)

/-- x above y; false when either is NaN. -/
def aboveX (x y : XVal) : Bool := !isNanX x && !isNanX y && decide (0 < cmpX x y)

/-! ## The projections -/

/-- What a row's projection gives before Out: the exact value of each considered column, τ, the mask, the
sign mask, the size, the active bit, whether it is a NaN row, and the flags. -/
structure ProjRow where
  out : List (Nat × XVal) := []
  tau : Nat := 0
  mask : Nat := 0
  signs : Nat := 0
  size : Nat := 0
  active : Bool := false
  nan : Bool := false
  fl : Nat := 0

def bitsOf (l : List Nat) : Nat := l.foldl (fun m j => m + 2 ^ j) 0

/-- (SumA48(x, S) − z) / |S| rounded once. -/
def simplexTau (x : List XVal) (z : XVal) (l : List Nat) : XVal × Nat :=
  rndA (divF (subF (sumA (l.map fun j => (colVal x j, 0))) (z, 0)) (xInt l.length, 0))

/-- Michelot's iteration (R190): the support, τ and the flags. -/
def simplexLoop (x : List XVal) (z : XVal) : (n : Nat) → List Nat → XVal × Nat → List Nat × XVal × Nat
  | 0, l, t => (l, t.1, t.2)
  | n + 1, l, t =>
    let l' := l.filter fun j => aboveX (colVal x j) t.1
    match l' with
    | [] =>
      let j0 := l.foldl (fun b j => if aboveX (colVal x j) (colVal x b) then j else b) (l.headD 0)
      let (r, fl) := rndA (subF (colVal x j0, 0) (z, 0))
      ([j0], r, t.2 ||| fl)
    | _ :: _ =>
      if l' = l then (l, t.1, t.2)
      else
        let (r, fl) := simplexTau x z l'
        simplexLoop x z n l' (r, t.2 ||| fl)

def simplexOf (x : List XVal) (z : XVal) (k : List Nat) : List Nat × XVal × Nat :=
  simplexLoop x z 64 k (simplexTau x z k)

def nonZeroCols (x : List XVal) (k : List Nat) : List Nat := k.filter fun j => !isZeroX (colVal x j)

/-- The simplex (R190). -/
def projSimplex (x : List XVal) (z : XVal) (k : List Nat) : ProjRow :=
  let (l, t, fl) := simplexOf x z k
  { out := k.map fun j => (j, if l.contains j then (addX (colVal x j) (negX t) false).1 else xZero false)
    tau := codeA t, mask := bitsOf l, size := l.length, active := true, fl := fl }

/-- The L1 ball (R191). -/
def projL1 (x : List XVal) (z : XVal) (k : List Nat) : ProjRow :=
  let a := x.map absX
  let (s, fl) := sumA (k.map fun j => (colVal a j, 0))
  if cmpX s z ≤ 0 then
    let l := nonZeroCols x k
    { out := k.map fun j => (j, colVal x j), mask := bitsOf l, size := l.length, fl := fl }
  else
    let (l, t, fl') := simplexOf a z k
    { out := k.map fun j => (j,
        if l.contains j then
          let d := (addX (colVal a j) (negX t) false).1
          if signX (colVal x j) then negX d else d
        else xZero false)
      tau := codeA t, mask := bitsOf l, size := l.length, active := true
      signs := bitsOf (l.filter fun j => signX (colVal x j)), fl := fl ||| fl' }

/-- The L2 ball (R192). -/
def projL2 (x : List XVal) (z : XVal) (k : List Nat) : ProjRow :=
  let (t, fl) := sumA (k.map fun j => mulX (colVal x j) (colVal x j))
  let (v, fl') := rndA (sqrtX t)
  let l := nonZeroCols x k
  let inside := decide (cmpX v z ≤ 0)
  let (g, fl'') := if inside then (xInt 1, 0) else rndA (divX z v)
  { out := k.map fun j => (j, if inside then colVal x j else (mulX (colVal x j) g).1)
    tau := codeA v, mask := bitsOf l, size := l.length, active := !inside
    fl := fl ||| fl' ||| fl'' }

/-- The box (R193). DESIGN CHOICE (log 56): a zero that equals a zero bound of the other sign is delivered with its own
sign. -/
def projBox (x : List XVal) (lo hi : XVal) (k : List Nat) : ProjRow :=
  let l := k.filter fun j => aboveX (colVal x j) lo && aboveX hi (colVal x j)
  { out := k.map fun j => (j,
      if aboveX lo (colVal x j) then lo else if aboveX (colVal x j) hi then hi else colVal x j)
    mask := bitsOf l, size := l.length
    active := k.any fun j => aboveX lo (colVal x j) || aboveX (colVal x j) hi }

def meanA (x : List XVal) (l : List Nat) : XVal × Nat :=
  rndA (divF (sumA (l.map fun j => (colVal x j, 0))) (xInt l.length, 0))

/-- Merge the last blocks while they violate (R194); blocks stand last first. -/
def poolMerge (x : List XVal) (down : Bool) : (n : Nat) → List (List Nat) → Nat → List (List Nat) × Nat
  | 0, bs, fl => (bs, fl)
  | n + 1, q :: p :: bs, fl =>
    let (mp, g) := meanA x p
    let (mq, g') := meanA x q
    let fl := fl ||| g ||| g'
    if (if down then aboveX mq mp else aboveX mp mq) then poolMerge x down n ((p ++ q) :: bs) fl
    else (q :: p :: bs, fl)
  | _, bs, fl => (bs, fl)

/-- The monotone sets (R194). -/
def projPool (x : List XVal) (down : Bool) (k : List Nat) : ProjRow :=
  let (bs, fl) := k.foldl (fun (acc : List (List Nat) × Nat) j => poolMerge x down 64 ([j] :: acc.1) acc.2) ([], 0)
  let bs := bs.reverse
  let ms := bs.map fun b => (b, meanA x b)
  { out := ms.flatMap fun p => p.1.map fun j => (j, p.2.1)
    mask := bitsOf (bs.map fun b => b.headD 0), size := bs.length, active := decide (bs.length < k.length)
    fl := ms.foldl (fun fl p => fl ||| p.2.2) fl }

/-- A positive finite value. -/
def posFinite (x : XVal) : Bool :=
  match x with
  | .fin neg m _ _ => !neg && m != 0
  | _ => false

/-- The parameter is valid for the set (R188). -/
def paramValid (set : Nat) (p : Word) : Bool :=
  let lo := decodeX 0 (p.toNat % 2 ^ 32)
  let hi := decodeX 0 (p.toNat / 2 ^ 32)
  if set ≤ 3 then posFinite lo
  else if set = 4 then !isNanX lo && !isNanX hi && decide (cmpX lo hi ≤ 0)
  else true

/-- The projection of one row: its considered columns, their values (R187 to R194). DESIGN CHOICE (log 56): the records
of a NaN row and of an empty row have active = 0, which R187 and R189 do not state. -/
def projectRow (set : Nat) (p : Word) (k : List Nat) (vals : List XVal) : ProjRow :=
  match k with
  | [] => {}
  | _ :: _ =>
    let fl := k.foldl (fun fl j => fl ||| (flushA (colVal vals j)).2) 0
    let x := vals.map fun v => (flushA v).1
    let bad := k.any fun j => isNanX (colVal x j) || (set != 4 && isInfX (colVal x j))
    if bad || !paramValid set p then
      { out := k.map fun j => (j, .nan false), nan := true, fl := fl ||| fNV }
    else
      let z := decodeX 0 (p.toNat % 2 ^ 32)
      let r := match set with
        | 1 => projSimplex x z k
        | 2 => projL1 x z k
        | 3 => projL2 x z k
        | 4 => projBox x z (decodeX 0 (p.toNat / 2 ^ 32)) k
        | 5 => projPool x false k
        | _ => projPool x true k
      { r with fl := r.fl ||| fl }

/-! ## Row records (R195) -/

/-- The 32 bytes of a record. -/
def recordOf (set n : Nat) (p : Word) (r : ProjRow) : Nat :=
  r.size + set * 2 ^ 8 + n * 2 ^ 11 + r.active.toNat * 2 ^ 18 + r.nan.toNat * 2 ^ 19 +
  r.tau * 2 ^ 32 + (if set ≤ 4 then p.toNat % 2 ^ 32 else 0) * 2 ^ 96 + r.mask * 2 ^ 128 + r.signs * 2 ^ 192

/-- Register and bit position of record m of the group from register r. -/
def recordAt (c : VConf) (r m : Nat) : Nat × Nat :=
  let n := regBits c / 8
  (r + 32 * m / n, 8 * (32 * m % n))

def putRecord (c : VConf) (r m x : Nat) (h : Hart) : Hart :=
  let p := recordAt c r m
  vsetBits p.1 p.2 256 x h

def getRecord (c : VConf) (r m : Nat) (h : Hart) : Nat :=
  let p := recordAt c r m
  bitsGet (vreg h p.1) p.2 256

/-- Registers of a group of M records. -/
def recordSpan (c : VConf) : Nat := (32 * (c.vl / 64) + regBits c / 8 - 1) / max 1 (regBits c / 8)

/-- The considered columns of row m (R187). -/
def consideredCols (c : VConf) (n m : Nat) : List Nat := (upTo n).filter fun j => !isPad c (64 * m + j)

/-- Write a row's 64 elements through Out, +0 outside the values given. -/
def putRow (c : VConf) (d m : Nat) (out : Nat → XVal → Nat × Nat) (vals : List (Nat × XVal)) (h : Hart) :
    Hart × Nat :=
  let h := (upTo 64).foldl (fun h j => vset c d (confFmt c) (64 * m + j) 0 h) h
  vals.foldl (fun (acc : Hart × Nat) p =>
    let (x, fl) := out p.1 p.2
    (vset c d (confFmt c) (64 * m + p.1) x acc.1, acc.2 ||| fl)) (h, 0)

/-- `frm` does not ask for RSB, checked at the head (R177, R196). -/
def frmPlain (p : PerfFn) : PerfFn := perfWhen (fun _ h => h.frm != 6) p

/-! ## MDRN (R177, R178, R197) -/

def drainSet (f : VF) : Nat := bitsGet f.imm.toNat 1 3
def drainN (f : VF) : Nat := if bitsGet f.imm.toNat 4 6 = 0 then 64 else bitsGet f.imm.toNat 4 6
def drainFormat (c : VConf) : Bool := decide (confFmt c ≤ 4) && confBlk c == 0

def mdrnBad04 (c : VConf) (f : VF) : Bool :=
  let d := spanOf c (confW c) c.vl
  rowsBad c || !drainFormat c || drainSet f == 7 ||
  (if drainSet f = 0 then bitsGet f.imm.toNat 4 6 != 0 || f.c != 0
   else f.c == 0 || groupsMeet f.c.toNat (recordSpan c) f.d.toNat d)

/-- One row drained. -/
def drainRow (c : VConf) (f : VF) (p : Word) (st : Hart × Nat × Nat) (m : Nat) : Hart × Nat × Nat :=
  let (h, fl, acc) := st
  let sat := bitAt f.imm.toNat 10
  let out (_ : Nat) (x : XVal) : Nat × Nat := roundX x (confFmt c) h.frm.toNat 0 sat
  let vals := (upTo 64).map fun j => a48 (accEntry acc m j)
  let acc' := if bitAt f.imm.toNat 0 then accRow acc m [] else acc
  if drainSet f = 0 then
    let cols := consideredCols c 64 m
    let (h, fl') := putRow c f.d.toNat m out (cols.map fun j => (j, colVal vals j)) h
    (h, fl ||| fl', acc')
  else
    let r := projectRow (drainSet f) p (consideredCols c (drainN f) m) vals
    let (h, fl') := putRow c f.d.toNat m out r.out h
    (putRecord c f.c.toNat m (recordOf (drainSet f) (drainN f) p r) h, fl ||| fl' ||| r.fl, acc')

/-- The checks of MDRN at commit. -/
def checkMdrn (f : VF) : CheckFn :=
  fun c => checks (mdrnBad04 c f)
    (indexBad (.mdrn f) c || groupBad c f.d.toNat (spanOf c (confW c) c.vl) ||
      (drainSet f != 0 && groupBad c f.c.toNat (recordSpan c)))

/-- MDRN (R177) at the head of the queue. -/
def perfMdrn (f : VF) : PerfFn :=
  engineOwned <| rowAligned <| frmPlain fun c _ b s =>
    let core := curCore s
    let k := getCore s core
    let (h, fl, acc) := (rowsTodo c s.h).foldl (drainRow c f b) (s.h, 0, getAcc k f.a.toNat)
    rowsEnd c { setCore core (setAcc k f.a.toNat acc) s with h := orMx fl h }

def execMdrn (f : VF) (s : State) : Result :=
  commitVector (.mdrn f) (checkMdrn f) (perfMdrn f) s

/-! ## VPROJ (R196) -/

def projSet (f : VF) : Nat := bitsGet f.imm.toNat 0 3
def projN (f : VF) : Nat := if bitsGet f.imm.toNat 3 7 = 0 then 64 else bitsGet f.imm.toNat 3 7

/-- The 0x04 conditions VPROJ and VPJADJ share. -/
def projBad04 (c : VConf) (f : VF) : Bool :=
  let n := spanOf c (confW c) c.vl
  projSet f == 0 || projSet f == 7 || decide (64 < projN f) || decide (2 < confFmt c) || confBlk c != 0 || rowsBad c ||
  groupsMeet f.c.toNat (recordSpan c) f.d.toNat n || (f.d != f.a && groupsMeet f.d.toNat n f.a.toNat n)

def projBad03 (c : VConf) (f : VF) : Bool :=
  let n := spanOf c (confW c) c.vl
  groupBad c f.d.toNat n || groupBad c f.a.toNat n || groupBad c f.c.toNat (recordSpan c)

/-- Row m of a vector. -/
def rowOf (c : VConf) (h : Hart) (r m : Nat) : List XVal :=
  (upTo 64).map fun j => decodeX (confFmt c) (vget c h r (confFmt c) (64 * m + j))

/-- Out of VPROJ and VPJADJ. -/
def outPlain (c : VConf) (h : Hart) (_ : Nat) (x : XVal) : Nat × Nat := roundX x (confFmt c) h.frm.toNat 0 false

def vprojRow (c : VConf) (f : VF) (p : Word) (st : Hart × Nat) (m : Nat) : Hart × Nat :=
  let r := projectRow (projSet f) p (consideredCols c (projN f) m) (rowOf c st.1 f.a.toNat m)
  let (h, fl) := putRow c f.d.toNat m (outPlain c st.1) r.out st.1
  (putRecord c f.c.toNat m (recordOf (projSet f) (projN f) p r) h, st.2 ||| fl ||| r.fl)

/-- The checks of VPROJ at commit. -/
def checkVproj (f : VF) : CheckFn :=
  fun c => checks
    (projBad04 c f || groupsMeet f.c.toNat (recordSpan c) f.a.toNat (spanOf c (confW c) c.vl))
    (indexBad (.vproj f) c || projBad03 c f)

/-- VPROJ (R196) at the head of the queue. -/
def perfVproj (f : VF) : PerfFn :=
  engineOwned <| rowAligned <| frmPlain fun c _ b s =>
    let (h, fl) := (rowsTodo c s.h).foldl (vprojRow c f b) (s.h, 0)
    rowsEnd c { s with h := orMx fl h }

def execVproj (f : VF) (s : State) : Result :=
  commitVector (.vproj f) (checkVproj f) (perfVproj f) s

/-! ## VPJADJ (R198) -/

/-- The record is refused: a reserved field, another set or n, a sign mask outside set 2. -/
def recordBad (f : VF) (r : Nat) : Bool :=
  bitsGet r 20 12 != 0 || bitAt r 7 || bitsGet r 80 16 != 0 || bitsGet r 8 3 != projSet f ||
  bitsGet r 11 7 != projN f || (projSet f != 2 && bitsGet r 192 64 != 0)

/-- The blocks of a monotone record: they start at the mask's set bits and at the lowest column (R198). -/
def adjBlocks (k : List Nat) (mask : Nat) : List (List Nat) :=
  (k.foldl (fun (bs : List (List Nat)) j =>
    match bs with
    | b :: bs => if bitAt mask j then [j] :: b :: bs else (b ++ [j]) :: bs
    | [] => [[j]]) []).reverse

/-- The gradient of a set-3 row with active = 1: a ν of either zero gives f = +∞ with DZ. -/
def adjL2 (k : List Nat) (g y : List XVal) (z v : XVal) : List (Nat × XVal) × Nat :=
  if !posFinite z then (k.map fun j => (j, .nan false), fNV)
  else
    let q := if isZeroX v then (.inf false, fDZ) else rndA (divX z v)
    let h := sumA (k.map fun j => mulX (colVal y j) (colVal g j))
    let cc := rndA (divF h (mulX z z))
    let r := k.map fun j => (j, mulF (q.1, 0) (rndA (subF (colVal g j, 0) (mulX cc.1 (colVal y j)))))
    (r.map fun p => (p.1, p.2.1), r.foldl (fun fl p => fl ||| p.2.2) (q.2 ||| h.2 ||| cc.2))

/-- The input gradient of a row before Out (R198): its columns and flags. DESIGN CHOICE (log 63): set 2 with active = 1
and an empty S gives +0 everywhere and no flag, as set 1 does; whether its μ is formed is not said. -/
def adjointRow (set : Nat) (k : List Nat) (g0 y0 : List XVal) (r : Nat) : List (Nat × XVal) × Nat :=
  let mask := bitsGet r 128 64
  let signs := bitsGet r 192 64
  let active := bitAt r 18
  let readFl (l : List XVal) : Nat :=
    k.foldl (fun fl j => fl ||| (flushA (colVal l j)).2 ||| if isSigX (colVal l j) then fNV else 0) 0
  let g := g0.map fun v => (flushA v).1
  let fl := readFl g0 ||| if set = 3 then readFl y0 else 0
  let s := k.filter fun j => bitAt mask j
  let sgn (j : Nat) : XVal := if set = 2 ∧ bitAt signs j then negX (colVal g j) else colVal g j
  if k.isEmpty then ([], 0)
  else if bitAt r 19 then (k.map fun j => (j, .nan false), 0)
  else if (set = 2 ∨ set = 3) ∧ !active then (k.map fun j => (j, colVal g j), fl)
  else if set ≤ 2 then
    if s.isEmpty then (k.map fun j => (j, xZero false), fl)
    else
      let (mu, fl') := rndA (divF (sumA (s.map fun j => (sgn j, 0))) (xInt s.length, 0))
      let r := k.map fun j => (j,
        if s.contains j then addX (colVal g j) (negX (if set = 2 ∧ bitAt signs j then negX mu else mu)) false
        else (xZero false, 0))
      (r.map fun p => (p.1, p.2.1), r.foldl (fun fl p => fl ||| p.2.2) (fl ||| fl'))
  else if set = 3 then
    let y := y0.map fun v => (flushA v).1
    let (l, fl') := adjL2 k g y (decodeX 0 (bitsGet r 96 32)) (a48 (bitsGet r 32 48))
    (l, fl ||| fl')
  else if set = 4 then (k.map fun j => (j, if bitAt mask j then colVal g j else xZero false), fl)
  else
    let ms := (adjBlocks k mask).map fun b => (b, meanA g b)
    (ms.flatMap fun p => p.1.map fun j => (j, p.2.1), ms.foldl (fun fl p => fl ||| p.2.2) fl)

/-- The rows from a row on: the registers, the flags and the row whose record is refused, if any. -/
def adjointRows (c : VConf) (f : VF) : List Nat → Hart × Nat → Hart × Nat × Option Nat
  | [], st => (st.1, st.2, none)
  | m :: ms, st =>
    let r := getRecord c f.c.toNat m st.1
    if recordBad f r then (st.1, st.2, some m)
    else
      let (out, fl) := adjointRow (projSet f) (consideredCols c (projN f) m)
        (rowOf c st.1 f.a.toNat m) (rowOf c st.1 f.b.toNat m) r
      let (h, fl') := putRow c f.d.toNat m (outPlain c st.1) out st.1
      adjointRows c f ms (h, st.2 ||| fl ||| fl')

/-- The checks of VPJADJ at commit. -/
def checkVpjadj (f : VF) : CheckFn :=
  fun c => checks
    (projBad04 c f || groupsMeet f.d.toNat (spanOf c (confW c) c.vl) f.b.toNat (spanOf c (confW c) c.vl))
    (indexBad (.vpjadj f) c || projBad03 c f || groupBad c f.b.toNat (spanOf c (confW c) c.vl))

/-- VPJADJ (R198) at the head of the queue. -/
def perfVpjadj (f : VF) : PerfFn :=
  engineOwned <| rowAligned <| frmPlain fun c _ _ s =>
    let (h, fl, stop) := adjointRows c f (rowsTodo c s.h) (s.h, 0)
    match stop with
    | none => rowsEnd c { s with h := orMx fl h }
    | some m => .trap 0x04 none { s with h := { orMx fl h with vstart := 64 * m } }

def execVpjadj (f : VF) (s : State) : Result :=
  commitVector (.vpjadj f) (checkVpjadj f) (perfVpjadj f) s

end Sys2Proof.Machine
end

