-- ==== Sys2Proof/Machine/Spill.lean ====
section
/-! DEFINITION. MSPL and MFIL: engine objects as bytes in memory (R181, R182). -/

namespace Sys2Proof.Machine

def spillObj (f : VF) : Nat := bitsGet f.imm.toNat 0 3

/-! ## Objects as bytes (R181) -/

/-- A plane as bytes. DESIGN CHOICE (log 50): the code bytes of an empty plane read 0 too, which the spec gives only
for its scales, zero points and descriptor. -/
def planeBytes (p : Plane) : Nat :=
  if p.loaded then
    p.codes + p.scales <<< (8 * 8192) + p.zps <<< (8 * 8704) +
      (p.fmt + p.blk * 16 + 128) <<< (8 * 9216)
  else 0

/-- The bytes of an object as one bit string. -/
def objectBits (k : Core) (obj : Nat) : Nat :=
  match obj with
  | 4 => planeBytes k.wpa
  | 5 => planeBytes k.wps
  | 6 => k.engConf.toNat
  | n => getAcc k n

/-- Bits of a code that a format keeps. -/
def codeWidth (fmt : Nat) : Nat := if fmt = 12 then 16 else fmtWidth fmt

/-- A plane from its bytes; `bad` are the granules of 32 bytes that were poisoned (R179, R182). -/
def planeOf (x : Nat) (bad : Nat → Bool) : Plane :=
  let fmt := bitsGet x (8 * 9216) 4
  let blk := bitsGet x (8 * 9216 + 4) 3
  let b := blockLen blk
  let used (n kb : Nat) (at0 : Nat) (y : Nat) : Nat :=
    let o := at0 + 8 * n + kb
    if bad (o / 32) then y else bitsGet x (8 * o) 8
  if bitAt x (8 * 9216 + 7) then
    { loaded := true, fmt := fmt, blk := blk
      codes := packBits 16 ((upTo 4096).map fun i =>
        if bad (i / 16) then qNaN fmt else bitsGet x (16 * i) (codeWidth fmt))
      scales := planeTable b fun n kb => used n kb 8192 0xFF
      zps := if fmt = 11 then planeTable b fun n kb => used n kb 8704 0 else 0 }
  else {}

/-- A descriptor or configuration that MFIL refuses (R181): the descriptor of zero that an empty plane spills names no
format. -/
def fillRefuses (obj x : Nat) : Bool :=
  if obj < 4 then false
  else if obj = 6 then
    !afFormat (bitsGet x 0 4) || !bfFormat (bitsGet x 4 4) || bitsGet x 8 (64 * 8 - 8) != 0
  else
    let fmt := bitsGet x (8 * 9216) 4
    let blk := bitsGet x (8 * 9216 + 4) 3
    bitsGet x (8 * 9217) (8 * 63) != 0 || (bitsGet x (8 * 9216) 8 != 0 &&
      (decide (4 < blk) || !bfFormat fmt || ((fmt == 11 || fmt == 12) && blk == 0)))

/-- An accumulator from its bytes: an entry of a poisoned granule is the canonical qNaN. -/
def accOf (x : Nat) (bad : Nat → Bool) : Nat :=
  packBits 48 ((upTo 4096).map fun i =>
    if bad (6 * i / 32) || bad ((6 * i + 5) / 32) then qNaN fmtA48 else bitsGet x (48 * i) 48)

/-- The object after a fill. -/
def fillObject (k : Core) (obj x : Nat) (bad : Nat → Bool) : Core :=
  match obj with
  | 4 => { k with wpa := planeOf x bad }
  | 5 => { k with wps := planeOf x bad }
  | 6 => { k with engConf := BitVec.ofNat 8 x }
  | n => setAcc k n (accOf x bad)

/-- The entry of an object that a byte belongs to: the element index of its records. -/
def entryOf (obj off : Nat) : Nat := if obj < 4 then off / 6 else off / 2

/-! ## The access (R182) -/

/-- What must hold of a whole block before its first byte moves: scratchpad banks, which no command that came before
still uses, or every page translated; those translations serve the block to its end (R182, R216). -/
def spillCheck (base n : Nat) (kind : Kind) : Acc (List MtbEntry) := do
  let s ← get
  if touchesWindow base n then
    match windowCheck s (curCore s) base n with
    | .error e => throw e
    | .ok (_, .scratch) => do
      awaitCopies (curCore s) base n (kind == .store)
      pure []
    | .ok _ => throw (.fault 0x0C base)
  else (pagesOf base n).mapM fun a => translate (currentWho s) a kind

/-- The turn's hart with the translations of the block that it moves. -/
def blockWho (s : State) : Who := { currentWho s with pages := s.h.pass.pages }

/-- The whole of a block has been checked. -/
def blockBegun (p : Pass) : Bool := p.done != 0 || !p.pages.isEmpty

/-- A block that has been checked. -/
def beginBlock (l : List MtbEntry) (s : State) : State := { s with h := { s.h with pass := { s.h.pass with pages := l } } }

/-- The checks at the head that MSPL and MFIL share: ownership, alignment, the whole object. -/
def spillHead (f : VF) (kind : Kind) (access : Nat) (p : VConf → Word → State → Perf) : PerfFn :=
  engineOwned fun c a _ s =>
    if a.toNat % 256 ≠ 0 then .trap 0x04 none s
    else if blockBegun s.h.pass then p c a s
    else
      match runAcc (spillCheck a.toNat (objectBytes (spillObj f)) kind) s with
      | (.error .wait, s) => .wait s
      | (.error (.fault cause va), s) => .recorded access cause (entryOf (spillObj f) (va - a.toNat)) va s
      | (.ok l, s) => p c a (beginBlock l s)

/-- A stop in the middle of an object. -/
def spillStop (access obj : Nat) (a : Word) (st : Stop) (s : State) : Perf :=
  match st with
  | .wait => .wait s
  | .fault cause va => .recorded access cause (entryOf obj (va - a.toNat)) va { s with h := { s.h with pass := {} } }

/-- Move the 32-byte parts of an object that have not moved; the first stop ends it. -/
def partsLoop (move : Nat → Acc Unit) : List Nat → State → State × Option Stop
  | [], s => (s, none)
  | i :: l, s =>
    match runAcc (move i) s with
    | (.error e, s) => (s, some e)
    | (.ok _, s) => partsLoop move l (partDone .byBits { first := i } s)

/-- The parts of an object still to move. -/
def partsLeft (obj : Nat) (s : State) : List Nat :=
  (upTo (objectBytes obj / 32)).filter fun i => !bitAt s.h.pass.done i

/-- MSPL's stores; a bit of `pass.done` stands for each part written. Under `mo` = 2 each part draws a ticket
(log 37). -/
def spillStore (f : VF) (c : VConf) (a : Word) (s : State) : Perf :=
  let obj := spillObj f
  let bits := objectBits (getCore s (curCore s)) obj
  let move (i : Nat) : Acc Unit := ticketed c 1 true do
    writeMem (blockWho (← get)) (a.toNat + 32 * i) 32 (bitsGet bits (256 * i) 256)
  match partsLoop move (partsLeft obj s) s with
  | (s, some e) => spillStop accWrite obj a e s
  | (s, none) => .done { s with h := { s.h with pass := {} } }

/-- A part read: its bits, and bit 256 when it is poisoned. -/
def partRead (r : Rd) (s : State) : State :=
  let p := s.h.pass
  let x := if r.pois.isEmpty then r.val else 2 ^ 256
  { s with h := { s.h with pass := { p with got := p.got ++ [x], pois := p.pois ++ r.pois } } }

/-- The object with the bits read, its poisoned parts and `cfg` after a fill. A poisoned descriptor or `cfg` reads as
bytes of 0, DESIGN CHOICE of log 37. -/
def fillWith (obj : Nat) (got : List Nat) (s : State) : State :=
  let core := curCore s
  setCore core (fillObject (getCore s core) obj (packBits 256 (got.map (· % 2 ^ 256)))
    fun g => bitAt (got.getD g 0) 256) s

/-- MFIL's loads, the check, and the fill with its poison, which is delivered even when the fill is refused
(R264). -/
def fillLoad (f : VF) (c : VConf) (a : Word) (s : State) : Perf :=
  let obj := spillObj f
  let move (i : Nat) : Acc Unit := ticketed c 1 true do
    let r ← readMem (blockWho (← get)) (a.toNat + 32 * i) 32 (readHint c 0) (i + 1) .load
    modify (partRead r)
  match partsLoop move (partsLeft obj s) s with
  | (s, some e) => spillStop accRead obj a e s
  | (s, none) =>
    let got := s.h.pass.got
    let bad := (got.findIdx? fun x => bitAt x 256)
    let s := match bad with
      | none => s
      | some i => deliverPoison s.h.pass.pois (some (entryOf obj (32 * i))) (some (entryOf obj (32 * i) % 64 / 8)) s
    let s := { s with h := { s.h with pass := {} } }
    let s := if confMo c = 0 then s else acquireAt (confScope c) (curCore s) s
    if fillRefuses obj (packBits 256 (got.map (· % 2 ^ 256))) then .trap 0x04 none s
    else
      let s := fillWith obj got s
      match bad with
      | none => .done s
      | some i => if s.h.errctl.getLsbD 2 then .after (word (a.toNat + 32 * i)) s else .done s

/-- The checks of MSPL at commit. -/
def checkMspl (f : VF) : CheckFn :=
  fun _ => 0

/-- MSPL (R181) at the head of the queue. -/
def perfMspl (f : VF) : PerfFn :=
  inOrder (.mspl f) <|
  fun c a b s =>
    if confMo c ≠ 0 && !releaseNow c s then .wait s
    else spillHead f .store accWrite (spillStore f) c a b s

def execMspl (f : VF) (s : State) : Result :=
  commitMemory (.mspl f) (checkMspl f) (perfMspl f) s

/-- The checks of MFIL at commit. -/
def checkMfil (f : VF) : CheckFn :=
  fun _ => 0

/-- MFIL (R181) at the head of the queue. -/
def perfMfil (f : VF) : PerfFn :=
  inOrder (.mfil f) <|
  fun c a b s =>
    if confMo c = 2 && !releaseNow c s then .wait s
    else spillHead f .load accRead (fillLoad f) c a b s

def execMfil (f : VF) (s : State) : Result :=
  commitMemory (.mfil f) (checkMfil f) (perfMfil f) s

end Sys2Proof.Machine
end

