-- ==== Sys2Proof/Machine/VRed.lean ====
section
/-! DEFINITION. VRED, reductions over segments of a vector (R128, R129) by the pairwise tree of R89. -/

namespace Sys2Proof.Machine

def checkRed (i : Instr) (float : Bool) : CheckFn :=
  fun c => checks (if float then !floatOnly c else !intOnly c) (indexBad i c)

/-- The segment length (R128). -/
def segmentLen (f : VF) (c : VConf) : Nat := if f.imm = 0 then c.vl else f.imm.toNat

/-- An element contributes: selected by the mask and no pad (R89). -/
def contributes (c : VConf) (h : Hart) (k i : Nat) : Bool := maskBit h k i && !isPad c i && decide (i < c.vl)

/-- The pairwise tree of a list with the flags of its combinations (R89). -/
def flagTree (op : Nat → Nat → Nat × Nat) : (n : Nat) → List (Option Nat) → Option Nat × Nat
  | 0, l => (l.head?.join, 0)
  | n + 1, l =>
    let rec level : List (Option Nat) → List (Option Nat) × Nat
      | some x :: some y :: l =>
        let (z, fl) := op x y
        let (r, fl') := level l
        (some z :: r, fl ||| fl')
      | some x :: none :: l => let (r, fl) := level l; (some x :: r, fl)
      | none :: y :: l => let (r, fl) := level l; (y :: r, fl)
      | l => (l, 0)
    let (l', fl) := level l
    let (r, fl') := flagTree op n l'
    (r, fl ||| fl')

/-- The result of segment k (R89, R128). -/
def segmentResult (c : VConf) (f : VF) (h : Hart) (op : (fmt a b : Nat) → Nat × Nat) (identity : Nat) (k : Nat) :
    Nat × Nat :=
  let n := segmentLen f c
  let leaf (i : Nat) : Option Nat :=
    if contributes c h f.m.toNat i then some (vget c h f.a.toNat (confFmt c) i) else none
  let (r, fl) := flagTree (op (confFmt c)) 16 ((fromTo (k * n) (min ((k + 1) * n) c.vl)).map leaf)
  (r.getD identity, fl)

/-- A reduction: every source is read before a result is written; a non-zero `vstart` faults (R129). -/
def redOp (f : VF) (op : (fmt a b : Nat) → Nat × Nat) (identity : Nat → Nat) : PerfFn :=
  perfWhen (fun _ h => h.vstart == 0) <| perfRegs fun c _ _ h =>
    let n := segmentLen f c
    let rs := (upTo (if n = 0 then 0 else (c.vl + n - 1) / n)).map
      fun k => (k, segmentResult c f h op (identity (confFmt c)) k)
    endLoop (rs.foldl (fun (acc : Hart × Nat) r =>
      (vset c f.d.toNat (confFmt c) r.1 r.2.1 acc.1, acc.2 ||| r.2.2)) (h, 0))

def pickInt (fmt : Nat) (p : Int → Int → Bool) (a b : Nat) : Nat × Nat :=
  (if p (signedOf fmt a) (signedOf fmt b) then a else b, 0)

/-- The checks of VREDSUM at commit. -/
def checkVredsum (f : VF) : CheckFn :=
  checkRed (.vredsum f) false

/-- VREDSUM (R128) at the head of the queue. -/
def perfVredsum (f : VF) : PerfFn :=
  redOp f (fun fmt a b => ((a + b) % 2 ^ fmtWidth fmt, 0)) (fun _ => 0)

def execVredsum (f : VF) (s : State) : Result :=
  commitVector (.vredsum f) (checkVredsum f) (perfVredsum f) s

/-- The checks of VREDMIN at commit. -/
def checkVredmin (f : VF) : CheckFn :=
  checkRed (.vredmin f) false

/-- VREDMIN (R128) at the head of the queue. -/
def perfVredmin (f : VF) : PerfFn :=
  redOp f (fun fmt => pickInt fmt fun x y => decide (x ≤ y)) (fun fmt => ofInt (fmtWidth fmt) (intMax fmt))

def execVredmin (f : VF) (s : State) : Result :=
  commitVector (.vredmin f) (checkVredmin f) (perfVredmin f) s

/-- The checks of VREDMAX at commit. -/
def checkVredmax (f : VF) : CheckFn :=
  checkRed (.vredmax f) false

/-- VREDMAX (R128) at the head of the queue. -/
def perfVredmax (f : VF) : PerfFn :=
  redOp f (fun fmt => pickInt fmt fun x y => decide (y ≤ x)) (fun fmt => ofInt (fmtWidth fmt) (intMin fmt))

def execVredmax (f : VF) (s : State) : Result :=
  commitVector (.vredmax f) (checkVredmax f) (perfVredmax f) s

/-- The checks of VFREDSUM at commit. -/
def checkVfredsum (f : VF) : CheckFn :=
  checkRed (.vfredsum f) true

/-- VFREDSUM (R128) at the head of the queue. -/
def perfVfredsum (f : VF) : PerfFn :=
  redOp f (fun fmt a b => fAdd fmt a b 0 0) (fun _ => 0)

def execVfredsum (f : VF) (s : State) : Result :=
  commitVector (.vfredsum f) (checkVfredsum f) (perfVfredsum f) s

/-- The checks of VFREDMIN at commit. -/
def checkVfredmin (f : VF) : CheckFn :=
  checkRed (.vfredmin f) true

/-- VFREDMIN (R128) at the head of the queue. -/
def perfVfredmin (f : VF) : PerfFn :=
  redOp f fMin infCode

def execVfredmin (f : VF) (s : State) : Result :=
  commitVector (.vfredmin f) (checkVfredmin f) (perfVfredmin f) s

/-- The checks of VFREDMAX at commit. -/
def checkVfredmax (f : VF) : CheckFn :=
  checkRed (.vfredmax f) true

/-- VFREDMAX (R128) at the head of the queue. -/
def perfVfredmax (f : VF) : PerfFn :=
  redOp f fMax (fun fmt => withSign fmt true (infCode fmt))

def execVfredmax (f : VF) (s : State) : Result :=
  commitVector (.vfredmax f) (checkVfredmax f) (perfVfredmax f) s

end Sys2Proof.Machine
end

