-- ==== Sys2Proof/Machine/VPerform.lean ====
section
/-! DEFINITION. The head of the vector queue: which instruction an entry runs (R333, R334), configuration
entries (R113, R164, R209), and convoys (R338 to R341). -/

namespace Sys2Proof.Machine

/-- What a queued vector instruction checks at commit and does at the head; nothing for the other
instructions. -/
def vectorOf : Instr → Option (CheckFn × PerfFn)
  | .vadd f => some (checkVadd f, perfVadd f)
  | .vsub f => some (checkVsub f, perfVsub f)
  | .vmul f => some (checkVmul f, perfVmul f)
  | .vmulh f => some (checkVmulh f, perfVmulh f)
  | .vmulhu f => some (checkVmulhu f, perfVmulhu f)
  | .vmin f => some (checkVmin f, perfVmin f)
  | .vmax f => some (checkVmax f, perfVmax f)
  | .vminu f => some (checkVminu f, perfVminu f)
  | .vmaxu f => some (checkVmaxu f, perfVmaxu f)
  | .vand f => some (checkVand f, perfVand f)
  | .vor f => some (checkVor f, perfVor f)
  | .vxor f => some (checkVxor f, perfVxor f)
  | .vsll f => some (checkVsll f, perfVsll f)
  | .vsrl f => some (checkVsrl f, perfVsrl f)
  | .vsra f => some (checkVsra f, perfVsra f)
  | .vaddsat f => some (checkVaddsat f, perfVaddsat f)
  | .vsubsat f => some (checkVsubsat f, perfVsubsat f)
  | .vcmpeq f => some (checkVcmpeq f, perfVcmpeq f)
  | .vcmplt f => some (checkVcmplt f, perfVcmplt f)
  | .vcmpltu f => some (checkVcmpltu f, perfVcmpltu f)
  | .vfadd rm f => some (checkVfadd rm f, perfVfadd rm f)
  | .vfsub rm f => some (checkVfsub rm f, perfVfsub rm f)
  | .vfmul rm f => some (checkVfmul rm f, perfVfmul rm f)
  | .vfma rm f => some (checkVfma rm f, perfVfma rm f)
  | .vfms rm f => some (checkVfms rm f, perfVfms rm f)
  | .vfnma rm f => some (checkVfnma rm f, perfVfnma rm f)
  | .vfmin rm f => some (checkVfmin rm f, perfVfmin rm f)
  | .vfmax rm f => some (checkVfmax rm f, perfVfmax rm f)
  | .vfabs rm f => some (checkVfabs rm f, perfVfabs rm f)
  | .vfneg rm f => some (checkVfneg rm f, perfVfneg rm f)
  | .vfcmpeq rm f => some (checkVfcmpeq rm f, perfVfcmpeq rm f)
  | .vfcmplt rm f => some (checkVfcmplt rm f, perfVfcmplt rm f)
  | .vfcmple rm f => some (checkVfcmple rm f, perfVfcmple rm f)
  | .vfclass rm f => some (checkVfclass rm f, perfVfclass rm f)
  | .vfrcp f => some (checkVfrcp f, perfVfrcp f)
  | .vfrsq f => some (checkVfrsq f, perfVfrsq f)
  | .vfrcps f => some (checkVfrcps f, perfVfrcps f)
  | .vfrsqs f => some (checkVfrsqs f, perfVfrsqs f)
  | .vfexp2 f => some (checkVfexp2 f, perfVfexp2 f)
  | .vflog2 f => some (checkVflog2 f, perfVflog2 f)
  | .vftanh f => some (checkVftanh f, perfVftanh f)
  | .vcvt rm sat f => some (checkVcvt rm sat f, perfVcvt rm sat f)
  | .vqnt rm sat f => some (checkVqnt rm sat f, perfVqnt rm sat f)
  | .vdqnt rm sat f => some (checkVdqnt rm sat f, perfVdqnt rm sat f)
  | .vcbdec rm sat f => some (checkVcbdec rm sat f, perfVcbdec rm sat f)
  | .vredsum f => some (checkVredsum f, perfVredsum f)
  | .vredmin f => some (checkVredmin f, perfVredmin f)
  | .vredmax f => some (checkVredmax f, perfVredmax f)
  | .vfredsum f => some (checkVfredsum f, perfVfredsum f)
  | .vfredmin f => some (checkVfredmin f, perfVfredmin f)
  | .vfredmax f => some (checkVfredmax f, perfVfredmax f)
  | .vperm f => some (checkVperm f, perfVperm f)
  | .vslideup f => some (checkVslideup f, perfVslideup f)
  | .vslidedn f => some (checkVslidedn f, perfVslidedn f)
  | .vcompress f => some (checkVcompress f, perfVcompress f)
  | .vexpand f => some (checkVexpand f, perfVexpand f)
  | .vgtrn f => some (checkVgtrn f, perfVgtrn f)
  | .vqtrn f => some (checkVqtrn f, perfVqtrn f)
  | .vbsll f => some (checkVbsll f, perfVbsll f)
  | .vbsrl f => some (checkVbsrl f, perfVbsrl f)
  | .vbfsl f => some (checkVbfsl f, perfVbfsl f)
  | .vbfsr f => some (checkVbfsr f, perfVbfsr f)
  | .mand f => some (checkMand f, perfMand f)
  | .mor f => some (checkMor f, perfMor f)
  | .mxor f => some (checkMxor f, perfMxor f)
  | .mandn f => some (checkMandn f, perfMandn f)
  | .mset f => some (checkMset f, perfMset f)
  | .mpopc f => some (checkMpopc f, perfMpopc f)
  | .mfirst f => some (checkMfirst f, perfMfirst f)
  | .vmv f => some (checkVmv f, perfVmv f)
  | .vmvs f => some (checkVmvs f, perfVmvs f)
  | .vins f => some (checkVins f, perfVins f)
  | .vbcast f => some (checkVbcast f, perfVbcast f)
  | .viota f => some (checkViota f, perfViota f)
  | .vmerge f => some (checkVmerge f, perfVmerge f)
  | .vld hint f => some (checkVld hint f, perfVld hint f)
  | .vlds hint f => some (checkVlds hint f, perfVlds hint f)
  | .vldx hint f => some (checkVldx hint f, perfVldx hint f)
  | .vst f => some (checkVst f, perfVst f)
  | .vsts f => some (checkVsts f, perfVsts f)
  | .vstx f => some (checkVstx f, perfVstx f)
  | .vamo op old f => some (checkVamo op old f, perfVamo op old f)
  | .vupd tag f => some (checkVupd tag f, perfVupd tag f)
  | .smld f => some (checkSmld f, perfSmld f)
  | .smst f => some (checkSmst f, perfSmst f)
  | .smget f => some (checkSmget f, perfSmget f)
  | .smput f => some (checkSmput f, perfSmput f)
  | .smid f => some (checkSmid f, perfSmid f)
  | .smadd f => some (checkSmadd f, perfSmadd f)
  | .smscl f => some (checkSmscl f, perfSmscl f)
  | .smmul f => some (checkSmmul f, perfSmmul f)
  | .smma f => some (checkSmma f, perfSmma f)
  | .smtr f => some (checkSmtr f, perfSmtr f)
  | .smmv f => some (checkSmmv f, perfSmmv f)
  | .smchol f => some (checkSmchol f, perfSmchol f)
  | .smlu f => some (checkSmlu f, perfSmlu f)
  | .smsolv f => some (checkSmsolv f, perfSmsolv f)
  | .mcfg f => some (checkMcfg f, perfMcfg f)
  | .mldw f => some (checkMldw f, perfMldw f)
  | .mswap f => some (checkMswap f, perfMswap f)
  | .mstrm f => some (checkMstrm f, perfMstrm f)
  | .mdrn f => some (checkMdrn f, perfMdrn f)
  | .mzero f => some (checkMzero f, perfMzero f)
  | .mspl f => some (checkMspl f, perfMspl f)
  | .mfil f => some (checkMfil f, perfMfil f)
  | .vproj f => some (checkVproj f, perfVproj f)
  | .vpjadj f => some (checkVpjadj f, perfVpjadj f)
  | _ => none

/-- The units that may run an instruction in a convoy (R60): VA 0, VB 1, VM 2, VS 3, VP 4, SF 5, SM 6, MX 7,
PR 8. -/
def unitsOf : Instr → List Nat
  | .vadd _ => [0, 1]
  | .vsub _ => [0, 1]
  | .vmul _ => [0, 1]
  | .vmulh _ => [0, 1]
  | .vmulhu _ => [0, 1]
  | .vmin _ => [0, 1]
  | .vmax _ => [0, 1]
  | .vminu _ => [0, 1]
  | .vmaxu _ => [0, 1]
  | .vand _ => [0, 1]
  | .vor _ => [0, 1]
  | .vxor _ => [0, 1]
  | .vsll _ => [0, 1]
  | .vsrl _ => [0, 1]
  | .vsra _ => [0, 1]
  | .vaddsat _ => [0, 1]
  | .vsubsat _ => [0, 1]
  | .vcmpeq _ => [0, 1]
  | .vcmplt _ => [0, 1]
  | .vcmpltu _ => [0, 1]
  | .vfadd _ _ => [0, 1]
  | .vfsub _ _ => [0, 1]
  | .vfmul _ _ => [0, 1]
  | .vfma _ _ => [0, 1]
  | .vfms _ _ => [0, 1]
  | .vfnma _ _ => [0, 1]
  | .vfmin _ _ => [0, 1]
  | .vfmax _ _ => [0, 1]
  | .vfabs _ _ => [0, 1]
  | .vfneg _ _ => [0, 1]
  | .vfcmpeq _ _ => [0, 1]
  | .vfcmplt _ _ => [0, 1]
  | .vfcmple _ _ => [0, 1]
  | .vfclass _ _ => [0, 1]
  | .vcvt _ _ _ => [0, 1]
  | .vqnt _ _ _ => [0, 1]
  | .vdqnt _ _ _ => [0, 1]
  | .vcbdec _ _ _ => [0, 1]
  | .vredsum _ => [0, 1]
  | .vredmin _ => [0, 1]
  | .vredmax _ => [0, 1]
  | .vfredsum _ => [0, 1]
  | .vfredmin _ => [0, 1]
  | .vfredmax _ => [0, 1]
  | .mand _ => [0, 1]
  | .mor _ => [0, 1]
  | .mxor _ => [0, 1]
  | .mandn _ => [0, 1]
  | .mset _ => [0, 1]
  | .mpopc _ => [0, 1]
  | .mfirst _ => [0, 1]
  | .vmv _ => [0, 1]
  | .vmvs _ => [0, 1]
  | .vins _ => [0, 1]
  | .vbcast _ => [0, 1]
  | .viota _ => [0, 1]
  | .vmerge _ => [0, 1]
  | .vfrcp _ => [5]
  | .vfrsq _ => [5]
  | .vfrcps _ => [5]
  | .vfrsqs _ => [5]
  | .vfexp2 _ => [5]
  | .vflog2 _ => [5]
  | .vftanh _ => [5]
  | .vperm _ => [4]
  | .vslideup _ => [4]
  | .vslidedn _ => [4]
  | .vcompress _ => [4]
  | .vexpand _ => [4]
  | .vgtrn _ => [4]
  | .vqtrn _ => [4]
  | .vbsll _ => [4]
  | .vbsrl _ => [4]
  | .vbfsl _ => [4]
  | .vbfsr _ => [4]
  | .vld _ _ => [2]
  | .vlds _ _ => [2]
  | .vldx _ _ => [2]
  | .vamo _ _ _ => [2]
  | .vupd _ _ => [2]
  | .vst _ => [3]
  | .vsts _ => [3]
  | .vstx _ => [3]
  | .smld _ => [6]
  | .smst _ => [6]
  | .smget _ => [6]
  | .smput _ => [6]
  | .smid _ => [6]
  | .smadd _ => [6]
  | .smscl _ => [6]
  | .smmul _ => [6]
  | .smma _ => [6]
  | .smtr _ => [6]
  | .smmv _ => [6]
  | .smchol _ => [6]
  | .smlu _ => [6]
  | .smsolv _ => [6]
  | .mcfg _ => [7]
  | .mldw _ => [7]
  | .mswap _ => [7]
  | .mstrm _ => [7]
  | .mdrn _ => [7]
  | .mzero _ => [7]
  | .mspl _ => [7]
  | .mfil _ => [7]
  | .vproj _ => [8]
  | .vpjadj _ => [8]
  | _ => []

/-! ## Configuration entries (R113, R164, R209) -/

def confNreg (c : VConf) : Nat := bitsGet c.vcfg.toNat 0 2

/-- The effect of a configuration on the registers in queue order: a VCFG that changes `nreg` clears them, a
new L keeps what its lanes hold; `vstart` starts at 0. DESIGN CHOICE (log 52): the element
groups that a vector register gains with a larger L hold zero, and in the lanes gained g0 to g7 hold +0. -/
def applyConfig (i : Instr) (c : VConf) (h : Hart) : Hart :=
  let cleared := (match i with | .vcfg _ => true | _ => false) && confNreg c != confNreg h.headConf
  let cap := regBits c
  let h' :=
    if cleared then { h with v := Vector.replicate 64 0, vdirty := 0, marks := Vector.replicate 64 0 }
    else if c.lanes ≠ h.headConf.lanes then
      { h with v := h.v.map (· % 2 ^ cap), marks := h.marks.map fun x => min x cap }
    else h
  let g := if c.lanes ≠ h.headConf.lanes then h.g.map (· % 2 ^ (1152 * c.lanes)) else h.g
  { h' with g := g, headConf := c, vstart := 0 }

/-! ## How far an entry goes (R136, R175, R338) -/

/-- How an instruction advances through a vector: by element groups, by blocks of `vcfg.blk`, by rows of 64 elements,
or only as a whole. -/
inductive Pace where
  | groups | blocks | rows | whole
  deriving DecidableEq, Repr

/-- It is no element-wise instruction (R129, R134), among those of VA, VB and VM. -/
def goesWhole : Instr → Bool
  | .vredsum _ => true
  | .vredmin _ => true
  | .vredmax _ => true
  | .vfredsum _ => true
  | .vfredmin _ => true
  | .vfredmax _ => true
  | .mand _ => true
  | .mor _ => true
  | .mxor _ => true
  | .mandn _ => true
  | .mset _ => true
  | .mpopc _ => true
  | .mfirst _ => true
  | .vmvs _ => true
  | .vins _ => true
  | .vamo _ _ _ => true
  | _ => false

/-- The pace of an instruction. -/
def paceOf : Instr → Pace
  | .mstrm _ => .rows
  | .mdrn _ => .rows
  | .vproj _ => .rows
  | .vpjadj _ => .rows
  | .vqnt _ _ _ => .blocks
  | i =>
    match (unitsOf i).head? with
    | some 0 | some 2 | some 3 | some 5 => if goesWhole i then .whole else .groups
    | _ => .whole

/-- The pace of an instruction of the hart. DESIGN CHOICE (log 16): a VBCAST that itself changes its source element is
not stopped inside, since R139 reads that element once. -/
def paceIn (h : Hart) (i : Instr) : Pace :=
  match i with
  | .vbcast f =>
    let c := h.headConf
    let k := f.imm.toNat
    let changed := decide (k < c.vl) && (isPad c k || (f.mz && !maskBit h f.m.toNat k))
    if !f.sa && f.d == f.a && changed then .whole else paceOf i
  | _ => paceOf i

/-- Elements of an element group, a block or a row. DESIGN CHOICE (log 16): a conversion between widths stops after
element groups of the captured format; R115 does not say whether those or the destination's are meant. -/
def Pace.step (p : Pace) (h : Hart) : Nat :=
  match p with
  | .rows => 64
  | .blocks => max (blockLen (confBlk h.headConf)) (groupElems h)
  | _ => groupElems h

/-- A configuration that ends at element e. -/
def cutConf (c : VConf) (e : Nat) : VConf := { c with vl := e, vlpad := e - (c.vl - c.vlpad) }

/-- An instruction with captured operands performs up to element e: memory and matrix instructions by the front, the
other element-wise ones as if `vl` were e. -/
def runTo (i : Instr) (a b : Word) (e : Nat) (s : State) : Perf :=
  match vectorOf i with
  | none => .done s
  | some v =>
    let c := s.h.headConf
    let s := { s with h := { s.h with front := e } }
    if (paceIn s.h i = .groups ∨ paceIn s.h i = .blocks) ∧ (touchOf i c a b).2 = .none ∧ e < c.vl then
      match v.2 (cutConf c e) a b s with
      | .done s => .wait { s with h := { s.h with vstart := e } }
      | p => p
    else v.2 c a b s

/-! ## Convoys (R338 to R341) -/

/-- The start of member j of the convoy at the head (R332). -/
def startOf (h : Hart) (j : Nat) : Nat :=
  match h.queue with
  | .convoy _ starts :: _ => starts.getD j 0xFFFF
  | _ => 0xFFFF

def memberDone (h : Hart) (j : Nat) : Bool := startOf h j == 0xFFFF

/-- Note where member j stands in the convoy entry at the head. -/
def setStart (j x : Nat) (h : Hart) : Hart :=
  match h.queue with
  | .convoy hdr starts :: l => { h with queue := .convoy hdr (starts.set j x) :: l }
  | _ => h

/-- The start of the lowest-numbered member that has not completed (R339). -/
def lowestStart (h : Hart) : Nat := (((upTo 6).find? fun j => !memberDone h j).map (startOf h)).getD 0

/-- The member of a convoy that a replay performs: the one in the slot of `trapqpos`, or the lowest-numbered
one that has not completed. -/
def replayMember (h : Hart) : Nat :=
  let j := (h.trapqpos.toNat + 32 - (h.qhead + 1) % 32) % 32
  if h.trapqpos.toNat < 32 ∧ j < 6 ∧ !memberDone h j then j
  else ((upTo 6).find? fun j => !memberDone h j).getD 0

/-- Member j of a convoy and its entry. -/
abbrev Member := Nat × Entry

/-- Member j is the one that a replay performs. -/
def replayed (h : Hart) (j : Nat) : Bool := h.replay && replayMember h == j

/-- The member cannot stop inside. -/
def unstopped (h : Hart) (m : Member) : Bool :=
  match m.2 with
  | .instr i _ _ => paceIn h i == .whole || replayed h m.1
  | _ => true

/-- The member runs only when every earlier one has completed, and every later one waits for it. Under `mo` = 2
nothing chains (R326, R341). -/
def alone (h : Hart) (m : Member) : Bool := confMo h.headConf == 2 || unstopped h m

/-! The registers of members (R22, R136, R171, R199, R338): a member that uses a register of an earlier one goes no
further than the bits of it that the earlier member is through with. -/

/-- The order in which an instruction goes through registers: so many bits for every so many elements; one element,
from bit `lo` to bit `hi`, throughout; the record of a row as it comes to the row; or no such order. -/
inductive Walk where
  | bits (num den : Nat)
  | fixed (lo hi : Nat)
  | record
  | other
  deriving DecidableEq, Repr

/-- A run of vector registers, of mask registers counted from 64, or of accumulators counted from 128, with the order
it is gone through and the bit it begins at. -/
structure RegUse where
  walk : Walk
  first : Nat
  len : Nat := 1
  start : Nat := 0
  deriving DecidableEq, Repr

/-- The bit below which a use is over when its instruction has come to element e. -/
def RegUse.passed (u : RegUse) (cap e : Nat) : Nat :=
  u.first * cap + u.start + match u.walk with
    | .bits num den => num * (e / max 1 den)
    | .fixed lo _ => lo
    | _ => 0

/-- The element to which a later instruction may go for the sake of its use y, when an earlier one with the use x has
come to element e. -/
def RegUse.limit (cap e : Nat) (x y : RegUse) : Nat :=
  if !groupsMeet x.first x.len y.first y.len then 16384
  else
    match x.walk, y.walk with
    | .record, .record => if x.first = y.first then 16384 else 0
    | .record, _ => 0
    | .other, _ => 0
    | _, .bits num den => (x.passed cap e - (y.first * cap + y.start)) / max 1 num * den
    | _, .fixed _ hi => if y.first * cap + hi ≤ x.passed cap e then 16384 else 0
    | _, _ => 0

/-- The registers and accumulators that an instruction reads and writes; `again` are those that it reads below the
element it has come to. -/
structure RegUses where
  reads : List RegUse
  writes : List RegUse
  again : List RegUse := []

/-- Element i of a register use is of so many bits. -/
def byElement (w first : Nat) (len : Nat := 1) : RegUse := { walk := .bits w 1, first := first, len := len }

/-- Scale bytes of the elements of register r, of width w, in registers from s (R85); zero points follow them. -/
def scaleUses (c : VConf) (w r s : Nat) (zeros : Bool) : List RegUse :=
  let use (s : Nat) : RegUse :=
    { walk := .bits 8 (blockLen (confBlk c)), first := s, start := 8 * scaleIndex c w r 0 }
  if zeros then [use s, use (s + 1)] else [use s]

/-- Bytes of random bits, one for each element, where the rounding mode reads them. -/
def biasUse (rm : BitVec 3) (r : Nat) : List RegUse := if rm.toNat < 6 then [] else [byElement 8 r]

/-- The width of the elements that an instruction writes: that of a conversion's destination, else the captured one. -/
def destWidth (i : Instr) (c : VConf) : Nat :=
  match i with
  | .vcvt _ _ f => fmtWidth (cvtTo f)
  | .vdqnt _ _ f => fmtWidth (cvtTo f)
  | .vqnt _ _ f => fmtWidth (cvtTo f)
  | .vcbdec _ _ _ => fmtWidth 1
  | _ => confW c

/-- The register use of field d. -/
def destUse (i : Instr) (c : VConf) (f : VF) : RegUse :=
  let w := destWidth i c
  byElement w f.d.toNat (if paceOf i = .rows then spanOf c w c.vl else max 1 (w / confW c))

/-- The uses of registers from field c that an instruction reads: the third source, stored data, records, or bytes of
blocks and of random bits. -/
def thirdUse (i : Instr) (c : VConf) (f : VF) : List RegUse :=
  let r := f.c.toNat
  let element := byElement (confW c) r
  match i with
  | .vfma rm _ => element :: biasUse rm (biasRegOf 1 f)
  | .vfms rm _ => element :: biasUse rm (biasRegOf 1 f)
  | .vfnma rm _ => element :: biasUse rm (biasRegOf 1 f)
  | .vqnt rm _ _ => biasUse rm (qntBias f (isOB (cvtTo f)))
  | .vdqnt rm _ _ =>
    scaleUses c (confW c) f.a.toNat r (isOB (confFmt c)) ++ biasUse rm (qntBias f (isOB (confFmt c)))
  | .vcvt rm _ _ => biasUse rm r
  | .vfadd rm _ => biasUse rm r
  | .vfsub rm _ => biasUse rm r
  | .vfmul rm _ => biasUse rm r
  | .mstrm _ => if planeBlk c = 0 then [] else scaleUses c (confW c) f.a.toNat r (confFmt c == 11)
  | .mdrn _ => []
  | .vst _ => [element]
  | .vsts _ => [element]
  | .vstx _ => [element]
  | .vupd _ _ => [element]
  | .vpjadj _ => [{ walk := .record, first := r, len := recordSpan c }]
  | _ => [{ walk := .other, first := r }]

/-- The accumulators of an instruction, read and then written (R174, R177): one whose rows MSTRM still has to zero is
written in no order. -/
def accUses (i : Instr) (e : Nat) : List RegUse :=
  match i with
  | .mstrm f =>
    if f.imm.toNat % 2 = 1 ∧ e = 0 then [{ walk := .other, first := 128 + f.d.toNat }]
    else [byElement 1 (128 + f.d.toNat)]
  | .mdrn f => [byElement 1 (128 + f.a.toNat)]
  | _ => []

/-- Register uses of an instruction that goes by groups, blocks or rows, and stands at element e. -/
def usesOf (i : Instr) (c : VConf) (e : Nat) : RegUses :=
  match rolesOf i with
  | none => { reads := [], writes := [] }
  | some (r, f) =>
    let n := if paceOf i = .rows then spanOf c (confW c) c.vl else 1
    let w := confW c
    let walk : Walk :=
      match i with
      | .vbcast _ => .fixed (w * f.imm.toNat) (w * (f.imm.toNat + 1))
      | _ => if confFmt c = 12 then .bits 16 8 else .bits w 1
    let source (role : Role) (x : BitVec 6) : List RegUse :=
      if role == .vec then [{ walk := walk, first := x.toNat, len := n }] else []
    let mask := if f.m = 0 then [] else [byElement 1 (64 + f.m.toNat)]
    let counted := if r.a == .mask then [byElement 1 (64 + f.a.toNat)] else []
    let records := match i with
      | .vproj _ => true
      | .mdrn _ => drainSet f != 0
      | _ => false
    let scales := match i with
      | .vqnt _ _ _ => scaleUses c (destWidth i c) f.d.toNat f.c.toNat (isOB (cvtTo f))
      | _ => []
    { reads := (if f.sa then [] else source r.a f.a) ++ source r.b f.b ++
        (if r.c == .vec && !records then thirdUse i c f else []) ++ mask ++ counted ++ accUses i e
      writes := (if r.d == .vec then [destUse i c f] else []) ++
        (if r.d == .maskDst then [byElement 1 (64 + f.d.toNat)] else []) ++
        (if records then [{ walk := .record, first := f.c.toNat, len := recordSpan c }] else []) ++ scales ++ accUses i e
      again := counted.map fun u => { u with walk := .other } }

/-- The element to which a later instruction may go for the sake of what it shares with an earlier one that has come
to element e: by their registers, and by the groups of their destinations (R338). -/
def chainLimit (c : VConf) (i : Instr) (e : Nat) (j : Instr) (e' : Nat) : Nat :=
  let x := usesOf i c e
  let y := usesOf j c e'
  let meet (l l' : List RegUse) : List Nat := l.flatMap fun u => l'.map (u.limit (regBits c) e)
  (meet x.writes (y.reads ++ y.writes) ++ meet (x.reads ++ x.again) y.writes).foldl min
    (min e (destWidth i c * e / max 1 (destWidth j c)))

/-- A last-use load, whose discards wait for its last element. -/
def lastUseLoad : Instr → Bool
  | .vld hint _ => hint == 2
  | .vlds hint _ => hint == 2
  | .vldx hint _ => hint == 2
  | _ => false

/-- The accesses of two members must follow one another (R21, R321): one that is an acquire, as a load from a FIFO-mode
bank is, or one that changes what the other touches. -/
def membersMeet (banks : Vector BankMode 96) (c : VConf) : Entry → Entry → Bool
  | .instr i a b, .instr i' a' b' =>
    let t := touchOf i c a b
    let t' := touchOf i' c a' b'
    t.2 != .none && t'.2 != .none &&
      (confMo c != 0 || lastUseLoad i || lastUseLoad i' || holdsAll banks i c a ||
       ((changesTouched banks i t || changesTouched banks i' t') && touchesMeet banks t.2 t'.2))
  | _, _ => false

/-- Elements of member j have faulted in its present pass, of which it completes the others (R341). -/
def hasFaults (h : Hart) (j : Nat) : Bool := !(tgetD h.memberPass j {}).faults.isEmpty

/-- The element up to which a member may go now, in a round up to element e: none when it stays where it is. It goes
no further than the earlier members have come (R338). -/
def memberGoal (banks : Vector BankMode 96) (earlier : List Member) (m : Member) (e : Nat) (h : Hart) : Option Nat :=
  let open1 := earlier.filter fun x => !memberDone h x.1
  if memberDone h m.1 || (alone h m && !open1.isEmpty) || open1.any (fun x => hasFaults h x.1 || alone h x ||
      membersMeet banks h.headConf x.2 m.2) then none
  else if unstopped h m then some 16384
  else match m.2 with
    | .instr i _ _ =>
      let lim := open1.foldl (fun n x => match x.2 with
        | .instr j _ _ => min n (chainLimit h.headConf j (startOf h x.1) i (startOf h m.1))
        | _ => n) e
      if h.headConf.vl ≤ lim then (if open1.isEmpty then some 16384 else none)
      else
        let n := (paceOf i).step h
        if startOf h m.1 < lim / n * n then some (lim / n * n) else none
    | _ => none

/-- What a round has come to: the members that wait, and whether the convoy has trapped. -/
structure Flow where
  s : State
  waits : List Nat := []
  ended : Bool := false

/-- Member j stands where `vstart` is, with its pass. -/
def memberStands (j : Nat) (s : State) : State :=
  let h := setStart j (min s.h.vstart 16383) s.h
  { s with h := { h with memberPass := tset h.memberPass j h.pass, pass := {}, front := 16384 } }

/-- Member j has completed a run from element x. -/
def memberEnds (j x : Nat) (s : State) : State :=
  let h := setStart j 0xFFFF (endReplay s.h)
  countGroups h.headConf x true
    { s with h := { h with memberPass := tdel h.memberPass j, pass := {}, front := 16384 } }

/-- The convoy stops: a member that keeps faulted elements stands at the lowest of them (R341). -/
def convoyStops (s : State) : State :=
  { s with h := s.h.memberPass.foldl (fun h p =>
      match p.2.faults with
      | [] => h
      | x :: l => setStart p.1 (l.foldl (fun n y => min n y.1) x.1) h) s.h }

/-- The convoy is over when every member has completed: its slots leave together (R333). -/
def leaveConvoy (k : Nat) (s : State) : State :=
  if (upTo k).all (memberDone s.h) then { s with h := { popSlots (k + 1) s.h with vstart := 0 } }
  else { s with h := { s.h with vstart := lowestStart s.h } }

/-- Member j performs up to element e (R338 to R341): it completes, stands, or traps. -/
def runMember (k j : Nat) (i : Instr) (a b : Word) (e : Nat) (s : State) : Flow :=
  let slot := (s.h.qhead + 1 + j) % 32
  let rep := s.h.replay
  let mine := replayed s.h j
  let x := startOf s.h j
  let rest (s : State) : State := { s with h := { s.h with replay := rep && !mine } }
  let s := { s with h := { s.h with
    vstart := startOf s.h j, replay := mine, pass := tgetD s.h.memberPass j {}, performing := s.h.arrived[1 + j]? } }
  match idlePerf (runTo i a b e s) with
  | .done s => { s := rest (memberEnds j x s) }
  | .wait s =>
    let s := memberStands j (countGroups s.h.headConf x false s)
    { s := { s with h := { s.h with replay := rep } }, waits := if startOf s.h j < min e s.h.headConf.vl then [j] else [] }
  | .after val s =>
    let s := leaveConvoy k (rest (memberEnds j x (convoyStops s)))
    { s := takeTrap false 0x20 val s.h.pc (BitVec.ofNat 6 slot) s, ended := true }
  | p =>
    let s := finishHead 0 slot x (parcelsOf i) (mapPerf convoyStops p)
    let h := setStart j (min s.h.vstart 16383) s.h
    { s := { s with h := { h with vstart := lowestStart h } }, ended := true }
where
  /-- Change the state that an execution leaves. -/
  mapPerf (g : State → State) : Perf → Perf
    | .done s => .done (g s)
    | .wait s => .wait (g s)
    | .trap c v s => .trap c v (g s)
    | .after v s => .after v (g s)
    | .faulted a t s => .faulted a t (g s)
    | .recorded a c e v s => .recorded a c e v (g s)

/-- One round: every member in slot order that does not wait goes as far as it may, up to element e. -/
def runRound (k e : Nat) : (earlier later : List Member) → Flow → Flow
  | _, [], w => w
  | earlier, m :: l, w =>
    if w.ended then w
    else if w.waits.contains m.1 then runRound k e (earlier ++ [m]) l w
    else match m.2, memberGoal (getCore w.s (curCore w.s)).banks earlier m e w.s.h with
      | .instr i a b, some g =>
        let w' := runMember k m.1 i a b g w.s
        runRound k e (earlier ++ [m]) l { w' with waits := w.waits ++ w'.waits }
      | _, _ => runRound k e (earlier ++ [m]) l w

/-- The members up to the first that runs alone. -/
def chained (h : Hart) : List Member → List Member
  | [] => []
  | m :: l => if !memberDone h m.1 && alone h m then [m] else m :: chained h l

/-- The rounds of a convoy, by element groups, up to a limit: a member that waits holds up only those behind it. -/
def runRounds (k : Nat) (seg : List Member) : List Nat → Flow → Flow
  | [], w => w
  | e :: es, w => if w.ended then w else runRounds k seg es (runRound k e [] seg w)

/-- The convoy at the head runs, up to an element: the members that chain, then those after one that runs alone. -/
def runConvoy (hdr : Instr) (l : List Entry) (limit : Nat) (s : State) : State :=
  let k := headerCount hdr
  let members := (upTo k).zip (l.take k)
  let g := groupElems s.h
  let rounds := ((upTo (s.h.headConf.vl / g + 1)).map fun r => g * (r + 1)).filter (· ≤ limit)
  let w := (upTo k).foldl (fun (w : Flow) _ =>
    if w.ended || !w.waits.isEmpty then w else runRounds k (chained w.s.h members) rounds w) { s := s }
  if w.ended then w.s else leaveConvoy k w.s

/-! ## The head -/

/-- The entry at the head of the queue runs (R334), up to an element where it can stop inside. -/
def runHeadTo (limit : Nat) (s : State) : State :=
  if s.h.frozen then s
  else match s.h.queue with
    | [] => s
    | .instr i a b :: _ =>
      finishHead 1 s.h.qhead s.h.vstart (parcelsOf i)
        (runTo i a b (if paceIn s.h i = .whole then 16384 else max s.h.vstart limit) (performAs s.h.arrived.head? s))
    | .config i c :: _ => { s with h := popSlots 1 (applyConfig i c s.h) }
    | .convoy hdr _ :: l => runConvoy hdr l limit s

/-- The entry at the head of the queue runs. -/
def runHead (s : State) : State := runHeadTo (2 ^ 15) s

/-- The head runs through so many element groups, or rows of a matrix stream, and stops there (R31, R175, R342). -/
def runInside (groups : Nat) (s : State) : State :=
  match s.h.queue with
  | .instr i _ _ :: _ =>
    let n := (paceOf i).step s.h
    runHeadTo ((s.h.vstart / n + groups) * n) s
  | .convoy _ _ :: _ => runHeadTo ((lowestStart s.h / groupElems s.h + groups) * groupElems s.h) s
  | _ => s

/-- The matrix instructions that the head of the queue has handed to the matrix queue, each in its slot: at most the
32 of the vector queue, so that the 64 of the matrix queue never fill (R334, R345, R359). -/
def matrixQueue (h : Hart) : List Entry :=
  if h.frozen then [] else h.queue.takeWhile fun e => match e with
    | .instr i _ _ => (unitsOf i).contains 7
    | _ => false

/-! ## Early reads (R20, R336) -/

/-- A load whose elements may be read early, with its path, its hint and the address of each. -/
def earlyLoad (s : State) (c : VConf) : Entry → Option (Nat × Nat × (Nat → Nat))
  | .instr (.vld hint f) a _ => if hint ≠ 2 ∧ f.m = 0 then some (unitPath s a, hint.toNat, eaUnit c a) else none
  | .instr (.vlds hint f) a b => if hint ≠ 2 ∧ f.m = 0 then some (permuted, hint.toNat, eaStride a b) else none
  | _ => none

/-- The entry at a position of the queue with the configuration it has captured; none for a member of a convoy. -/
def queuedAt : (skip : Nat) → List Entry → VConf → Nat → Option (Entry × VConf)
  | _, [], _, _ => none
  | skip, e :: l, c, pos =>
    match pos with
    | 0 => if skip = 0 then some (e, c) else none
    | pos + 1 =>
      match e with
      | .config _ c' => queuedAt (skip - 1) l c' pos
      | .convoy hdr _ => queuedAt (headerCount hdr) l c pos
      | .instr _ _ _ => queuedAt (skip - 1) l c pos

/-- The page of an address is cached. -/
def cachedPage (va : Nat) : Acc Bool := do
  let s ← get
  match virtualHit s (currentWho s) va 1 with
  | some _ => pure true
  | none => do
    let e ← translate (currentWho s) va .load
    pure (placeOfPa (paOf e va) (bitAt e.pte 9) == .cached)

/-- One element read early: nothing when it is not cached, faults or meets poison. -/
def earlyElem (path hint va n : Nat) : Acc (Option Nat) := do
  if touchesWindow va n then pure none
  else if !(← cachedPage va) then pure none
  else do
    let r ← readMem (vectorWho path (← get)) va n hint 0 .load
    pure (if r.pois.isEmpty then some r.val else none)

/-- The elements of a group read early: false when one has to wait. -/
def earlyGroup (path hint n : Nat) (ea : Nat → Nat) : List Nat → EarlyGroup → State → State × Option EarlyGroup
  | [], g, s => (s, some g)
  | i :: l, g, s =>
    match runAcc (earlyElem path hint (ea i) n) s with
    | (.error .wait, s) => (s, none)
    | (.ok (some x), s) =>
      let k := i % (32 / n)
      earlyGroup path hint n ea l { g with data := g.data ||| x <<< (8 * n * k), read := g.read ||| 1 <<< k } s
    | (_, s) => earlyGroup path hint n ea l g s

/-- The scalar side reads the next element group of the load at a position early, where R336 allows it: not while the
hart waits at its PC, under `mo` = 0, into a load-data queue with room, behind earlier writers that overlap. -/
def earlyRead (pos : Nat) (s : State) : State :=
  if s.h.frozen || s.h.stalled || pos = 0 then s
  else match queuedAt 0 s.h.queue s.h.headConf pos with
    | none => s
    | some (e, c) =>
      match earlyLoad s c e with
      | none => s
      | some (path, hint, ea) =>
        let slot := (s.h.qhead + pos) % 32
        let earlier := s.h.queue.take pos
        let side := (s.h.loadFirst + (earlier.filter isLoadEntry).length) % 2
        let held := if h : side < 2 then s.h.loadData[side] else []
        let n := 256 / confW c
        let g := (held.filter fun x => x.slot == slot).length
        let is := (fromTo (n * g) (min (n * (g + 1)) (c.vl - c.vlpad)))
        if confW c < 8 || confMo c ≠ 0 || 64 ≤ held.length || is.isEmpty ||
            is.any (fun i => entryBlocks (getCore s (curCore s)).banks (ea i) (confW c / 8) false earlier s.h.headConf) then s
        else match earlyGroup path hint (confW c / 8) ea is { slot := slot, group := g } s with
          | (s, none) => s
          | (s, some x) =>
            { s with h := { s.h with loadData := s.h.loadData.setIfInBounds side (held ++ [x]) } }

/-! ## VCFG and SETVL (R54, R207 to R210) -/

/-- Illegal values of VCFG's imm16 (R54). -/
def vcfgIllegal (x : Nat) : Bool :=
  bitsGet x 2 4 == 15 || decide (4 < bitsGet x 6 3) || decide (4 < bitsGet x 9 3) || bitsGet x 12 2 == 3 ||
  bitsGet x 14 2 != 0

/-- Illegal values of SETVL's imm16 (R54). -/
def setvlIllegal (x : Nat) : Bool := bitsGet x 0 4 == 15 || decide (4 < bitsGet x 4 3) || bitsGet x 7 9 != 0

/-- A configuration takes effect at commit, and its entry follows (R209). -/
def commitConfig (i : Instr) (c : VConf) (s : State) : State :=
  let empty := s.h.queue.isEmpty
  let s := pushEntry (.config i c) { s with h := { s.h with conf := c } }
  if empty then runHead s else s

def execVcfg (f : VF) (s : State) : Result :=
  if s.h.frozen || vcfgIllegal f.imm.toNat then commitTrap 0x04 (.vcfg f) s
  else if 32 ≤ s.h.queue.length then stallFull s
  else .next (commitConfig (.vcfg f) { vcfg := f.imm, vl := 0, vlpad := 0, lanes := lanesOf s s.cur } s)

/-- The configuration SETVL grants for a request (R210). -/
def setvlGrant (imm : Nat) (r lanes : Nat) (c : VConf) : VConf :=
  let vcfg := BitVec.ofNat 16 (bitsSet (bitsSet c.vcfg.toNat 2 4 imm) 6 3 (imm / 16))
  let fmt := bitsGet imm 0 4
  let blk := bitsGet imm 4 3
  let b := if blk = 0 then (if fmt = 12 then 8 else 1) else blockLen blk
  let grant := min ((r + b - 1) / b * b) (vlmaxOf lanes (confNreg c) fmt / b * b)
  { vcfg := vcfg, vl := grant, vlpad := grant - r, lanes := lanes }

def execSetvl (f : VF) (s : State) : Result :=
  if s.h.frozen || setvlIllegal f.imm.toNat then commitTrap 0x04 (.setvl f) s
  else whenReady [sregOf f.a, sregOf f.d] s <|
    if 32 ≤ s.h.queue.length then stallFull s
    else
      let c := setvlGrant f.imm.toNat (readS s (sregOf f.a)).toNat (lanesOf s s.cur) s.h.conf
      .next (commitConfig (.setvl f) c (writeS (sregOf f.d) (word c.vl) s))

/-! ## The convoy header (R60 to R62, R333) -/

/-- One parcel of the instruction stream (R53, R108, R110). Of the old and the new content that R110 allows before a
fence the model takes what the L1 or the home holds when it fetches, DESIGN CHOICE of log 7. -/
def fetchParcel (va : Nat) : Acc (Nat × List Nat) := do
  let r ← readMem (currentWho (← get)) va 4 0 (fetchElem + va / 4) .fetch
  pure (if r.pois.isEmpty then r.val else 0, r.pois)

/-- The instruction at an address: its parcels, the instruction when the encoding is listed, and the poisoned granules
that it lies in. A fault names the parcel that failed. -/
def fetchInstr (va : Nat) : Acc (Nat × Option Instr × List Nat) := do
  let (w0, gs) ← fetchParcel va
  if parcelCount w0 = 1 then pure (w0, (decodeParcels w0 0).toOption, gs)
  else do
    let (w1, gs') ← fetchParcel ((va + 4) % 2 ^ 64)
    pure (w0 + w1 * 2 ^ 32, (decodeParcels w0 w1).toOption, gs ++ gs')

/-- The poison that an instruction was fetched from is delivered once, when the hart no longer waits at it (R264,
R377). -/
def deliverFetched (gs : List Nat) (r : Result) : Result :=
  if gs.isEmpty then r
  else match r with
    | .next s => .next (if s.h.stalled then s else deliverPoison gs none none s)
    | r => r

def isHeader : Option Instr → Bool
  | some (.convoyHeader _ _ _ _ _ _ _) => true
  | _ => false

/-- The turn's hart has fetched an instruction at an address: its parcels, and any others that it has asked for, are
asked for again by a later fetch (R110). A convoy header's members are still to be fetched. -/
def dropFetch (i : Option Instr) (va : Nat) (s : State) : State :=
  { s with remotes := s.remotes.filter fun r =>
      !(r.hart == s.cur && decide (fetchElem ≤ r.elem) && (!isHeader i || r.elem == fetchElem + va / 4)) }

/-- A trap at an instruction other than the one at the PC, once the queue is empty (R61, R68). -/
def trapAt (cause : Nat) (val : Nat) (pc : Nat) (s : State) : Result :=
  if queueBusy s.h then stall s else .next (takeTrap false cause (word val) (word pc) 32 s)

/-- The unit slots of a header, 1 to 6. -/
def headerUnits (s6 s5 s4 s3 s2 s1 : BitVec 4) : List Nat :=
  [s1.toNat, s2.toNat, s3.toNat, s4.toNat, s5.toNat, s6.toNat]

/-- A defect of the header's fields (R61). -/
def headerBad (units : List Nat) (k : Nat) : Bool :=
  decide (k < 2) || decide (6 < k) || (units.take k).any (fun u => decide (9 ≤ u)) || (units.drop k).any (· != 15)

/-- What the check of a convoy's members ends in: a fault with its address and value, a wait, or the members. -/
inductive MemberCheck where
  | fault (cause val pc : Nat)
  | wait
  | ok (l : List Instr)

/-- Check the members in slot order, with the poisoned granules that they lie in (R61). DEDUCED (log 51): what is no
64-bit parcel pair at a member's place is a defect of the convoy, 0x02, whatever its own encoding; `trapval` of an 0x02 holds the header's parcel. -/
def checkMembers (hdr : Instr) (pc0 : Nat) : List Nat → (pc : Nat) → State → State × List Nat × MemberCheck
  | [], _, s => (s, [], .ok [])
  | u :: us, pc, s =>
    match runAcc (fetchInstr pc) s with
    | (.error .wait, s) => (s, [], .wait)
    | (.error (.fault cause va), s) => (s, [], .fault cause va pc)
    | (.ok (w, i, gs), s) =>
      let bad2 := MemberCheck.fault 0x02 (parcelsOf hdr).toNat pc0
      if w % 4 ≠ 1 then (s, gs, bad2)
      else match i with
        | none => (s, gs, .fault 0x01 w pc)
        | some i =>
          if !(unitsOf i).contains u then (s, gs, bad2)
          else
            let cause := match vectorOf i with | some v => v.1 s.h.conf | none => 0
            if cause ≠ 0 then (s, gs, .fault cause w pc)
            else
              match checkMembers hdr pc0 us ((pc + 8) % 2 ^ 64) s with
              | (s, gs', .ok l) => (s, gs ++ gs', .ok (i :: l))
              | (s, gs', r) => (s, gs ++ gs', r)

/-- Entries of the range table that a convoy's members take. -/
def convoyRanges (l : List Instr) (s : State) : Nat :=
  (l.filterMap fun i => touchRange s (curCore s) i s.h.conf (captureA i s) (captureB i s)).length

/-- Commit a convoy whose members have passed their checks: all slots at once (R62, R333). -/
def commitConvoy (hdr : Instr) (l : List Instr) (s : State) : Result :=
  whenReady (l.flatMap capturesOf) s <|
    let k := l.length
    let delivering := (l.filter fun i => (deliversTo i).isSome).length
    if 32 < s.h.queue.length + k + 1 then stallFull s
    else if confAhead s.h || tableFull s (curCore s) (convoyRanges l s) then stall s
    else if delivering ≠ 0 && decide (8 < readbackUsed s.h + delivering) then stallFull s
    else
      let empty := s.h.queue.isEmpty
      let es := Entry.convoy hdr (List.replicate k 0 ++ List.replicate (6 - k) 0xFFFF) ::
        l.map fun i => Entry.instr i (captureA i s) (captureB i s)
      let s := dropFetch none s.h.pc.toNat s
      let s := perfAdd 1 (k + 1) { s with
        tick := s.tick + es.length
        h := { s.h with
          queue := s.h.queue ++ es, arrived := s.h.arrived ++ numbersFrom s.tick es.length
          pc := s.h.pc + word (4 + 8 * k), stalled := false, full := false, waitT0 := none
          headConf := if empty then s.h.conf else s.h.headConf } }
      .next (if empty then runHead s else s)

/-- A convoy header (R60 to R62). DEDUCED (log 51): a convoy committed while the queue is frozen faults at the header,
after the checks of its members. -/
def execConvoyHeader (s6 s5 s4 s3 s2 s1 : BitVec 4) (k : BitVec 3) (s : State) : Result :=
  let hdr := Instr.convoyHeader s6 s5 s4 s3 s2 s1 k
  let units := headerUnits s6 s5 s4 s3 s2 s1
  let pc := s.h.pc.toNat
  if headerBad units k.toNat then trapAt 0x02 (parcelsOf hdr).toNat pc s
  else match checkMembers hdr pc (units.take k.toNat) ((pc + 4) % 2 ^ 64) s with
    | (s, _, .wait) => stall s
    | (s, gs, .fault cause val at0) => deliverFetched gs (trapAt cause val at0 s)
    | (s, gs, .ok l) =>
      deliverFetched gs (if s.h.frozen then trapAt 0x04 (parcelsOf hdr).toNat pc s else commitConvoy hdr l s)

end Sys2Proof.Machine
end

