-- ==== Sys2Proof/Machine/Save.lean ====
section
/-! DEFINITION. The save area of a hart (R217): its layout, the queue image (R332, R344), and the block itself, written
when a hart leaves its slot and read when it comes back (R30, R31, R342). -/

namespace Sys2Proof.Machine

/-! ## The blocks of VSAVE and VREST (R217, R219) -/

/-- n parts of a bit string. -/
def partsOf (x n : Nat) : List Nat := (upTo n).map fun i => bitsGet x (256 * i) 256

/-- A bit string of fields of w bits. -/
def packList (w : Nat) : List Nat → Nat
  | [] => 0
  | x :: l => x % 2 ^ w + packList w l <<< w

/-- The header block at 0x600. -/
def saveHeader (h : Hart) : Nat :=
  packList 64 [h.conf.vcfg.toNat, h.conf.vl, h.conf.vlpad, h.vstart, h.vdirty.toNat, h.fflags.toNat,
    h.smflags.toNat, h.mxflags.toNat, h.conf.lanes] +
  (packList 32 h.marks.toList) <<< (8 * 0x80)

/-- The mask block: m1 to m15, then `md`. -/
def saveMasks (h : Hart) : Nat := packList 16384 (h.m.toList.drop 1 ++ [h.md])

/-- The lanes' small-matrix block: g0 to g7 of each working lane. DESIGN CHOICE (log 59): the 36 entries of a register
lie in its 144 bytes row by row, entry (0, 0) at the lowest address. -/
def saveLanes (h : Hart) : Nat :=
  packList 1152 ((upTo h.conf.lanes).flatMap fun j => (upTo 8).map fun k => bitsGet (h.g.toArray.getD k 0) (1152 * j) 1152)

/-- Element groups of a register up to its mark; none where `vdirty` is clear. -/
def markedGroups (vdirty : Word) (marks : Nat → Nat) (r : Nat) : Nat :=
  if vdirty.getLsbD r then (marks r + 255) / 256 else 0

/-- The vector block: the dirty registers one after another, each through its mark. -/
def saveVectors (h : Hart) : List Nat :=
  (upTo 64).flatMap fun r =>
    partsOf (vreg h r) (markedGroups h.vdirty (fun i => h.marks.toArray.getD i 0) r)

/-- A field of 8 bytes of the header. -/
def headerField (x i : Nat) : Nat := bitsGet x (64 * i) 64

/-- The header's fields, reserved bits of `vcfg` read as 0 (R207), in a hart whose registers are as they were. -/
def restoreHeader (x : Nat) (h : Hart) : Hart :=
  let c : VConf := { vcfg := BitVec.ofNat 16 (headerField x 0 % 2 ^ 14), vl := headerField x 1 % 2 ^ 15
                     vlpad := headerField x 2 % 2 ^ 15, lanes := headerField x 8 % 2 ^ 7 }
  { h with
    conf := c, headConf := c
    vstart := headerField x 3 % 2 ^ 15
    vdirty := word (headerField x 4)
    fflags := BitVec.ofNat 7 (headerField x 5)
    smflags := BitVec.ofNat 9 (headerField x 6)
    mxflags := BitVec.ofNat 7 (headerField x 7)
    marks := Vector.ofFn fun i => bitsGet x (8 * 0x80 + 32 * i.val) 32 }

/-- The vector registers from the parts of their block; a register without a mark is zero. -/
def restoreVectors (vdirty : Word) (marks : Nat → Nat) : (n r : Nat) → List Nat → List Nat
  | 0, _, _ => []
  | n + 1, r, parts =>
    let k := if marks r = 0 then 0 else markedGroups vdirty marks r
    packList 256 (parts.take k) :: restoreVectors vdirty marks n (r + 1) (parts.drop k)

/-- Masks, small-matrix registers and vectors from their blocks. -/
def restoreRest (masks lanes : Nat) (vectors : List Nat) (h : Hart) : Hart :=
  let vs := restoreVectors h.vdirty (fun i => h.marks.toArray.getD i 0) 64 0 vectors
  { h with
    m := Vector.ofFn fun i => if i.val = 0 then h.m.toArray.getD 0 0 else bitsGet masks (16384 * (i.val - 1)) 16384
    md := bitsGet masks (16384 * 15) 16384
    g := Vector.ofFn fun k => packList 1152 ((upTo h.conf.lanes).map fun j => bitsGet lanes (1152 * (8 * j + k.val)) 1152)
    v := Vector.ofFn fun i => vs.getD i.val 0 }

/-! ## The queue image (R332, R344) -/

/-- A configuration operand. -/
def confOperand (c : VConf) : Nat := c.vcfg.toNat + c.vl * 2 ^ 16 + c.vlpad * 2 ^ 32 + c.lanes * 2 ^ 48

def operandConf (x : Nat) : VConf :=
  { vcfg := BitVec.ofNat 16 x, vl := bitsGet x 16 15, vlpad := bitsGet x 32 15, lanes := bitsGet x 48 7 }

/-- The 24 bytes of an entry. -/
def entryBits : Entry → Nat
  | .instr i a b => (parcelsOf i).toNat + a.toNat <<< 64 + b.toNat <<< 128
  | .config i c => (parcelsOf i).toNat + confOperand c <<< 64
  | .convoy hdr starts => (parcelsOf hdr).toNat + packList 16 starts <<< 64

/-- The image of a hart's queue: count, head, entries, head configuration. -/
def queueImage (h : Hart) : Nat :=
  h.queue.length + h.qhead <<< 32 + packList 192 (h.queue.map entryBits) <<< 64 + confOperand h.headConf <<< (8 * 0x308)

/-- The most lanes that the slot of a hart can have, under the partition mode of its core (R11). -/
def slotCap (s : State) (n : Nat) : Nat := 4 * (groupsOfSlot (getCore s (coreOfHart n)).pmode (n % 8)).length

/-- A configuration that VCFG or SETVL could give in a slot of so many lanes (R344). -/
def confLegal (cap : Nat) (c : VConf) : Bool :=
  let fmt := confFmt c
  let blk := confBlk c
  let b := if blk = 0 then (if fmt = 12 then 8 else 1) else blockLen blk
  !vcfgIllegal c.vcfg.toNat && c.lanes % 4 == 0 && decide (4 ≤ c.lanes) && decide (c.lanes ≤ cap) &&
  c.vl % b == 0 && decide (c.vl ≤ vlmaxOf c.lanes (confNreg c) fmt / b * b) &&
  decide (c.vlpad < b) && (c.vlpad == 0 || decide (c.vlpad < c.vl))

/-- An operand is zero where the instruction captures no scalar (R332). -/
def operandsLegal (i : Instr) (a b : Nat) : Bool :=
  match rolesOf i with
  | none => false
  | some (r, f) => (f.sa || a == 0) && (r.b == .scal || b == 0)

/-- One entry of an image under the configuration before it: the entry and the configuration after it. -/
def imageEntry (cap x : Nat) (c : VConf) : Option (Entry × VConf) :=
  let w0 := bitsGet x 0 32
  let w1 := bitsGet x 32 32
  let a := bitsGet x 64 64
  let b := bitsGet x 128 64
  match (decodeParcels w0 w1).toOption with
  | none => none
  | some i =>
    match i, vectorOf i with
    | .vcfg f, _ => if vcfgIllegal f.imm.toNat then none else confEntry i a b
    | .setvl f, _ => if setvlIllegal f.imm.toNat then none else confEntry i a b
    | .convoyHeader _ _ _ _ _ _ k, _ =>
      let starts := (upTo 6).map fun j => bitsGet x (64 + 16 * j) 16
      if w1 = 0 ∧ bitsGet x 160 32 = 0 ∧ startsLegal k.toNat starts then some (.convoy i starts, c) else none
    | _, some v => if v.1 c = 0 && operandsLegal i a b then some (.instr i (word a) (word b), c) else none
    | _, none => none
where
  confEntry (i : Instr) (a b : Nat) : Option (Entry × VConf) :=
    let c' := operandConf a
    if b = 0 ∧ confOperand c' = a ∧ confLegal cap c' then some (.config i c', c') else none
  /-- Starts never increase; 0xFFFF stands for a completed member, and for every absent one. -/
  startsLegal (k : Nat) (starts : List Nat) : Bool :=
    (upTo 6).all fun j =>
      let x := starts.getD j 0
      if k ≤ j then x == 0xFFFF
      else (x == 0xFFFF || decide (x ≤ 16383)) && (j == 0 || decide (x ≤ starts.getD (j - 1) 0))

/-- Entries of an image in order. -/
def imageEntries (cap : Nat) (bits : Nat → Nat) : (n j : Nat) → VConf → Option (List Entry)
  | 0, _, _ => some []
  | n + 1, j, c =>
    match imageEntry cap (bits j) c with
    | none => none
    | some (e, c) => (imageEntries cap bits n (j + 1) c).map fun l => e :: l

/-- Every convoy entry is followed by its members, each on a unit that takes it (R344). -/
def convoysLegal : List Entry → Bool
  | [] => true
  | .convoy (.convoyHeader s6 s5 s4 s3 s2 s1 k) _ :: l =>
    let units := headerUnits s6 s5 s4 s3 s2 s1
    !headerBad units k.toNat &&
    ((upTo k.toNat).all fun j => match l[j]? with
      | some (.instr i _ _) => (unitsOf i).contains (units.getD j 15)
      | _ => false) && convoysLegal l
  | _ :: l => convoysLegal l

/-- The queue of an image: head position, head configuration and entries, when it is legal in a slot of so many
lanes. -/
def readImage (cap x : Nat) : Option (Nat × VConf × List Entry) :=
  let count := bitsGet x 0 32
  let head := bitsGet x 32 32
  let op := bitsGet x (8 * 0x308) 64
  let c := operandConf op
  if 32 < count ∨ 31 < head ∨ confOperand c ≠ op ∨ !confLegal cap c then none
  else match imageEntries cap (fun j => bitsGet x (64 + 192 * j) 192) count 0 c with
    | none => none
    | some l => if convoysLegal l then some (head, c, l) else none

/-! ## The area as a whole (R217, R342) -/

/-- The CSR block at 0x100. -/
def saveCsrs (h : Hart) : Nat :=
  packList 64 [h.epc.toNat, h.status.toNat, h.trapcause.toNat, h.trapval.toNat, h.trapqpos.toNat, h.frm.toNat,
    h.waitlim.toNat, h.scratch.toNat]

/-- The engine objects in the area: where MSPL of each writes, and its number (R181, R217). -/
def engineBlocks : List (Nat × Nat) :=
  [(0x31800, 0), (0x37800, 1), (0x3D800, 2), (0x43800, 3), (0x49800, 4), (0x4BD00, 5), (0x4E200, 6)]

/-- A matrix engine as the core that holds it. -/
def engineCore (e : Engine) : Core := { wpa := e.wpa, wps := e.wps, acc := e.acc, engConf := e.conf }

def coreEngine (k : Core) : Engine := { wpa := k.wpa, wps := k.wps, acc := k.acc, conf := k.engConf }

/-- What firmware writes into the area for a hart that stops, an owner's engine too: offset, bytes, contents. -/
def saveBlocksFor (h : Hart) (e : Option Engine) : List (Nat × Nat × Nat) :=
  let vs := saveVectors h
  [(0, 256, packList 64 (h.x.toList.map (·.toNat))), (0x100, 256, saveCsrs h), (0x200, 1024, queueImage h),
   (0x600, 512, saveHeader h), (0x800, 32768, saveMasks h), (0x8800, 1152 * h.conf.lanes, saveLanes h),
   (0x11800, 32 * vs.length, packList 256 vs)] ++
  match e with
  | none => []
  | some e => engineBlocks.map fun p => (p.1, objectBytes p.2, objectBits (engineCore e) p.2)

/-- Bytes of a save area (R217). -/
def saveBytes : Nat := 0x50000

/-- The units of a save area that some cache or message of the package holds. -/
def cachedUnits (pa : Nat) (s : State) : List Nat :=
  let inside (lu : Nat) : Bool := decide (luOf pa ≤ lu) && decide (lu < luOf (pa + saveBytes))
  let known : List Nat := s.dir.map (·.1)
  let held : List Nat := s.l2.map (·.1 % 2 ^ 44)
  let moving : List Nat := s.net.map (·.lu)
  ((known ++ held ++ moving).filter inside).eraseDups

/-- The bytes of a save area that caches hold reach the arrays, as far as their lines can be collected now (log 31). -/
def collectArea (pa t : Nat) (s : State) : State :=
  (cachedUnits pa s).foldl (fun s lu =>
    let (s, ok) := homeFetch lu true t s
    if ok then evictHome lu s else s) s

/-- A block is written into the arrays: its granules are whole, so that none stays poisoned (R265). -/
def writeBlock (pa : Nat) (b : Nat × Nat × Nat) (s : State) : State :=
  let lo := (pa + b.1) / 32
  let out (g : Nat) : Bool := decide (g < lo) || decide (lo + b.2.1 / 32 ≤ g)
  { s with
    mem := memBlock s.mem (pa + b.1) b.2.1 b.2.2
    poison := s.poison.filter out, correctable := s.correctable.filter out
    detected := s.detected.filter fun p => out p.1 }

/-- A hart's context and the engine it owns are written into its save area (R31, R183, R342). -/
def writeArea (pa t : Nat) (h : Hart) (e : Option Engine) (s : State) : State :=
  (saveBlocksFor h e).foldl (fun s b => writeBlock pa b s) (collectArea pa t s)

/-- Bytes of the area as the arrays hold them; those of a poisoned granule read as 0. -/
def readArea (s : State) (pa off n : Nat) : Nat :=
  memReadBlock (s.mem.filter fun c => !s.poison.contains (c.1 / 32)) (pa + off) n

/-- The queue of an image that is legal, as VQREST restores it; else none. -/
def restoredQueue (cap x tick : Nat) (h : Hart) : Hart :=
  match readImage cap x with
  | none => { h with queue := [], arrived := [], frozen := false }
  | some (head, c, l) =>
    { h with queue := l, arrived := numbersFrom tick l.length, qhead := head, headConf := c, frozen := !l.isEmpty
             loadFirst := 0 }

/-- A hart with the scalar registers, CSRs, vector state and queue of its area, over the record kept of it, which has
what the area does not hold (log 31). -/
def readHart (s : State) (cap pa : Nat) (h : Hart) : Hart :=
  let csr (i : Nat) : Nat := bitsGet (readArea s pa 0x100 256) (64 * i) 64
  let x := readArea s pa 0 256
  let h := { h with
    x := Vector.ofFn fun i => word (bitsGet x (64 * i.val) 64)
    epc := word (csr 0), status := BitVec.ofNat 8 (csr 1), trapcause := word (csr 2), trapval := word (csr 3)
    trapqpos := BitVec.ofNat 6 (csr 4), frm := BitVec.ofNat 3 (csr 5), waitlim := word (csr 6), scratch := word (csr 7) }
  let h := restoreHeader (readArea s pa 0x600 512) h
  let n := (upTo 64).foldl (fun n r => n + markedGroups h.vdirty (fun i => h.marks.toArray.getD i 0) r) 0
  let h := restoreRest (readArea s pa 0x800 32768) (readArea s pa 0x8800 (1152 * h.conf.lanes))
    (partsOf (readArea s pa 0x11800 (32 * n)) n) h
  restoredQueue cap (readArea s pa 0x200 1024) s.tick h

/-- The engine of an area, as MFIL fills it; an object that MFIL refuses leaves what the engine holds (R182). -/
def readEngine (s : State) (pa : Nat) (k : Core) : Core :=
  engineBlocks.foldl (fun k p =>
    let x := readArea s pa p.1 (objectBytes p.2)
    if fillRefuses p.2 x then k
    else fillObject k p.2 x fun g => s.poison.contains ((pa + p.1) / 32 + g)) k

end Sys2Proof.Machine
end

