-- ==== Sys2Proof/Machine/Region.lean ====
section
/-! DEFINITION. Regions (spec/24): the RCB, its checks and inheritance (R396, R397), the status word (R398), the
harts of a region and where they stand (R399, R402), stopping and resuming a hart (R15, R31, R342), and the
end of a region (R401, R403, R404). -/

namespace Sys2Proof.Machine

def getRegion (s : State) (rcb : Nat) : Region := tgetD s.regions rcb {}
def setRegion (rcb : Nat) (r : Region) (s : State) : State := { s with regions := tset s.regions rcb r }

/-! ## The RCB as a bit string (R396) -/

def rcbBytes (x at0 n : Nat) : Nat := bitsGet x (8 * at0) (8 * n)
def rcbOwn (x j : Nat) : Bool := bitAt x j
def rcbLnr (x : Nat) : Bool := bitAt x 31
def rcbMxown (x : Nat) : Bool := bitAt x 30
def rcbPriv (x : Nat) : Bool := bitAt x 40
def rcbCores (x : Nat) : Nat := rcbBytes x 60 2
def rcbRecord (x : Nat) : Nat := bitsGet x 1024 1024

/-- The fields in force: the child's own where its override bit is set or it is a root, else the parent's
(R397). -/
def childRegion (parent : Option (Nat × Region)) (die x : Nat) : Region :=
  let pick {α : Type} (j : Nat) (own : α) (get : Region → α) : α :=
    match parent with
    | some p => if rcbOwn x j then own else get p.2
    | none => own
  { parent := match parent with | some p => p.1 | none => 0
    root := match parent with | some p => p.2.root | none => 0
    die := die
    priority := pick 0 (bitsGet x 16 4) (·.priority)
    tenant := pick 1 (bitsGet x 24 4) (·.tenant)
    pmode := pick 2 (BitVec.ofNat 2 (bitsGet x 28 2)) (·.pmode)
    mxown := pick 3 (rcbMxown x) (·.mxown)
    domain := pick 4 (rcbBytes x 4 1) (·.domain)
    priv := rcbPriv x
    asid := pick 5 (BitVec.ofNat 16 (rcbBytes x 6 2)) (·.asid)
    ptbase := pick 5 (word (rcbBytes x 8 8)) (·.ptbase)
    entry := word (rcbBytes x 16 8)
    args := word (rcbBytes x 24 8)
    trapvec := pick 6 (word (rcbBytes x 32 8)) (·.trapvec)
    save := pick 11 (rcbBytes x 40 8) (·.save)
    budget := pick 7 (rcbBytes x 48 8) (·.budget)
    quota := pick 8 (rcbBytes x 56 2) (·.quota)
    banks := pick 9 (rcbBytes x 58 1) (·.banks)
    cores := rcbCores x
    quantum := pick 10 (rcbBytes x 62 2) (·.quantum)
    record := if rcbLnr x then some (rcbRecord x) else none }

/-- A malformed RCB (R396, R403), but for the save blocks. -/
def rcbMalformed (x : Nat) (r : Region) : Bool :=
  bitsGet x 12 4 != 0 || bitsGet x 20 4 != 0 || bitsGet x 41 7 != 0 || rcbBytes x 59 1 != 0 ||
  rcbBytes x 96 32 != 0 || (r.ptbase &&& ~~~0xFFFFFFFFF000) != 0 || r.entry.toNat % 4 != 0 || r.save % 256 != 0 ||
  decide (32768 < r.quota) || decide (r.banks < 8) || decide (96 < r.banks) || decide (r.cores < 1) ||
  decide (576 < r.cores) || (r.quantum != 0 && (decide (r.quantum < 100) || decide (60000 < r.quantum))) ||
  (if rcbLnr x then !lnWalkOk (rcbRecord x) else rcbRecord x != 0)

/-- An own field exceeds the parent's (R397). -/
def rcbExceeds (x : Nat) (user : Bool) (p r : Region) : Bool :=
  (rcbOwn x 0 && decide (p.priority < r.priority)) || (rcbOwn x 3 && r.mxown && !p.mxown) ||
  (rcbOwn x 8 && decide (p.quota < r.quota)) || (rcbOwn x 9 && decide (p.banks < r.banks)) ||
  (rcbOwn x 7 && r.budget != 0 && p.budget != 0 && decide (p.budget - p.used < r.budget)) ||
  (user && (rcbPriv x || rcbOwn x 5))

/-- Harts of a region (R399). -/
def regionHarts (r : Region) : Nat := r.cores * hartsPerCore r.pmode

/-- Iterations of a region (R402). -/
def regionIterations (r : Region) : Nat := match r.record with | some x => lnPoints x | none => 0

/-! ## Save blocks (R343, R396) -/

/-- The physical address of a byte under a region's tables, without an access. -/
def peekPa (w : Who) (va : Nat) : Acc (Option Nat) := do
  if !canonical va || touchesWindow va 1 then pure none
  else fun s =>
    match (walkFrom w va .load 4 0 w.root).run s with
    | (.ok (level, pte, _), s) => (.ok (some (pteFrame pte + va % pageSize level)), s)
    | (.error .wait, s) => (.error .wait, s)
    | (.error _, s) => (.ok none, s)

def isDevicePa (pa : Nat) : Bool := windowOf pa == .interleaved || windowOf pa == .stackLocal

/-- The physical address of a save block, when the block is physically contiguous device memory. -/
def saveBlockPa (w : Who) (va : Nat) : Acc (Option Nat) := do
  match ← peekPa w va with
  | none => pure none
  | some pa =>
    if !isDevicePa pa then pure none
    else (pagesOf va saveBytes).foldlM (fun (ok : Option Nat) a =>
      match ok with
      | none => pure none
      | some pa => do
        match ← peekPa w a with
        | some q => pure (if q = pa + (a - va) then some pa else none)
        | none => pure none) (some pa)

/-- The save blocks of all harts, when every one is contiguous. -/
def saveBlocksOf (w : Who) (r : Region) : Acc (Option (List Nat)) :=
  (upTo (regionHarts r)).foldlM (fun (l : Option (List Nat)) h =>
    match l with
    | none => pure none
    | some l => do
      match ← saveBlockPa w ((r.save + saveBytes * h) % 2 ^ 64) with
      | some pa => pure (some (l ++ [pa]))
      | none => pure none) (some [])

/-! ## The status word (R398) -/

def isParked (p : Place) : Bool := match p with | .parked _ => true | _ => false
def isPlaced (p : Place) : Bool := match p with | .placed _ => true | _ => false

def parkedCount (r : Region) : Nat := (r.harts.filter fun l => isParked l.place).length

def statusWord (r : Region) : Nat :=
  (if r.state = 3 then r.cause * 2 ^ 16 else 0) + parkedCount r * 2 ^ 9 + r.lost.toNat * 2 ^ 8 + r.state

/-- Bytes 64 to 95 of the RCB: status, exit, used, parent. -/
def rcbPartBytes (r : Region) : Nat :=
  statusWord r + r.exit.toNat <<< 64 + (r.used % 2 ^ 64) <<< 128 + r.parent <<< 192

/-- The part's bytes of the RCB are written at its home, which has collected the line. -/
def putRcb (rcb : Nat) (s : State) : State :=
  let lu := luOf (rcb + 64)
  let off := rcb + 64 - luBase lu
  let r := getRegion s rcb
  setRegion rcb { r with unwritten := false } (homeWrite lu (rcbPartBytes r <<< (8 * off)) (maskOf off 32) s)

/-- The part writes the RCB with stores at package scope, in the turn of the write at the home: false while it has to
wait. -/
def writeRcb (rcb : Nat) (s : State) : State × Bool :=
  let lu := luOf (rcb + 64)
  let (s, ok) := inTurn lu (.outside .regionComplete [rcb])
    (homeFetchAt lu true (halvesOf (rcb + 64 - luBase lu) 32) (getRegion s rcb).tenant) s
  if ok then (putRcb rcb s, true) else (setRegion rcb { getRegion s rcb with unwritten := true } s, false)

/-- A changed region: its status word is written, now or once its line can be collected. -/
def updateRegion (rcb : Nat) (r : Region) (s : State) : State := (writeRcb rcb (setRegion rcb r s)).1

/-- The final state of a root has been written: the firmware of its die is notified (R403). DESIGN CHOICE (log 41): the
notice is a count in the die that the write of LDONE answers, since the spec gives it no cause and no register. -/
def notifyEnd (rcb : Nat) (s : State) : State :=
  let r := getRegion s rcb
  if r.parent = 0 ∧ 2 ≤ r.state ∧ r.state ≤ 4 ∧ !r.unwritten then
    let k := getDie s r.die
    setDie r.die { k with notices := k.notices + 1 } s
  else s

/-- A write of the status word that had to wait is tried again. -/
def flushRegion (rcb : Nat) (s : State) : State :=
  if (getRegion s rcb).unwritten then notifyEnd rcb (writeRcb rcb s).1 else s

/-! ## Another hart's turn -/

/-- Run an operation on the turn's hart as another hart. -/
def asHart (n : Nat) (f : State → State) (s : State) : State :=
  let c := s.cur
  switchTo c (f (switchTo n s))

/-- A hart accepts a stop (R343). -/
def acceptsStop (h : Hart) : Bool := ieBit h || (!isSuper h && !hndBit h)

/-- A pass stands where its instruction may stop: at an element group, and with nothing performed that `vstart` does
not tell (R182, R263, R342). -/
def passStops (p : Pass) : Bool := p.done == 0 && p.faults.isEmpty && !p.mid && p.entry == 0 && p.got.isEmpty

/-- A hart is where a stop or an interrupt can be taken (R342, R368): its instruction or each member of its convoy at
an element group, and no atomic of its on the way. -/
def atBoundary (s : State) (n : Nat) : Bool :=
  let h := getHart s n
  passStops h.pass && h.memberPass.all (fun p => passStops p.2) &&
    !s.remotes.any fun r => r.hart == n && r.kind == 2

/-- A hart is where a stop can be taken, with what a fence of kind 3 waits for: its discards have reached their homes
(R324, R329). -/
def mayStop (s : State) (n : Nat) : Bool := atBoundary s n && !s.discards.any fun p => p.2 == n

/-- The poison that the instructions of a hart that stops have met so far is delivered (R264). -/
def deliverStop (s : State) : State :=
  let c := s.h.headConf
  s.h.memberPass.foldl (fun s p => deliverPass c (confW c) { s with h := { s.h with pass := p.2 } })
    (deliverPass c (confW c) s)

def getLogical (r : Region) (lh : Nat) : Logical := r.harts.getD lh {}
def setLogical (lh : Nat) (l : Logical) (r : Region) : Region := { r with harts := r.harts.set lh l }

/-- A logical hart has a copy command that is not complete: the core of its channel (R379). -/
def copyCore (s : State) (rcb lh : Nat) : Option Nat :=
  (s.cores.find? fun p => p.2.channels.toList.any fun ch => ch.queue.any fun q => q.region == some (rcb, lh)).map
    fun p => p.1

/-! ## In-place FIFOs of harts that leave their slot (R360) -/

/-- The commands still in a hart's FIFO are handed to the base-die units. -/
def handOff (n : Nat) (ended : Bool) (s : State) : State :=
  let h := getHart s n
  let mine (q : IpCmd) : Bool := q.hart == n && !q.orphan &&
    (match h.logical with | some p => q.region == some p.1 && q.lh == some p.2 | none => q.region.isNone)
  let s := { s with ipRunning := s.ipRunning ++ h.ipFifo }
  let s := setHart n { getHart s n with ipFifo := [] } s
  if ended then { s with ipRunning := s.ipRunning.map fun q => if mine q then { q with orphan := true } else q } else s

/-! ## Stopping a hart (R31, R342) -/

/-- A slot without a hart: its registers keep what they hold (R111), and nothing is under way in it. -/
def idleHart (h : Hart) : Hart :=
  { h with
    run := .idle, logical := none, queue := [], arrived := [], performing := none, frozen := false, readback := []
    loadData := Vector.replicate 2 [], loadFirst := 0, ipFifo := [], remoteWrites := 0, irqs := [], preempt := false
    waitT0 := none, waitOn := none, stalled := false, full := false, wfaWait := false, replay := false, pass := {}
    front := 16384, memberPass := [], lastUse := [], owesTrap := none, arrayTrap := none }

/-- The owner of discards whose hart has left its slot n: no hart. -/
def formerHart (n : Nat) : Nat := 2 ^ 20 + n

/-- The hart's slot becomes idle, and the engine it owns has no owner. -/
def vacate (n : Nat) (s : State) : State :=
  let c := coreOfHart n
  let k := getCore s c
  let s := if k.owner = some (n % 8) then setCore c { k with owner := none } s else s
  let s := leaveHomes n { s with
    discards := s.discards.map fun p => if p.2 = n then (p.1, formerHart n) else p
    l1 := s.l1.map fun p => if p.2.asker = some n then (p.1, { p.2 with asker := none }) else p }
  setHart n (idleHart (getHart s n)) s

/-- The context of a hart that stops, as the scheduler entry leaves it (R343). -/
def stoppedContext (n : Nat) (s : State) : Hart :=
  if schedBit (getHart s n) then getHart s n else getHart (asHart n schedulerEntry s) n

/-- What a hart that has entered the scheduler gains until it leaves its slot, in its saved context: in-place counters,
and interrupts, which stay pending (R368). -/
def laterEvents (h ctx : Hart) : Hart :=
  { ctx with ipFifo := [], ipNext := h.ipNext, ipMark := h.ipMark, ipErrors := h.ipErrors, irqs := h.irqs
             remoteWrites := h.remoteWrites }

/-- A hart leaves its slot with its context written into its save area (R30, R31); it then stands at the place
given. -/
def saveHart (n : Nat) (place : Place) (s : State) : State :=
  match (getHart s n).logical with
  | none => s
  | some (rcb, lh) =>
    let s := handOff n false (asHart n (fun s => dropLoads (deliverStop s)) s)
    let r := getRegion s rcb
    let l := getLogical r lh
    let ctx := match schedBit (getHart s n), l.ctx with
      | true, some h => laterEvents (getHart s n) h
      | _, _ => stoppedContext n s
    let k := getCore s (coreOfHart n)
    let eng := if k.owner = some (n % 8) then some (coreEngine k) else l.engine
    let s := writeArea (r.saveBlocks.getD lh 0) r.tenant ctx eng s
    vacate n (setRegion rcb
      (setLogical lh { l with place := place, ctx := some { ctx with preempt := false }, engine := eng, core := coreOfHart n } r) s)

/-! ## Starting and resuming a hart -/

/-- A configuration under fewer lanes (R17, R219). -/
def clampConf (lanes : Nat) (c : VConf) : VConf :=
  if lanes < c.lanes then
    let vl := min c.vl (vlmaxOf lanes (bitsGet c.vcfg.toNat 0 2) (confFmt c))
    { c with lanes := lanes, vl := vl, vlpad := min c.vlpad vl }
  else c

/-- A restored context under the lanes the slot has (R113, R164, R219). -/
def clampLanes (lanes : Nat) (h : Hart) : Hart :=
  if lanes < h.conf.lanes then
    let cap := regBits { h.conf with lanes := lanes }
    { h with
      conf := clampConf lanes h.conf
      headConf := if h.queue.isEmpty then clampConf lanes h.conf else h.headConf
      v := h.v.map (· % 2 ^ cap)
      marks := h.marks.map fun x => min x cap
      g := h.g.map (· % 2 ^ (1152 * lanes)) }
  else h

/-- The hart as ERET releases it (R213, R370). -/
def resumed (h : Hart) : Hart :=
  let h' := trapReturn h
  { h' with replay := partialBit h, run := .running }

/-- The trap CSRs and the status of a hart, and whether its queue is frozen. -/
def trapRegs (h : Hart) : TrapRegs :=
  { epc := h.epc, trapcause := h.trapcause, trapval := h.trapval, trapqpos := h.trapqpos, status := h.status
    frozen := h.frozen }

/-- A hart that RYIELD took from its slot goes on where it stood, with the trap CSRs it had (R403). -/
def goesOn (k : Option TrapRegs) (h : Hart) : Hart :=
  match k with
  | none => h
  | some k =>
    { h with epc := k.epc, trapcause := k.trapcause, trapval := k.trapval, trapqpos := k.trapqpos, status := k.status
             frozen := k.frozen, replay := false }

/-- s4 to s9 of an iteration (R402). -/
def indexRegs (r : Region) (iter : Nat) (x : Vector Word 32) : Vector Word 32 :=
  match r.record with
  | none => x
  | some q => (upTo (lnDims q)).foldl (fun x j => x.setIfInBounds (4 + j) (word (lnIndex q iter j))) x

/-- A hart at region entry (R24, R206). -/
def entryHart (rcb lh lanes : Nat) (r : Region) (iter : Nat) : Hart :=
  let x := (((Vector.replicate 32 (0 : Word)).set 10 r.args).set 11 (word lh)).set 12 (word (regionHarts r))
  { run := .running, logical := some (rcb, lh)
    x := indexRegs r iter x
    pc := r.entry
    status := mkStatus false r.priv false false false false false r.priv
    trapvec := r.trapvec &&& ~~~3
    asid := r.asid, ptbase := r.ptbase
    conf := { lanes := lanes }, headConf := { lanes := lanes }
    saveBlock := r.saveBlocks.getD lh 0 }

/-- A logical hart takes a slot: for the first time, or where it stopped, with what its save area holds; an owner's
engine is refilled from there (R15, R183, R342). Region entry and resumption are acquires (R321, R324). -/
def placeHart (rcb lh n : Nat) (s : State) : State :=
  let r := getRegion s rcb
  let l := getLogical r lh
  let c := coreOfHart n
  let lanes := lanesOf s n
  let pa := r.saveBlocks.getD lh 0
  let s := if l.ctx.isSome then collectArea pa r.tenant s else s
  let h := match l.ctx with
    | none => entryHart rcb lh lanes r l.iter
    | some h => goesOn l.kept (resumed (clampLanes lanes (readHart s (slotCap s n) pa h)))
  let s := { s with tick := s.tick + h.arrived.length }
  let k := getCore s c
  let k := if l.owner then
      { (if l.engine.isSome then readEngine s pa k else k) with owner := some (n % 8) } else k
  setHart n h (setCore c k
    (setRegion rcb (setLogical lh { l with place := .placed n, ctx := none, engine := none, moved := false, kept := none } r)
      (acquire c s)))

/-- A slot of a core that can take a hart: idle, with working lanes (R12). -/
def slotFree (s : State) (n : Nat) : Bool := (getHart s n).run == .idle && !(workingGroups s n).isEmpty

/-- A logical hart may stand on core c (R15, R379). -/
def mayStand (s : State) (rcb lh c : Nat) : Bool :=
  let l := getLogical (getRegion s rcb) lh
  (!l.owner || (getCore s c).owner.isNone) &&
  match copyCore s rcb lh with
  | some x => x == c
  | none => true

/-- The lowest-numbered logical hart that waits for a slot and may stand on core c. -/
def nextWaiting (s : State) (rcb c : Nat) : Option Nat :=
  let r := getRegion s rcb
  (upTo r.harts.length).find? fun lh => (getLogical r lh).place == .waiting && mayStand s rcb lh c

/-! ## The end of a region (R401, R403, R404) -/

/-- The regions below one in the tree, itself among them: one that names it through its parents. -/
def isBelow (s : State) (top : Nat) : (fuel rcb : Nat) → Bool
  | 0, _ => false
  | n + 1, rcb => rcb == top || (rcb != 0 && (tget s.regions rcb).isSome && isBelow s top n (getRegion s rcb).parent)

def treeOf (s : State) (top : Nat) : List Nat :=
  (s.regions.map fun p => p.1).filter fun x => isBelow s top (s.regions.length + 1) x

def rootOf (s : State) : (fuel rcb : Nat) → Nat
  | 0, rcb => rcb
  | n + 1, rcb =>
    let p := (getRegion s rcb).parent
    if p = 0 ∨ (tget s.regions p).isNone then rcb else rootOf s n p

/-- A hart has exited, or counts as exited: it is free, or has halted (R369, R402). -/
def hasExited (l : Logical) : Bool := l.place == .free || l.place == .halted

/-- No iteration remains, every hart has exited: the region begins to end (R403). -/
def checkExited (rcb : Nat) (s : State) : State :=
  let r := getRegion s rcb
  if r.state = 1 ∧ regionIterations r ≤ r.nextIter ∧ r.harts.all hasExited then
    updateRegion rcb { r with state := 5, final := 2 } s
  else s

/-- A hart of an ending region stops and counts as exited, or is asked to; one that is parked stays so, with its
context in its save area (R30, R401, R404). -/
def endHart (rcb lh : Nat) (s : State) : State :=
  let r := getRegion s rcb
  let l := getLogical r lh
  match l.place with
  | .placed n =>
    if (acceptsStop (getHart s n) && mayStop s n) || schedBit (getHart s n) || (getHart s n).run == .halted then
      saveHart n .free s
    else setHart n { getHart s n with preempt := true } s
  | .free => s
  | .halted => s
  | .parked _ => s
  | .waiting => setRegion rcb (setLogical lh { l with place := .free } r) s

/-- A region ends faulted or by budget: state 5, its harts stop (R401, R403). -/
def endRegion (rcb final cause : Nat) (s : State) : State :=
  let r := getRegion s rcb
  if r.state = 1 ∨ (r.state = 5 ∧ r.final = 2) then
    let s := setRegion rcb { r with state := 5, final := final, cause := cause } s
    let s := (upTo r.harts.length).foldl (fun s lh => endHart rcb lh s) s
    updateRegion rcb (getRegion s rcb) s
  else s

/-- The regions that end with a faulted one: those of its domain in the root tree, and all below them (R404). -/
def domainOf (s : State) (rcb : Nat) : List Nat :=
  let d := (getRegion s rcb).domain
  let root := rootOf s (s.regions.length + 1) rcb
  let tops := if d = 0 then [rcb] else
    rcb :: (treeOf s root).filter fun x => (getRegion s x).domain == d
  (tops.flatMap fun t => treeOf s t).eraseDups

/-- A region ends faulted, with its domain (R404). -/
def faultRegion (rcb cause : Nat) (s : State) : State :=
  (domainOf s rcb).foldl (fun s x => endRegion x 3 cause s) s

/-- Writes and invalidations still on their way that a hart sent before it ended count for no hart. -/
def forgetWrites (n : Nat) (s : State) : State :=
  let l := (getHart s n).logical
  let mine := invsOf s n
  let s := { s with tlbInvs := s.tlbInvs.map fun t => if mine.contains t then { t with logical := some (0, 0) } else t }
  if l.isNone then s
  else { s with remotes := s.remotes.map fun r => if r.owner = l then { r with owner := some (0, 0) } else r }

/-- A logical hart has executed REXIT: its slot is idle and it is free (R402). -/
def exitHart (n : Nat) (code : Word) (s : State) : State :=
  let s := forgetWrites n (handOff n true s)
  match (getHart s n).logical with
  | none => vacate n s
  | some (rcb, lh) =>
    let r := getRegion s rcb
    let l := getLogical r lh
    let r := if lh = 0 ∧ !(r.state = 5 ∧ r.final = 3) then { r with exit := code } else r
    checkExited rcb (vacate n (setRegion rcb (setLogical lh { l with place := .free, ctx := none } r) s))

end Sys2Proof.Machine
end

