-- ==== Sys2Proof/Machine/Ctx.lean ====
section
/-! DEFINITION. The context instructions VSAVE, VREST, VQSAVE and VQREST and their save area (R216 to R219,
R332, R344). -/

namespace Sys2Proof.Machine

/-! ## Blocks of the save area -/

/-- The parts of a list, numbered from k. -/
def numbered {α : Type} : (k : Nat) → List α → List (Nat × α)
  | _, [] => []
  | k, x :: l => (k, x) :: numbered (k + 1) l

/-- Move the numbered parts that have not moved yet; a bit of `pass.done` stands for each part moved, and nothing stops
the instruction once one has (R182, R216). -/
def moveParts {α : Type} (move : Nat → α → Acc Unit) : List (Nat × α) → State → State × Option Stop
  | [], s => (s, none)
  | (i, x) :: l, s =>
    if bitAt s.h.pass.done i then moveParts move l s
    else match runAcc (move i x) s with
      | (.error e, s) => (s, some e)
      | (.ok _, s) => moveParts move l (partDone .byBits { first := i } s)

/-- A part written under a configuration: address and bits. -/
def writePart (c : VConf) (_ : Nat) (x : Nat × Nat) : Acc Unit :=
  ticketed c 1 true do writeMem (blockWho (← get)) (x.1 % 2 ^ 64) 32 x.2

/-- A part read under a configuration, kept with the pass. -/
def readPart (c : VConf) (i va : Nat) : Acc Unit :=
  ticketed c 1 true do
    let r ← readMem (blockWho (← get)) (va % 2 ^ 64) 32 0 (i + 1) .load
    modify (partRead r)

/-- The parts of a block at an address. -/
def blockParts (va : Nat) (l : List Nat) : List (Nat × Nat) := (numbered 0 l).map fun p => (va + 32 * p.1, p.2)
def blockAddrs (va n : Nat) : List Nat := (upTo n).map fun i => va + 32 * i

/-- The whole of a block is checked before its first part moves. -/
def blockChecked (va n : Nat) (kind : Kind) (s : State) : State × Option Stop :=
  if blockBegun s.h.pass then (s, none)
  else match runAcc (spillCheck va n kind) s with
    | (.error e, s) => (s, some e)
    | (.ok l, s) => (beginBlock l s, none)

/-- The bits read so far, a poisoned part as zeros. -/
def gotParts (s : State) : List Nat := s.h.pass.got.map (· % 2 ^ 256)

def endPassOf (s : State) : State := { s with h := { s.h with pass := {} } }

/-- A fault of a context instruction: one record, then the trap (R182, R216); the spec gives its element no
value. -/
def blockFault (access cause va : Nat) (s : State) : Result :=
  if queueBusy s.h then stall s
  else
    let s := endPassOf s
    let e := (Config.trapvalOpen s.tick).toNat
    scalarTrap cause (word va)
      (postFault (curCore s) (faultWord0 (currentWho s).asid access 32 (s.cur % 8) 0 cause) e va (tickUp s))

/-- Privilege and alignment, which the four instructions share (R216). -/
def ctxOp (i : Instr) (f : VF) (k : Nat → State → Result) (s : State) : Result :=
  if !isSuper s.h then scalarTrap 0x05 (parcelsOf i) s
  else whenReady [sregOf f.a] s <|
    let base := readS s (sregOf f.a)
    if base.toNat % 256 ≠ 0 then scalarTrap 0x04 base s else k base.toNat s

/-- Cause 0x04 for a queue that is not as the instruction needs it: the spec names no `trapval`. DESIGN CHOICE (log 59):
the trap is taken once the head stands at a boundary, so that a pass with faults has posted its records (R418), and
entries that still run stand frozen with it. -/
def queueFault (s : State) : Result :=
  if !atBoundary s s.cur then stall s
  else .next (takeTrap false 0x04 (Config.trapvalOpen s.tick) s.h.pc 32 (tickUp (deliverStop s)))

/-- The context instruction is done: the next instruction follows its two parcels. -/
def ctxDone (s : State) : State := dropReplies s.cur (continueAt (s.h.pc + 8) s)

/-- What ends the reads of a block: their acquire under `mo` ≠ 0 (R321), and what poison leaves (R264). -/
def ctxRead (c : VConf) (va : Nat) (gs : List Nat) (s : State) : State :=
  let s := if confMo c = 0 then s else acquireAt (confScope c) (curCore s) s
  if gs.isEmpty then s
  else
    let s := deliverPoison gs none none s
    if s.h.errctl.getLsbD 2 then takeTrap false 0x20 (word va) s.h.pc 32 s else s

/-! ## VSAVE and VREST (R217, R219) -/

/-- A block of stores at an address: it moves whole or not at all (R216), as a release under `mo` ≠ 0. -/
def ctxStore (va n : Nat) (parts : List (Nat × Nat)) (fin : State → State) (s : State) : Result :=
  let c := s.h.conf
  if confMo c ≠ 0 && !releaseNow c s then stall s
  else match blockChecked va n .store s with
    | (s, some .wait) => stall s
    | (s, some (.fault cause va)) => blockFault accWrite cause va s
    | (s, none) =>
      match moveParts (writePart c) (numbered 0 parts) s with
      | (s, some .wait) => stall s
      | (s, some (.fault cause va)) => blockFault accWrite cause va s
      | (s, none) => .next (fin (ctxDone (endPassOf s)))

/-- What VSAVE writes: addresses and parts. -/
def savedParts (base : Nat) (h : Hart) : List (Nat × Nat) :=
  blockParts (base + 0x600) (partsOf (saveHeader h) 16) ++ blockParts (base + 0x800) (partsOf (saveMasks h) 1024) ++
  blockParts (base + 0x8800) (partsOf (saveLanes h) (36 * h.conf.lanes)) ++
  blockParts (base + 0x11800) (saveVectors h)

/-- VSAVE (R216 to R219). DESIGN CHOICE (log 59): every page of the block is translated, those too that no saved byte
lies in, since the rule speaks of the whole block. -/
def execVsave (f : VF) (s : State) : Result :=
  ctxOp (.vsave f) f (fun base s =>
    if !s.h.queue.isEmpty then queueFault s
    else ctxStore (base + 0x600) 0x31200 (savedParts base s.h) (fun s => s) s) s

/-- The rest of what VREST reads, once the header is known: masks, lanes, and the vectors that were saved. -/
def restAddrs (base : Nat) (h : Hart) : List Nat :=
  let n := (upTo 64).foldl (fun n r => n + markedGroups h.vdirty (fun i => h.marks.toArray.getD i 0) r) 0
  blockAddrs (base + 0x800) 1024 ++ blockAddrs (base + 0x8800) (36 * h.conf.lanes) ++ blockAddrs (base + 0x11800) n

/-- A hart with the context that parts read hold: header, masks, lanes, vectors. -/
def restoredHart (got : List Nat) (h : Hart) : Hart :=
  let h := restoreHeader (packList 256 (got.take 16)) h
  let n := 1024 + 36 * h.conf.lanes
  restoreRest (packList 256 ((got.drop 16).take 1024)) (packList 256 ((got.drop 1040).take (36 * h.conf.lanes)))
    (got.drop (16 + n)) h

/-- What VREST reads: the header first, which says what follows. -/
def restoreReads (c : VConf) (base : Nat) (s : State) : State × Option Stop :=
  match moveParts (readPart c) (numbered 0 (blockAddrs (base + 0x600) 16)) s with
  | (s, some e) => (s, some e)
  | (s, none) =>
    let h := restoreHeader (packList 256 ((gotParts s).take 16)) s.h
    moveParts (readPart c) (numbered 16 (restAddrs base h)) s

/-- The restored context under the lanes the hart has now (R219). -/
def restoredUnder (lanes : Nat) (h : Hart) : Hart :=
  let h := clampLanes lanes h
  { h with headConf := h.conf }

/-- A block of loads at an address: what follows once all of it is read. -/
def ctxLoad (va n : Nat) (reads : State → State × Option Stop) (fin : List Nat → State → Result) (s : State) : Result :=
  match blockChecked va n .load s with
  | (s, some .wait) => stall s
  | (s, some (.fault cause va)) => blockFault accRead cause va s
  | (s, none) =>
    match reads s with
    | (s, some .wait) => stall s
    | (s, some (.fault cause va)) => blockFault accRead cause va s
    | (s, none) => fin (gotParts s) s

/-- VREST (R216 to R219), whose whole block is translated as VSAVE's is (log 59). -/
def execVrest (f : VF) (s : State) : Result :=
  ctxOp (.vrest f) f (fun base s =>
    if !s.h.queue.isEmpty then queueFault s
    else ctxLoad (base + 0x600) 0x31200 (restoreReads s.h.conf base) (fun got s =>
      .next (ctxRead s.h.conf base s.h.pass.pois (ctxDone
        (endPassOf { s with h := restoredUnder (lanesOf s s.cur) (restoredHart got s.h) })))) s) s

/-! ## The queue image (R332, R344) -/

/-- The queue becomes empty; what is committed next captures the configuration as it stands (R18). -/
def emptyQueue (h : Hart) : Hart :=
  { h with queue := [], arrived := [], frozen := false, headConf := h.conf, loadFirst := 0 }

def execVqsave (f : VF) (s : State) : Result :=
  ctxOp (.vqsave f) f (fun base s =>
    if queueBusy s.h then stall s
    else ctxStore (base + 0x200) 1024 (blockParts (base + 0x200) (partsOf (queueImage s.h) 32))
      (fun s => { s with h := emptyQueue s.h }) s) s

/-- The restored queue, which waits until ERET. -/
def restoreQueue (head : Nat) (c : VConf) (l : List Entry) (s : State) : State :=
  { s with
    tick := s.tick + l.length
    h := { s.h with
      queue := l, arrived := numbersFrom s.tick l.length, qhead := head, headConf := c, frozen := !l.isEmpty
      loadFirst := 0 } }

def execVqrest (f : VF) (s : State) : Result :=
  ctxOp (.vqrest f) f (fun base s =>
    if s.h.frozen then queueFault s
    else if !s.h.queue.isEmpty then stall s
    else ctxLoad (base + 0x200) 1024
      (fun s => moveParts (readPart s.h.conf) (numbered 0 (blockAddrs (base + 0x200) 32)) s) (fun got s =>
        let gs := s.h.pass.pois
        let s := endPassOf s
        match readImage (slotCap s s.cur) (packList 256 got) with
        | none => queueFault (dropReplies s.cur (deliverPoison gs none none s))
        | some (head, c, l) => .next (ctxRead s.h.conf base gs (ctxDone (restoreQueue head c l s)))) s) s

end Sys2Proof.Machine
end

