-- ==== Sys2Proof/Machine/Engine.lean ====
section
/-! DEFINITION. CPGO, IPGO, EPUSH and EPOP (R276, R346 to R352). -/

namespace Sys2Proof.Machine

/-- The record of a push is read through the live image: 32-byte parts from an address (R276, R352). -/
def readRecord (va parts : Nat) : Acc Rd := do
  let w := currentWho (← get)
  (upTo parts).foldlM (fun (a : Rd) i => do
    let r ← readMem w ((va + 32 * i) % 2 ^ 64) 32 0 0 .load
    pure { val := a.val + r.val <<< (256 * i), pois := a.pois ++ r.pois }) { val := 0 }

/-- A push that reads a record at s[a]: alignment, FIFO-mode banks, the release, the record; poison traps with
0x20 and nothing is queued (R276, R351). -/
def recordPush (d a b : SReg) (align : Nat) (read : Nat → Acc Rd) (bad : State → Nat → Option Nat)
    (k : Nat → State → Result) (s : State) : Result :=
  let va := (readS s a).toNat
  whenReady [d, a, b] s <|
    match bad s va with
    | some x => scalarTrap 0x04 (word x) s
    | none =>
      if va % align ≠ 0 then scalarTrap 0x04 (word va) s
      else if fifoBankAt s va then scalarTrap 0x0C (word va) s
      else if !released 3 s then stall s
      else match runAcc (read va) s with
        | (.error .wait, s) => stall s
        | (.error (.fault cause fa), s) => scalarTrap cause (word fa) s
        | (.ok r, s) =>
          if r.pois.isEmpty then k r.val s
          else if queueBusy s.h then stall s
          else scalarTrap 0x20 (word va) (deliverPoison r.pois none none (dropReplies s.cur s))

/-- A push is done and gives its ID. -/
def pushDone (d : SReg) (id : Nat) (s : State) : Result :=
  .next (advance (writeS d (word id) (dropReplies s.cur s)))

/-! ## CPGO (R351, R352) -/

/-- The command that CPGO queues. -/
def newCommand (record id : Nat) (s : State) : CopyCmd :=
  let w := currentWho s
  { id := id, record := record, hart := s.cur, asid := w.asid, root := w.root, priv := w.priv
    region := s.h.logical, seq := s.tick }

def execCpgo (d a b : SReg) (s : State) : Result :=
  let ch := (readS s b).toNat
  let c := curCore s
  recordPush d a b 128 (fun va => readRecord va 4) (fun _ _ => if 3 < ch then some ch else none)
    (fun record s =>
      if !lnCopyOk record then scalarTrap 0x04 (readS s a) s
      else
        let k := getChannel s c ch
        if 9 ≤ k.queue.length || tableFull s c (min 1 (lnWindow record).length) then stall s
        else
          let id := (k.nextId + 1) % 2 ^ 48
          pushDone d id (tickUp (setChannel c ch
            { k with nextId := id, queue := k.queue ++ [newCommand record id s] } s))) s

/-! ## IPGO (R276, R277) -/

/-- The bytes of row words that follow a header: for the GATHER ops, up to 256 rows. -/
def rowBytesOf (header : Nat) : Nat :=
  let op := bitsGet header 0 8
  if 1 ≤ op ∧ op ≤ 3 then (min (bitsGet header 16 9) 256 + 1) / 2 * 8 else 0

/-- The header and the row words that follow it. -/
def readInPlace (va : Nat) : Acc Rd := do
  let h ← readRecord va 1
  if !h.pois.isEmpty then pure h
  else do
    let w := currentWho (← get)
    (upTo (rowBytesOf h.val / 8)).foldlM (fun (x : Rd) i => do
      refuseFifo ((va + 32 + 8 * i) % 2 ^ 64)
      let r ← readMem w ((va + 32 + 8 * i) % 2 ^ 64) 8 0 0 .load
      pure { val := x.val + r.val <<< (256 + 64 * i), pois := x.pois ++ r.pois }) h

/-- Records of the turn's hart that no base-die unit has taken, those handed over at a stop of it among them (R345,
R360). -/
def waitingRecords (s : State) : Nat :=
  let mine (q : IpCmd) : Bool :=
    match s.h.logical with
    | some p => q.region == some p.1 && q.lh == some p.2
    | none => q.region.isNone && q.hart == s.cur
  s.h.ipFifo.length + (s.ipRunning.filter fun q => !q.begun && !q.orphan && mine q).length

def execIpgo (d a : SReg) (s : State) : Result :=
  recordPush d a 0 32 readInPlace (fun _ _ => none)
    (fun record s =>
      if 16 ≤ waitingRecords s then stall s
      else
        let id := (s.h.ipNext + 1) % 2 ^ 64
        let cmd : IpCmd := { id := id, record := record, hart := s.cur, asid := (currentWho s).asid
                             region := s.h.logical.map (fun p => p.1), lh := s.h.logical.map fun p => p.2
                             num := s.tick }
        pushDone d id { tickUp s with h := { s.h with ipNext := id, ipFifo := s.h.ipFifo ++ [cmd] } }) s

/-! ## EPUSH and EPOP (R347 to R349) -/

/-- The bank a FIFO id names, or the cause with which it traps. -/
def fifoIdBad (s : State) (id : Nat) : Nat :=
  if 95 < id then 0x04
  else if (getCore s (curCore s)).banks.getD id .cache ≠ .fifo then 0x0C
  else 0

def execEpush (a b : SReg) (s : State) : Result :=
  let id := (readS s a).toNat
  whenReady [a, b] s <|
    if id = 112 ∨ id = 113 then scalarTrap (if isSuper s.h then 0x0B else 0x05) (word id) s
    else if fifoIdBad s id ≠ 0 then scalarTrap (fifoIdBad s id) (word id) s
    else if isOusted s (currentWho s) (2 * id + 1) then scalarTrap 0x0C (word id) s
    else if !released 3 s then stall s
    else match runAcc (fifoPush (curCore s) id s.cur 1 (readS s b).toNat) s with
      | (.ok _, s) => .next (advance s)
      | (.error _, s) => stall s

/-- The next word of a record queue: the word, the queue and the cursor after it; the fourth removes the
record (R366). -/
def popRecordWord (l : List Rec4) (cursor : Nat) : Word × List Rec4 × Nat :=
  match l with
  | [] => (0, [], cursor)
  | r :: rest => (recWord r cursor, if cursor = 3 then rest else l, (cursor + 1) % 4)

/-- A handler in user mode sees only records of its own ASID (R349). -/
def hiddenHead (s : State) (l : List Rec4) : Bool :=
  match l with
  | [] => false
  | r :: _ => !isSuper s.h && bitsGet r.w0 32 16 != s.h.asid.toNat

/-- EPOP of FIFO 112. -/
def popFault (s : State) : Word × State :=
  let c := curCore s
  let k := getCore s c
  if hiddenHead s k.faults then (0, s)
  else
    let (x, l, cur) := popRecordWord k.faults k.faultCursor
    (x, setCore c { k with faults := l, faultCursor := cur } s)

/-- EPOP of FIFO 113: empty while the host owns the queue (R227). -/
def popError (s : State) : Word × State :=
  let d := curDie s
  let k := getDie s d
  if k.errOwn then (0, s)
  else
    let (x, l, cur) := popRecordWord k.errs k.errCursor
    (x, setDie d { k with errs := l, errCursor := cur } s)

def execEpop (d a : SReg) (s : State) : Result :=
  let id := (readS s a).toNat
  whenReady [d, a] s <|
    if id = 112 ∨ id = 113 then
      if !isSuper s.h && !(id == 112 && hndBit s.h) then scalarTrap 0x05 (word id) s
      else
        let (x, s) := if id = 112 then popFault s else popError s
        .next (advance (writeS d x s))
    else if fifoIdBad s id ≠ 0 then scalarTrap (fifoIdBad s id) (word id) s
    else if isOusted s (currentWho s) (2 * id) then scalarTrap 0x0C (word id) s
    else if queueBlocks s (windowBase + 8192 * id) 8 true then stall s
    else match runAcc (fifoPop (curCore s) id s.cur 1) s with
      | (.ok x, s) => .next (advance (writeS d (word x) s))
      | (.error _, s) => stall s

end Sys2Proof.Machine
end

