-- ==== Sys2Proof/Machine/EvCoh.lean ====
section
/-! DEFINITION. The steps of coherence that no instruction makes: requests, recalls, merges, renewals and expiry
inside a die (R286 to R299), and the messages between dies and the home (R304 to R311). A step whose request or
message is not there, or whose condition does not hold, changes nothing. -/

namespace Sys2Proof.Machine

/-! ## Inside a die -/

/-- The core has a copy of the unit, or a request for one in flight. -/
def hasCopy (s : State) (c lu : Nat) : Bool := (tget s.l1 (copyKey c lu)).isSome

/-- A request of core c about a unit of which it has a copy reaches the die slice: while other requests wait there it
does not overtake them, and those are served in order (R291). -/
def reachSlice (c lu : Nat) (ask : State → State × Bool) (s : State) : State :=
  if (getLine s (coreDie c) lu).queue.isEmpty then
    if hasCopy s c lu then (keepPlace c lu ask s).1 else s
  else serveSlice (coreDie c) lu s

/-- FILL_REQUEST: a fill or renewal request reaches the die slice (R286). -/
def execFillRequest (s : State) : Result :=
  .next (reachSlice (arg s 0) (arg s 1) (fillRequest (arg s 0) (arg s 1)) s)

/-- GETW: a request for a write lease reaches the die slice (R287). -/
def execGetw (s : State) : Result :=
  .next (reachSlice (arg s 0) (arg s 1) (getWrite (arg s 0) (arg s 1)) s)

/-- RECALL: the write lease of a line is recalled (R288). -/
def execRecall (s : State) : Result := .next (recallLine (arg s 0) (arg s 1) s)

/-- DIE_GETU: a request for update-only permission reaches the die slice (R291); host memory keeps no partials
(R261), and ADD.BF16 needs its second way (R296). -/
def execDieGetu (s : State) : Result :=
  let c := arg s 0
  let lu := arg s 1
  let tag := arg s 2
  .next (if !isHostLu lu && decide (1 ≤ tag) && decide (tag ≤ 11) && (tag != 4 || (getCopy s c lu).way2.isSome)
    then reachSlice c lu (getUpdate c lu tag) s else s)

/-- The partials of a die's cores are merged at its slice (R297, R298): into the base on the home die, into the
die partial elsewhere (R309). -/
def mergeDie (d lu : Nat) (s : State) : State :=
  let l := getLine s d lu
  if l.st ≠ .u then s
  else
    let (ps, s) := takePartials d lu s
    let n := updCount l.tag (luSize lu)
    let p := treePartial l.tag n ps
    let l := getLine s d lu
    combineEvicted d lu p (setLine d lu { l with holder := .u [] } s)

/-- MERGE_REQUEST: the slice asks its U holders for their partials (R297). -/
def execMergeRequest (s : State) : Result := .next (mergeDie (arg s 0) (arg s 1) s)

/-- U_COPY_EVICTION: a core evicts a U copy (R299). -/
def execUCopyEviction (s : State) : Result :=
  let c := arg s 0
  let lu := arg s 1
  .next (if (getCopy s c lu).st = .u then evictCopy c lu s else s)

/-- Cycles since the holder's count of a copy began (R292). -/
def leaseAge (s : State) (c : Nat) (k : L1Copy) : Nat := leaseCycles k.granted (timerOf s (coreDie c))

/-- A copy that carries an expiry count. -/
def isLeased (k : L1Copy) : Bool := k.st == .s || k.st == .w || k.st == .u

/-- Half a window has passed for the copy. -/
def renewalDue (s : State) (c : Nat) (k : L1Copy) : Bool := isLeased k && decide (k.window ≤ 2 * leaseAge s c k)

/-- Seven eighths of a window have passed for the copy. -/
def holderDue (s : State) (c : Nat) (k : L1Copy) : Bool := isLeased k && decide (7 * k.window ≤ 8 * leaseAge s c k)

/-- LEASE_RENEWAL: the renewal at half a window (R292). -/
def execLeaseRenewal (s : State) : Result :=
  let c := arg s 0
  let lu := arg s 1
  .next (if renewalDue s c (getCopy s c lu) then renewLease c lu s else s)

/-- LEASE_HOLDER_TIMEOUT: a holder without a reply by seven eighths of the window drops its copy (R292). -/
def execLeaseHolderTimeout (s : State) : Result :=
  let c := arg s 0
  let lu := arg s 1
  let k := getCopy s c lu
  .next (if holderDue s c k then dropCopy c lu s else s)

/-- LEASE_EXPIRY: a holder's full window lapses at the die slice (R293). -/
def execLeaseExpiry (s : State) : Result := .next (leaseExpiry (arg s 0) (arg s 1) s)

/-- The timestamp that a fill or renewal of core c gives a line, which comes to the slice under a new timestamp when it
is not there (R286, R305). -/
def fillStamp (s : State) (c lu : Nat) : Nat :=
  let d := coreDie c
  if canRead (getLine s d lu).st then grantRts s c lu else max (freshStamp s d lu) (getCore s c).pts + 16

/-- A request that waits at a slice of the die, or an operation that waits at one of its homes, would take a timestamp
past 2^47. -/
def stampDue (s : State) (d : Nat) : Bool :=
  (s.l2.any fun p =>
    let lu := p.1 % 2 ^ 44
    p.1 / 2 ^ 44 == d && match p.2.queue with
      | x :: _ =>
        let c := x % 2 ^ 10
        (x == c || x == renewalPlace c) && ((getCopy s c lu).st == .is || (getCopy s c lu).st == .s) &&
          !(getCopy s c lu).ro && decide (tsLimit < fillStamp s c lu)
      | [] => false) ||
  (s.dir.any fun p => homeDie p.1 == d && !p.2.waiting.isEmpty && decide (tsLimit < (homeStamps s p.1).2 + 1))

/-- TIMESTAMP_ROLLOVER: some timestamp of the die would pass 2^47 (R289). An access that takes a new timestamp rolls the
die over itself (`rollFor`); this step does so for the requests that wait. -/
def execTimestampRollover (s : State) : Result :=
  .next (if stampDue s (arg s 0) then rollover (arg s 0) s else s)

/-! ## Messages (R303, R304) -/

/-- Deliver the first message of a kind about the unit; nothing when there is none. -/
def deliverKind (p : Msg → Bool) (s : State) : State :=
  (deliverFirst (fun m => m.lu == arg s 1 && p m) s).getD s

def fromDie (s : State) (m : Msg) : Bool := m.src == .die (arg s 0)
def toDie (s : State) (m : Msg) : Bool := m.dst == .die (arg s 0)

def isInv (k : MsgKind) : Bool := match k with | .inv _ => true | _ => false
def isInvAck (k : MsgKind) : Bool := match k with | .invAck _ => true | _ => false

/-- GETS reaches the home (R307). -/
def execGets (s : State) : Result := .next (deliverKind (fun m => m.kind == .getS && fromDie s m) s)
/-- GETM reaches the home (R307). -/
def execGetm (s : State) : Result := .next (deliverKind (fun m => m.kind == .getM && fromDie s m) s)
/-- UPG reaches the home (R307). -/
def execUpg (s : State) : Result := .next (deliverKind (fun m => m.kind == .upg && fromDie s m) s)
/-- PUTM reaches the home (R307). -/
def execPutm (s : State) : Result := .next (deliverKind (fun m => m.kind == .putM && fromDie s m) s)
/-- PUTO reaches the home (R307). -/
def execPuto (s : State) : Result := .next (deliverKind (fun m => m.kind == .putO && fromDie s m) s)
/-- PUTE reaches the home (R307). -/
def execPute (s : State) : Result := .next (deliverKind (fun m => m.kind == .putE && fromDie s m) s)
/-- PUTU reaches the home (R306). -/
def execPutu (s : State) : Result := .next (deliverKind (fun m => m.kind == .putU && fromDie s m) s)
/-- FWDGETS reaches the owner (R306). -/
def execFwdgets (s : State) : Result := .next (deliverKind (fun m => m.kind == .fwdGetS && toDie s m) s)
/-- FWDGETM reaches the owner (R306). -/
def execFwdgetm (s : State) : Result := .next (deliverKind (fun m => m.kind == .fwdGetM && toDie s m) s)
/-- INV reaches the die (R306). -/
def execInv (s : State) : Result := .next (deliverKind (fun m => isInv m.kind && toDie s m) s)
/-- INVACK of the die reaches the requester or the home (R306). -/
def execInvack (s : State) : Result := .next (deliverKind (fun m => isInvAck m.kind && fromDie s m) s)
/-- DATA reaches the requester; data of the die for the home reach the home (R306). -/
def execData (s : State) : Result :=
  .next (deliverKind (fun m => m.kind == .data && (toDie s m || (fromDie s m && m.dst == .home))) s)
/-- The home's Ack reaches the die (R306). -/
def execAckToDie (s : State) : Result := .next (deliverKind (fun m => m.kind == .ackDie && toDie s m) s)
/-- The die's Ack reaches the home (R307). -/
def execAckToHome (s : State) : Result := .next (deliverKind (fun m => m.kind == .ackHome && fromDie s m) s)
/-- GETU under the tag reaches the home (R307). -/
def execGetu (s : State) : Result :=
  .next (deliverKind (fun m => m.kind == .getU && m.tag == arg s 2 && fromDie s m) s)
/-- MRGREQ reaches the die (R310). -/
def execMrgreq (s : State) : Result := .next (deliverKind (fun m => m.kind == .mrgReq && toDie s m) s)
/-- MRGDATA reaches the home (R311). -/
def execMrgdata (s : State) : Result := .next (deliverKind (fun m => m.kind == .mrgData && fromDie s m) s)

end Sys2Proof.Machine
end

