-- ==== Sys2Proof/Machine/Sched.lean ====
section
/-! DEFINITION. RLAUNCH, RWAIT, RYIELD, REXIT and NEXTIT (R402, R403). -/

namespace Sys2Proof.Machine

/-! ## RLAUNCH -/

/-- The region of the launching hart: the parent of what it launches; none for the firmware (R395). -/
def parentRegion (s : State) : Option (Nat × Region) :=
  s.h.logical.map fun p => (p.1, getRegion s p.1)

/-- The harts at launch: those beyond the iterations exit at once (R402). -/
def launchHarts (r : Region) : List Logical :=
  (upTo (regionHarts r)).map fun lh =>
    if r.record.isSome && decide (regionIterations r ≤ lh) then { place := .free } else { iter := lh }

/-- The launched region joins the run queue of the die. -/
def startRegion (rcb : Nat) (r : Region) (blocks : List Nat) (s : State) : State :=
  let d := r.die
  let k := getDie s d
  let r' : Region := { r with
    root := if r.parent = 0 then rcb else r.root
    quantum := if r.quantum = 0 then 1000 else r.quantum
    saveBlocks := blocks
    state := 1, exit := 0, used := 0
    lost := false
    nextIter := min (regionHarts r) (regionIterations r)
    harts := launchHarts r
    waitingSince := timerOf s d }
  checkExited rcb (setDie d { k with runQueue := k.runQueue ++ [rcb] }
    (setRegion rcb r' s))

/-- The checks of a readable RCB at rcb in order, and the launch: the result. -/
def launchAt (rcb x : Nat) : Acc Nat := do
  let s ← get
  let parent := parentRegion s
  let r := childRegion parent (curDie s) x
  if rcbBytes x 64 8 ≠ 0 then pure 7
  else if rcbMalformed x r then pure 4
  else do
    let w : Who := { core := curCore s, hart := s.cur, asid := r.asid.toNat
                     root := r.ptbase.toNat, priv := true }
    match ← saveBlocksOf w r with
    | none => pure 4
    | some blocks =>
      if (match parent with | some p => rcbExceeds x (!isSuper s.h) p.2 r | none => false) then pure 5
      else do
        demand fun s => inTurn (luOf (rcb + 64)) (.agent s.cur none) (homeFetch (luOf (rcb + 64)) true (tenantOf s (curCore s))) s
        let s ← get
        let off := rcb + 64 - luBase (luOf (rcb + 64))
        if bitsGet (homeCopy s (luOf (rcb + 64))).data (8 * off) 64 ≠ 0 then pure 7
        else do
          set (startRegion rcb r blocks s)
          modify (putRcb rcb)
          modify fun s => passClock (curCore s) (luOf (rcb + 64)) s
          pure 1

/-- RLAUNCH once the RCB is found: the result; 3 for an unreadable one. -/
def launch (va : Nat) : Acc Nat := do
  let x ← readRecord va 8
  if !x.pois.isEmpty then do
    modify (deliverPoison x.pois none none)
    pure 3
  else do
    match ← peekPa (currentWho (← get)) va with
    | none => pure 4
    | some pa => if isDevicePa pa then launchAt pa x.val else pure 4

def execRlaunch (d a : SReg) (s : State) : Result :=
  let va := (readS s a).toNat
  whenReady [d, a] s <|
    if va % 256 ≠ 0 then scalarTrap 0x04 (readS s a) s
    else if fifoBankAt s va then scalarTrap 0x0C (readS s a) s
    else if !released 3 s then stall s
    else match runAcc (launch va) s with
      | (.error .wait, s) => stall s
      | (.error (.fault cause fa), s) => scalarTrap cause (word fa) s
      | (.ok x, s) => .next (advance (writeS d (word x) (dropReplies s.cur s)))

/-! ## RWAIT -/

/-- RWAIT: the status word at s[a] once its state is 0, 2, 3 or 4; an acquire on return (R321). -/
def execRwait (d a : SReg) (s : State) : Result :=
  let va := (readS s a).toNat + 64
  whenReady [d, a] s <|
    if fifoBankAt s va then scalarTrap 0x0C (word va) s
    else if queueBlocks s va 8 false then stall s
    else match runAcc (do readMem (currentWho (← get)) (va % 2 ^ 64) 8 0 0 .load) s with
      | (.error .wait, s) => stall s
      | (.error (.fault cause fa), s) => scalarTrap cause (word fa) s
      | (.ok r, s) =>
        let x := loadedWord false 8 r
        let st := x.toNat % 8
        if !(st == 0 || st == 2 || st == 3 || st == 4) then stall (dropReplies s.cur s)
        else if poisonWaits r s then stall s
        else .next (scalarDone va r (writeS d x (acquire (curCore s) s)))

/-! ## RYIELD -/

/-- The wait condition of a parked hart holds: the counters of the core on which it stood are the ones that it reads
until it is resumed (R379). -/
def parkedDone (s : State) (l : Logical) : Bool :=
  match l.ctx with
  | none => false
  | some h =>
    match h.waitOn with
    | none => false
    | some (space, idx, t) => decide (t ≤ counterRead s l.core h space idx)

/-- A hart that can go on once it has a partition: it waits for one, or is parked and its wait condition holds (R30). -/
def canGoOn (s : State) (l : Logical) : Bool := l.place == .waiting || (isParked l.place && parkedDone s l)

/-- A runnable region that waits for a core: it stands in the run queue of its die (R395, R400). -/
def needsCore (s : State) (rcb : Nat) : Bool :=
  let r := getRegion s rcb
  r.state == 1 && r.cause == 0 && decide (r.held.length < min r.cores 568) && r.harts.any (canGoOn s) &&
    (getDie s r.die).runQueue.contains rcb

/-- Region x comes before y among those that wait: by its priority, then its wait, then its place in the run queue of
their die. -/
def comesBefore (s : State) (x y : Nat) : Bool :=
  let a := getRegion s x
  let b := getRegion s y
  let q := (getDie s a.die).runQueue
  decide (b.priority < a.priority) ||
    (a.priority == b.priority && (decide (a.waitingSince < b.waitingSince) ||
      (a.waitingSince == b.waitingSince && a.die == b.die && decide (q.findIdx (· == x) < q.findIdx (· == y)))))

/-- The first of some regions. -/
def firstOf (s : State) : List Nat → Option Nat
  | [] => none
  | x :: l => some (l.foldl (fun a y => if comesBefore s y a then y else a) x)

/-- A region leaves its place in the run queue of its die for the end of it. -/
def requeue (rcb : Nat) (s : State) : State :=
  let d := (getRegion s rcb).die
  let k := getDie s d
  if k.runQueue.contains rcb then setDie d { k with runQueue := k.runQueue.filter (· != rcb) ++ [rcb] } s else s

/-- A core is on its way to a region, or kept for it. -/
def coreComing (s : State) (rcb : Nat) : Bool := s.cores.any fun p => p.2.taker == some rcb

/-- The region at the priority given or higher that waits for a core: the first of them. -/
def wantsCore (s : State) (rcb priority : Nat) : Option Nat :=
  firstOf s ((s.regions.filter fun p =>
    p.1 != rcb && needsCore s p.1 && decide (priority ≤ p.2.priority)).map fun p => p.1)

/-- The scheduler asks every hart of a core to stop, to give the core to another region (R400). -/
def takeCore (c rcb : Nat) (s : State) : State :=
  let s := setCore c { getCore s c with taken := true, taker := some rcb } s
  (upTo 8).foldl (fun s slot =>
    let h := getHart s (8 * c + slot)
    if h.run == .running then setHart (8 * c + slot) { h with preempt := true } s else s) s

/-- A hart that stops and takes its slot again at once (R403): what a pre-emption leaves, with the fence of R324. -/
def stopAndGoOn (s : State) : State :=
  let s := acquire (curCore s) (dropLoads (deliverStop s))
  { s with h := { deliverAll s.h with loadData := Vector.replicate 2 [], pass := {}, front := 16384, memberPass := [] } }

/-- The hart leaves its slot and waits, with its trap CSRs to be as they stand when it goes on. -/
def yieldSlot (rcb lh n : Nat) (s : State) : State :=
  let kept := if schedBit (getHart s n) then none else some (trapRegs (getHart s n))
  let s := saveHart n .waiting s
  let r := getRegion s rcb
  setRegion rcb (setLogical lh { getLogical r lh with kept := kept } r) s

/-- RYIELD: the hart goes on at once when no region waits; else its core is taken and it waits with its
region's unplaced harts. -/
def execRyield (s : State) : Result :=
  match s.h.logical with
  | none => .next (advance s)
  | some (rcb, lh) =>
    if !mayStop s s.cur then stall s
    else match wantsCore s rcb (getRegion s rcb).priority with
      | none => .next (advance (stopAndGoOn s))
      | some x =>
        let n := s.cur
        .next (takeCore (coreOfHart n) x (requeue rcb (yieldSlot rcb lh n (advance s))))

/-! ## REXIT -/

/-- The queue of a hart that ends in a handler: the frozen entries are discarded (R436). -/
def discardFrozen (h : Hart) : Hart :=
  if h.frozen then
    { setPartial false h with queue := [], arrived := [], frozen := false, md := 0, loadFirst := 0 }
  else h

/-- REXIT: the hart ends, or with bit 63 set by one that may the whole region ends as faulted. -/
def execRexit (a : SReg) (s : State) : Result :=
  let v := readS s a
  whenReady [a] s <|
    if queueBusy s.h || !s.h.readback.isEmpty || !released 3 s then stall s
    else
      let s := perfAdd 0 1 { s with h := discardFrozen s.h }
      let n := s.cur
      match v.getLsbD 63 && (isSuper s.h || hndBit s.h), s.h.logical with
      | true, some (rcb, lh) =>
        let r := getRegion s rcb
        let s := setRegion rcb { setLogical lh { getLogical r lh with place := .free, ctx := none } r with exit := v } s
        .next (faultRegion rcb (v.toNat % 256) (vacate n (forgetWrites n (handOff n true s))))
      | _, _ => .next (exitHart n v s)

/-! ## NEXTIT -/

/-- The next iteration of a region, when the walker still hands one out (R402). -/
def nextIteration (r : Region) : Option Nat :=
  if r.state = 1 ∧ r.cause = 0 ∧ r.nextIter < regionIterations r then some r.nextIter else none

/-- NEXTIT: the next iteration's indices into s4 to s9. -/
def execNextit (d : SReg) (s : State) : Result :=
  whenReady [d, 4, 5, 6, 7, 8, 9] s <|
    match s.h.logical with
    | none => scalarTrap 0x04 (Config.trapvalOpen s.tick) (tickUp s)
    | some (rcb, _) =>
      let r := getRegion s rcb
      if r.record.isNone then scalarTrap 0x04 (Config.trapvalOpen s.tick) (tickUp s)
      else match nextIteration r with
        | none => .next (advance (writeS d 0 s))
        | some p =>
          let x := (upTo 6).foldl (fun x j => x.setIfInBounds (4 + j) (0 : Word)) s.h.x
          let s := setRegion rcb { r with nextIter := p + 1 } { s with h := { s.h with x := indexRegs r p x } }
          .next (advance (writeS d 1 s))

end Sys2Proof.Machine
end

