-- ==== Sys2Proof/Machine/EvSched.lean ====
section
/-! DEFINITION. The steps of the scheduler and of trap entry that no instruction makes: read-back delivery (R335),
interrupts (R368), the scheduler entry (R343), binding a core (R399), takeover (R400), the budget stop (R401),
parking (R30), the walker (R402) and the completion of a region (R403). A step whose condition does not hold
changes nothing. -/

namespace Sys2Proof.Machine

/-! ## Read-back delivery (R335) -/

/-- The oldest produced value is written into its register. -/
def deliverOne (h : Hart) : Hart :=
  match h.readback with
  | [] => h
  | (r, v) :: l => { h with x := if r = 0 then h.x else h.x.set r.toNat v, readback := l }

def execReadBackDelivery (s : State) : Result :=
  .next (setHart (arg s 0) (deliverOne (getHart s (arg s 0))) s)

/-! ## Interrupts (R368) -/

/-- The turn's hart takes the trap of class 4 that waits for it. -/
def takeArrayTrap (val : Word) (s : State) : State :=
  let s := deliverStop s
  takeTrap false 0x20 val s.h.pc (headSlot s.h) { s with h := { s.h with arrayTrap := none } }

/-- A hart takes its lowest pending interrupt now: at a boundary, with `ie` set, unless a pre-emption it accepts
is pending, which is taken first. -/
def interruptReady (s : State) (n : Nat) : Bool :=
  let h := getHart s n
  h.run == .running && ieBit h && !h.irqs.isEmpty && !h.preempt && !h.wfaWait && atBoundary s n

/-- The turn's hart takes its lowest pending interrupt. -/
def takeLowest (s : State) : State :=
  match s.h.irqs with
  | [] => s
  | (cause, val) :: l =>
    let s := deliverStop s
    takeTrap true cause val s.h.pc (headSlot s.h) { s with h := { s.h with irqs := l } }

/-- TAKE_INTERRUPT: a trap of class 4 that waits for the same boundary is synchronous and comes first (R368, R373). -/
def execTakeInterrupt (s : State) : Result :=
  let n := arg s 0
  .next (if interruptReady s n then
      match (getHart s n).arrayTrap with
      | some val => asHart n (takeArrayTrap val) s
      | none => asHart n takeLowest s
    else s)

/-! ## The scheduler entry (R343) -/

/-- A hart that stopped counts as exited in an ending region, and leaves a slot without working lanes for the next of
its region that falls free (R12). -/
def afterStop (n : Nat) (s : State) : State :=
  match (getHart s n).logical with
  | none => s
  | some (rcb, lh) =>
    let r := getRegion s rcb
    let s := setRegion rcb (setLogical lh { getLogical r lh with ctx := some (getHart s n) } r) s
    if r.state = 5 ∧ r.final ≠ 2 then saveHart n .free s
    else if (workingGroups s n).isEmpty then markMoved rcb lh (saveHart n .waiting s)
    else s
where
  /-- The logical hart comes before the others that wait for a slot. -/
  markMoved (rcb lh : Nat) (s : State) : State :=
    let r := getRegion s rcb
    setRegion rcb (setLogical lh { getLogical r lh with moved := true } r) s

def stopReady (s : State) (n : Nat) : Bool :=
  let h := getHart s n
  h.run == .running && h.preempt && acceptsStop h && !h.wfaWait && mayStop s n

/-- The turn's hart enters the scheduler, with the fence of R324. -/
def enterScheduler (s : State) : State := acquire (curCore s) (schedulerEntry (deliverStop s))

/-- The turn's hart accepts a pending stop: the scheduler entry (R343). -/
def acceptStop (s : State) : State := afterStop s.cur (enterScheduler s)

/-- What the turn's hart takes at this boundary: a trap of class 4, which is synchronous, before a stop, and a stop
before an interrupt (R343, R368, R373). -/
def boundaryEvent (s : State) : Option State :=
  match s.h.arrayTrap, atBoundary s s.cur with
  | some val, true => some (takeArrayTrap val s)
  | _, _ =>
    if stopReady s s.cur then some (acceptStop s)
    else if interruptReady s s.cur then some (takeLowest s)
    else none

/-- SCHEDULER_ENTRY: a trap of class 4 that waits for the same boundary comes first. -/
def execSchedulerEntry (s : State) : Result :=
  let n := arg s 0
  .next (if stopReady s n then
      match (getHart s n).arrayTrap with
      | some val => asHart n (takeArrayTrap val) s
      | none => afterStop n (asHart n enterScheduler s)
    else s)

/-! ## Binding (R399) -/

/-- A core of the part that regions may hold: working, and not a supervisor's. -/
def coreServes (s : State) (c : Nat) : Bool :=
  !(getCore s c).retired && decide (c < 576) && c != supervisorCore s (dieOfCore c)

def coreFree (s : State) (c : Nat) : Bool := coreServes s c && (getCore s c).region.isNone

/-- Every hart of a core has stopped. -/
def coreStopped (s : State) (c : Nat) : Bool :=
  (upTo 8).all fun slot =>
    let h := getHart s (8 * c + slot)
    h.run == .idle || schedBit h

/-- The region that holds a core gives it up: its harts wait. -/
def releaseCore (c : Nat) (s : State) : State :=
  match (getCore s c).region with
  | none => s
  | some old =>
    let s := (upTo 8).foldl (fun s slot =>
      if (getHart s (8 * c + slot)).run = .idle then s else saveHart (8 * c + slot) .waiting s) s
    let r := getRegion s old
    let s := requeue old (setRegion old { r with held := r.held.filter (· != c), waitingSince := timerOf s (dieOfCore c) } s)
    setCore c { getCore s c with region := none, taken := false } s

/-- The order in which a region of die d takes dies. -/
def dieRank (d c : Nat) : Nat := (dieOfCore c + 8 - d) % 8

/-- No waiting region comes before this one: a higher priority, or a longer wait at the same. -/
def firstWaiting (s : State) (rcb : Nat) : Bool :=
  needsCore s rcb && s.regions.all fun p => !needsCore s p.1 || !comesBefore s p.1 rcb

/-- The region that a core is kept for, which took it, unless one of a higher priority waits. -/
def keptFor (s : State) (c : Nat) : Option Nat :=
  match (getCore s c).taker with
  | none => none
  | some t =>
    if needsCore s t && !(s.regions.any fun p => needsCore s p.1 && decide ((getRegion s t).priority < p.2.priority)) then some t
    else none

/-- A free core that a region can have. -/
def offered (s : State) (c rcb : Nat) : Bool :=
  coreFree s c && match keptFor s c with | some t => t == rcb | none => firstWaiting s rcb

/-- The core's logical number is withdrawn: what it holds leaves first. -/
def withdrawCore (c : Nat) (s : State) : State :=
  let s := (copiesOf s c).foldl (fun s lu => evictCopy c lu s) s
  setCore c { getCore s c with logical := noLogical } s

/-- Logical numbers are dense again over a die's working cores, in ascending physical order (R375, R433). The
holder records keep naming the cores they named. -/
def renumber (d : Nat) (s : State) : State :=
  let gone := (coresOfDie d).filter fun c => (getCore s c).retired && (getCore s c).logical != noLogical
  if gone.isEmpty then s
  else
    let s := gone.foldl (fun s c => withdrawCore c s) s
    let working := (coresOfDie d).filter fun c => !(getCore s c).retired
    let old := working.map fun c => ((getCore s c).logical, (working.findIdx? (· == c)).getD 0)
    let rename (n : Nat) : Nat := ((old.find? fun p => p.1 == n).map fun p => p.2).getD n
    let s := { s with l2 := s.l2.map fun p =>
      if p.1 / 2 ^ 44 == d then
        (p.1, { p.2 with holder := match p.2.holder with
          | .w x => .w { x with core := rename x.core }
          | .u cs => .u (cs.map fun x => { x with core := rename x.core })
          | .none => .none })
      else p }
    working.foldl (fun s c => setCore c { getCore s c with logical := rename (getCore s c).logical } s) s

/-- The modes of the banks at a bind: 0 to 7 cache, the others scratchpad. -/
def bindBanks (c : Nat) (s : State) : State :=
  (upTo 96).foldl (fun s b =>
    let m : BankMode := if b < 8 then .cache else .scratch
    if (getCore s c).banks.getD b .cache = m then s else changeBank c b m s) s

/-- Read-only copies of a core are dropped (R258); a fill in flight stays one. -/
def dropReadOnly (c : Nat) (s : State) : State :=
  { s with l1 := s.l1.filter fun p => !(p.1 / 2 ^ 44 == c && p.2.st == .o) }

/-- What a bind sets on the core. -/
def freshCore (r : Region) (k : Core) : Core :=
  { k with
    pmode := r.pmode, budget := r.banks, mtb := [], codebook := Vector.replicate 256 0
    owner := none, wpa := {}, wps := {}, acc := Vector.replicate 4 0, engConf := 0x11, taken := false, taker := none }

/-- The longest-parked hart of a region whose wait condition holds and that may stand on core c (R30). DESIGN CHOICE
(log 62): among harts parked at the same timer value, the one of the lowest logical number. -/
def parkedNext (s : State) (rcb c : Nat) : Option Nat :=
  let r := getRegion s rcb
  let l := (upTo r.harts.length).filter fun lh =>
    isParked (getLogical r lh).place && parkedDone s (getLogical r lh) && mayStand s rcb lh c
  let since (lh : Nat) : Nat := match (getLogical r lh).place with | .parked t => t | _ => 0
  match l with
  | [] => none
  | x :: l => some (l.foldl (fun a y => if since y < since a then y else a) x)

/-- A hart that has left a slot without lanes, and may stand on core c (R12). -/
def movedNext (s : State) (rcb c : Nat) : Option Nat :=
  let r := getRegion s rcb
  (upTo r.harts.length).find? fun lh =>
    (getLogical r lh).moved && (getLogical r lh).place == .waiting && mayStand s rcb lh c

/-- A free slot goes to a hart that lost its lanes, else to the longest-parked hart that can go on, else to the
lowest-numbered one that waits (R12, R30, R399). DESIGN CHOICE (log 62): the spec does not say which of R12 and R30
comes first. -/
def fillSlot (c rcb n : Nat) (s : State) : State :=
  match movedNext s rcb c, parkedNext s rcb c with
  | some lh, _ => placeHart rcb lh n s
  | none, some lh =>
    let s := placeHart rcb lh n s
    updateRegion rcb (getRegion s rcb) s
  | none, none =>
    match nextWaiting s rcb c with
    | some lh => placeHart rcb lh n s
    | none => s

/-- The slots of a core are filled. -/
def fillSlots (c rcb : Nat) (s : State) : State :=
  (upTo (hartsPerCore (getCore s c).pmode)).foldl (fun s slot =>
    if slotFree s (8 * c + slot) then fillSlot c rcb (8 * c + slot) s else s) s

/-- The hart in slot 0 owns the engine when the region may and no owner has come back to this core (R14, R15). -/
def nameOwner (c rcb : Nat) (s : State) : State :=
  let r := getRegion s rcb
  let k := getCore s c
  match r.mxown && k.owner.isNone, (getHart s (8 * c)).logical with
  | true, some (_, lh) =>
    setRegion rcb (setLogical lh { getLogical r lh with owner := true } r) (setCore c { k with owner := some 0 } s)
  | _, _ => s

/-- The dies whose logical numbers a bind renews: the core's, the region's own and those of the cores that it holds
(R375, R433). -/
def diesOfBind (s : State) (c rcb : Nat) : List Nat :=
  let r := getRegion s rcb
  (dieOfCore c :: r.die :: r.held.map dieOfCore).eraseDups

/-- The scheduler gives a core to a region; region entry is an acquire (R321, R328). -/
def bindCore (c rcb : Nat) (s : State) : State :=
  let s := (diesOfBind s c rcb).foldl (fun s d => renumber d s) s
  let r := getRegion s rcb
  let now := timerOf s (dieOfCore c)
  let s := acquire c (dropReadOnly c (bindBanks c s))
  let s := { s with tenantTargets := s.tenantTargets.setIfInBounds r.tenant (min r.quota 32768) }
  let s := setRegion rcb { r with held := r.held ++ [c], waitingSince := now } s
  let s := setCore c { freshCore r (getCore s c) with region := some rcb, boundAt := now } s
  nameOwner c rcb (fillSlots c rcb s)

/-- A bind is due: the core is free once what was taken has stopped, it is the region's, or the region is the first
that waits, and no such core stands on a die it takes earlier. -/
def bindReady (s : State) (c rcb : Nat) : Bool :=
  offered s c rcb &&
  !(upTo 576).any fun x => decide (dieRank (getRegion s rcb).die x < dieRank (getRegion s rcb).die c) && offered s x rcb

/-- A taken core whose harts have stopped is released. -/
def handBack (c : Nat) (s : State) : State :=
  if (getCore s c).taken && coreStopped s c then releaseCore c s else s

def execRegionBind (s : State) : Result :=
  let c := arg s 0
  let s' := handBack c s
  .next (if bindReady s' c (arg s 1) then bindCore c (arg s 1) s' else s)

/-! ## Takeover (R400) -/

/-- The cores that regions hold and that are not being taken, with priority, bind time and region. -/
def heldCores (s : State) : List (Nat × Nat × Nat × Nat) :=
  s.cores.flatMap fun p =>
    match p.2.region with
    | some r => if p.2.taken then [] else [(p.1, (getRegion s r).priority, p.2.boundAt, r)]
    | none => []

/-- The first of a list under an order: lowest priority, then bound longest (R400). DESIGN CHOICE (log 62): among cores
bound at the same time, the one listed first, of the lowest number. -/
def worstCore : List (Nat × Nat × Nat × Nat) → Option Nat
  | [] => none
  | x :: l =>
    match l.foldl (fun (a : Nat × Nat × Nat × Nat) y =>
      if y.2.1 < a.2.1 ∨ (y.2.1 = a.2.1 ∧ y.2.2.1 < a.2.2.1) then y else a) x with
    | y => some y.1

/-- Nanoseconds of a region's quantum. -/
def quantumNs (r : Region) : Nat := r.quantum * 1000

/-- The core a waiting region takes: of the lowest priority below its own, or after a full quantum on both sides
one of its own priority. -/
def coreToTake (s : State) (rcb : Nat) : Option Nat :=
  let r := getRegion s rcb
  let l := heldCores s
  match worstCore (l.filter fun x => decide (x.2.1 < r.priority)) with
  | some c => some c
  | none =>
    let now := timerOf s r.die
    if r.waitingSince + quantumNs r ≤ now then
      worstCore (l.filter fun x => x.2.1 == r.priority && x.2.2.2 != rcb && decide (x.2.2.1 + quantumNs r ≤ now))
    else none

/-- The region that takes core c now: no core is free, none is on its way to the region, and c is the one that it
takes; the quantum of each waiting region decides for it (R400). -/
def takerOf (s : State) (c : Nat) : Option Nat :=
  if (upTo 576).any fun x => coreFree s x then none
  else firstOf s ((s.regions.filter fun p =>
    needsCore s p.1 && !coreComing s p.1 && coreToTake s p.1 == some c).map fun p => p.1)

def execCoreTakeover (s : State) : Result :=
  .next (match takerOf s (arg s 0) with
    | some rcb => takeCore (arg s 0) rcb s
    | none => s)

/-! ## Budget stop (R401, R404) -/

def budgetSpent (r : Region) : Bool := r.budget != 0 && decide (r.budget ≤ r.used) && (r.state == 1 || (r.state == 5 && r.final == 2))

/-- The region and its descendants end by budget; the domain mates of its descendants end faulted. -/
def budgetStop (rcb : Nat) (s : State) : State :=
  let tree := treeOf s rcb
  let mates := ((tree.filter (· != rcb)).flatMap fun x => domainOf s x).eraseDups
  let s := tree.foldl (fun s x => endRegion x 4 0 s) s
  mates.foldl (fun s x => if tree.contains x then s else endRegion x 3 0 s) s

def execBudgetStop (s : State) : Result :=
  .next (if budgetSpent (getRegion s (arg s 0)) then budgetStop (arg s 0) s else s)

/-! ## Parking (R30) -/

/-- A hart of a region that has been blocked in WAITC for `waityield` cycles and accepts a stop. -/
def parkReady (s : State) (n : Nat) : Bool :=
  let h := getHart s n
  match h.waitT0, h.logical with
  | some t0, some _ =>
    h.run == .running && h.stalled && !schedBit h && acceptsStop h && mayStop s n &&
      decide (h.waityield.toNat * 5 ≤ (timerOf s (dieOfCore (coreOfHart n)) - t0) * 9)
  | _, _ => false

/-- The most harts of a region that may be parked. -/
def parkLimit : Nat := 64

/-- The hart is parked; a 65th parking raises cause 0x22 on the supervisor hart, and the region dispatches nothing
more. -/
def parkHart (n : Nat) (s : State) : State :=
  match (getHart s n).logical with
  | none => s
  | some (rcb, _) =>
    let r := getRegion s rcb
    let d := dieOfCore (coreOfHart n)
    if parkedCount r < parkLimit then
      let s := saveHart n (.parked (timerOf s d)) s
      updateRegion rcb (getRegion s rcb) s
    else if r.cause = 0 then
      raiseIrq (supervisorHart s d) 0x22 (word rcb) (setRegion rcb { r with cause := 0x22 } s)
    else s

def execPark (s : State) : Result :=
  .next (if parkReady s (arg s 0) then parkHart (arg s 0) s else s)

/-- The lowest free slot of a core. -/
def freeSlot (s : State) (c : Nat) : Option Nat :=
  ((upTo (hartsPerCore (getCore s c).pmode)).map (8 * c + ·)).find? fun n => slotFree s n

/-- A free partition of a core goes to the longest-parked hart that can go on, else to a hart that waits. -/
def resumeOn (c : Nat) (s : State) : State :=
  match (getCore s c).region, freeSlot s c with
  | some rcb, some n =>
    if (getCore s c).taken || (getRegion s rcb).state != 1 then s
    else fillSlot c rcb n s
  | _, _ => s

def execParkedResume (s : State) : Result := .next (resumeOn (arg s 0) s)

/-! ## The walker (R402) -/

/-- A free hart receives the next iteration. -/
def dispatchIteration (rcb lh : Nat) (s : State) : State :=
  let r := getRegion s rcb
  match nextIteration r, (getLogical r lh).place with
  | some p, .free =>
    if lh < r.harts.length then
      setRegion rcb (setLogical lh { getLogical r lh with place := .waiting, ctx := none, moved := false, kept := none, iter := p }
        { r with nextIter := p + 1 }) s
    else s
  | _, _ => s

def execIterationDispatch (s : State) : Result := .next (dispatchIteration (arg s 0) (arg s 1) s)

/-! ## The end (R403) -/

/-- What an ending region still waits for. -/
def regionBlocked (s : State) (rcb : Nat) : Bool :=
  let r := getRegion s rcb
  !r.harts.all (fun l => hasExited l || isParked l.place) ||
  s.ipRunning.any (fun q => q.region == some rcb && !q.done) ||
  s.cores.any (fun p => p.2.channels.toList.any fun ch => ch.queue.any fun q =>
    match q.region with | some x => x.1 == rcb | none => false) ||
  s.regions.any (fun p => p.2.parent == rcb && (p.2.state == 1 || p.2.state == 5))

/-- The region has completed: its cores are free and its final state is written. Harts that are parked stay so in the
status word (R30). -/
def completeRegion (rcb : Nat) (s : State) : State :=
  let r := getRegion s rcb
  let s := r.held.foldl (fun s c => setCore c { getCore s c with region := none, taken := false } s) s
  let k := getDie s r.die
  let s := setDie r.die { k with runQueue := k.runQueue.filter (· != rcb) } s
  notifyEnd rcb (updateRegion rcb { r with state := r.final, held := [] } s)

/-- The firmware's handler has taken the interrupt of a 65th parking, on whichever die it was raised: the region ends
(R404). -/
def parkingEnds (s : State) (rcb : Nat) : Bool :=
  let r := getRegion s rcb
  r.state == 1 && r.cause == 0x22 &&
    !(upTo 8).any fun d => (getHart s (supervisorHart s d)).irqs.any fun p => p.1 == 0x22

/-- The region's end goes on as far as it can. -/
def advanceEnd (rcb : Nat) (s : State) : State :=
  if parkingEnds s rcb then faultRegion rcb 0x22 s
  else if (getRegion s rcb).state = 5 ∧ !regionBlocked s rcb then completeRegion rcb s
  else flushRegion rcb s

def execRegionComplete (s : State) : Result := .next (advanceEnd (arg s 0) s)

end Sys2Proof.Machine
end

