-- ==== Sys2Proof/Machine/Scalar.lean ====
section
/-! DEFINITION. The scalar arithmetic, branches and jumps of spec/05: each meaning is one expression over
one shared shape. -/

namespace Sys2Proof.Machine

/-- Write the result of a scalar computation once its registers hold no pending value (R101, R109). -/
def aluOp (uses : List SReg) (d : SReg) (v : Word) (s : State) : Result :=
  whenReady (d :: uses) s (.next (advance (writeS d v s)))

/-- Continue at a branch target or after the branch (R106). -/
def branchOp (a b : SReg) (taken : Bool) (off : BitVec 15) (s : State) : Result :=
  whenReady [a, b] s (.next (continueAt (if taken then s.h.pc + off.signExtend 64 <<< 2 else s.h.pc + 4) s))

/-- The truncating quotient of R102. -/
def truncQuot (x y : Int) : Int :=
  if y = 0 then -1
  else if x = -(2 ^ 63) ∧ y = -1 then x
  else
    let q : Int := (x.natAbs / y.natAbs : Nat)
    if (x < 0) ≠ (y < 0) then -q else q

/-- The low 64 bits of an exact integer (R71). -/
def intWord (x : Int) : Word := BitVec.ofInt 64 x

/-- The low w bits of the number of leading zeros in a word (R101). -/
def clzWord (x : Word) : Nat := if x.toNat = 0 then 64 else 63 - Nat.log2 x.toNat

/-- The number of trailing zero bits among the n bits from bit i. -/
def ctzFrom (x : Nat) : (n i : Nat) → Nat
  | 0, i => i
  | n + 1, i => if x.testBit i then i else ctzFrom x n (i + 1)

def boolWord (b : Bool) : Word := if b then 1 else 0

/-- The shift amount: the low six bits (R101). -/
def shAmount (x : Word) : Nat := x.toNat % 64

/-- ADD (R101). -/
def execAdd (d a b : SReg) (s : State) : Result :=
  aluOp [a, b] d (readS s a + readS s b) s

/-- SUB (R101). -/
def execSub (d a b : SReg) (s : State) : Result :=
  aluOp [a, b] d (readS s a - readS s b) s

/-- AND (R101). -/
def execAnd (d a b : SReg) (s : State) : Result :=
  aluOp [a, b] d (readS s a &&& readS s b) s

/-- OR (R101). -/
def execOr (d a b : SReg) (s : State) : Result :=
  aluOp [a, b] d (readS s a ||| readS s b) s

/-- XOR (R101). -/
def execXor (d a b : SReg) (s : State) : Result :=
  aluOp [a, b] d (readS s a ^^^ readS s b) s

/-- SLL (R101). -/
def execSll (d a b : SReg) (s : State) : Result :=
  aluOp [a, b] d (readS s a <<< shAmount (readS s b)) s

/-- SRL (R101). -/
def execSrl (d a b : SReg) (s : State) : Result :=
  aluOp [a, b] d (readS s a >>> shAmount (readS s b)) s

/-- SRA (R101). -/
def execSra (d a b : SReg) (s : State) : Result :=
  aluOp [a, b] d ((readS s a).sshiftRight (shAmount (readS s b))) s

/-- SLT (R101). -/
def execSlt (d a b : SReg) (s : State) : Result :=
  aluOp [a, b] d (boolWord (decide ((readS s a).toInt < (readS s b).toInt))) s

/-- SLTU (R101). -/
def execSltu (d a b : SReg) (s : State) : Result :=
  aluOp [a, b] d (boolWord (decide ((readS s a).toNat < (readS s b).toNat))) s

/-- MIN (R101). -/
def execMin (d a b : SReg) (s : State) : Result :=
  aluOp [a, b] d (if (readS s a).toInt ≤ (readS s b).toInt then readS s a else readS s b) s

/-- MAX (R101). -/
def execMax (d a b : SReg) (s : State) : Result :=
  aluOp [a, b] d (if (readS s a).toInt ≥ (readS s b).toInt then readS s a else readS s b) s

/-- MINU (R101). -/
def execMinu (d a b : SReg) (s : State) : Result :=
  aluOp [a, b] d (if (readS s a).toNat ≤ (readS s b).toNat then readS s a else readS s b) s

/-- MAXU (R101). -/
def execMaxu (d a b : SReg) (s : State) : Result :=
  aluOp [a, b] d (if (readS s a).toNat ≥ (readS s b).toNat then readS s a else readS s b) s

/-- MUL (R101). -/
def execMul (d a b : SReg) (s : State) : Result :=
  aluOp [a, b] d (readS s a * readS s b) s

/-- MULH (R101). -/
def execMulh (d a b : SReg) (s : State) : Result :=
  aluOp [a, b] d (intWord (((readS s a).toInt * (readS s b).toInt) / 2 ^ 64)) s

/-- MULHU (R101). -/
def execMulhu (d a b : SReg) (s : State) : Result :=
  aluOp [a, b] d (word (((readS s a).toNat * (readS s b).toNat) / 2 ^ 64)) s

/-- DIV (R102). -/
def execDiv (d a b : SReg) (s : State) : Result :=
  aluOp [a, b] d (intWord (truncQuot (readS s a).toInt (readS s b).toInt)) s

/-- DIVU (R102). -/
def execDivu (d a b : SReg) (s : State) : Result :=
  aluOp [a, b] d (intWord (truncQuot (readS s a).toNat (readS s b).toNat)) s

/-- REM (R102). -/
def execRem (d a b : SReg) (s : State) : Result :=
  aluOp [a, b] d (intWord ((readS s a).toInt - (readS s b).toInt * truncQuot (readS s a).toInt (readS s b).toInt)) s

/-- REMU (R102). -/
def execRemu (d a b : SReg) (s : State) : Result :=
  aluOp [a, b] d (intWord (((readS s a).toNat : Int) - ((readS s b).toNat : Int) * truncQuot (readS s a).toNat (readS s b).toNat)) s

/-- CLZ (R101). -/
def execClz (d a : SReg) (s : State) : Result :=
  aluOp [a] d (word (clzWord (readS s a))) s

/-- CTZ (R101). -/
def execCtz (d a : SReg) (s : State) : Result :=
  aluOp [a] d (word (ctzFrom (readS s a).toNat 64 0)) s

/-- POPC (R101). -/
def execPopc (d a : SReg) (s : State) : Result :=
  aluOp [a] d (word (popCount 64 (readS s a).toNat)) s

/-- ADDI (R103). -/
def execAddi (d a : SReg) (imm : BitVec 15) (s : State) : Result :=
  aluOp [a] d (readS s a + imm.signExtend 64) s

/-- ANDI (R103). -/
def execAndi (d a : SReg) (imm : BitVec 15) (s : State) : Result :=
  aluOp [a] d (readS s a &&& imm.signExtend 64) s

/-- ORI (R103). -/
def execOri (d a : SReg) (imm : BitVec 15) (s : State) : Result :=
  aluOp [a] d (readS s a ||| imm.signExtend 64) s

/-- XORI (R103). -/
def execXori (d a : SReg) (imm : BitVec 15) (s : State) : Result :=
  aluOp [a] d (readS s a ^^^ imm.signExtend 64) s

/-- SLTI (R103). -/
def execSlti (d a : SReg) (imm : BitVec 15) (s : State) : Result :=
  aluOp [a] d (boolWord (decide ((readS s a).toInt < imm.toInt))) s

/-- SLTIU (R103). -/
def execSltiu (d a : SReg) (imm : BitVec 15) (s : State) : Result :=
  aluOp [a] d (boolWord (decide ((readS s a).toNat < (imm.signExtend 64).toNat))) s

/-- SLLI (R104). -/
def execSlli (d a : SReg) (sh : BitVec 6) (s : State) : Result :=
  aluOp [a] d (readS s a <<< sh.toNat) s

/-- SRLI (R104). -/
def execSrli (d a : SReg) (sh : BitVec 6) (s : State) : Result :=
  aluOp [a] d (readS s a >>> sh.toNat) s

/-- SRAI (R104). -/
def execSrai (d a : SReg) (sh : BitVec 6) (s : State) : Result :=
  aluOp [a] d ((readS s a).sshiftRight sh.toNat) s

/-- LIHI (R105). -/
def execLihi (d : SReg) (imm : BitVec 20) (s : State) : Result :=
  aluOp [] d (imm.signExtend 64 <<< 14) s

/-- PCADD (R105). -/
def execPcadd (d : SReg) (imm : BitVec 20) (s : State) : Result :=
  aluOp [] d (s.h.pc + imm.signExtend 64 <<< 14) s

/-- BEQ (R106). -/
def execBeq (a b : SReg) (off : BitVec 15) (s : State) : Result :=
  branchOp a b (readS s a == readS s b) off s

/-- BNE (R106). -/
def execBne (a b : SReg) (off : BitVec 15) (s : State) : Result :=
  branchOp a b (readS s a != readS s b) off s

/-- BLT (R106). -/
def execBlt (a b : SReg) (off : BitVec 15) (s : State) : Result :=
  branchOp a b (decide ((readS s a).toInt < (readS s b).toInt)) off s

/-- BGE (R106). -/
def execBge (a b : SReg) (off : BitVec 15) (s : State) : Result :=
  branchOp a b (decide ((readS s a).toInt ≥ (readS s b).toInt)) off s

/-- BLTU (R106). -/
def execBltu (a b : SReg) (off : BitVec 15) (s : State) : Result :=
  branchOp a b (decide ((readS s a).toNat < (readS s b).toNat)) off s

/-- BGEU (R106). -/
def execBgeu (a b : SReg) (off : BitVec 15) (s : State) : Result :=
  branchOp a b (decide ((readS s a).toNat ≥ (readS s b).toNat)) off s

/-- CALL (R107). -/
def execCall (d : SReg) (off : BitVec 20) (s : State) : Result :=
  whenReady [d] s (.next (continueAt (s.h.pc + off.signExtend 64 <<< 2) (writeS d (s.h.pc + 4) s)))

/-- CALLR (R107): the target is read before the link is written and its low two bits are cleared. -/
def execCallr (d a : SReg) (imm : BitVec 15) (s : State) : Result :=
  whenReady [d, a] s
    (.next (continueAt ((readS s a + imm.signExtend 64) &&& ~~~3) (writeS d (s.h.pc + 4) s)))

end Sys2Proof.Machine
end

