-- ==== Sys2Proof/Machine/EvEngine.lean ====
section
/-! DEFINITION. The steps of the engines and of the waits they end: settles (R270), in-place commands (R276 to
R282, R360), copy chunks (R353, R354, R357), invalidation acknowledgements (R392), FIFO-mode banks (R347) and
`waitlim` (R383). A step whose condition does not hold changes nothing. -/

namespace Sys2Proof.Machine

/-! ## Settles (R269, R270) -/

/-- The watermark after the settles complete above it have joined it; settle numbers have 48 bits (R270, R376). -/
def advanceMark : (fuel : Nat) → RegionEntry → RegionEntry
  | 0, e => e
  | f + 1, e =>
    let n := (e.mark + 1) % 2 ^ 48
    if e.complete.contains n then advanceMark f { e with mark := n, complete := e.complete.filter (· != n) } else e

/-- Settle n of a region is complete: the watermark follows. -/
def settleDone (region num : Nat) (s : State) : State :=
  match tget s.regionTable region with
  | none => s
  | some e =>
    let e := { e with complete := insertNat num e.complete }
    { s with regionTable := tset s.regionTable region (advanceMark e.complete.length e) }

/-- The lines of a settle are written to the arrays. -/
def completeSettle (r n : Nat) (s : State) : State :=
  match s.settles.find? fun x => x.region == r && x.num == n with
  | none => s
  | some x =>
    let s := x.lines.foldl (fun s p => finishWrites p.1 s) s
    let s := { s with settles := s.settles.filter fun y => !(y.region == r && y.num == n) }
    if r < 4096 then settleDone r n s else s

/-- SETTLE_COMPLETE. -/
def execSettleComplete (s : State) : Result := .next (completeSettle (arg s 0) (arg s 1) s)

/-! ## The record of an in-place command (R277, R281) -/

def ipOp (r : Nat) : Nat := bitsGet r 0 8
def ipFmt (r : Nat) : Nat := bitsGet r 8 4
def ipCount (r : Nat) : Nat := bitsGet r 16 9
def ipAcc (r : Nat) : Bool := bitAt r 25
def ipDreg (r : Nat) : Nat := bitsGet r 32 12
def ipSreg (r : Nat) : Nat := bitsGet r 48 12
def ipDoff (r : Nat) : Nat := bitsGet r 64 36
def ipSoff (r : Nat) : Nat := bitsGet r 128 36
def ipRowBytes (r : Nat) : Nat := bitsGet r 192 17
def ipAlpha (r : Nat) : Nat := bitsGet r 224 32

/-- Row number j of a GATHER op. -/
def ipRow (r j : Nat) : Nat := bitsGet r (256 + 32 * j) 32

/-- Bytes of an element. -/
def ipElem (r : Nat) : Nat := if ipFmt r = 1 then 2 else 4

def ipGather (r : Nat) : Bool := decide (1 ≤ ipOp r) && decide (ipOp r ≤ 3)

/-- A defect of the record itself: a reserved field, an op, a format, a count, a length, an offset or alpha. -/
def ipMalformed (r : Nat) : Bool :=
  let e := ipElem r
  bitsGet r 26 6 != 0 || bitsGet r 12 4 != 0 || bitsGet r 44 4 != 0 || bitsGet r 60 4 != 0 ||
  bitsGet r 100 28 != 0 || bitsGet r 164 28 != 0 || bitsGet r 209 15 != 0 ||
  ipOp r == 0 || decide (7 < ipOp r) ||
  !(ipFmt r == 0 || ipFmt r == 1 || ipFmt r == 6) || decide (256 < ipCount r) ||
  ipRowBytes r % e != 0 || decide (ipRowBytes r < e) || decide (65536 < ipRowBytes r) ||
  ipDoff r % e != 0 || (ipOp r != 6 && ipSoff r % e != 0) || (ipOp r != 5 && ipAlpha r != 0)

/-- A region of the issuer's ASID. -/
def ipRegion (s : State) (asid idx : Nat) : Option RegionEntry :=
  match tget s.regionTable idx with
  | some e => if e.asid = asid then some e else none
  | none => none

/-- The offsets of the rows a command writes. -/
def ipDests (r : Nat) : List Nat :=
  if ipCount r = 0 then []
  else if ipGather r ∨ ipOp r = 7 then [ipDoff r]
  else (upTo (ipCount r)).map fun j => ipDoff r + j * ipRowBytes r

/-- The offsets of the source rows a command reads, in list or index order. -/
def ipSources (r : Nat) : List Nat :=
  if ipGather r then (upTo (ipCount r)).map fun j => ipSoff r + ipRow r j * ipRowBytes r
  else if ipOp r = 6 then []
  else (upTo (ipCount r)).map fun j => ipSoff r + j * ipRowBytes r

/-- A row at one of the offsets lies partly beyond the region. -/
def rowsBeyond (r : Nat) (e : RegionEntry) (l : List Nat) : Bool := l.any fun o => decide (e.length < o + ipRowBytes r)

/-- What the check of a record finds (R281): the access code of its failure, or the destination and source
regions. -/
def ipCheck (s : State) (q : IpCmd) : Except Nat (RegionEntry × RegionEntry) :=
  let r := q.record
  match ipMalformed r, ipRegion s q.asid (ipDreg r), ipRegion s q.asid (if ipOp r = 6 then ipDreg r else ipSreg r) with
  | false, some d, some e =>
    if rowsBeyond r d (ipDests r) then .error 1
    else if rowsBeyond r e (ipSources r) then .error 0
    else .ok (d, e)
  | _, _, _ => .error 3

/-- The physical address of a byte of a region. -/
def regionPa (e : RegionEntry) (off : Nat) : Nat := e.frames.getD (off / 4096) 0 * 4096 + off % 4096

/-- The stack whose base-die unit checks a command: that of the destination byte, or stack 0. -/
def ipStack (s : State) (q : IpCmd) : Nat :=
  match ipRegion s q.asid (ipDreg q.record) with
  | some e => if ipDoff q.record < e.length then stackOf (regionPa e (ipDoff q.record)) else 0
  | none => 0

/-! ## Rows in the arrays (R278, R282) -/

/-- A row read from the settled image: its bytes, a mask of its bytes in poisoned granules, those granules. -/
structure IpRow where
  off : Nat
  val : Nat := 0
  bad : Nat := 0
  gs : List Nat := []
  deriving DecidableEq, Repr

/-- Read a row. -/
def ipRead (s : State) (e : RegionEntry) (n off : Nat) : IpRow :=
  (cutAt 32 (n / 32 + 2) off n 0).foldl (fun a p =>
    let pa := regionPa e p.1
    let bad := s.poison.contains (pa / 32)
    { off := off
      val := a.val + memRead s.mem pa p.2.1 <<< (8 * p.2.2)
      bad := if bad then a.bad ||| maskOf p.2.2 p.2.1 else a.bad
      gs := if bad then a.gs ++ [pa / 32] else a.gs }) { off := off }

/-- The errors that a row's granules hold are corrected, or detected, as the row is read (R394). -/
def ipCorrect (e : RegionEntry) (n : Nat) (s : State) (off : Nat) : State :=
  if s.correctable.isEmpty && s.detected.isEmpty then s
  else (cutAt 32 (n / 32 + 2) off n 0).foldl (fun s p => readGranule (regionPa e p.1 / 32) s) s

/-- Write a row to the settled image (R265, R282). -/
def ipWrite (e : RegionEntry) (n off val : Nat) (s : State) : State :=
  (cutAt 64 (n / 64 + 2) off n 0).foldl (fun s p =>
    let pa := regionPa e p.1
    let at0 := pa - luBase (luOf pa)
    arrayWrite (luOf pa) (bitsGet val (8 * p.2.2) (8 * p.2.1) <<< (8 * at0)) (maskOf at0 p.2.1) s) s

/-! ## Elements (R278, R279) -/

/-- BF16 sums and maxima are held in FP32. -/
def ipHold (r x : Nat) : Nat := if ipFmt r = 1 then x <<< 16 else x

/-- One combining step on held values. -/
def ipJoin (r a b : Nat) : Nat :=
  if ipFmt r = 6 then (if ipOp r = 2 then updOp 6 a b else updOp 1 a b)
  else if ipOp r = 2 then updOp 8 a b else updOp 3 a b

/-- Values combined from the first on. -/
def ipFold (r : Nat) : List Nat → Option Nat
  | [] => none
  | x :: l => some (l.foldl (ipJoin r) x)

/-- Per-stack partials in list order, then the partials in ascending stack number. -/
def ipCombine (r : Nat) (l : List (Nat × Nat)) : Nat :=
  let parts : List Nat := (upTo 16).filterMap fun k => ipFold r ((l.filter fun p => p.1 == k).map fun p => p.2)
  (ipFold r parts).getD 0

/-- A held result in the record's format, a NaN as the canonical one (R278); the mean divides it. -/
def ipFinal (r x : Nat) : Nat :=
  if ipFmt r = 6 then (if ipOp r = 3 then ofInt 32 (truncQuot (toSigned 32 x) (ipCount r)) else x)
  else (roundX (if ipOp r = 3 then (divX (decodeX 0 x) (xInt (ipCount r))).1 else decodeX 0 x) (ipFmt r) 0 0 false).1

/-- Source and destination added, rounded once. -/
def ipAdd (r src dst : Nat) : Nat :=
  if ipFmt r = 6 then (dst + src) % 2 ^ 32 else (fAdd (ipFmt r) dst src 0 0).1

/-- alpha × source + destination, exact, rounded once. -/
def ipAxpy (r src dst : Nat) : Nat :=
  let f := ipFmt r
  if f = 6 then (ipAlpha r * src + dst) % 2 ^ 32
  else (roundX (fmaX (decodeX 0 (ipAlpha r)) (decodeX f src) (decodeX f dst) false).1 f 0 0 false).1

/-- Element j of a row. -/
def rowElem (r : Nat) (x : IpRow) (j : Nat) : Nat := bitsGet x.val (8 * ipElem r * j) (8 * ipElem r)

/-- Element j of a row depends on a poisoned granule. -/
def rowBad (r : Nat) (x : IpRow) (j : Nat) : Bool := bitsGet x.bad (ipElem r * j) (ipElem r) != 0

/-- The poison value of the record's format (R264). -/
def ipPoison (r : Nat) : Nat := if ipFmt r = 6 then 0 else qNaN (ipFmt r)

/-- A row from its elements. -/
def packRow (r : Nat) (el : Nat → Nat) : Nat :=
  (upTo (ipRowBytes r / ipElem r)).foldl (fun x j => x + el j <<< (8 * ipElem r * j)) 0

/-- The one row of a GATHER op or SUM, from its source rows and the destination row. SUM has the order of its
indices alone. -/
def reducedRow (r : Nat) (src : RegionEntry) (rows : List IpRow) (dst : IpRow) : Nat :=
  packRow r fun j =>
    let acc := ipGather r && ipAcc r
    if rows.any (fun x => rowBad r x j) || (acc && rowBad r dst j) then ipPoison r
    else
      let l := rows.map fun x =>
        (if ipGather r then stackOf (regionPa src (x.off + ipElem r * j)) else 0, ipHold r (rowElem r x j))
      let y := ipFinal r (ipCombine r l)
      if acc then ipAdd r y (rowElem r dst j) else y

/-- A row of ADD, AXPY or ZERO. -/
def eachRow (r : Nat) (x dst : IpRow) : Nat :=
  packRow r fun j =>
    if ipOp r = 6 then 0
    else if rowBad r x j || rowBad r dst j then ipPoison r
    else if ipOp r = 5 then ipAxpy r (rowElem r x j) (rowElem r dst j)
    else ipAdd r (rowElem r x j) (rowElem r dst j)

/-- The rows a command writes, with their offsets, every source read first. -/
def ipResults (r : Nat) (srcRows dstRows : List IpRow) (src : RegionEntry) : List (Nat × Nat) :=
  if ipGather r ∨ ipOp r = 7 then dstRows.map fun d => (d.off, reducedRow r src srcRows d)
  else if ipOp r = 6 then dstRows.map fun d => (d.off, 0)
  else (srcRows.zip dstRows).map fun p => (p.2.off, eachRow r p.1 p.2)

/-- The command reads its destination rows too. -/
def ipReadsDst (r : Nat) : Bool := ipOp r == 4 || ipOp r == 5 || (ipGather r && ipAcc r)

/-- A command is performed on the arrays (R278, R280). -/
def ipPerform (q : IpCmd) (d e : RegionEntry) (s : State) : State :=
  let r := q.record
  let n := ipRowBytes r
  let srcRows := (ipSources r).map (ipRead s e n)
  let dstRows := (ipDests r).map (ipRead s d n)
  let s1 := (ipSources r).foldl (ipCorrect e n) s
  let s2 := if ipReadsDst r then (ipDests r).foldl (ipCorrect d n) s1 else s1
  let gs := (if ipCount r = 0 then [] else srcRows.flatMap fun x => x.gs) ++
    (if ipReadsDst r then dstRows.flatMap fun x => x.gs else [])
  let s3 := (ipResults r srcRows dstRows e).foldl (fun s p => ipWrite d n p.1 p.2 s) s2
  deliverPoison gs none none s3

/-! ## Dispatch and completion (R276, R281, R360) -/

/-- Two commands have the same issuer. -/
def sameIssuer (a b : IpCmd) : Bool := a.region == b.region && a.lh == b.lh && (a.region.isSome || a.hart == b.hart)

/-- The issuer's hart, in its slot or in its saved context, is changed; that of an orphan is gone. -/
def withIssuer (q : IpCmd) (f : Hart → Hart) (s : State) : State :=
  if q.orphan then s
  else match q.region, q.lh with
    | some rcb, some lh =>
      let r := getRegion s rcb
      let l := getLogical r lh
      match l.place with
      | .placed n => setHart n (f (getHart s n)) s
      | _ => setRegion rcb (setLogical lh { l with ctx := l.ctx.map f } r) s
    | _, _ => setHart q.hart (f (getHart s q.hart)) s

/-- The watermark passes every command of the issuer that is done and next in order; IDs have 64 bits (R276). -/
def passDone (q : IpCmd) : (fuel : Nat) → List IpCmd → Nat → List IpCmd × Nat
  | 0, l, mark => (l, mark)
  | f + 1, l, mark =>
    let n := (mark + 1) % 2 ^ 64
    if l.any fun x => sameIssuer x q && !x.orphan && x.done && x.id == n then
      passDone q f (l.filter fun x => !(sameIssuer x q && !x.orphan && x.id == n)) n
    else (l, mark)

/-- The issuer's watermark. -/
def issuerMark (q : IpCmd) (s : State) : Nat :=
  match q.region, q.lh with
  | some rcb, some lh =>
    let l := getLogical (getRegion s rcb) lh
    (match l.place, l.ctx with
      | .placed n, _ => (getHart s n).ipMark
      | _, some h => h.ipMark
      | _, none => 0)
  | _, _ => (getHart s q.hart).ipMark

/-- A command that has begun completes. -/
def ipComplete (q : IpCmd) (s : State) : State :=
  if q.orphan then { s with ipRunning := s.ipRunning.filter (· != q) }
  else
    let l := s.ipRunning.map fun x => if x = q then { x with done := true } else x
    let (l, mark) := passDone q l.length l (issuerMark q s)
    withIssuer q (fun h => { h with ipMark := mark }) { s with ipRunning := l }

/-- A failing command: a fault record, the error count, and completion with error status (R281). -/
def ipFail (q : IpCmd) (access : Nat) (s : State) : State :=
  let s := postFault (coreOfHart q.hart) (faultWord0 q.asid access 32 (ipStack s q) 2 0x31) q.id 0 s
  ipComplete q (withIssuer q (fun h => { h with ipErrors := (h.ipErrors + 1) % 2 ^ 64 }) s)

/-- A base-die unit takes a command that stands in `ipRunning`. -/
def ipBegin (q : IpCmd) (s : State) : State :=
  let q' := { q with begun := true }
  let s := { s with ipRunning := s.ipRunning.map fun x => if x = q then q' else x }
  match ipCheck s q' with
  | .error access => ipFail q' access s
  | .ok (d, e) => ipPerform q' d e s

/-- The commands handed over at a stop that have not begun and must begin before those in the hart's FIFO: those
of its slot and those of its logical hart. -/
def ipEarlier (n : Nat) (s : State) : Option IpCmd :=
  let h := getHart s n
  s.ipRunning.find? fun q => !q.begun && (q.hart == n ||
    (match h.logical with | some p => q.region == some p.1 && q.lh == some p.2 | none => false))

/-- IPCMD_DISPATCH: the next command leaves the hart's FIFO. -/
def dispatchCommand (n : Nat) (s : State) : State :=
  match ipEarlier n s with
  | some q => ipBegin q s
  | none =>
    let h := getHart s n
    match h.ipFifo with
    | [] => s
    | q :: l => ipBegin q (setHart n { h with ipFifo := l } { s with ipRunning := s.ipRunning ++ [q] })

def execIpcmdDispatch (s : State) : Result := .next (dispatchCommand (arg s 0) s)

/-- IPCMD_COMPLETE: the destination granules of a command of a hart are written. -/
def completeCommand (n id : Nat) (s : State) : State :=
  match s.ipRunning.find? fun q => q.hart == n && q.id == id && q.begun && !q.done with
  | some q => ipComplete q s
  | none => s

def execIpcmdComplete (s : State) : Result := .next (completeCommand (arg s 0) (arg s 1) s)

/-! ## Copy channels -/

def execCopyChunk (s : State) : Result := .next (copyStep (arg s 0) (arg s 1) s)

def execCopyCommandComplete (s : State) : Result := .next (copyComplete (arg s 0) (arg s 1) s)

/-- The step of a supervisor hart on a channel of its core. -/
def supervised (f : Nat → Nat → State → State) (s : State) : State :=
  if isSuper (getHart s (arg s 0)) then f (coreOfHart (arg s 0)) (arg s 1) s else s

def execCpctlAbort (s : State) : Result := .next (supervised copyAbort s)

def execCpctlRetry (s : State) : Result := .next (supervised copyRetry s)

/-! ## Invalidations (R392) -/

def execTlbinvAcknowledge (s : State) : Result := .next (acknowledge (arg s 0) (arg s 1) s)

/-! ## Waits that end -/

/-- What the instruction at the PC of the turn's hart comes to, once its parcels are there. -/
def fetchDone (s : State) (run : Instr → State → Result) : Result :=
  let pc := s.h.pc.toNat
  match runAcc (fetchInstr pc) s with
  | (.ok (_, some i, gs), s) => deliverFetched gs (run i (dropFetch (some i) pc s))
  | _ => .next s

/-- The scalar push or pop at the PC of the turn's hart goes on. -/
def retryScalar (s : State) : Result :=
  fetchDone s fun i s => match i with
  | .epush a b => execEpush a b s
  | .epop d a => execEpop d a s
  | .ldd d a imm => execLdd d a imm s
  | .std a b imm => execStd a b imm s
  | _ => .next s

/-- The outcome with the turn given back to the hart that had it. -/
def turnBack (c : Nat) (r : Result) : Result :=
  match r with
  | .next s => .next (switchTo c s)
  | .fault f => .fault f
  | .refused f => .refused f

/-- An access that some test holds of stands in a line at a FIFO-mode bank of an agent's core. -/
def linesAtBanks (s : State) (n : Nat) (test : Nat → Bool) : Bool :=
  (getCore s (coreOfAgent n)).waiters.any fun p => p.2.any test

/-- The agent stands in a line at a FIFO-mode bank of its core. -/
def waitsAtBank (s : State) (n : Nat) : Bool := linesAtBanks s n fun x => agentOf x == n

/-- FIFO_BANK_WAKE: a waiting push or pop goes on when there is room or an entry (R347): those of the hart's vector
queue, and the one at its PC. -/
def execFifoBankWake (s : State) : Result :=
  let n := arg s 0
  if !waitsAtBank s n then .next s
  else if 4608 ≤ n then .next (copyStep (coreOfAgent n) ((n - 4608) % 4) s)
  else
    let s' := switchTo n s
    let s' := if queueBusy s'.h then runHead s' else s'
    turnBack s.cur (if linesAtBanks s' n (· == n) then retryScalar s' else .next s')

/-- The WAITC at the PC of the turn's hart ends when its limit has passed. -/
def expireWait (s : State) : Result :=
  match s.h.waitT0 with
  | none => .next s
  | some t0 =>
    if s.h.run != .running || !waitOver s t0 then .next s
    else fetchDone s fun i s => match i with
      | .waitc space d a b => execWaitc space d a b s
      | _ => .next s

/-- WAITLIM_EXPIRY (R383). -/
def execWaitlimExpiry (s : State) : Result := turnBack s.cur (expireWait (switchTo (arg s 0) s))

end Sys2Proof.Machine
end

