-- ==== Sys2Proof/Machine/EvService.lean ====
section
/-! DEFINITION. Reliability in service (R432 to R434, R371 to R375, R394): errors of storage, scrubbing, the
retirement of lane groups, slice ways, ports and rows, self-test (R229), ports (R233, R430) and snapshots (R232). -/

namespace Sys2Proof.Machine

/-! ## Lane groups (R375) -/

/-- Every hart of a core whose slot has no working lane group is asked to stop (R12). -/
def stopEmptySlots (c : Nat) (s : State) : State :=
  (upTo 8).foldl (fun s slot =>
    let n := 8 * c + slot
    let h := getHart s n
    if h.run == .running && (workingGroups s n).isEmpty then setHart n { h with preempt := true } s else s) s

/-- A lane group retires; with its last one the core retires. -/
def retireGroup (c g : Nat) (s : State) : State :=
  let k := getCore s c
  if k.retiredGroups.getLsbD g || decide (8 ≤ g) then s
  else
    let groups := k.retiredGroups ||| BitVec.ofNat 8 (2 ^ g)
    let s := setCore c { k with retiredGroups := groups, retireOrder := g :: k.retireOrder
                                retired := k.retired || groups == 255 } s
    stopEmptySlots c (postErr (dieOfCore c) 7 (unitOfGroup c g) 0 0 none none (countErr 9 s))

/-- 24 hours of the die timer. -/
def dayNs : Nat := 24 * hourNs

/-- The times of the last 24 hours, with the present one. -/
def recentTimes (now : Nat) (l : List Nat) : List Nat := (l.filter fun t => now - t < dayNs) ++ [now]

/-- An uncorrectable error in an array of a lane group: counted and recorded; the fourth within 24 hours retires
the group (R179, R372, R375). DESIGN CHOICE (log 64): the record's syndrome is 2, two symbols detected; neither R371 nor
R372 says which it is. -/
def arrayError (c g element : Nat) (s : State) : State :=
  let d := dieOfCore c
  let k := getCore s c
  let l := recentTimes (timerOf s d) (k.arrayTimes.toArray.getD g [])
  let s := setCore c { k with arrayTimes := k.arrayTimes.setIfInBounds g l } s
  let s := postErr d 4 (unitOfGroup c g) 0 2 (some element) (some g) (countErr 8 s)
  if 4 ≤ l.length then retireGroup c g s else s

/-- The hart whose operand it was traps when its `errctl` asks for it (R373): now, or at its next boundary. -/
def arrayTrap (n : Nat) (s : State) : State :=
  let h := getHart s n
  if h.run == .running && h.errctl.getLsbD 4 then setHart n { h with arrayTrap := some 0 } s else s

/-- An entry of an accumulator (0 to 3), the active plane (4) or the shadow plane (5) takes an uncorrectable error:
it becomes the poison value (R179). -/
def engineError (c which index : Nat) (s : State) : State :=
  let k := getCore s c
  let n := index % 64
  let poisoned (p : Plane) : Plane :=
    { p with codes := bitsSet p.codes (16 * index) 16 (qNaN p.fmt) }
  let k' :=
    if which < 4 then
      { k with acc := k.acc.setIfInBounds which (bitsSet (k.acc.toArray.getD which 0) (48 * index) 48 (qNaN fmtA48)) }
    else if which = 4 then { k with wpa := poisoned k.wpa }
    else { k with wps := poisoned k.wps }
  let s := arrayError c (n / 8) index (setCore c k' s)
  match k.owner with
  | some slot => arrayTrap (8 * c + slot) s
  | none => s

/-- An element of a vector register, or an entry of a small-matrix register (64 and up; 36 entries for each
instance), takes an uncorrectable error: the value read is poison (R372, R373). -/
def registerError (n reg element : Nat) (s : State) : State :=
  let h := getHart s n
  let c := h.headConf
  let lane := if reg < 64 then element * confW c / 256 % max 1 c.lanes else element / 36
  let h' :=
    if reg < 64 then vset c reg (confFmt c) element (qNaN (confFmt c)) h
    else
      let x := bitsSet (h.g.toArray.getD (reg - 64) 0) (32 * element) 32 (qNaN 0)
      { h with g := h.g.setIfInBounds (reg - 64) x }
  arrayTrap n (arrayError (coreOfHart n) (groupOfLane s n c.lanes lane) element (setHart n h' s))

/-! ## Slice ways (R433) -/

/-- The units that a slice of a die holds. -/
def sliceUnits (s : State) (d n : Nat) : List Nat :=
  let l := ((s.l2.filter fun p => p.1 / 2 ^ 44 == d && p.2.st != .i).map fun p => p.1 % 2 ^ 44) ++
    ((s.dir.filter fun p => p.2.copy.isSome && homeDie p.1 == d).map fun p => p.1)
  l.filter fun lu => sliceOf lu == n

/-- Lines leave a set that has more of them than working ways: written back or merged first. -/
def shrinkSet : (fuel d lu : Nat) → State → State
  | 0, _, _, s => s
  | f + 1, d, lu, s =>
    let all := setLines s d lu
    if waysUsed all ≤ workingWays s d lu then s
    else match oldest s d all (all.filter fun x => (sameWay all x).all (evictable s d)) with
      | none => s
      | some x => shrinkSet f d lu (pump pumpFuel x.1 (evictWay d lu x s))

def retireWay (d n way : Nat) (s : State) : State :=
  let k := getDie s d
  let ways := tgetD k.retiredWays n 0
  if bitAt ways way || decide (16 ≤ way) then s
  else
    let s := setDie d { k with retiredWays := tset k.retiredWays n (ways + 2 ^ way) } s
    let s := (sliceUnits s d n).foldl (fun s lu => shrinkSet 17 d lu s) s
    postErr d 8 (unitOfSlice d n) way 0 none none (countErr 10 s)

/-- An uncorrectable error in a slice way: the fourth within 24 hours retires the way. -/
def wayError (d n way : Nat) (s : State) : State :=
  let k := getDie s d
  let key := 16 * n + way
  let l := recentTimes k.timer (tgetD k.wayErrors key [])
  let s := setDie d { k with wayErrors := tset k.wayErrors key l } s
  if 4 ≤ l.length then retireWay d n way s else s

/-! ## Ports (R233, R429, R430, R433) -/

def getPort (s : State) (p : Nat) : Port := tgetD s.ports p {}
def setPort (p : Nat) (k : Port) (s : State) : State := { s with ports := tset s.ports p k }

/-- A hart has so many outstanding remote writes less. -/
def writesDone (n : Nat) (h : Hart) : Hart := { h with remoteWrites := h.remoteWrites - n }

/-- The writes of a record, one for each of its elements, are no longer outstanding, for the hart that sent it, wherever
it stands now (R317). -/
def remoteWriteDone (r : Remote) (s : State) : State :=
  let writeDone := writesDone (1 + r.more.length)
  match r.owner with
  | none => if r.hart < 4608 then setHart r.hart (writeDone (getHart s r.hart)) s else s
  | some (rcb, lh) =>
    match tget s.regions rcb with
    | none => s
    | some x =>
      let l := getLogical x lh
      match l.place with
      | .placed n => setHart n (writeDone (getHart s n)) s
      | _ => setRegion rcb (setLogical lh { l with ctx := l.ctx.map writeDone } x) s

/-- The die of whoever sent an access. -/
def senderDie (r : Remote) : Nat :=
  if r.hart < 4608 then dieOfCore (coreOfHart r.hart) else dieOfCore ((r.hart - 4608) / 4)

/-- An access in flight on a port that is gone travels on another port to the peer; without one a write is dropped
and recorded, and whoever waits for an answer finds the peer unreachable. -/
def rerouteOne (r : Remote) (s : State) : State :=
  let p := match windowOf r.addr with | .peer p => p | _ => 0
  match portTo s p with
  | some q => { s with remotes := s.remotes.map fun x => if x.id = r.id then { x with port := some q } else x }
  | none =>
    let s := { s with remotes := s.remotes.filter (·.id != r.id) }
    let s := if r.kind = 0 then s else remoteWriteDone r s
    if r.kind = 1 then postErr (senderDie r) 2 (unitOfPort p) r.addr 6 none none (countErr 1 s) else s

def reroute (p : Nat) (s : State) : State :=
  (s.remotes.filter fun r => r.port == some p && r.reply.isNone).foldl (fun s r => rerouteOne r s) s

/-- A port retires. -/
def retirePort (p : Nat) (s : State) : State :=
  let k := getPort s p
  if k.state = 3 ∨ 72 ≤ p then s
  else
    let s := setPort p { k with state := 3, enable := false } s
    postErr 0 9 (unitOfPort p) 0 0 none none (countErr 11 (reroute p s))

/-- A write of PORTCTL. -/
def writePortctl (p val : Nat) (s : State) : State :=
  let k := getPort s p
  if val % 2 = 0 then retirePort p s
  else if k.state = 3 then setPort p { k with state := 1, enable := true } s
  else s

/-- The offset of PORTCTL of a port (R220). -/
def portctlOffset (p : Nat) : Nat := 0x2000008 + 16 * p

def execPortctlRetire (s : State) : Result :=
  .next (inHostOrder (portctlOffset (arg s 0)) 8 0 (writePortctl (arg s 0) 0) s)
def execPortctlTrain (s : State) : Result :=
  .next (inHostOrder (portctlOffset (arg s 0)) 8 1 (writePortctl (arg s 0) 1) s)

/-- A port in training comes up with its peer's device and port, or goes back down. -/
def execPortTrainingDone (s : State) : Result :=
  let p := arg s 0
  let k := getPort s p
  .next (if k.state = 1 then
      if arg s 1 = 0 then setPort p { k with state := 0 } s
      else setPort p { k with state := 2, peerDev := if arg s 2 ≤ 72 then arg s 2 else 0xFF, peerPort := arg s 3 % 2 ^ 7 } s
    else s)

/-- A port goes down: what is in flight on it travels on. -/
def execPortDown (s : State) : Result :=
  let p := arg s 0
  let k := getPort s p
  .next (if k.state = 1 ∨ k.state = 2 then reroute p (setPort p { k with state := 0 } s) else s)

/-- A flit is sent again: counted, and 2^20 of them within one second retire the port. -/
def execFlitCrcRetry (s : State) : Result :=
  let p := arg s 0
  let k := getPort s p
  let now := timerOf s 0
  let l := (k.recent.filter fun t => now - t < 1000000000) ++ [now]
  let s := setPort p { k with retries := (k.retries + 1) % 2 ^ 32, recent := l } s
  .next (if 2 ^ 20 ≤ l.length then retirePort p s else s)

/-! ## Scrubbing (R432, R394) -/

/-- An uncorrectable granule that the scrubber meets: written back with the poison syndrome, counted, recorded and then
scored (R374, R432). A granule that holds the syndrome already is no double-symbol detection (log 13). -/
def scrubPoison (g : Nat) (s : State) : State :=
  let key := rowKey s g
  scoreRow key 8 (postErr (rowStack key / 2) 2 (unitOfStack (rowStack key)) (g * 32) 2 none none
    (countErr 1 (setPoison g s)))

/-- A correctable granule that the scrubber meets is written back corrected. -/
def scrubCorrect (g : Nat) (s : State) : State :=
  correctGranule g { s with correctable := s.correctable.filter (· != g) }

/-- SCRUB_ROW: the granules of a row of a stack, when the stack's scrubber is enabled. -/
def execScrubRow (s : State) : Result :=
  let stack := arg s 0
  let key := stack * 2 ^ 45 + arg s 1 % 2 ^ 45
  let k := getDie s (stack / 2)
  let ctl := if stack % 2 = 0 then k.scrub0 else k.scrub1
  .next (if bitAt ctl 0 then
      let mine (g : Nat) : Bool := rowKey s g == key
      let bad := (s.detected.map fun p => p.1).filter mine
      let s := (s.correctable.filter mine).foldl (fun s g => scrubCorrect g s) s
      bad.foldl (fun s g => scrubPoison g s) s
    else s)

/-- The time in which a score of a die's stacks halves: RETCFG `halflife`, in days (R230). -/
def halfLife (s : State) (d : Nat) : Nat := bitsGet (getDie s d).retcfg 8 8 * dayNs

/-- The halvings of a die's scores that are due. -/
def halvingsDue (s : State) (d : Nat) : Nat := (timerOf s d - (getDie s d).halved) / halfLife s d

/-- Every score of the die's stacks halves as often as is due, rounding down. -/
def halveScores (d : Nat) (s : State) : State :=
  let n := halvingsDue s d
  if n = 0 then s
  else
    let k := getDie s d
    let s := setDie d { k with halved := k.halved + n * halfLife s d } s
    { s with hotRows := s.hotRows.map fun x => if rowStack x.1 / 2 = d then (x.1, x.2.1 / 2 ^ n, x.2.2) else x }

/-- SCORE_HALVING: when a half-life has passed since the last, the die's scores halve. -/
def execScoreHalving (s : State) : Result := .next (if arg s 0 < 8 then halveScores (arg s 0) s else s)

/-- A granule of the arrays takes an error: correctable, or uncorrectable with data lost (R264, R432). -/
def granuleError (g symbols : Nat) (s : State) : State :=
  if symbols ≤ 1 then (if s.poison.contains g then s else { s with correctable := insertNat g s.correctable })
  else
    let s := setPoison g { tickUp s with mem := memWrite s.mem (g * 32) 32 (Config.lostData s.tick) }
    { s with detected := tset s.detected g (if symbols = 2 then 2 else 3) }

/-! ## Self-test (R229) -/

/-- The core of a die at a unit code's row and column. -/
def codeCore (code : Nat) : Nat := 72 * bitsGet code 17 3 + bitsGet code 4 3 * 9 + bitsGet code 0 4

/-- A unit code names a unit that exists. -/
def unitExists (code : Nat) : Bool :=
  decide (code < 2 ^ 24) &&
  match bitsGet code 20 4 with
  | 1 => decide (bitsGet code 0 4 < 9) && bitsGet code 7 10 == 0
  | 2 => decide (bitsGet code 0 4 < 9) && bitsGet code 10 7 == 0
  | 3 => decide (bitsGet code 0 17 < 48)
  | 4 => decide (bitsGet code 0 17 < 16) && bitsGet code 0 17 / 2 == bitsGet code 17 3
  | 5 => decide (bitsGet code 0 17 < 16) && bitsGet code 0 17 / 2 == bitsGet code 17 3
  | 6 => decide (bitsGet code 4 13 < 24) && bitsGet code 0 4 / 2 == bitsGet code 17 3
  | 7 => decide (bitsGet code 0 20 < 72)
  | 8 => decide (bitsGet code 0 17 < 3)
  | _ => false

/-- The unit has been retired. -/
def unitRetired (code : Nat) (s : State) : Bool :=
  match bitsGet code 20 4 with
  | 1 => (getCore s (codeCore code)).retired
  | 2 => (getCore s (codeCore code)).retiredGroups.getLsbD (bitsGet code 7 3)
  | 3 => tgetD (getDie s (bitsGet code 17 3)).retiredWays (bitsGet code 0 6) 0 == 0xFFFF
  | 7 => (getPort s (bitsGet code 0 7)).state == 3
  | _ => false

/-- A region holds a core of the die. -/
def dieBound (s : State) (d : Nat) : Bool := s.cores.any fun p => dieOfCore p.1 == d && p.2.region.isSome

/-- A write of BISTCTL: with go set a self-test starts, or is refused because the unit is in service (R229). DESIGN
CHOICE (log 64): a code that names no unit is refused the same way. -/
def writeBistctl (d val : Nat) (s : State) : State :=
  let k := getDie s d
  let code := val % 2 ^ 24
  if k.bistRunning then hostErr s
  else
    let k := { k with bistUnit := code }
    if !bitAt val 63 then setDie d k s
    else if (code == 0 && !dieBound s d) || (unitExists code && unitRetired code s) then
      setDie d { k with bistRunning := true, bistResult := 0, bistStatUnit := code } s
    else setDie d { k with bistResult := 2, bistStatUnit := code } s

def execBistctlGo (s : State) : Result :=
  .next (inHostOrder (dieBlock (arg s 0) + 0x300) 8 (arg s 1 ||| 2 ^ 63) (writeBistctl (arg s 0) (arg s 1 ||| 2 ^ 63)) s)

/-- A core that failed a self-test is retired (R231, R433). -/
def failedUnit (code : Nat) (s : State) : State :=
  if bitsGet code 20 4 = 1 ∧ unitExists code then
    setCore (codeCore code) { getCore s (codeCore code) with retired := true } s
  else s

/-- A self-test ends: passed, or failed in the unit whose code is given. -/
def execBistComplete (s : State) : Result :=
  let d := arg s 0
  let k := getDie s d
  .next (if k.bistRunning then
      signalMsix 10 (setDie d { k with
        bistRunning := false
        bistResult := if arg s 1 = 0 then 0 else 1
        bistStatUnit := if arg s 1 = 0 then k.bistStatUnit else arg s 1 % 2 ^ 24 } (failedUnit (arg s 1 % 2 ^ 24) s))
    else s)

/-! ## RETREQ and RETROW (R230, R231) -/

/-- What a RETREQ retires. -/
def retireUnit (val : Nat) (s : State) : State :=
  let code := val % 2 ^ 24
  if !unitExists code then hostErr s
  else match bitsGet code 20 4 with
    | 2 => retireGroup (codeCore code) (bitsGet code 7 3) s
    | 3 => retireWay (bitsGet code 17 3) (bitsGet code 0 6) (bitsGet val 24 4) s
    | 7 => retirePort (bitsGet code 0 7) s
    | _ => hostErr s

/-- A write of RETREQ: its fields, and with go set the retirement; a code of another kind is ignored and counted. -/
def writeRetreq (d val : Nat) (s : State) : State :=
  let kind := bitsGet val 20 4
  if !unitExists (val % 2 ^ 24) || (kind != 2 && kind != 3 && kind != 7) then hostErr s
  else
    let s := setDie d { getDie s d with retreq := val % 2 ^ 28 } s
    if bitAt val 63 then retireUnit val s else s

/-- The event of one kind of unit. -/
def retreqOf (kind : Nat) (s : State) : Result :=
  let val := arg s 1 ||| 2 ^ 63
  .next (if bitsGet val 20 4 = kind then inHostOrder (dieBlock (arg s 0) + 0xA00) 8 val (writeRetreq (arg s 0) val) s
    else s)

def execRetreqLaneGroup (s : State) : Result := retreqOf 2 s
def execRetreqSliceWay (s : State) : Result := retreqOf 3 s
def execRetreqLinkPort (s : State) : Result := retreqOf 7 s

/-- A write of RETROW: its fields, and with go set the retirement of the row. -/
def writeRetrow (d val : Nat) (s : State) : State :=
  if 23 < bitsGet val 40 5 then hostErr s
  else
    let s := setDie d { getDie s d with retrow := val % 2 ^ 46 } s
    if bitAt val 63 then retireRow ((2 * d + bitsGet val 45 1) * 2 ^ 45 + val % 2 ^ 45) s else s

def execRetrowGo (s : State) : Result :=
  .next (inHostOrder (dieBlock (arg s 0) + 0xB30) 8 (arg s 1 ||| 2 ^ 63) (writeRetrow (arg s 0) (arg s 1 ||| 2 ^ 63)) s)

/-! ## Snapshots (R232, R434) -/

def execSnapinTrigger (s : State) : Result :=
  .next (if (upTo 8).any fun d => (getDie s d).snapEn.getLsbD 1 then fireSnapshot s else s)

/-- The words of a hart slot. -/
def snapHart (n : Nat) (s : State) : List (Nat × Word) :=
  let h := getHart s n
  if n % 8 < hartsPerCore (getCore s (coreOfHart n)).pmode then
    let base := unitOfCore (coreOfHart n) * 32 + 4 * (n % 8)
    [(base, h.pc), (base + 1, h.trapcause), (base + 2, word (h.queue.length + h.qhead * 2 ^ 8))]
  else []

/-- The tenants' lines of a slice that holds some. -/
def snapSlice (d n : Nat) (s : State) : List (Nat × Word) :=
  (upTo 16).map fun t => (unitOfSlice d n * 32 + t, word (tenantCount s d n t))

/-- The slices that hold lines. -/
def busySlices (s : State) : List (Nat × Nat) :=
  let a : List (Nat × Nat) := s.l2.map fun p => (p.1 / 2 ^ 44, sliceOf (p.1 % 2 ^ 44))
  let b : List (Nat × Nat) := s.dir.map fun p => (homeDie p.1, sliceOf p.1)
  (a ++ b).eraseDups

/-- What every block latches; words that are zero are not listed. Of the flit counters that words 0 to 3 of a port hold
R233 names one, the flits retried: it stands in word 0, and words 1 to 3 are zero (DESIGN CHOICE, log 60). -/
def snapWords (s : State) : Table Word :=
  let harts := (s.cur :: s.others.map fun p => p.1).flatMap fun n => snapHart n s
  let slices := (busySlices s).flatMap fun x => snapSlice x.1 x.2 s
  let ports := s.ports.map fun p => (unitOfPort p.1 * 32, word p.2.retries)
  (harts ++ slices ++ ports).foldl (fun t p => if p.2 = 0 then t else tset t p.1 p.2) []

/-- SNAPSHOT_LATCH: the first pending latch whose time has come. -/
def execSnapshotLatch (s : State) : Result :=
  match s.snapPending with
  | [] => .next s
  | t :: l => .next (if t ≤ timerOf s 0 then { s with snapPending := l, snapData := snapWords s } else s)

end Sys2Proof.Machine
end

