-- ==== Sys2Proof/Machine/EvPower.lean ====
section
/-! DEFINITION. Power-on, firmware and cooling (R426 to R428, R234, R435). A step whose condition does not hold
changes nothing. -/

namespace Sys2Proof.Machine

/-! ## Firmware images (R427) -/

/-- The image verifies under an enrolled owner key, or under the vendor's while that is not revoked. -/
def imageValid (f : Flash) (image : Nat) : Bool :=
  f.ownerKeys.any (fun k => Config.signatureValid image k) ||
  (!f.vendorRevoked && Config.signatureValid image Config.vendorKey)

def validBank (f : Flash) (b : Option Nat) : Option Nat :=
  match b with
  | some x => if imageValid f x then some x else none
  | none => none

/-- The bank to boot: the higher version of the valid ones, the bank booted last when they are equal. -/
def chooseBank (f : Flash) : Option (Nat × Nat) :=
  match validBank f f.bankA, validBank f f.bankB with
  | some a, some b =>
    if Config.imageVersion a = Config.imageVersion b then
      if f.lastBank = 1 then some (b, 1) else some (a, 0)
    else if Config.imageVersion a < Config.imageVersion b then some (b, 1) else some (a, 0)
  | some a, none => some (a, 0)
  | none, some b => some (b, 1)
  | none, none => none

/-- The recovery image, when it matches its fused hash. -/
def recoveryImage (f : Flash) : Option Nat :=
  match f.recovery with
  | some x => if Config.sha384 x = f.recoveryHash then some x else none
  | none => none

/-- The image of phase 5, and the bank it comes from; none for the recovery image. -/
def bootImage (recov : Bool) (f : Flash) : Option (Nat × Option Nat) :=
  match (if recov then none else chooseBank f) with
  | some (x, b) => some (x, some b)
  | none => (recoveryImage f).map fun x => (x, none)

/-! ## The loader (R426) -/

/-- Frame k of the firmware of die d. -/
def firmwareFrame (d k : Nat) : Nat := 0x10000000000 + 2 * d * 0x200000 + k * 0x2000000

/-- The physical address of the firmware's page tables: VA 0x00F0_0000 (log 5 for the places of the lower ones). -/
def firmwareTable (d n : Nat) : Nat := firmwareFrame d 7 + 0x100000 + 0x1000 * n

def pte (frame bits : Nat) : Nat := frame + bits

/-- The entries of the firmware's tables: table, index and PTE. Bits: 1 V, 2 R, 4 W, 8 X, 0x80 SL, 0x200 NC. -/
def firmwarePtes (d : Nat) : List (Nat × Nat × Nat) :=
  let down (n : Nat) : Nat := pte (firmwareTable d n) 1
  [(0, 0, down 1), (0, 0x80, down 3), (0, 0x81, down 4), (0, 0x82, down 5), (0, 0x83, down 6), (0, 0xFE, down 7),
   (1, 0, down 2)] ++
  ((upTo 8).map fun k => (2, k, pte (firmwareFrame d k) 0x8F)) ++
  ((upTo 768).map fun i => (3 + i / 512, i % 512, pte (i * 2 ^ 30) 0x07)) ++
  ((upTo 768).map fun i => (5 + i / 512, i % 512, pte (0x10000000000 + i * 2 ^ 30) 0x87)) ++
  ((upTo 4).map fun i => (7, i, pte (0xF00000000000 + i * 2 ^ 30) 0x207))

/-- The image and the tables in the memory of one die's firmware, whose hart starts when the die has one; the low bits
of its entry are no bits of the PC (R97), and its `lanes` are those that work (R11, R202). -/
def loadFirmware (image d : Nat) (s : State) : State :=
  let s := (upTo 8).foldl (fun s k =>
    { s with mem := memWrite s.mem (firmwareFrame d k) 0x200000 (bitsGet image (8 * 0x200000 * k) (8 * 0x200000)) }) s
  let s := (firmwarePtes d).foldl (fun s p =>
    { s with mem := memWrite s.mem (firmwareTable d p.1 + 8 * p.2.1) 8 p.2.2 }) s
  if hasSupervisor s d then
    setHart (supervisorHart s d)
      { run := .running, pc := word (Config.imageEntry image) &&& ~~~3, ptbase := word (firmwareTable d 0)
        conf := { lanes := lanesOf s (supervisorHart s d) } } s
  else s

/-! ## Power-on (R426) -/

/-- What stays of a die when its power is lost: what the I/O domain holds (R435). The unit code of BISTCTL stays with
BISTSTAT, the only one that R229 and R435 name (DESIGN CHOICE, log 60). -/
def dieAfterLoss (k : Die) : Die :=
  { bistUnit := k.bistUnit, bistStatUnit := k.bistStatUnit
    bistResult := if k.bistRunning then 3 else k.bistResult
    tempd := k.tempd, temps := k.temps }

def isHostCell (c : Host.Cell) : Bool := windowOf c.1 == .host

/-- Everything that the compute and the stack domain power is as after reset; host memory is not the part's. `id` of
`snapctl`, which compute powers, is not told apart from SNAPID, which the I/O domain keeps: R215 makes the two one count
(DESIGN CHOICE, log 60). -/
def clearDomains (s : State) : State :=
  { s with
    cur := 0, h := {}, others := [], cores := []
    dies := (upTo 8).map fun d => (d, dieAfterLoss (getDie s d))
    mem := s.mem.filter isHostCell, poison := [], correctable := [], detected := []
    l1 := [], l2 := [], dir := [], fills := [], net := [], settles := [], discards := [], tlbInvs := [], regionTable := [], ipRunning := []
    tickets := 0, barriers := [], errCounters := Vector.replicate 13 0, snapPending := [], snapLow := none
    remotes := [], bridge := [], posted := [], backInv := [], cxl := [], cycles := 0, owed := 0
    regions := [], tenantTargets := Vector.replicate 16 0, hotRows := [], retiredRows := [] }

/-- The kind of a unit code (R224). -/
def unitKind (code : Nat) : Nat := bitsGet code 20 4

/-- A failure of the power-on sequence: a unit code, for a slice with the way at bits 27 to 24; bit 28 says that it is
the memory training of phase 4 that fails, rather than the self-test of phase 2. -/
def failsTraining (x : Nat) : Bool := bitAt x 28

/-- The failure whose kind stops the sequence in phase 2: of a base-die unit, a stack or a die-to-die link. -/
def fatalTest (fails : List Nat) : Option Nat :=
  fails.find? fun x => !failsTraining x && (unitKind x == 4 || unitKind x == 5 || unitKind x == 8)

/-- Phase 3: a unit that failed its self-test is retired, and a core with its last lane group (R426, R433). -/
def retireFailed (s : State) (x : Nat) : State :=
  let code := x % 2 ^ 24
  if failsTraining x || !unitExists code then s
  else match unitKind x with
    | 1 => failedUnit code s
    | 2 =>
      let k := getCore s (codeCore code)
      let groups := k.retiredGroups ||| BitVec.ofNat 8 (2 ^ bitsGet code 7 3)
      setCore (codeCore code) { k with retiredGroups := groups, retired := k.retired || groups == 255 } s
    | 3 =>
      let k := getDie s (bitsGet code 17 3)
      let ways := tgetD k.retiredWays (bitsGet code 0 6) 0
      setDie (bitsGet code 17 3)
        { k with retiredWays := tset k.retiredWays (bitsGet code 0 6) (ways ||| 2 ^ bitsGet x 24 4) } s
    | 7 => setPort (bitsGet code 0 7) { getPort s (bitsGet code 0 7) with state := 3, enable := false } s
    | _ => s

/-- Logical numbers are dense over a die's working cores, in ascending physical order (R426). -/
def numberCores (d : Nat) (s : State) : State :=
  ((coresOfDie d).filter fun c => (getCore s c).retired).foldl (fun s c =>
    (coresOfDie d).foldl (fun s x =>
      let k := getCore s x
      if x = c then setCore x { k with logical := noLogical } s
      else if c < x ∧ !k.retired then setCore x { k with logical := k.logical - 1 } s else s) s) s

/-- The lane map of phase 3. -/
def laneMapPhase (fails : List Nat) (s : State) : State :=
  let s := fails.foldl retireFailed s
  if s.cores.isEmpty then s else (upTo 8).foldl (fun s d => numberCores d s) s

/-- The sequence stops with a reason and the unit's code. -/
def bootStops (reason unit : Nat) (s : State) : State :=
  { s with bootPhase := 15, bootReason := reason, bootUnit := unit }

/-- The sequence begins at a phase, with the failures that it will meet; what it still had to do is dropped. -/
def startBoot (phase : Nat) (fails : List Nat) (s : State) : State :=
  { clearDomains s with
    powerStacks := true, powerCompute := true, bootPhase := phase, bootReason := 0, bootUnit := 0, bootFails := fails
    agenda := s.agenda.filter (· != .boot) ++ [.boot] }

/-- A phase is over and another begins. -/
def nextPhase (phase : Nat) (s : State) : State := { s with bootPhase := phase, agenda := s.agenda ++ [.boot] }

/-- Phase 5: the firmware is loaded, and its harts run; the sequence is over once they have prepared the scheduler. -/
def loadPhase (s : State) : State :=
  match bootImage s.recov s.flash with
  | none => bootStops 3 0 s
  | some (image, bank) =>
    (upTo 8).foldl (fun s d => loadFirmware image d s)
      { s with
        fwRecovery := bank.isNone
        flash := { s.flash with lastBank := bank.getD s.flash.lastBank, booted := true } }

/-- What is done in the phase that BOOTSTAT reports: the domains rise, clocks and timers, self-test, lane map, memory
training and the firmware, with the failures that occur (log 5). -/
def bootStep (s : State) : State :=
  match s.bootPhase with
  | 0 => nextPhase 1 s
  | 1 => nextPhase 2 { s with dies := s.dies.map fun p => (p.1, { p.2 with timer := 0 }) }
  | 2 => (match fatalTest s.bootFails with
    | some x => bootStops 1 (x % 2 ^ 24) s
    | none => nextPhase 3 s)
  | 3 => nextPhase 4 (laneMapPhase s.bootFails s)
  | 4 => (match s.bootFails.find? failsTraining with
    | some x => bootStops 2 (x % 2 ^ 24) s
    | none => nextPhase 5 s)
  | 5 => loadPhase s
  | _ => s

/-- The ports train after power-on; none knows its peer yet (R233, R430). -/
def trainPorts (s : State) : State := { s with ports := (upTo 72).map fun p => (p, { state := 1, peerDev := 0xFF }) }

/-- POWER_ON: with the I/O domain down the whole sequence, with the others down the sequence from phase 1. The straps
RECOV and ENROL, and the failures of the sequence. -/
def execPowerOn (s : State) : Result :=
  .next (if !s.powerIo then
      startBoot 0 (s.args.drop 2) (trainPorts { s with powerIo := true, recov := arg s 0 != 0, enrol := arg s 1 != 0 })
    else if !s.powerCompute || !s.powerStacks then startBoot 1 (s.args.drop 2) s
    else s)

/-- Power is lost while a bank is being written: the bank is invalid (R428). -/
def spoilBank (f : Flash) : Flash :=
  match f.writing with
  | some 0 => { f with bankA := none, writing := none }
  | some _ => { f with bankB := none, writing := none }
  | none => f

/-- POWER_DOMAIN_LOSS: compute (0) or stacks (1) are reset and the sequence runs from phase 1; with I/O (2) the
whole module is, and the sequence from phase 0 is the next thing that happens. The further operands are the failures that
the sequence meets; for I/O first the straps RECOV and ENROL, which that sequence latches anew. -/
def execPowerDomainLoss (s : State) : Result :=
  .next (match arg s 0 with
    | 0 => startBoot 1 (s.args.drop 1) s
    | 1 => startBoot 1 (s.args.drop 1) s
    | 2 =>
      { State.reset with
        agenda := .event .powerOn (s.args.drop 1) :: s.agenda.filter (· != .boot)
        mem := s.mem.filter isHostCell, flash := spoilBank s.flash, tick := s.tick }
    | _ => s)

/-- 115 °C in units of 0.125 °C. -/
def shutdownTemp : Nat := 920

/-- THERMAL_SHUTDOWN: the compute and stack domains lose power until the next power-on. -/
def execThermalShutdown (s : State) : Result :=
  .next (if shutdownTemp ≤ (getDie s (arg s 0)).tempd then
      { clearDomains s with
        powerStacks := false, powerCompute := false, bootPhase := 1, agenda := s.agenda.filter (· != .boot) }
    else s)

/-! ## Throttling (R234) -/

/-- Over the power limit, or a die over 105 °C. -/
def overLimit (s : State) : Bool :=
  decide (s.pwrlim < s.pwrDies + s.pwrStacks + s.pwrIo) || s.dies.any fun p => decide (840 < p.2.tempd)

/-- Power and every die are below their limits. -/
def belowLimit (s : State) : Bool :=
  decide (s.pwrDies + s.pwrStacks + s.pwrIo < s.pwrlim) && s.dies.all fun p => decide (p.2.tempd < 840)

/-- The clock after one more millisecond: at a limit it stays. -/
def throttledClock (s : State) : Nat :=
  if overLimit s then max 900 (s.clock - 100) else if belowLimit s then min 1800 (s.clock + 100) else s.clock

def execClockThrottleStep (s : State) : Result :=
  .next (if throttledClock s = s.clock then s else signalMsix 9 { s with clock := throttledClock s })

/-! ## FWCTL (R428) -/

/-- A region holds a core of some die. -/
def anyBound (s : State) : Bool := s.cores.any fun p => p.2.region.isSome

/-- The result of an operation that is refused before it does anything; 2 for one that is not. -/
def fwRefusal (op : Nat) (s : State) : Nat :=
  if op ≤ 2 then if anyBound s then 4 else 2
  else if op = 3 then if !s.enrol || decide (4 ≤ s.flash.ownerKeys.length) then 5 else 2
  else if !s.enrol || s.flash.ownerKeys.isEmpty then 5 else 2

/-- The bank an image is written to. -/
def targetBank (f : Flash) : Nat := 1 - f.lastBank

/-- A go: the operation begins, and FWSTAT reads busy. -/
def startFw (op : Nat) (s : State) : State :=
  if s.fwBusy || op == 0 || decide (4 < op) || !(s.bootPhase == 6 || (op == 1 && s.bootPhase == 15 && s.bootReason == 3)) then
    hostErr s
  else
    let x := fwRefusal op s
    let s := { s with fwOp := op, fwRun := op, fwBusy := true, fwResult := x }
    if x = 2 ∧ op ≤ 2 then { s with flash := { s.flash with writing := some (targetBank s.flash) } } else s

/-- A write of FWCTL: without go its field alone, and an operation that runs goes on (R428). -/
def writeFwctl (val : Nat) (s : State) : State :=
  if bitAt val 63 then startFw (val % 8) s else { s with fwOp := val % 8 }

/-- The host writes FWCTL with go and an op. -/
def goFw (op : Nat) (s : State) : State := inHostOrder 0x308 8 (2 ^ 63 + op) (startFw op) s

def execFwctlRestore (s : State) : Result := .next (goFw 1 s)
def execFwctlProgram (s : State) : Result := .next (goFw 2 s)
def execFwctlEnrol (s : State) : Result := .next (goFw 3 s)
def execFwctlRevoke (s : State) : Result := .next (goFw 4 s)

/-- Bytes of the live image at a physical address: none while a line has to be waited for. -/
def liveBytes (pa n : Nat) (s : State) : Option Nat × State :=
  (upTo ((pa % 128 + n + 127) / 128)).foldl (fun (a : Option Nat × State) i =>
    let at0 := pa / 128 * 128 + 128 * i
    let (s, ok) := homeFetch (luOf at0) false 0 a.2
    match a.1, ok with
    | some x, true =>
      let l := (homeCopy s (luOf at0)).data
      let off : Int := (at0 : Int) - (pa : Int)
      (some (x + (if off < 0 then l >>> (8 * off.natAbs) else l <<< (8 * off.toNat))), s)
    | _, _ => (none, s)) (some 0, s)

/-- The image at FWADDR. -/
def imageAt (s : State) : Option Nat × State :=
  match liveBytes s.fwaddr 64 s with
  | (some h, s) =>
    let n := min (Config.imageLength h) (8 * 0x200000)
    let (x, s) := liveBytes s.fwaddr n s
    (x.map (· % 2 ^ (8 * n)), s)
  | (none, s) => (none, s)

/-- Bytes of a P-384 public key (log 5). -/
def keyBytes : Nat := 96

def writeBank (image : Option Nat) (f : Flash) : Flash :=
  let f := { f with writing := none }
  if targetBank f = 0 then { f with bankA := image } else { f with bankB := image }

def fwDone (result : Nat) (s : State) : State := { s with fwBusy := false, fwResult := result }

/-- An image is written into the bank not last booted; after a flash error the bank holds what the error left, which the
spec does not say (log 32). -/
def fwWrite (failed : Bool) (image : Option Nat) (s : State) : State :=
  if failed then fwDone 6 (tickUp { s with flash := writeBank (Config.flashLeft s.tick) s.flash })
  else fwDone 2 { s with flash := writeBank image s.flash }

/-- A fuse is blown, unless the flash fails. -/
def fwFuse (failed : Bool) (f : Flash) (s : State) : State :=
  if failed then fwDone 6 s else fwDone 2 { s with flash := f }

/-- FWCTL_COMPLETE: the operation takes its effect and FWSTAT shows its result; the operand is 1 for a flash error. -/
def execFwctlComplete (s : State) : Result :=
  let failed : Bool := arg s 0 != 0
  .next (if !s.fwBusy then s
    else if s.fwResult ≠ 2 then fwDone s.fwResult s
    else match s.fwRun with
      | 1 => fwWrite failed s.flash.recovery s
      | 2 =>
        match imageAt s with
        | (none, s) => s
        | (some x, s) =>
          if imageValid s.flash x then fwWrite failed (some x) s
          else fwDone 3 { s with flash := { s.flash with writing := none } }
      | 3 =>
        match liveBytes s.fwaddr keyBytes s with
        | (none, s) => s
        | (some x, s) =>
          fwFuse failed { s.flash with ownerKeys := s.flash.ownerKeys ++ [x % 2 ^ (8 * keyBytes)] } s
      | _ => fwFuse failed { s.flash with vendorRevoked := true } s)

end Sys2Proof.Machine
end

