-- ==== Sys2Proof/Machine/EvHost.lean ====
section
/-! DEFINITION. What the host and the fabric peers do: writes of registers (R221 to R235, R425), accesses through
BAR2 and CXL.mem (R424, R314), snoops and CXL.cache responses (R316), and accesses of peers and their answers
(R312). An access that cannot be performed yet takes its place at the end of the agenda. -/

namespace Sys2Proof.Machine

/-! ## Register writes -/

/-- The host writes LAUNCH (R225): accepted, refused with code 2, or an overrun. -/
def writeLaunch (d val : Nat) (s : State) : State :=
  let k := getDie s d
  if k.launch ≠ 0 then setDie d { k with overrun := true } s
  else if val ≠ 0 ∧ val % 256 = 0 ∧ val < 2 ^ 48 ∧ isDevicePa val then
    setDie d { k with launch := val, accepted := (k.accepted + 1) % 2 ^ 32 } s
  else setDie d { k with code := 2 } s

/-- The host writes ERRPOP (R227). -/
def writeErrpop (d : Nat) (s : State) : State :=
  let k := getDie s d
  if k.errOwn then setDie d { k with errs := k.errs.drop 1 } s else hostErr s

/-- The host writes SCRUBCTL k (R230). -/
def writeScrubctl (d k val : Nat) (s : State) : State :=
  let x := getDie s d
  let v := bitsGet val 8 8 * 256 + val % 2
  if bitsGet val 8 8 < 6 ∨ 96 < bitsGet val 8 8 then hostErr s
  else if k = 0 then setDie d { x with scrub0 := v } s else setDie d { x with scrub1 := v } s

/-- The host writes RETCFG (R230). -/
def writeRetcfg (d val : Nat) (s : State) : State :=
  if bitsGet val 8 8 < 1 ∨ 28 < bitsGet val 8 8 ∨ val % 256 < 8 then hostErr s
  else setDie d { getDie s d with retcfg := val % 2 ^ 16 } s

/-- The host writes BAR2OFF (R425). -/
def writeBar2off (val : Nat) (s : State) : State :=
  if val % (s.bar2size * 2 ^ 30) = 0 then { s with bar2off := bitsGet val 30 11 } else hostErr s

/-- The host resizes BAR2: a power of two from 1 GiB to 2 TiB (R423). -/
def resizeBar2 (gib : Nat) (s : State) : State :=
  if (upTo 12).any fun i => gib == 2 ^ i then { s with bar2size := gib } else s

/-- The host writes a register of a die block. -/
def hostDieWrite (d off val : Nat) (s : State) : State :=
  let k := getDie s d
  if off = 0x000 then writeLaunch d val s
  else if off = 0x010 then (if bitAt val 0 then setDie d { k with overrun := false } s else s)
  else if off = 0x020 ∨ off = 0x028 then hostErr s
  else if off = 0x100 then writeErrown d (bitAt val 0) s
  else if off = 0x140 then writeErrpop d s
  else if off = 0x200 then setDie d { k with fqsel := val % 2 ^ 11 } s
  else if off = 0x300 then writeBistctl d val s
  else if off = 0xA00 then writeRetreq d val s
  else if off = 0xB00 then writeScrubctl d 0 val s
  else if off = 0xB08 then writeScrubctl d 1 val s
  else if off = 0xB10 then writeRetcfg d val s
  else if off = 0xB30 then writeRetrow d val s
  else s

/-- The host writes a register of the global block. -/
def hostGlobalWrite (off val : Nat) (s : State) : State :=
  if off = 0x008 then { s with hosterr := 0 }
  else if off = 0x100 then writePwrlim val s
  else if off = 0x200 then (if bitAt val 0 then fireSnapshot s else s)
  else if off = 0x210 then { s with snapSel := val % 2 ^ 24 }
  else if off = 0x308 then writeFwctl val s
  else if off = 0x310 then { s with fwaddr := bitsGet val 12 36 * 4096 }
  else if off = 0x320 then writeBar2off val s
  else if off = 0x328 then writeFabid val s
  else s

/-- The host writes the register at an aligned BAR0 offset; a register that it may not write is left as it is. -/
def hostRegWrite (off val : Nat) (s : State) : State :=
  if off < 0x100000 then hostGlobalWrite off val s
  else if 0x1000000 ≤ off ∧ off < 0x1800000 then
    hostDieWrite ((off - 0x1000000) / 0x100000) (off % 0x100000) val s
  else if 0x2000000 ≤ off ∧ off < 0x2000480 ∧ off % 16 = 8 then writePortctl ((off - 0x2000000) / 16) val s
  else s

/-- The effect of a host write of n bytes at a BAR0 offset (R221). -/
def bar0Write (off n val : Nat) (s : State) : State :=
  if n = 8 ∧ off % 8 = 0 then hostRegWrite off (val % 2 ^ 64) s else hostErr s

/-- A host write of n bytes at a BAR0 offset. -/
def hostWrite (off n val : Nat) (s : State) : State := inHostOrder off n val (bar0Write off n val) s

def execRegisterWrite (s : State) : Result := .next (hostWrite (arg s 0) (arg s 1) (arg s 2) s)
def execLaunchWrite (s : State) : Result := .next (hostWrite (dieBlock (arg s 0)) 8 (arg s 1) s)
def execLstatOverrunClear (s : State) : Result := .next (hostWrite (dieBlock (arg s 0) + 0x10) 8 1 s)
def execErrpopWrite (s : State) : Result := .next (hostWrite (dieBlock (arg s 0) + 0x140) 8 0 s)
def execHosterrWrite (s : State) : Result := .next (hostWrite 0x8 8 (arg s 0) s)
def execSnaptrigWrite (s : State) : Result := .next (hostWrite 0x200 8 (arg s 0) s)

/-- ERROWN_WRITE: by the host, or by a supervisor hart. -/
def execErrownWrite (s : State) : Result :=
  let write := writeErrown (arg s 0) (bitAt (arg s 1) 0)
  .next (if arg s 2 = 0 then inHostOrder (dieBlock (arg s 0) + 0x100) 8 (arg s 1) write s else write s)

/-- LDONE_WRITE: by a supervisor hart. -/
def execLdoneWrite (s : State) : Result := .next (writeLdone (arg s 0) (arg s 1) s)

/-- LTAKE_LOAD: a supervisor hart takes the mailbox into one of its registers. -/
def execLtakeLoad (s : State) : Result :=
  let n := arg s 0
  let d := arg s 1
  let h := getHart s n
  let x := if arg s 2 % 32 = 0 then h.x else h.x.setIfInBounds (arg s 2 % 32) (word (getDie s d).launch)
  .next (if isSuper h then takeLaunch d (setHart n { h with x := x } s) else s)

/-! ## Waiting -/

/-- A step is tried again after what stands in the agenda. -/
def againWith (i : Instr) (l : List Nat) (s : State) : State := { s with agenda := s.agenda ++ [.event i l] }

/-- The step that runs could not be performed, and is tried again. -/
def tryLater (i : Instr) (s : State) : State := againWith i s.args s

/-- Data or an answer given to the host or a peer. -/
def answer (at0 val : Nat) (s : State) : State := { s with hostReply := some (at0, val) }

/-- BAR2 and the HDM window answer (R424). -/
def hostReady (s : State) : Bool := s.bootPhase == 6

/-! ## BAR2 (R424) -/

/-- The device address of an offset o. -/
def hdmAddress (o : Nat) : Option Nat :=
  if o < 768 * 2 ^ 30 then some o
  else if o < 1536 * 2 ^ 30 then some (0x10000000000 + o - 768 * 2 ^ 30)
  else none

/-- The pieces of n bytes from a device address, cut at 64 bytes. -/
def linePieces (pa n : Nat) : List (Nat × Nat × Nat) := cutAt 64 (n / 64 + 2) pa n 0

/-- The lines that pieces touch, each once, with the halves of it that they touch. -/
def touchedLines (l : List (Nat × Nat × Nat)) : List (Nat × Nat) :=
  ((l.map fun p => luOf p.1).eraseDups).map fun lu =>
    (lu, (l.filter fun p => luOf p.1 == lu).foldl (fun m p => m ||| halvesOf (p.1 - luBase lu) p.2.1) 0)

/-- The lines of some pieces are collected at their homes, each in the turn of the operation there (R291, R300): false
while one has to be waited for. -/
def collectPieces (who : HomeUser) (l : List (Nat × Nat × Nat)) (write : Bool) (s : State) : State × Bool :=
  (touchedLines l).foldl (fun (x : State × Bool) p =>
    if x.2 then inTurn p.1 who (homeFetchAt p.1 write p.2 0) x.1 else x) (s, true)

/-- Bytes at the homes, once collected. -/
def homeBytes (pa n : Nat) (s : State) : Rd :=
  (linePieces pa n).foldl (fun (a : Rd) p =>
    let r := lineBytes (luOf p.1) (homeCopy s (luOf p.1)) (p.1 - luBase (luOf p.1)) p.2.1
    { val := a.val + r.val <<< (8 * p.2.2), pois := a.pois ++ r.pois }) { val := 0 }

/-- Bytes written at the homes, once collected. -/
def homePut (pa n val : Nat) (s : State) : State :=
  (linePieces pa n).foldl (fun s p =>
    let lu := luOf p.1
    homeWrite lu (bitsGet val (8 * p.2.2) (8 * p.2.1) <<< (8 * (p.1 - luBase lu))) (maskOf (p.1 - luBase lu) p.2.1) s) s

/-- A read of device memory from outside by a step: the value, once every line is there; else what `later` says. -/
def outsideRead (i : Instr) (later : State → State) (at0 pa n : Nat) (s : State) : State :=
  let (s, ok) := collectPieces (.outside i [pa, n]) (linePieces pa n) false s
  if ok then
    let r := homeBytes pa n s
    answer at0 r.val (deliverPoison r.pois none none s)
  else later s

/-- A write of device memory from outside by a step: the new state, and whether its lines were there. -/
def outsideWrite (i : Instr) (pa n val : Nat) (s : State) : State × Bool :=
  let (s, ok) := collectPieces (.outside i [pa, n, val]) (linePieces pa n) true s
  if ok then (homePut pa n val s, true) else (s, false)

/-- BAR2 holds the bytes of an access; the part sees no other (R423). -/
def inBar2 (s : State) (off n : Nat) : Bool := decide (off + n ≤ s.bar2size * 2 ^ 30)

/-- The device address that a BAR2 offset names now. -/
def bar2Address (s : State) (off : Nat) : Option Nat := hdmAddress (off + s.bar2off * 2 ^ 30)

/-- The effect of a BAR2 write: the new state, and whether its lines were there. -/
def bar2Write (off n val : Nat) (s : State) : State × Bool :=
  if !inBar2 s off n then (s, true)
  else if !hostReady s then (hostErr s, true)
  else match bar2Address s off with
    | none => (hostErr s, true)
    | some pa => outsideWrite .hostBar2Write pa n val s

/-- The host's writes that wait take effect in order of arrival, as far as they can (R222). -/
def servePosted : (fuel : Nat) → State → State
  | 0, s => s
  | n + 1, s =>
    match s.posted with
    | [] => s
    | q :: l =>
      if q.bar2 then
        let (s, ok) := bar2Write q.off q.bytes q.val s
        if ok then servePosted n { s with posted := l } else s
      else servePosted n { bar0Write q.off q.bytes q.val s with posted := l }

/-- Every write that waits is tried. -/
def flushPosted (s : State) : State := servePosted s.posted.length s

/-- A BAR2 access that waits alone keeps the address that it named when it reached the part (R424): one more than that
stands behind its operands. -/
def keepAddress (s : State) (l : List Nat) (off : Nat) : List Nat := l ++ [((bar2Address s off).map (· + 1)).getD 0]

/-- HOST_BAR2_WRITE: with Relaxed Ordering it waits alone, without it later writes of the host wait behind it
(R222). -/
def execHostBar2Write (s : State) : Result :=
  let q : Posted := { bar2 := true, off := arg s 0, bytes := arg s 1, val := arg s 2 }
  let relaxed := arg s 3 ≠ 0
  .next (if arg s 4 ≠ 0 then
      let (s, ok) := outsideWrite .hostBar2Write (arg s 4 - 1) q.bytes q.val s
      if ok then s else tryLater .hostBar2Write s
    else if !relaxed ∧ !s.posted.isEmpty then flushPosted { s with posted := s.posted ++ [q] }
    else
      let (s, ok) := bar2Write q.off q.bytes q.val s
      if ok then s
      else if relaxed then againWith .hostBar2Write (keepAddress s (s.args.take 4) q.off) s
      else { s with posted := [q] })

/-- A read of the host comes after the writes of the host that wait; `later` is the read for another turn. -/
def readAfterPosted (later read : State → State) (s : State) : State :=
  let s := flushPosted s
  if s.posted.isEmpty then read s else later s

/-- BAR2OFF as it stands once the writes of the host that wait have taken effect: what an access that arrives now uses
(R424). -/
def bar2offThen (s : State) : State :=
  s.posted.foldl (fun s q => if !q.bar2 && q.off == 0x320 && q.bytes == 8 then writeBar2off (q.val % 2 ^ 64) s else s) s

/-- The device address that a BAR2 read which arrives now names, one more than it, or 0 where none answers. -/
def bar2Named (s : State) (off : Nat) : Nat :=
  if hostReady s then ((bar2Address (bar2offThen s) off).map (· + 1)).getD 0 else 0

/-- A BAR2 read of n bytes at an offset once the earlier writes of the host have taken effect: `named` is what it named as
it arrived. -/
def bar2Read (off n named : Nat) (s : State) : State :=
  if named = 0 then answer off 0 (if hostReady s then hostErr s else s)
  else outsideRead .hostBar2Read (againWith .hostBar2Read [off, n, named, 1]) off (named - 1) n s

/-- HOST_BAR2_READ. A read that waits keeps what it named behind its operands, and whether it waits for its lines alone
(1) or still for writes of the host that arrived before it (2). -/
def execHostBar2Read (s : State) : Result :=
  let off := arg s 0
  let n := arg s 1
  let named := if arg s 3 = 0 then bar2Named s off else arg s 2
  .next (if arg s 3 = 1 then bar2Read off n named s
    else if !inBar2 s off n then s
    else readAfterPosted (againWith .hostBar2Read [off, n, named, 2]) (bar2Read off n named) s)

/-- The host reads n bytes at a BAR0 offset (R221); before its port trains nothing answers (R426). -/
def hostRead (off n : Nat) (s : State) : State :=
  if !hostLink s then { s with hostReply := none }
  else readAfterPosted (fun s => { s with agenda := s.agenda ++ [.hostRead off n] }) (fun s =>
    let (v, s) := mmioRead false off n s
    answer off v s) s

/-! ## CXL.mem (R314, R315) -/

/-- The unit of a half, a 64-byte piece named by its address divided by 64. -/
def halfUnit (half : Nat) : Nat := luOf (half * 64)

/-- The half that an HDM half names, and the HDM half that names it (R424). -/
def hdmHalf (half : Nat) : Option Nat := (hdmAddress (half * 64)).map (· / 64)
def hdmName (half : Nat) : Nat := if half < 2 ^ 34 then half else half - 2 ^ 34 + 12 * 2 ^ 30

/-- The half-state of a half, and the entry with another. -/
def halfOf (e : DirEntry) (half : Nat) : HostSt := if half % 2 = 0 then e.half0 else e.half1
def setHalf (half : Nat) (x : HostSt) (e : DirEntry) : DirEntry :=
  if half % 2 = 0 then { e with half0 := x } else { e with half1 := x }

/-- A home operation of the host itself, which snoops no half, in its turn at the home (R300). -/
def hostFetch (lu : Nat) (write : Bool) (s : State) : State × Bool :=
  inTurn lu (.outside .hostMemrd []) (homeFetchAt lu write 0 0) s

/-- The bytes of a half in the home's copy. -/
def halfBytes (s : State) (half : Nat) : Nat := bitsGet (homeCopy s (halfUnit half)).data (512 * (half % 2)) 512

/-- A host request for a half is served at the line's home (R314): whether it could be. -/
def serveHost (q : BridgeReq) (s : State) : State × Bool :=
  let lu := halfUnit q.half
  let set (x : HostSt) (s : State) : State := setDir lu (setHalf q.half x (getDir s lu)) s
  match q.kind with
  | 0 =>
    let (s, ok) := hostFetch lu false s
    if ok then (answer (hdmName q.half) (halfBytes s q.half) (set .shared s), true) else (s, false)
  | 1 =>
    let (s, ok) := hostFetch lu true s
    if ok then (answer (hdmName q.half) (halfBytes s q.half) (set .owned s), true) else (s, false)
  | _ =>
    if halfOf (getDir s lu) q.half = .owned then
      (set .none (homeWrite lu ((q.val % 2 ^ 512) <<< (512 * (q.half % 2))) (maskOf (64 * (q.half % 2)) 64) s), true)
    else (s, true)

/-- Requests that wait at the bridge are served in their order; the first that cannot be stays. -/
def serveBridge : (fuel : Nat) → State → State
  | 0, s => s
  | n + 1, s =>
    match s.bridge with
    | [] => s
    | q :: l =>
      if snoopsInFlight s (halfUnit q.half) then s
      else
        let (s, ok) := serveHost q s
        if ok then serveBridge n { s with bridge := l } else s

/-- The requests that the bridge holds. -/
def bridgeSize : Nat := 64

/-- A host request reaches the bridge: behind those that wait, or served at once. -/
def hostRequest (i : Instr) (q : BridgeReq) (s : State) : State :=
  if bridgeSize ≤ s.bridge.length then tryLater i s
  else serveBridge (bridgeSize + 1) { s with bridge := s.bridge ++ [q] }

/-- A CXL.mem access: device memory answers from phase 6 on (R424). -/
def cxlMem (i : Instr) (kind val : Nat) (s : State) : Result :=
  let nothing (s : State) : State := if kind = 2 then s else answer (arg s 0) 0 s
  .next (match hdmHalf (arg s 0) with
    | none => nothing (hostErr s)
    | some half =>
      if hostReady s then hostRequest i { kind := kind, half := half, val := val } s
      else nothing (if kind = 2 then hostErr s else s))

def execHostMemrd (s : State) : Result := cxlMem .hostMemrd 0 0 s
def execHostOwnershipRequest (s : State) : Result := cxlMem .hostOwnershipRequest 1 0 s
def execHostMemwr (s : State) : Result := cxlMem .hostMemwr 2 (arg s 1) s

/-- BACK_INVALIDATION_RESPONSE: the half-state changes, an owned half is written back with its data, and what
waited goes on. -/
def execBackInvalidationResponse (s : State) : Result :=
  let half := (hdmHalf (arg s 0)).getD (arg s 0)
  let lu := halfUnit half
  .next (match s.backInv.find? fun p => p.1 == half with
    | none => s
    | some (_, take) =>
      let s := { s with backInv := s.backInv.filter fun p => p.1 != half }
      let s := if halfOf (getDir s lu) half = .owned then
          homeWrite lu ((arg s 1 % 2 ^ 512) <<< (512 * (half % 2))) (maskOf (64 * (half % 2)) 64) s else s
      let s := setDir lu (setHalf half (if take then .none else .shared) (getDir s lu)) s
      serveBridge (bridgeSize + 1) (serveWaiting 64 lu s))

/-! ## CXL.cache (R316) -/

/-- The unit of a half of host memory. -/
def hostHalf (half : Nat) : Nat := hostUnits + half

/-- A snoop of a half the part holds: it is recalled from the dies under whatever right the part has. -/
def snoopFetch (half : Nat) (write : Bool) (s : State) : State × Bool :=
  let lu := hostHalf half
  let right := (getDir s lu).hostRight
  let s := pump pumpFuel lu s
  let (s, ok) := homeFetchAt lu write 0 0 (setDir lu { getDir s lu with hostRight := .owned } s)
  (setDir lu { getDir s lu with hostRight := right } s, ok)

/-- A snoop: `keep` is the right that stays, none for the one that stands. -/
def hostSnoop (i : Instr) (write : Bool) (keep : Option HostSt) (s : State) : Result :=
  let half := arg s 0
  let lu := hostHalf half
  .next (if (getDir s lu).hostRight = .none then { s with hostReply := none }
    else
      let (s, ok) := snoopFetch half write s
      if !ok then tryLater i s
      else
        let l := homeCopy s lu
        let s := if keep.isSome && l.dirty != 0 then arrayStore lu l s else s
        let s := match keep with
          | none => s
          | some .none => let s := dropHomeCopy lu s; setDir lu { getDir s lu with hostRight := .none } s
          | some x => setDir lu { getDir s lu with hostRight := x, copy := some { l with dirty := 0 } } s
        answer half l.data s)

/-- SnpData: the data, and the half stays shared. -/
def execHostSnpdata (s : State) : Result := hostSnoop .hostSnpdata false (some .shared) s
/-- SnpInv: the half leaves the part. -/
def execHostSnpinv (s : State) : Result := hostSnoop .hostSnpinv true (some .none) s
/-- SnpCur: the current value, and nothing changes hands. -/
def execHostSnpcur (s : State) : Result := hostSnoop .hostSnpcur false none s

/-- HOST_CACHE_RESPONSE: the host answers the oldest request about the half, which takes the way and the tenant that were
kept for it; what waited for it goes on. -/
def execHostCacheResponse (s : State) : Result :=
  let half := arg s 0
  let lu := hostHalf half
  .next (match s.cxl.find? fun p => p.1 == half with
    | none => s
    | some p =>
      let s := { s with cxl := s.cxl.erase p }
      let e := getDir s lu
      let filled : LineData := e.copy.getD { data := arg s 1 % 2 ^ 512 }
      let fill (right : HostSt) (s : State) : State :=
        installHome lu filled (fun s => homeStamps s lu) (setDir lu { e with hostRight := right } s)
      let s := match p.2 with
        | 0 => fill (if e.hostRight = .owned then .owned else .shared) s
        | 1 => fill .owned s
        | _ => s
      serveWaiting 64 lu s)

/-! ## Fabric peers (R312) -/

/-- Operands in pairs. -/
def pairsOf : List Nat → List (Nat × Nat)
  | a :: b :: l => (a, b) :: pairsOf l
  | _ => []

/-- One element of an atomic of n bytes at the home: the state, the old values before, the poisoned granules met, and
whether the line is written already. A poisoned granule is left as it is (R264). -/
def peerElem (op n expected : Nat) (a : State × List Nat × List Nat × Bool) (p : Nat × Nat) :
    State × List Nat × List Nat × Bool :=
  let (s, olds, pois, again) := a
  let lu := luOf p.1
  let off := p.1 - luBase lu
  let r := lineBytes lu (homeCopy s lu) off n
  if r.pois.isEmpty then
    let write := if again then homeJoin else homeWrite
    (write lu (combine op n r.val p.2 expected <<< (8 * off)) (maskOf off n) s, olds ++ [r.val], pois, true)
  else (s, olds ++ [0], pois ++ r.pois, again)

/-- The elements of an atomic on one line, once it is collected, in order as one operation (R260): its answer holds the
old values, each in n bytes. -/
def peerAtomic (op n expected : Nat) (l : List (Nat × Nat)) (s : State) : State :=
  let (s, olds, pois, _) := l.foldl (peerElem op n expected) (s, [], [], false)
  let reply := olds.zipIdx.foldl (fun x p => x + p.1 <<< (8 * n * p.2)) 0
  answer ((l.map (·.1)).headD 0) reply (deliverPoison pois none none s)

/-- PEER_REQUEST: op 0 loads, 1 stores, 2 + k is the atomic of `combine` code k, and a larger op is no request;
performed at the home, and the answer goes back to the peer. The further elements of an atomic on one line are further
operands, address and value. -/
def execPeerRequest (s : State) : Result :=
  let op := arg s 0
  let pa := arg s 1
  let n := arg s 2
  .next (if !isDevicePa pa || decide (15 < op) then s
    else match op with
      | 0 => outsideRead .peerRequest (tryLater .peerRequest) pa pa n s
      | 1 =>
        let (s, ok) := outsideWrite .peerRequest pa n (arg s 3) s
        if ok then answer pa 0 s else tryLater .peerRequest s
      | _ =>
        let l := (pa, arg s 3) :: (pairsOf (s.args.drop 5)).filter fun p => luOf p.1 == luOf pa
        let (s, ok) := collectPieces (.outside .peerRequest s.args) (l.map fun p => (p.1, n, 0)) true s
        if ok then peerAtomic (op - 2) n (arg s 4) l s else tryLater .peerRequest s)

/-- PEER_RESPONSE: a peer, or the host for an uncached access, answers; a write or an atomic is no longer
outstanding (R317). -/
def execPeerResponse (s : State) : Result :=
  .next (match s.remotes.find? fun r => r.id == arg s 0 && r.reply.isNone with
    | none => s
    | some r =>
      let s := if r.kind = 0 then s else remoteWriteDone r s
      if r.kind = 1 then dropRemote r.id s
      else { s with remotes := s.remotes.map fun x => if x.id = r.id then { x with reply := some (arg s 1) } else x })

end Sys2Proof.Machine
end

