-- ==== Sys2Proof/Machine/Sys.lean ====
section
/-! DEFINITION. The system instructions: TRAP, ERET, FENCE, WFA and SNAP (R212 to R215, R325, R370). -/

namespace Sys2Proof.Machine

/-- TRAP (R212): cause 0x10 with the code, `epc` after the instruction. -/
def execTrap (code : BitVec 10) (s : State) : Result :=
  if queueBusy s.h then stall s
  else .next (takeTrap false 0x10 (code.zeroExtend 64) (s.h.pc + 4) 32 (perfAdd 0 1 s))

/-- The slots of the entries a replay may name: the head entry, or any member of the head convoy (R370). -/
def replaySlots (h : Hart) : List Nat :=
  match h.queue with
  | [] => []
  | .convoy hdr _ :: _ => (upTo (headerCount hdr + 1)).map fun j => (h.qhead + j) % 32
  | _ :: _ => [h.qhead]

/-- ERET (R213): the return, and the replay that `status.partial` asks for (R370). The return of the scheduler's entry
ends with the acquire of R324. -/
def execEret (s : State) : Result :=
  if !isSuper s.h && !hndBit s.h then scalarTrap 0x05 (parcelsOf .eret) s
  else if partialBit s.h && !(replaySlots s.h).contains s.h.trapqpos.toNat then
    scalarTrap 0x04 (Config.trapvalOpen s.tick) (tickUp s)
  else
    let replay := partialBit s.h
    let s := if schedBit s.h then acquire (curCore s) s else s
    .next (perfAdd 0 1 { s with h := { trapReturn s.h with replay := replay, waitT0 := none } })

/-- FENCE (R325): a fence that reads waits for the queued reads, the others for every queued access, at system
scope also for the acknowledgements of remote writes; kinds 1 and 3 are acquires. -/
def execFence (kind scope : BitVec 5) (s : State) : Result :=
  if kind = 0 ∨ 3 < kind.toNat ∨ 4 < scope.toNat then scalarTrap 0x01 (parcelsOf (.fence kind scope)) s
  else if kind = 1 then
    if queuedWork readsMemory s.h then stall s else .next (advance (acquireAt scope.toNat (curCore s) s))
  else if released scope.toNat s then
    .next (advance (if kind = 3 then acquireAt scope.toNat (curCore s) s else s))
  else stall s

/-- The hart stays in WFA. -/
def wfaStay (s : State) : Result :=
  let s := dropReplies s.cur s
  stall { s with h := { s.h with wfaWait := true } }

/-- WFA (R214): the wait ends when the doubleword differs from s[b], or when an interrupt that is taken or a
pre-emption is pending. -/
def execWfa (a b : SReg) (s : State) : Result :=
  let va := (readS s a).toNat
  whenReady [a, b] s <|
    if va % 8 ≠ 0 then scalarTrap 0x0D (word va) s
    else if fifoBankAt s va then scalarTrap 0x0C (word va) s
    else if queueBlocks s va 8 false then stall s
    else match runAcc (do readMem (currentWho (← get)) va 8 0 0 .load) s with
      | (.error .wait, s) =>
        if (ieBit s.h && !s.h.irqs.isEmpty) || s.h.preempt then .next (scalarDone va { val := 0 } s)
        else stall { s with h := { s.h with wfaWait := true } }
      | (.error (.fault cause fa), s) => scalarTrap cause (word fa) s
      | (.ok r, s) =>
        if poisonWaits r s then stall s
        else if loadedWord false 8 r ≠ readS s b then .next (scalarDone va r (acquire (curCore s) s))
        else if (ieBit s.h && !s.h.irqs.isEmpty) || s.h.preempt then .next (scalarDone va { r with pois := [] } s)
        else wfaStay s

/-- SNAP (R215). -/
def execSnap (s : State) : Result :=
  let s := if (getDie s (curDie s)).snapEn.getLsbD 0 then fireSnapshot s else s
  .next (advance s)

end Sys2Proof.Machine
end

