-- ==== Sys2Proof/Machine/Dispatch.lean ====
section
/-! DEFINITION. One arm per row of the opcode table: the meaning of each instruction and step. -/

namespace Sys2Proof.Machine

/-- What an instruction or a step does to the machine: the instruction is the one at the PC of the turn's
hart, a step's operands stand in `args`. -/
def exec (i : Instr) (s : State) : Host.Outcome State Fault Refusal :=
  match i with
  | .add d a b => Sys2Proof.Machine.execAdd d a b s
  | .sub d a b => Sys2Proof.Machine.execSub d a b s
  | .and d a b => Sys2Proof.Machine.execAnd d a b s
  | .or d a b => Sys2Proof.Machine.execOr d a b s
  | .xor d a b => Sys2Proof.Machine.execXor d a b s
  | .sll d a b => Sys2Proof.Machine.execSll d a b s
  | .srl d a b => Sys2Proof.Machine.execSrl d a b s
  | .sra d a b => Sys2Proof.Machine.execSra d a b s
  | .slt d a b => Sys2Proof.Machine.execSlt d a b s
  | .sltu d a b => Sys2Proof.Machine.execSltu d a b s
  | .min d a b => Sys2Proof.Machine.execMin d a b s
  | .max d a b => Sys2Proof.Machine.execMax d a b s
  | .minu d a b => Sys2Proof.Machine.execMinu d a b s
  | .maxu d a b => Sys2Proof.Machine.execMaxu d a b s
  | .mul d a b => Sys2Proof.Machine.execMul d a b s
  | .mulh d a b => Sys2Proof.Machine.execMulh d a b s
  | .mulhu d a b => Sys2Proof.Machine.execMulhu d a b s
  | .div d a b => Sys2Proof.Machine.execDiv d a b s
  | .divu d a b => Sys2Proof.Machine.execDivu d a b s
  | .rem d a b => Sys2Proof.Machine.execRem d a b s
  | .remu d a b => Sys2Proof.Machine.execRemu d a b s
  | .clz d a => Sys2Proof.Machine.execClz d a s
  | .ctz d a => Sys2Proof.Machine.execCtz d a s
  | .popc d a => Sys2Proof.Machine.execPopc d a s
  | .addi d a imm => Sys2Proof.Machine.execAddi d a imm s
  | .andi d a imm => Sys2Proof.Machine.execAndi d a imm s
  | .ori d a imm => Sys2Proof.Machine.execOri d a imm s
  | .xori d a imm => Sys2Proof.Machine.execXori d a imm s
  | .slti d a imm => Sys2Proof.Machine.execSlti d a imm s
  | .sltiu d a imm => Sys2Proof.Machine.execSltiu d a imm s
  | .slli d a sh => Sys2Proof.Machine.execSlli d a sh s
  | .srli d a sh => Sys2Proof.Machine.execSrli d a sh s
  | .srai d a sh => Sys2Proof.Machine.execSrai d a sh s
  | .lihi d imm => Sys2Proof.Machine.execLihi d imm s
  | .pcadd d imm => Sys2Proof.Machine.execPcadd d imm s
  | .ldb d a imm => Sys2Proof.Machine.execLdb d a imm s
  | .ldbu d a imm => Sys2Proof.Machine.execLdbu d a imm s
  | .ldh d a imm => Sys2Proof.Machine.execLdh d a imm s
  | .ldhu d a imm => Sys2Proof.Machine.execLdhu d a imm s
  | .ldw d a imm => Sys2Proof.Machine.execLdw d a imm s
  | .ldwu d a imm => Sys2Proof.Machine.execLdwu d a imm s
  | .ldd d a imm => Sys2Proof.Machine.execLdd d a imm s
  | .stb a b imm => Sys2Proof.Machine.execStb a b imm s
  | .sth a b imm => Sys2Proof.Machine.execSth a b imm s
  | .stw a b imm => Sys2Proof.Machine.execStw a b imm s
  | .std a b imm => Sys2Proof.Machine.execStd a b imm s
  | .beq a b off => Sys2Proof.Machine.execBeq a b off s
  | .bne a b off => Sys2Proof.Machine.execBne a b off s
  | .blt a b off => Sys2Proof.Machine.execBlt a b off s
  | .bge a b off => Sys2Proof.Machine.execBge a b off s
  | .bltu a b off => Sys2Proof.Machine.execBltu a b off s
  | .bgeu a b off => Sys2Proof.Machine.execBgeu a b off s
  | .call d off => Sys2Proof.Machine.execCall d off s
  | .callr d a imm => Sys2Proof.Machine.execCallr d a imm s
  | .amoAdd scope aq rl wide d a b => Sys2Proof.Machine.execAmoAdd scope aq rl wide d a b s
  | .amoSwap scope aq rl wide d a b => Sys2Proof.Machine.execAmoSwap scope aq rl wide d a b s
  | .amoCas scope aq rl wide d a b => Sys2Proof.Machine.execAmoCas scope aq rl wide d a b s
  | .amoMin scope aq rl wide d a b => Sys2Proof.Machine.execAmoMin scope aq rl wide d a b s
  | .amoMax scope aq rl wide d a b => Sys2Proof.Machine.execAmoMax scope aq rl wide d a b s
  | .amoAnd scope aq rl wide d a b => Sys2Proof.Machine.execAmoAnd scope aq rl wide d a b s
  | .amoOr scope aq rl wide d a b => Sys2Proof.Machine.execAmoOr scope aq rl wide d a b s
  | .amoXor scope aq rl wide d a b => Sys2Proof.Machine.execAmoXor scope aq rl wide d a b s
  | .trap code => Sys2Proof.Machine.execTrap code s
  | .eret => Sys2Proof.Machine.execEret s
  | .fence kind scope => Sys2Proof.Machine.execFence kind scope s
  | .wfa a b => Sys2Proof.Machine.execWfa a b s
  | .snap => Sys2Proof.Machine.execSnap s
  | .cfgrd d csr => Sys2Proof.Machine.execCfgrd d csr s
  | .cfgwr d a csr => Sys2Proof.Machine.execCfgwr d a csr s
  | .cfgset d a csr => Sys2Proof.Machine.execCfgset d a csr s
  | .cfgclr d a csr => Sys2Proof.Machine.execCfgclr d a csr s
  | .settle d a b => Sys2Proof.Machine.execSettle d a b s
  | .renew a b => Sys2Proof.Machine.execRenew a b s
  | .discard a b => Sys2Proof.Machine.execDiscard a b s
  | .pref a b => Sys2Proof.Machine.execPref a b s
  | .regdef d a b => Sys2Proof.Machine.execRegdef d a b s
  | .tlbinv d a b => Sys2Proof.Machine.execTlbinv d a b s
  | .tlbwait => Sys2Proof.Machine.execTlbwait s
  | .bankcfg d a b => Sys2Proof.Machine.execBankcfg d a b s
  | .cbld a => Sys2Proof.Machine.execCbld a s
  | .rdcnt space d a => Sys2Proof.Machine.execRdcnt space d a s
  | .waitc space d a b => Sys2Proof.Machine.execWaitc space d a b s
  | .bararv d a b => Sys2Proof.Machine.execBararv d a b s
  | .barwait d a b => Sys2Proof.Machine.execBarwait d a b s
  | .rlaunch d a => Sys2Proof.Machine.execRlaunch d a s
  | .rwait d a => Sys2Proof.Machine.execRwait d a s
  | .ryield => Sys2Proof.Machine.execRyield s
  | .rexit a => Sys2Proof.Machine.execRexit a s
  | .nextit d => Sys2Proof.Machine.execNextit d s
  | .cpgo d a b => Sys2Proof.Machine.execCpgo d a b s
  | .ipgo d a => Sys2Proof.Machine.execIpgo d a s
  | .epush a b => Sys2Proof.Machine.execEpush a b s
  | .epop d a => Sys2Proof.Machine.execEpop d a s
  | .convoyHeader s6 s5 s4 s3 s2 s1 k => Sys2Proof.Machine.execConvoyHeader s6 s5 s4 s3 s2 s1 k s
  | .vcfg f => Sys2Proof.Machine.execVcfg f s
  | .setvl f => Sys2Proof.Machine.execSetvl f s
  | .vadd f => Sys2Proof.Machine.execVadd f s
  | .vsub f => Sys2Proof.Machine.execVsub f s
  | .vmul f => Sys2Proof.Machine.execVmul f s
  | .vmulh f => Sys2Proof.Machine.execVmulh f s
  | .vmulhu f => Sys2Proof.Machine.execVmulhu f s
  | .vmin f => Sys2Proof.Machine.execVmin f s
  | .vmax f => Sys2Proof.Machine.execVmax f s
  | .vminu f => Sys2Proof.Machine.execVminu f s
  | .vmaxu f => Sys2Proof.Machine.execVmaxu f s
  | .vand f => Sys2Proof.Machine.execVand f s
  | .vor f => Sys2Proof.Machine.execVor f s
  | .vxor f => Sys2Proof.Machine.execVxor f s
  | .vsll f => Sys2Proof.Machine.execVsll f s
  | .vsrl f => Sys2Proof.Machine.execVsrl f s
  | .vsra f => Sys2Proof.Machine.execVsra f s
  | .vaddsat f => Sys2Proof.Machine.execVaddsat f s
  | .vsubsat f => Sys2Proof.Machine.execVsubsat f s
  | .vcmpeq f => Sys2Proof.Machine.execVcmpeq f s
  | .vcmplt f => Sys2Proof.Machine.execVcmplt f s
  | .vcmpltu f => Sys2Proof.Machine.execVcmpltu f s
  | .vfadd rm f => Sys2Proof.Machine.execVfadd rm f s
  | .vfsub rm f => Sys2Proof.Machine.execVfsub rm f s
  | .vfmul rm f => Sys2Proof.Machine.execVfmul rm f s
  | .vfma rm f => Sys2Proof.Machine.execVfma rm f s
  | .vfms rm f => Sys2Proof.Machine.execVfms rm f s
  | .vfnma rm f => Sys2Proof.Machine.execVfnma rm f s
  | .vfmin rm f => Sys2Proof.Machine.execVfmin rm f s
  | .vfmax rm f => Sys2Proof.Machine.execVfmax rm f s
  | .vfabs rm f => Sys2Proof.Machine.execVfabs rm f s
  | .vfneg rm f => Sys2Proof.Machine.execVfneg rm f s
  | .vfcmpeq rm f => Sys2Proof.Machine.execVfcmpeq rm f s
  | .vfcmplt rm f => Sys2Proof.Machine.execVfcmplt rm f s
  | .vfcmple rm f => Sys2Proof.Machine.execVfcmple rm f s
  | .vfclass rm f => Sys2Proof.Machine.execVfclass rm f s
  | .vfrcp f => Sys2Proof.Machine.execVfrcp f s
  | .vfrsq f => Sys2Proof.Machine.execVfrsq f s
  | .vfrcps f => Sys2Proof.Machine.execVfrcps f s
  | .vfrsqs f => Sys2Proof.Machine.execVfrsqs f s
  | .vfexp2 f => Sys2Proof.Machine.execVfexp2 f s
  | .vflog2 f => Sys2Proof.Machine.execVflog2 f s
  | .vftanh f => Sys2Proof.Machine.execVftanh f s
  | .vcvt rm sat f => Sys2Proof.Machine.execVcvt rm sat f s
  | .vqnt rm sat f => Sys2Proof.Machine.execVqnt rm sat f s
  | .vdqnt rm sat f => Sys2Proof.Machine.execVdqnt rm sat f s
  | .vcbdec rm sat f => Sys2Proof.Machine.execVcbdec rm sat f s
  | .vredsum f => Sys2Proof.Machine.execVredsum f s
  | .vredmin f => Sys2Proof.Machine.execVredmin f s
  | .vredmax f => Sys2Proof.Machine.execVredmax f s
  | .vfredsum f => Sys2Proof.Machine.execVfredsum f s
  | .vfredmin f => Sys2Proof.Machine.execVfredmin f s
  | .vfredmax f => Sys2Proof.Machine.execVfredmax f s
  | .vperm f => Sys2Proof.Machine.execVperm f s
  | .vslideup f => Sys2Proof.Machine.execVslideup f s
  | .vslidedn f => Sys2Proof.Machine.execVslidedn f s
  | .vcompress f => Sys2Proof.Machine.execVcompress f s
  | .vexpand f => Sys2Proof.Machine.execVexpand f s
  | .vgtrn f => Sys2Proof.Machine.execVgtrn f s
  | .vqtrn f => Sys2Proof.Machine.execVqtrn f s
  | .vbsll f => Sys2Proof.Machine.execVbsll f s
  | .vbsrl f => Sys2Proof.Machine.execVbsrl f s
  | .vbfsl f => Sys2Proof.Machine.execVbfsl f s
  | .vbfsr f => Sys2Proof.Machine.execVbfsr f s
  | .mand f => Sys2Proof.Machine.execMand f s
  | .mor f => Sys2Proof.Machine.execMor f s
  | .mxor f => Sys2Proof.Machine.execMxor f s
  | .mandn f => Sys2Proof.Machine.execMandn f s
  | .mset f => Sys2Proof.Machine.execMset f s
  | .mpopc f => Sys2Proof.Machine.execMpopc f s
  | .mfirst f => Sys2Proof.Machine.execMfirst f s
  | .vmv f => Sys2Proof.Machine.execVmv f s
  | .vmvs f => Sys2Proof.Machine.execVmvs f s
  | .vins f => Sys2Proof.Machine.execVins f s
  | .vbcast f => Sys2Proof.Machine.execVbcast f s
  | .viota f => Sys2Proof.Machine.execViota f s
  | .vmerge f => Sys2Proof.Machine.execVmerge f s
  | .vld hint f => Sys2Proof.Machine.execVld hint f s
  | .vlds hint f => Sys2Proof.Machine.execVlds hint f s
  | .vldx hint f => Sys2Proof.Machine.execVldx hint f s
  | .vst f => Sys2Proof.Machine.execVst f s
  | .vsts f => Sys2Proof.Machine.execVsts f s
  | .vstx f => Sys2Proof.Machine.execVstx f s
  | .vamo op old f => Sys2Proof.Machine.execVamo op old f s
  | .vupd tag f => Sys2Proof.Machine.execVupd tag f s
  | .smld f => Sys2Proof.Machine.execSmld f s
  | .smst f => Sys2Proof.Machine.execSmst f s
  | .smget f => Sys2Proof.Machine.execSmget f s
  | .smput f => Sys2Proof.Machine.execSmput f s
  | .smid f => Sys2Proof.Machine.execSmid f s
  | .smadd f => Sys2Proof.Machine.execSmadd f s
  | .smscl f => Sys2Proof.Machine.execSmscl f s
  | .smmul f => Sys2Proof.Machine.execSmmul f s
  | .smma f => Sys2Proof.Machine.execSmma f s
  | .smtr f => Sys2Proof.Machine.execSmtr f s
  | .smmv f => Sys2Proof.Machine.execSmmv f s
  | .smchol f => Sys2Proof.Machine.execSmchol f s
  | .smlu f => Sys2Proof.Machine.execSmlu f s
  | .smsolv f => Sys2Proof.Machine.execSmsolv f s
  | .mcfg f => Sys2Proof.Machine.execMcfg f s
  | .mldw f => Sys2Proof.Machine.execMldw f s
  | .mswap f => Sys2Proof.Machine.execMswap f s
  | .mstrm f => Sys2Proof.Machine.execMstrm f s
  | .mdrn f => Sys2Proof.Machine.execMdrn f s
  | .mzero f => Sys2Proof.Machine.execMzero f s
  | .mspl f => Sys2Proof.Machine.execMspl f s
  | .mfil f => Sys2Proof.Machine.execMfil f s
  | .vproj f => Sys2Proof.Machine.execVproj f s
  | .vpjadj f => Sys2Proof.Machine.execVpjadj f s
  | .vsave f => Sys2Proof.Machine.execVsave f s
  | .vrest f => Sys2Proof.Machine.execVrest f s
  | .vqsave f => Sys2Proof.Machine.execVqsave f s
  | .vqrest f => Sys2Proof.Machine.execVqrest f s
  | .readBackDelivery => Sys2Proof.Machine.execReadBackDelivery s
  | .takeInterrupt => Sys2Proof.Machine.execTakeInterrupt s
  | .schedulerEntry => Sys2Proof.Machine.execSchedulerEntry s
  | .regionBind => Sys2Proof.Machine.execRegionBind s
  | .coreTakeover => Sys2Proof.Machine.execCoreTakeover s
  | .budgetStop => Sys2Proof.Machine.execBudgetStop s
  | .park => Sys2Proof.Machine.execPark s
  | .parkedResume => Sys2Proof.Machine.execParkedResume s
  | .iterationDispatch => Sys2Proof.Machine.execIterationDispatch s
  | .regionComplete => Sys2Proof.Machine.execRegionComplete s
  | .fillRequest => Sys2Proof.Machine.execFillRequest s
  | .getw => Sys2Proof.Machine.execGetw s
  | .recall => Sys2Proof.Machine.execRecall s
  | .dieGetu => Sys2Proof.Machine.execDieGetu s
  | .mergeRequest => Sys2Proof.Machine.execMergeRequest s
  | .uCopyEviction => Sys2Proof.Machine.execUCopyEviction s
  | .leaseRenewal => Sys2Proof.Machine.execLeaseRenewal s
  | .leaseHolderTimeout => Sys2Proof.Machine.execLeaseHolderTimeout s
  | .leaseExpiry => Sys2Proof.Machine.execLeaseExpiry s
  | .timestampRollover => Sys2Proof.Machine.execTimestampRollover s
  | .gets => Sys2Proof.Machine.execGets s
  | .getm => Sys2Proof.Machine.execGetm s
  | .upg => Sys2Proof.Machine.execUpg s
  | .putm => Sys2Proof.Machine.execPutm s
  | .puto => Sys2Proof.Machine.execPuto s
  | .pute => Sys2Proof.Machine.execPute s
  | .putu => Sys2Proof.Machine.execPutu s
  | .fwdgets => Sys2Proof.Machine.execFwdgets s
  | .fwdgetm => Sys2Proof.Machine.execFwdgetm s
  | .inv => Sys2Proof.Machine.execInv s
  | .invack => Sys2Proof.Machine.execInvack s
  | .data => Sys2Proof.Machine.execData s
  | .ackToDie => Sys2Proof.Machine.execAckToDie s
  | .ackToHome => Sys2Proof.Machine.execAckToHome s
  | .getu => Sys2Proof.Machine.execGetu s
  | .mrgreq => Sys2Proof.Machine.execMrgreq s
  | .mrgdata => Sys2Proof.Machine.execMrgdata s
  | .hostMemrd => Sys2Proof.Machine.execHostMemrd s
  | .hostOwnershipRequest => Sys2Proof.Machine.execHostOwnershipRequest s
  | .hostMemwr => Sys2Proof.Machine.execHostMemwr s
  | .hostSnpdata => Sys2Proof.Machine.execHostSnpdata s
  | .hostSnpinv => Sys2Proof.Machine.execHostSnpinv s
  | .hostSnpcur => Sys2Proof.Machine.execHostSnpcur s
  | .hostBar2Read => Sys2Proof.Machine.execHostBar2Read s
  | .hostBar2Write => Sys2Proof.Machine.execHostBar2Write s
  | .peerRequest => Sys2Proof.Machine.execPeerRequest s
  | .settleComplete => Sys2Proof.Machine.execSettleComplete s
  | .ipcmdDispatch => Sys2Proof.Machine.execIpcmdDispatch s
  | .ipcmdComplete => Sys2Proof.Machine.execIpcmdComplete s
  | .copyChunk => Sys2Proof.Machine.execCopyChunk s
  | .copyCommandComplete => Sys2Proof.Machine.execCopyCommandComplete s
  | .cpctlAbort => Sys2Proof.Machine.execCpctlAbort s
  | .cpctlRetry => Sys2Proof.Machine.execCpctlRetry s
  | .tlbinvAcknowledge => Sys2Proof.Machine.execTlbinvAcknowledge s
  | .fifoBankWake => Sys2Proof.Machine.execFifoBankWake s
  | .scrubRow => Sys2Proof.Machine.execScrubRow s
  | .scoreHalving => Sys2Proof.Machine.execScoreHalving s
  | .launchWrite => Sys2Proof.Machine.execLaunchWrite s
  | .ltakeLoad => Sys2Proof.Machine.execLtakeLoad s
  | .lstatOverrunClear => Sys2Proof.Machine.execLstatOverrunClear s
  | .ldoneWrite => Sys2Proof.Machine.execLdoneWrite s
  | .errownWrite => Sys2Proof.Machine.execErrownWrite s
  | .errpopWrite => Sys2Proof.Machine.execErrpopWrite s
  | .hosterrWrite => Sys2Proof.Machine.execHosterrWrite s
  | .bistctlGo => Sys2Proof.Machine.execBistctlGo s
  | .bistComplete => Sys2Proof.Machine.execBistComplete s
  | .retreqLaneGroup => Sys2Proof.Machine.execRetreqLaneGroup s
  | .retreqSliceWay => Sys2Proof.Machine.execRetreqSliceWay s
  | .retreqLinkPort => Sys2Proof.Machine.execRetreqLinkPort s
  | .retrowGo => Sys2Proof.Machine.execRetrowGo s
  | .snaptrigWrite => Sys2Proof.Machine.execSnaptrigWrite s
  | .snapinTrigger => Sys2Proof.Machine.execSnapinTrigger s
  | .snapshotLatch => Sys2Proof.Machine.execSnapshotLatch s
  | .portctlRetire => Sys2Proof.Machine.execPortctlRetire s
  | .portctlTrain => Sys2Proof.Machine.execPortctlTrain s
  | .portTrainingDone => Sys2Proof.Machine.execPortTrainingDone s
  | .portDown => Sys2Proof.Machine.execPortDown s
  | .flitCrcRetry => Sys2Proof.Machine.execFlitCrcRetry s
  | .fwctlRestore => Sys2Proof.Machine.execFwctlRestore s
  | .fwctlProgram => Sys2Proof.Machine.execFwctlProgram s
  | .fwctlEnrol => Sys2Proof.Machine.execFwctlEnrol s
  | .fwctlRevoke => Sys2Proof.Machine.execFwctlRevoke s
  | .fwctlComplete => Sys2Proof.Machine.execFwctlComplete s
  | .registerWrite => Sys2Proof.Machine.execRegisterWrite s
  | .clockThrottleStep => Sys2Proof.Machine.execClockThrottleStep s
  | .powerOn => Sys2Proof.Machine.execPowerOn s
  | .powerDomainLoss => Sys2Proof.Machine.execPowerDomainLoss s
  | .thermalShutdown => Sys2Proof.Machine.execThermalShutdown s
  | .waitlimExpiry => Sys2Proof.Machine.execWaitlimExpiry s
  | .peerResponse => Sys2Proof.Machine.execPeerResponse s
  | .hostCacheResponse => Sys2Proof.Machine.execHostCacheResponse s
  | .backInvalidationResponse => Sys2Proof.Machine.execBackInvalidationResponse s

end Sys2Proof.Machine
end

