-- ==== Sys2Proof/Machine/Turn.lean ====
section
/-! DEFINITION. What one step of the machine is made of: the fetch of the instruction at the PC (R53, R108), a
hart's turn, time that passes (R376, R401), what the other agents do by themselves, and the order of turns when
the agenda is empty (log 1). -/

namespace Sys2Proof.Machine

/-! ## Fetch -/

/-- A logical hart that has exited stands halted: it receives no further iteration (R369, R402). -/
def markHalted (l : Option (Nat × Nat)) (s : State) : State :=
  match l with
  | none => s
  | some (rcb, lh) =>
    let r := getRegion s rcb
    setRegion rcb (setLogical lh { getLogical r lh with place := .halted } r) s

/-- A hart whose fetch at `trapvec` faults halts (R369): a record, and it counts as exited in its region. -/
def haltHart (s : State) : State :=
  let c := curCore s
  let place := s.h.trapvec.toNat
  let s := dropFetch none place s
  let s := postErr (dieOfCore c) 10 (unitOfCore c) place 0 none none (countErr 12 s)
  match s.h.logical with
  | some l => markHalted (some l) (exitHart s.cur (BitVec.allOnes 64) { s with h := discardFrozen s.h })
  | none => { s with h := { s.h with run := .halted } }

/-- The fetch of the instruction at the PC faults, with the address of the parcel that failed. -/
def fetchFault (cause va : Nat) (s : State) : Result :=
  if s.h.pc = s.h.trapvec then (if queueBusy s.h then stall s else .next (haltHart s))
  else scalarTrap cause (word va) s

/-- Fetch, decode and run the instruction at the PC (R52, R53, R68). -/
def fetchRun (s : State) : Result :=
  let pc := s.h.pc.toNat
  match runAcc (fetchInstr pc) s with
  | (.ok (_, some i, gs), s) => deliverFetched gs (exec i (dropFetch (some i) pc s))
  | (.ok (w, none, gs), s) => deliverFetched gs (scalarTrap 0x01 (word w) (dropFetch none pc s))
  | (.error .wait, s) => stall s
  | (.error (.fault cause va), s) => fetchFault cause va s

/-! ## A hart's turn -/

/-- One value of the read-back queue is delivered at the beginning of a turn (R335). -/
def deliverTurn (s : State) : State := if s.h.readback.isEmpty then s else { s with h := deliverOne s.h }

/-- The scalar side runs the instruction at the PC, once the replay that ERET has begun is over (R213). -/
def scalarTurn (s : State) : Result := if s.h.replay then .next s else fetchRun s

/-- The turn's hart: what it takes at this boundary comes first (R343, R368, R373); else the
head of its vector queue executes, and then the scalar side runs the instruction at the PC. -/
def hartTurn (s : State) : Result :=
  if s.h.run != .running then .next s
  else
    let s := deliverTurn s
    match boundaryEvent s with
    | some s => .next s
    | none => scalarTurn (runHead s)

/-- A hart that is asked to stop and accepts it, or has an interrupt that it takes, finds its head after so many
element groups, and stops there (R31, R342, R368). -/
def stopInside (groups : Nat) (s : State) : State :=
  if s.h.run == .running && ((s.h.preempt && acceptsStop s.h) || (ieBit s.h && !s.h.irqs.isEmpty)) then
    let s := runInside groups s
    (boundaryEvent s).getD s
  else s

/-! ## Time -/

/-- Every placed hart of a region and of its descendants uses the cycles that pass (R401). -/
def placedHarts (s : State) (rcb : Nat) : Nat :=
  ((treeOf s rcb).map fun x =>
    ((getRegion s x).harts.filter fun l => match l.place with | .placed _ => true | _ => false).length).sum

def useCycles (n : Nat) (s : State) : State :=
  { s with regions := s.regions.map fun p =>
      if p.2.state = 1 ∨ p.2.state = 5 then (p.1, { p.2 with used := (p.2.used + n * placedHarts s p.1) % 2 ^ 64 })
      else p }

/-- Regions that wait for no core begin to wait now at the earliest (R400). -/
def waitFromNow (idle : List Nat) (s : State) : State :=
  { s with regions := s.regions.map fun p =>
      if idle.contains p.1 then (p.1, { p.2 with waitingSince := timerOf s p.2.die }) else p }

/-- A core that sends renewals (R292): one that failed its self-test does not (log 38). -/
def liveCore (s : State) (c : Nat) : Bool := !((getCore s c).retired && (getCore s c).retiredGroups != 255)

/-- For each L1 copy that satisfies a test, a step of its core. -/
def eachCopy (test : State → Nat → L1Copy → Bool) (f : Nat → Nat → State → State) (s : State) : State :=
  s.l1.foldl (fun s p =>
    let c := p.1 / 2 ^ 44
    let lu := p.1 % 2 ^ 44
    if test s c (getCopy s c lu) then f c lu s else s) s

/-- What the leases of a die come to as time passes: live cores renew at half a window, a holder without a reply drops
its copy at seven eighths, and the slices expire what has lapsed (R292, R293, R295). -/
def leasesDue (s : State) : State :=
  let s := eachCopy (fun s c k => liveCore s c && renewalDue s c k) renewLease s
  let s := eachCopy holderDue dropCopy s
  s.l2.foldl (fun s p => if p.2.holder = .none then s else leaseExpiry (p.1 / 2 ^ 44) (p.1 % 2 ^ 44) s) s

/-- Snapshot latches that are due (R434). -/
def latchDue (s : State) : State :=
  match s.snapPending with
  | t :: l => if t ≤ timerOf s 0 then { s with snapPending := l, snapData := snapWords s } else s
  | [] => s

/-- The output SNAPOUT is low for 1 µs after a trigger (R434). -/
def raiseSnapout (s : State) : State :=
  match s.snapLow with
  | some t => if t ≤ timerOf s 0 then { s with snapLow := none } else s
  | none => s

/-- The harts whose scalar side stands before a full queue. -/
def fullHarts (s : State) : List Nat :=
  ((s.cur, s.h) :: s.others).filterMap fun p => if p.2.run == .running && p.2.full then some p.1 else none

/-- The cycles that pass count for every hart whose scalar side stands before a full queue (R378). -/
def countFull (cycles : Nat) (s : State) : State := (fullHarts s).foldl (fun s n => perfAddOf n 7 cycles s) s

/-- The scores of hot rows halve as their half-lives pass (R394). -/
def halvingsPass (s : State) : State :=
  (upTo 8).foldl (fun s d => halveScores d s) s

/-- So many nanoseconds pass: the die timers, the core cycles at the clock's MHz, and what falls due. -/
def elapse (ns : Nat) (s : State) : State :=
  let idle := (s.regions.filter fun p => !needsCore s p.1).map fun p => p.1
  let total := s.owed + ns * s.clock
  let s := (upTo 8).foldl (fun s d => setDie d { getDie s d with timer := (timerOf s d + ns) % 2 ^ 64 } s) s
  let s := { s with cycles := (s.cycles + total / 1000) % 2 ^ 64, owed := total % 1000 }
  let s := countFull (total / 1000) s
  let s := if s.regions.isEmpty then s else waitFromNow idle (useCycles (total / 1000) s)
  let s := halvingsPass (raiseSnapout s)
  latchDue (if s.l1.isEmpty && s.l2.isEmpty then s else leasesDue s)

/-! ## What other agents do by themselves -/

/-- A message arrives, discards and writes of the host that wait are tried, a settle completes. -/
def memorySteps (s : State) : State :=
  let s := if s.net.isEmpty then s else (deliverFirst (fun _ => true) s).getD s
  let s := s.discards.foldl (fun s x => tryDiscards x.1 s) s
  let s := if s.posted.isEmpty then s else flushPosted s
  match s.settles with
  | x :: _ => completeSettle x.region x.num s
  | [] => s

/-- A base-die unit begins a command and completes one. -/
def commandSteps (s : State) : State :=
  let s := if s.h.ipFifo.isEmpty && s.ipRunning.isEmpty then s else dispatchCommand s.cur s
  match s.ipRunning.find? fun q => !q.done with
  | some q => if q.begun then ipComplete q s else ipBegin q s
  | none => s

/-- The copy channels of a core move one chunk each and complete what they have moved. -/
def channelSteps (c : Nat) (s : State) : State :=
  (upTo 4).foldl (fun s ch => if (getChannel s c ch).queue.isEmpty then s else copyComplete c ch (copyStep c ch s)) s

/-- The acknowledgements that invalidations wait for. -/
def acknowledgeSteps (s : State) : State :=
  ((s.tlbInvs.flatMap fun t => t.waiting).eraseDups).foldl (fun s c => acknowledgeFor (fun _ => true) c s) s

/-- The scheduler's steps for one region: its budget, its end, its iterations, and a core for it. -/
def regionSteps (rcb : Nat) (s : State) : State :=
  let s := if budgetSpent (getRegion s rcb) then budgetStop rcb s else s
  let s := advanceEnd rcb s
  let s := match (upTo (getRegion s rcb).harts.length).find? fun lh => (getLogical (getRegion s rcb) lh).place == .free with
    | some lh => dispatchIteration rcb lh s
    | none => s
  if !needsCore s rcb then s
  else match (upTo 576).find? fun c => bindReady s c rcb with
    | some c => bindCore c rcb s
    | none =>
      match coreToTake s rcb with
      | some c => if takerOf s c = some rcb then takeCore c rcb s else s
      | none => s

/-- The scheduler's steps for one core: what was taken is handed back, what is free in it is filled. -/
def coreSteps (c : Nat) (s : State) : State :=
  let s := handBack c s
  if (getCore s c).region.isSome then resumeOn c s else s

/-- Each of these steps once, where it has something to do. -/
def background (s : State) : State :=
  let s := commandSteps (memorySteps s)
  let s := s.cores.foldl (fun s p => channelSteps p.1 s) s
  let s := if s.tlbInvs.isEmpty then s else acknowledgeSteps s
  let s := if parkReady s s.cur then parkHart s.cur s else s
  if s.regions.isEmpty then s
  else
    let s := s.regions.foldl (fun s p => regionSteps p.1 s) s
    s.cores.foldl (fun s p => coreSteps p.1 s) s

/-! ## Turns -/

/-- The running hart whose number comes next, in a circle. -/
def nextHart (s : State) : Nat :=
  let l := s.others.filter fun p => p.2.run == .running
  match l.find? fun p => decide (s.cur < p.1) with
  | some p => p.1
  | none => (l.head?.map fun p => p.1).getD s.cur

/-- After a turn that the agenda did not ask for: one nanosecond, the other agents, the next hart. -/
def passTurn (s : State) : State :=
  let s := background (elapse 1 s)
  switchTo (nextHart s) s

/-- The rest of the machine goes on after a hart's turn. -/
def afterTurn (r : Result) : Result :=
  match r with
  | .next s => .next (passTurn s)
  | .fault f => .fault f
  | .refused f => .refused f

/-- A step of the opcode table that no instruction encodes. -/
def isStep (i : Instr) : Bool := (encodeBits i).isNone

/-- The next entry of the agenda. -/
def takeTurn (t : Turn) (s : State) : Result :=
  match t with
  | .event i l => if isStep i then exec i { s with args := l } else .fault .agendaNotEvent
  | .hart n => hartTurn (switchTo n s)
  | .elapse ns => .next (elapse ns s)
  | .power a b c => .next { s with pwrDies := a % 2 ^ 16, pwrStacks := b % 2 ^ 16, pwrIo := c % 2 ^ 16 }
  | .temperature d a b => .next (if d < 8 then setDie d { getDie s d with tempd := a % 2 ^ 16, temps := b % 2 ^ 32 } s else s)
  | .upset g c => .next (granuleError g c s)
  | .engineUpset c which idx => .next (if c < 576 then engineError c which idx s else s)
  | .registerUpset n reg e => .next (if n < 4608 then registerError n reg e s else s)
  | .wayUpset d n w => .next (if d < 8 ∧ n < 48 then wayError d n w s else s)
  | .corrected => .next (countErr 0 s)
  | .boot => .next (bootStep s)
  | .resizeBar2 gib => .next (resizeBar2 gib s)
  | .hostRead off n => .next (hostRead off n s)
  | .stopInside n groups => .next (if n < 4608 then asHart n (stopInside groups) s else s)
  | .earlyRead n pos => .next (if n < 4608 ∧ (getHart s n).run = .running then asHart n (earlyRead pos) s else s)

/-! ## Placing an instruction to run -/

/-- The virtual page and the frame at which an instruction is placed. -/
def codeVa : Nat := 0x1000
def codePa : Nat := 0x10000000000

/-- A leaf with V, R, X, A, G, SL and NC: the code is read at its home. -/
def codeEntry : MtbEntry := { vpn := 1, level := 3, asid := 0, pte := codePa + 0x2DB }

/-- The two parcels of an instruction in the arrays, and nothing of them in a cache. -/
def placeCode (w : Nat) (s : State) : State :=
  let s := clearPoison (codePa / 32) s
  { s with mem := memWrite s.mem codePa 8 w
           dir := tdel s.dir (luOf codePa), net := s.net.filter fun m => m.lu != luOf codePa }

end Sys2Proof.Machine
end

