-- ==== Sys2Proof/Machine/Step.lean ====
section
/-! DEFINITION. One step of the machine. -/

namespace Sys2Proof.Machine

/-- One step: what the agenda says comes next; with an empty agenda a turn of the hart whose turn it is, after which
the other agents go on. -/
def step (s : State) : Host.Outcome State Fault Refusal :=
  match s.agenda with
  | t :: l => takeTurn t { s with agenda := l }
  | [] => afterTurn (hartTurn s)

/-- The state in which the next step fetches and runs the instruction with the bits w: its bytes at a page that the
core's MTB maps, the PC there, the hart running in a part that has booted, and nothing that would come first. -/
def State.withFetchWord (s : State) (nbits w : Nat) : State :=
  let k := getCore s (curCore s)
  let s := placeCode (w % 2 ^ nbits) (setCore (curCore s) { k with mtb := codeEntry :: k.mtb } s)
  { s with
    agenda := []
    powerCompute := true, powerStacks := true, powerIo := true, bootPhase := 6
    h := { s.h with run := .running, pc := word codeVa, preempt := false, irqs := [] } }

end Sys2Proof.Machine
end

