-- ==== Sys2Proof/Certificates/Slice0/Obligations.lean ====
section
/-! DEFINITION. The statements about the model. Each says in its docstring which rules of spec/ it formalises, or on
which it rests. -/

/-! ### Words the statements share -/

namespace Sys2Proof.Claim

open Sys2Proof.Machine

/-- No read-back value is outstanding for any of these registers (R109). -/
def Free (s : State) (rs : List SReg) : Prop := ∀ r ∈ rs, isPending s.h r = false

/-- Nothing but scalar registers, the PC and what a retiring scalar instruction leaves of the hart's bookkeeping has
changed: performance counter 0 and the marks of a wait. -/
def OnlyScalar (s t : State) : Prop :=
  (∀ k, k ≠ 0 → t.h.perf.toArray.getD k 0 = s.h.perf.toArray.getD k 0) ∧
  t = { s with h := { s.h with
    x := t.h.x, pc := t.h.pc, perf := t.h.perf, stalled := t.h.stalled, full := t.h.full, waitT0 := t.h.waitT0
    wfaWait := t.h.wfaWait } }

/-- Register d holds v (s0 still reads zero), every other register what it held, the PC is the one given, and
nothing else has changed. -/
def Wrote (s t : State) (d : SReg) (v pc : Word) : Prop :=
  readS t d = (if d = 0 then 0 else v) ∧ (∀ r, r ≠ d → readS t r = readS s r) ∧ t.h.pc = pc ∧ OnlyScalar s t

/-- The instruction completes with v in register d and goes on at the next instruction. -/
def Gives (i : Instr) (s : State) (d : SReg) (v : Word) : Prop :=
  ∃ t, exec i s = .next t ∧ Wrote s t d v (s.h.pc + 4)

/-- The L1 copies after an acquire of the turn's hart, when it is one: the core's copies under read leases are gone, and
its read-only copies serve read-only loads alone (log 42). -/
def Acquired (acq : Bool) (s : State) : State :=
  if acq then
    let mine (p : Nat × L1Copy) : Bool := p.1 / 2 ^ 44 == curCore s
    { s with l1 := (s.l1.filter fun p => !(mine p && p.2.st == .s)).map fun p =>
        if mine p && p.2.st == .o then (p.1, { p.2 with aged := true }) else p }
  else s

/-- The turn's hart waits at its instruction; nothing else has changed. -/
def Waiting (s : State) : State := { s with h := { s.h with stalled := true, full := false } }

/-- The instruction completes, writes no register and goes on at the PC given. -/
def GoesTo (i : Instr) (s : State) (pc : Word) : Prop := ∃ t, exec i s = .next t ∧ Wrote s t 0 0 pc

/-- One of a condition's word. -/
def truth (p : Prop) [Decidable p] : Word := if p then 1 else 0

end Sys2Proof.Claim

open Sys2Proof Sys2Proof.Machine Sys2Proof.Claim

/-! ### Scalar instructions (spec/05) -/

/-- R101: every OPR instruction but the four of R102 gives the value its row says, for every register in every field,
s0 among them (R98). -/
def Sys2Proof.Claim.ScalarRegisterArithmetic : Prop :=
  ∀ (s : State) (d a b : SReg), Free s [d, a, b] →
    let A := readS s a
    let B := readS s b
    let n := B.toNat % 64
    Gives (.add d a b) s d (A + B) ∧ Gives (.sub d a b) s d (A - B) ∧ Gives (.and d a b) s d (A &&& B) ∧
    Gives (.or d a b) s d (A ||| B) ∧ Gives (.xor d a b) s d (A ^^^ B) ∧ Gives (.sll d a b) s d (A <<< n) ∧
    Gives (.srl d a b) s d (A >>> n) ∧ Gives (.sra d a b) s d (A.sshiftRight n) ∧
    Gives (.slt d a b) s d (truth (A.toInt < B.toInt)) ∧ Gives (.sltu d a b) s d (truth (A.toNat < B.toNat)) ∧
    Gives (.min d a b) s d (if B.toInt < A.toInt then B else A) ∧
    Gives (.max d a b) s d (if A.toInt < B.toInt then B else A) ∧
    Gives (.minu d a b) s d (if B.toNat < A.toNat then B else A) ∧
    Gives (.maxu d a b) s d (if A.toNat < B.toNat then B else A) ∧ Gives (.mul d a b) s d (A * B) ∧
    Gives (.mulh d a b) s d (((A.signExtend 128 * B.signExtend 128) >>> 64).truncate 64) ∧
    Gives (.mulhu d a b) s d (((A.zeroExtend 128 * B.zeroExtend 128) >>> 64).truncate 64)

/-- R101: CLZ, CTZ and POPC count leading zeros, trailing zeros and ones; 64 zeros for zero. -/
def Sys2Proof.Claim.ScalarBitCounts : Prop :=
  ∀ (s : State) (d a : SReg), Free s [d, a] →
    let A := readS s a
    (∃ n, n ≤ 64 ∧ A.toNat < 2 ^ (64 - n) ∧ (n < 64 → 2 ^ (63 - n) ≤ A.toNat) ∧ Gives (.clz d a) s d (BitVec.ofNat 64 n)) ∧
    (∃ n, n ≤ 64 ∧ (∀ k, k < n → A.getLsbD k = false) ∧ (n < 64 → A.getLsbD n = true) ∧
      Gives (.ctz d a) s d (BitVec.ofNat 64 n)) ∧
    Gives (.popc d a) s d (BitVec.ofNat 64 ((List.range 64).countP fun k => A.getLsbD k))

/-- R101: the twenty OPR instructions of the table that divide nothing, arithmetic and bit counts. -/
def Obligations.ScalarRegisterInstructions : Prop :=
  Sys2Proof.Claim.ScalarRegisterArithmetic ∧ Sys2Proof.Claim.ScalarBitCounts

/-- R102: division truncates toward zero and never traps; by zero the quotient is all ones and the remainder is the
dividend, and the one overflow gives the dividend and remainder 0. -/
def Obligations.DivisionTruncatesAndNeverTraps : Prop :=
  ∀ (s : State) (d a b : SReg), Free s [d, a, b] →
    let A := readS s a
    let B := readS s b
    Gives (.div d a b) s d (if B = 0 then BitVec.allOnes 64 else A.sdiv B) ∧
    Gives (.divu d a b) s d (if B = 0 then BitVec.allOnes 64 else A / B) ∧
    Gives (.rem d a b) s d (if B = 0 then A else A.srem B) ∧
    Gives (.remu d a b) s d (if B = 0 then A else A % B)

/-- R103, R104, R105: the immediate arithmetic, the shifts by immediate, LIHI and PCADD give their values. -/
def Sys2Proof.Claim.ImmediatesGiveTheirValues : Prop :=
  ∀ (s : State) (d a : SReg) (imm : BitVec 15) (sh : BitVec 6) (up : BitVec 20), Free s [d, a] →
    let A := readS s a
    let I := imm.signExtend 64
    Gives (.addi d a imm) s d (A + I) ∧ Gives (.andi d a imm) s d (A &&& I) ∧ Gives (.ori d a imm) s d (A ||| I) ∧
    Gives (.xori d a imm) s d (A ^^^ I) ∧ Gives (.slti d a imm) s d (truth (A.toInt < I.toInt)) ∧
    Gives (.sltiu d a imm) s d (truth (A.toNat < I.toNat)) ∧ Gives (.slli d a sh) s d (A <<< sh.toNat) ∧
    Gives (.srli d a sh) s d (A >>> sh.toNat) ∧ Gives (.srai d a sh) s d (A.sshiftRight sh.toNat) ∧
    Gives (.lihi d up) s d (up.signExtend 64 <<< 14) ∧ Gives (.pcadd d up) s d (s.h.pc + up.signExtend 64 <<< 14)

/-- R103, R104, R105: their fields in the parcel; a shift of kind 3, or with a one in bits [29:23], is no instruction. -/
def Sys2Proof.Claim.ImmediatesAreEncoded : Prop :=
  (∀ (d a : SReg) (imm : BitVec 15) (sh : BitVec 6) (up : BitVec 20),
    let iForm (imm15 major : Nat) := some (imm15 * 2 ^ 17 + a.toNat * 2 ^ 12 + d.toNat * 2 ^ 7 + major * 2, 1)
    let uForm (major : Nat) := some (up.toNat * 2 ^ 12 + d.toNat * 2 ^ 7 + major * 2, 1)
    encodeBits (.addi d a imm) = iForm imm.toNat 0x02 ∧ encodeBits (.andi d a imm) = iForm imm.toNat 0x03 ∧
    encodeBits (.ori d a imm) = iForm imm.toNat 0x04 ∧ encodeBits (.xori d a imm) = iForm imm.toNat 0x05 ∧
    encodeBits (.slti d a imm) = iForm imm.toNat 0x06 ∧ encodeBits (.sltiu d a imm) = iForm imm.toNat 0x07 ∧
    encodeBits (.slli d a sh) = iForm sh.toNat 0x08 ∧ encodeBits (.srli d a sh) = iForm (2 ^ 13 + sh.toNat) 0x08 ∧
    encodeBits (.srai d a sh) = iForm (2 * 2 ^ 13 + sh.toNat) 0x08 ∧
    encodeBits (.lihi d up) = uForm 0x09 ∧ encodeBits (.pcadd d up) = uForm 0x0A) ∧
  ∀ w : Nat, w < 2 ^ 32 → w % 2 ^ 7 = 0x08 * 2 → w / 2 ^ 30 = 3 ∨ w / 2 ^ 23 % 2 ^ 7 ≠ 0 → ∃ r, decodeParcels w 0 = .error r

/-- R103, R104, R105: the immediate arithmetic, the shifts by immediate, LIHI and PCADD: their values and encodings. -/
def Obligations.ScalarImmediates : Prop :=
  Sys2Proof.Claim.ImmediatesGiveTheirValues ∧ Sys2Proof.Claim.ImmediatesAreEncoded

/-- R106: a branch goes to PC + 4 × offset when its condition holds and to PC + 4 when it does not, and changes no
register. -/
def Sys2Proof.Claim.BranchesGoToTheirTargets : Prop :=
  ∀ (s : State) (a b : SReg) (off : BitVec 15), Free s [a, b] →
    let A := readS s a
    let B := readS s b
    let there := s.h.pc + 4 * off.signExtend 64
    let go (p : Bool) : Word := if p then there else s.h.pc + 4
    GoesTo (.beq a b off) s (go (decide (A = B))) ∧ GoesTo (.bne a b off) s (go (decide (A ≠ B))) ∧
    GoesTo (.blt a b off) s (go (decide (A.toInt < B.toInt))) ∧ GoesTo (.bge a b off) s (go (decide (B.toInt ≤ A.toInt))) ∧
    GoesTo (.bltu a b off) s (go (decide (A.toNat < B.toNat))) ∧ GoesTo (.bgeu a b off) s (go (decide (B.toNat ≤ A.toNat)))

/-- R107: CALL and CALLR write the link, the address after them, and jump; CALLR reads its target before the link is
written, for d = a too, and clears its low two bits. -/
def Sys2Proof.Claim.CallsLinkAndJump : Prop :=
  ∀ (s : State) (d a : SReg) (off : BitVec 20) (imm : BitVec 15), Free s [d, a] →
    (∃ t, exec (.call d off) s = .next t ∧ Wrote s t d (s.h.pc + 4) (s.h.pc + 4 * off.signExtend 64)) ∧
    (∃ t, exec (.callr d a imm) s = .next t ∧
      Wrote s t d (s.h.pc + 4) ((readS s a + imm.signExtend 64) &&& ~~~3))

/-- R106, R107: the fields of the branches, of CALL and of CALLR in the parcel. -/
def Sys2Proof.Claim.JumpsAreEncoded : Prop :=
  ∀ (d a b : SReg) (off imm : BitVec 15) (far : BitVec 20),
    let bForm (major : Nat) := some (off.toNat / 2 ^ 5 * 2 ^ 22 + b.toNat * 2 ^ 17 + a.toNat * 2 ^ 12 +
      off.toNat % 2 ^ 5 * 2 ^ 7 + major * 2, 1)
    encodeBits (.beq a b off) = bForm 0x20 ∧ encodeBits (.bne a b off) = bForm 0x21 ∧
    encodeBits (.blt a b off) = bForm 0x22 ∧ encodeBits (.bge a b off) = bForm 0x23 ∧
    encodeBits (.bltu a b off) = bForm 0x24 ∧ encodeBits (.bgeu a b off) = bForm 0x25 ∧
    encodeBits (.call d far) = some (far.toNat * 2 ^ 12 + d.toNat * 2 ^ 7 + 0x26 * 2, 1) ∧
    encodeBits (.callr d a imm) = some (imm.toNat * 2 ^ 17 + a.toNat * 2 ^ 12 + d.toNat * 2 ^ 7 + 0x27 * 2, 1)

/-- R106, R107: branches, CALL and CALLR: where they go, what they write, and their encodings. -/
def Obligations.BranchesAndCalls : Prop :=
  Sys2Proof.Claim.BranchesGoToTheirTargets ∧ Sys2Proof.Claim.CallsLinkAndJump ∧ Sys2Proof.Claim.JumpsAreEncoded

/-- R109, R19: a scalar instruction that names a register whose read-back value is outstanding changes nothing but the
mark that it waits: the PC stays at it. -/
def Obligations.PendingRegisterHoldsInstruction : Prop :=
  ∀ (s : State) (d a b : SReg) (off : BitVec 15), (isPending s.h d ∨ isPending s.h a ∨ isPending s.h b) →
    let waiting : State := Waiting s
    exec (.add d a b) s = .next waiting ∧ exec (.mul d a b) s = .next waiting ∧ exec (.div d a b) s = .next waiting ∧
    (isPending s.h a ∨ isPending s.h b → exec (.beq a b off) s = .next waiting ∧ exec (.bltu a b off) s = .next waiting) ∧
    (isPending s.h d ∨ isPending s.h a → exec (.callr d a off) s = .next waiting)

/-! ### Scalar memory access (spec/13, spec/14) -/

namespace Sys2Proof.Claim

/-- The n bytes at virtual address va are bytes off, off + 1, … of the core's SRAM window (R238), in banks that are
in scratchpad mode and within the budget. -/
def InScratch (s : State) (va n off : Nat) : Prop :=
  va = 0xFFFFF00000000000 + off ∧ 0 < n ∧ off + n ≤ 0xC0000 ∧ off + n ≤ 8192 * (getCore s (curCore s)).budget ∧
  ∀ b, off / 8192 ≤ b → b ≤ (off + n - 1) / 8192 → (getCore s (curCore s)).banks.getD b .cache = .scratch

/-- No bank has left FIFO mode while an access of the turn's hart waited there (R347). -/
def NotOusted (s : State) : Prop :=
  ∀ side n : Nat, (s.cur, side) ∉ (getCore s (curCore s)).ousted ∧
    ((n + 1) * 2 ^ 13 + s.cur, side) ∉ (getCore s (curCore s)).ousted

/-- Nothing earlier holds the access back: no queued vector access of the hart (R337), no copy command of the core
(R361), and no bank that has left FIFO mode while the hart waited there (R347). -/
def Unordered (s : State) (va n : Nat) (write : Bool) : Prop :=
  queueBlocks s va n write = false ∧ copyConflict s (curCore s) va (va + n) write s.h.performing = false ∧ NotOusted s

/-- Byte k of the SRAM of the turn's core. -/
def sramByte (s : State) (k : Nat) : Byte := memGet s.mem (sramBase (curCore s) + k)

/-- The n bytes of SRAM from an offset as one little-endian bit string (R2). -/
def sramBits (s : State) (off : Nat) : (n : Nat) → BitVec (8 * n)
  | 0 => 0
  | n + 1 => ((sramBits s (off + 1) n) ++ (sramByte s off)).cast (by omega)

/-- What an access leaves beside its register and the PC: answers of earlier scalar remote accesses are dropped. -/
def OnlyAccess (s t : State) : Prop :=
  (∀ k, k ≠ 0 → t.h.perf.toArray.getD k 0 = s.h.perf.toArray.getD k 0) ∧
  t = { s with
    remotes := s.remotes.filter fun r => !(r.hart == s.cur && r.reply.isSome && r.elem == 0)
    h := { s.h with
      x := t.h.x, pc := t.h.pc, perf := t.h.perf, stalled := t.h.stalled, full := t.h.full, waitT0 := t.h.waitT0
      wfaWait := t.h.wfaWait } }

/-- The load completes with v in register d; no byte of memory has changed. -/
def Loads (i : Instr) (s : State) (d : SReg) (v : Word) : Prop :=
  ∃ t, exec i s = .next t ∧ readS t d = (if d = 0 then 0 else v) ∧ (∀ r, r ≠ d → readS t r = readS s r) ∧
    t.h.pc = s.h.pc + 4 ∧ OnlyAccess s t

/-- The access completes, as an acquire when it is one: register d holds v, the n bytes of SRAM from off hold the low
bytes of w, every other byte of memory what it held. -/
def Stores (acq : Bool) (i : Instr) (s : State) (d : SReg) (v : Word) (off n w : Nat) : Prop :=
  ∃ t, exec i s = .next t ∧ readS t d = (if d = 0 then 0 else v) ∧ (∀ r, r ≠ d → readS t r = readS s r) ∧
    t.h.pc = s.h.pc + 4 ∧ OnlyAccess (Acquired acq s) { t with mem := s.mem } ∧
    (∀ k, k < n → memGet t.mem (sramBase (curCore s) + off + k) = BitVec.ofNat 8 (w / 256 ^ k)) ∧
    ∀ j, j < sramBase (curCore s) + off ∨ sramBase (curCore s) + off + n ≤ j → memGet t.mem j = memGet s.mem j

end Sys2Proof.Claim

/-- R251, R238, R2: the seven scalar loads from the core SRAM window, little-endian, sign- or zero-extended. -/
def Sys2Proof.Claim.LoadsFromScratchpad : Prop :=
  ∀ (s : State) (d a : SReg) (imm : BitVec 15) (off : Nat), Free s [d, a] →
    let va := (readS s a + imm.signExtend 64).toNat
    let at0 (n : Nat) : Prop := InScratch s va n off ∧ Unordered s va n false
    (at0 1 → Loads (.ldb d a imm) s d ((sramBits s off 1).signExtend 64)) ∧
    (at0 1 → Loads (.ldbu d a imm) s d ((sramBits s off 1).zeroExtend 64)) ∧
    (at0 2 → Loads (.ldh d a imm) s d ((sramBits s off 2).signExtend 64)) ∧
    (at0 2 → Loads (.ldhu d a imm) s d ((sramBits s off 2).zeroExtend 64)) ∧
    (at0 4 → Loads (.ldw d a imm) s d ((sramBits s off 4).signExtend 64)) ∧
    (at0 4 → Loads (.ldwu d a imm) s d ((sramBits s off 4).zeroExtend 64)) ∧
    (at0 8 → Loads (.ldd d a imm) s d (sramBits s off 8))

/-- R251, R238, R2: the four scalar stores to the core SRAM window write the low bytes of s[b] there and nothing else. -/
def Sys2Proof.Claim.StoresToScratchpad : Prop :=
  ∀ (s : State) (a b : SReg) (imm : BitVec 15) (off : Nat), Free s [a, b] →
    let va := (readS s a + imm.signExtend 64).toNat
    let at0 (n : Nat) : Prop := InScratch s va n off ∧ Unordered s va n true
    let B := (readS s b).toNat
    (at0 1 → Stores false (.stb a b imm) s 0 0 off 1 B) ∧ (at0 2 → Stores false (.sth a b imm) s 0 0 off 2 B) ∧
    (at0 4 → Stores false (.stw a b imm) s 0 0 off 4 B) ∧ (at0 8 → Stores false (.std a b imm) s 0 0 off 8 B)

/-- R251, R238, R2: scalar loads and stores on the core SRAM window. -/
def Obligations.ScratchpadLoadsAndStores : Prop :=
  Sys2Proof.Claim.LoadsFromScratchpad ∧ Sys2Proof.Claim.StoresToScratchpad

namespace Sys2Proof.Claim

/-- What the AMO of a name stores, from the old value, s[b] and s[d], all of the access's width (R253). -/
def amoNew {w : Nat} (i : Instr) (old x expected : BitVec w) : BitVec w :=
  match i with
  | .amoAdd .. => old + x
  | .amoSwap .. => x
  | .amoCas .. => if old = expected then x else old
  | .amoMin .. => if x.toInt < old.toInt then x else old
  | .amoMax .. => if old.toInt < x.toInt then x else old
  | .amoAnd .. => old &&& x
  | .amoOr .. => old ||| x
  | .amoXor .. => old ^^^ x
  | _ => old

/-- The eight scalar AMOs with one set of fields. -/
def amos (scope : BitVec 3) (aq rl wide : Bool) (d a b : SReg) : List Instr :=
  [.amoAdd scope aq rl wide d a b, .amoSwap scope aq rl wide d a b, .amoCas scope aq rl wide d a b,
   .amoMin scope aq rl wide d a b, .amoMax scope aq rl wide d a b, .amoAnd scope aq rl wide d a b,
   .amoOr scope aq rl wide d a b, .amoXor scope aq rl wide d a b]

end Sys2Proof.Claim

/-- R253, R238: each of the eight AMOs on a scratchpad location, in both widths: the register receives the old value,
sign-extended, and the location the new one; a release form completes once the hart's earlier accesses have
performed, and after an acquire form at die scope or beyond no copy of the core is left that could give an older value
(R321; that it drops them is the model's, log 42). -/
def Obligations.AtomicsOnScratchpad : Prop :=
  ∀ (s : State) (scope : BitVec 3) (aq rl : Bool) (d a b : SReg) (off : Nat), Free s [d, a, b] →
    (rl = true → released scope.toNat s = true) →
    let va := (readS s a).toNat
    let at0 (n : Nat) : Prop := va % n = 0 ∧ InScratch s va n off ∧ Unordered s va n true
    (at0 4 → ∀ i ∈ amos scope aq rl false d a b,
      let old := (sramBits s off 4)
      Stores (aq && 2 ≤ scope.toNat) i s d (old.signExtend 64) off 4
        (amoNew i old ((readS s b).truncate 32) ((readS s d).truncate 32)).toNat) ∧
    (at0 8 → ∀ i ∈ amos scope aq rl true d a b,
      let old := (sramBits s off 8)
      Stores (aq && 2 ≤ scope.toNat) i s d old off 8 (amoNew i old (readS s b) (readS s d)).toNat)

/-- R253, R250: an AMO at an address that is not a multiple of its width traps with cause 0x0D and the address, once
the hart's queue is empty, and accesses nothing. -/
def Sys2Proof.Claim.MisalignedAtomicTraps : Prop :=
  ∀ (s : State) (scope : BitVec 3) (aq rl wide : Bool) (d a b : SReg), Free s [d, a, b] → queueBusy s.h = false →
    (readS s a).toNat % (if wide then 8 else 4) ≠ 0 →
    ∀ i ∈ amos scope aq rl wide d a b, exec i s = .next (takeTrap false 0x0D (readS s a) s.h.pc 32 s)

/-- R248, R251, R262: wherever a load is performed (the window, an L1 copy, the home, a peer, MMIO), it completes with
what the access reads when the access can be performed and meets no poison, and it traps with the access's cause and
address, writing no register, when the access faults. -/
def Sys2Proof.Claim.LoadsTakeTheirAccess : Prop :=
  ∀ (s s' : State) (d a : SReg) (imm : BitVec 15) (n : Nat) (i : Instr) (ext : Nat → Word),
    (i, n, ext) ∈ ([(.ldb d a imm, 1, fun x => (BitVec.ofNat 8 x).signExtend 64), (.ldbu d a imm, 1, BitVec.ofNat 64),
      (.ldh d a imm, 2, fun x => (BitVec.ofNat 16 x).signExtend 64), (.ldhu d a imm, 2, BitVec.ofNat 64),
      (.ldw d a imm, 4, fun x => (BitVec.ofNat 32 x).signExtend 64), (.ldwu d a imm, 4, BitVec.ofNat 64),
      (.ldd d a imm, 8, BitVec.ofNat 64)] : List (Instr × Nat × (Nat → Word))) →
    Free s [d, a] → queueBlocks s (readS s a + imm.signExtend 64).toNat n false = false →
    let access := runAcc (readMem (currentWho s) (readS s a + imm.signExtend 64).toNat n 0 0 .load) s
    (∀ x, access = (.ok { val := x, pois := [] }, s') →
      exec i s = .next (dropReplies s'.cur (advance (writeS d (ext x) s')))) ∧
    (∀ cause va, access = (.error (.fault cause va), s') → queueBusy s'.h = false →
      exec i s = .next (takeTrap false cause (BitVec.ofNat 64 va) s'.h.pc 32 s'))

namespace Sys2Proof.Claim

/-- The four scalar stores with the bytes each writes. -/
def stores (a b : SReg) (imm : BitVec 15) : List (Instr × Nat) :=
  [(.stb a b imm, 1), (.sth a b imm, 2), (.stw a b imm, 4), (.std a b imm, 8)]

/-- A store of n bytes at va outside the window, in one 64-byte piece, that no earlier access of the hart holds back. -/
def StoreReady (s : State) (va n : Nat) : Prop :=
  queueBlocks s va n true = false ∧ touchesWindow va n = false ∧ va % 64 + n ≤ 64 ∧ s.discards = []

/-- No L1 copy serves the store, and the core's translation of the page allows it (R242, R386, R387). -/
def Translated (s : State) (va : Nat) (e : MtbEntry) : Prop :=
  let w := currentWho s
  virtualHit s w va 2 = none ∧ canonical va = true ∧ e ∈ (getCore s w.core).mtb ∧
  (∀ x ∈ (getCore s w.core).mtb, mtbMatches x w.asid va = true ↔ x = e) ∧
  bitAt e.pte 5 = true ∧ leafRefuses w .store e.pte = false

/-- The unit's set at its home slice has a way for the home's copy (R236). -/
def HasRoom (s : State) (lu : Nat) : Prop := waysUsed (setLines s (homeDie lu) lu) < workingWays s (homeDie lu) lu

/-- Byte j of a line. -/
def lineByte (l : LineData) (j : Nat) : Nat := bitsGet l.data (8 * j) 8

/-- The store has completed at its instruction: no register has changed and no byte of the arrays or of an SRAM. -/
def Stored (s t : State) : Prop := t.h.x = s.h.x ∧ t.h.pc = s.h.pc + 4 ∧ t.mem = s.mem ∧ t.others = s.others

end Sys2Proof.Claim

/-- R248, R251, R262: a store completes with what its access leaves, and traps with the access's cause and address when
the access faults. -/
def Sys2Proof.Claim.StoresTakeTheirAccess : Prop :=
  ∀ (s s' : State) (a b : SReg) (imm : BitVec 15) (i : Instr) (n : Nat), (i, n) ∈ stores a b imm → Free s [a, b] →
    queueBlocks s (readS s a + imm.signExtend 64).toNat n true = false →
    let access := runAcc (writeMem (currentWho s) (readS s a + imm.signExtend 64).toNat n (readS s b).toNat) s
    (access = (.ok (), s') → exec i s = .next (dropReplies s'.cur (advance s'))) ∧
    (∀ cause va, access = (.error (.fault cause va), s') → queueBusy s'.h = false →
      exec i s = .next (takeTrap false cause (BitVec.ofNat 64 va) s'.h.pc 32 s'))

/-- R248, R287, R312, R221: where a scalar store outside the window goes, and what it leaves alone: to the core's L1
copy, when that is held in W; to the home, for an uncached page of device memory; to a register; and to the peer or the
host, as a request that the hart counts. -/
def Sys2Proof.Claim.StoresReachTheirPlace : Prop :=
  ∀ (s : State) (a b : SReg) (imm : BitVec 15) (i : Instr) (n : Nat), (i, n) ∈ stores a b imm → Free s [a, b] →
    let va := (readS s a + imm.signExtend 64).toNat
    let c := curCore s
    let B := (readS s b).toNat
    StoreReady s va n →
    (∀ lu k, virtualHit s (currentWho s) va 2 = some (lu, k) → getCopy s c lu = k → k.st = .w → k.line.pois = 0 →
      storeStamp s c lu ≤ tsLimit →
      ∃ t, exec i s = .next t ∧ Stored s t ∧ t.l2 = s.l2 ∧ t.dir = s.dir ∧
        OnlyAccess { s with l1 := t.l1, cores := t.cores } t ∧
        (∀ key, key ≠ copyKey c lu → tget t.l1 key = tget s.l1 key) ∧ (∀ c', c' ≠ c → getCore t c' = getCore s c') ∧
        (getCopy t c lu).st = .w ∧ (getCopy t c lu).wts = storeStamp s c lu ∧ (getCopy t c lu).rts = storeStamp s c lu ∧
        ∀ j, j < luSize lu → lineByte (getCopy t c lu).line j =
          if va % luSize lu ≤ j ∧ j < va % luSize lu + n then B / 256 ^ (j - va % luSize lu) % 256 else lineByte k.line j) ∧
    (∀ e, Translated s va e →
      let pa := paOf e va
      let u := mtbInstall c e s
      (placeOfPa pa (bitAt e.pte 9) = .home → ∀ v, runAcc (fetchHome (currentWho s) (luOf pa) true
          (halvesOf (pa - luBase (luOf pa)) n)) u = (.ok (), v) →
        let off := pa - luBase (luOf pa)
        let x := homeWrite (luOf pa) (B % 2 ^ (8 * n) <<< (8 * off)) (maskOf off n) v
        exec i s = .next (dropReplies x.cur (advance (passClock c (luOf pa) x))) ∧
        ((getDir v (luOf pa)).copy.isSome ∨ HasRoom v (luOf pa) → ∀ j, j < luSize (luOf pa) → lineByte (homeCopy x (luOf pa)) j =
          if off ≤ j ∧ j < off + n then B / 256 ^ (j - off) % 256 else lineByte (homeCopy v (luOf pa)) j)) ∧
      (placeOfPa pa (bitAt e.pte 9) = .mmio →
        let x := if n = 8 ∧ mmioOff pa % 8 = 0 then deviceRegWrite (mmioOff pa) B u else hostErr u
        exec i s = .next (dropReplies x.cur (advance x))) ∧
      (placeOfPa pa (bitAt e.pte 9) = .remote → s.cur < 4608 → ∀ port, routeOf s pa = some port →
        ∃ t, exec i s = .next t ∧ Stored s t ∧ t.dir = s.dir ∧ t.l2 = s.l2 ∧
          (∀ key, key ≠ copyKey c (luOf pa) → tget t.l1 key = tget s.l1 key) ∧
          t.h.remoteWrites = (s.h.remoteWrites + 1) % 2 ^ 16 ∧ t.nextRemote = s.nextRemote + 1 ∧
          t.remotes = s.remotes.filter (fun r => !(r.hart == s.cur && r.reply.isSome && r.elem == 0)) ++
            [{ id := s.nextRemote, hart := s.cur, owner := s.h.logical, kind := 1, addr := pa, target := targetOf pa
               bytes := n, val := B % 2 ^ (8 * n), port := port }]))

/-- R248, R251, R262, R287, R312: scalar loads and stores wherever they are performed. -/
def Obligations.LoadsFollowTheirAccess : Prop :=
  Sys2Proof.Claim.LoadsTakeTheirAccess ∧ Sys2Proof.Claim.StoresTakeTheirAccess ∧ Sys2Proof.Claim.StoresReachTheirPlace

/-- R237: a scalar load of any width at an address whose bits [63:48] differ from bit 47 traps with cause 0x08, a
store of any width and an aligned AMO with 0x09, with that address, when the bytes lie in one page; no byte of memory
changes. -/
def Sys2Proof.Claim.NonCanonicalAddressTraps : Prop :=
  ∀ (s : State) (d a b : SReg) (imm : BitVec 15) (scope : BitVec 3) (aq rl wide : Bool), queueBusy s.h = false →
    let outside (va : Word) : Prop :=
      va.extractLsb' 47 17 ≠ 0 ∧ va.extractLsb' 47 17 ≠ BitVec.allOnes 17 ∧ va.toNat % 4096 + 8 ≤ 4096
    let traps (cause : Nat) (va : Word) (i : Instr) : Prop := exec i s = .next (takeTrap false cause va s.h.pc 32 s)
    let va := readS s a + imm.signExtend 64
    (outside va → Free s [d, a] → ∀ i ∈ [Instr.ldb d a imm, .ldbu d a imm, .ldh d a imm, .ldhu d a imm, .ldw d a imm,
      .ldwu d a imm, .ldd d a imm], traps 0x08 va i) ∧
    (outside va → Free s [a, b] → ∀ i ∈ [Instr.stb a b imm, .sth a b imm, .stw a b imm, .std a b imm], traps 0x09 va i) ∧
    (outside (readS s a) → (readS s a).toNat % (if wide then 8 else 4) = 0 → Free s [d, a, b] →
      (rl = true → released scope.toNat s = true) →
      ∀ i ∈ amos scope aq rl wide d a b, traps 0x09 (readS s a) i)

/-- R237, R250, R253: a misaligned AMO and a non-canonical address trap and access nothing. -/
def Obligations.AccessTraps : Prop :=
  Sys2Proof.Claim.MisalignedAtomicTraps ∧ Sys2Proof.Claim.NonCanonicalAddressTraps

/-! ### Traps, the return and the system instructions (spec/11) -/

/-- R206: a trap of the running hart saves the PC given, the cause, the value and the queue position, saves `priv` and
`ie`, clears `ie`, enters supervisor mode when `rpriv` is 1 and else stays in user mode and sets `hnd`, goes on at
`trapvec`, freezes a non-empty queue, and changes no vector register and no byte of memory; a scalar register changes
only by a read-back value that was produced before (R335). -/
def Sys2Proof.Claim.TrapEntrySavesAndEnters : Prop :=
  ∀ (s : State) (intr : Bool) (cause : BitVec 8) (val epc : Word) (qpos : BitVec 6),
    let t := takeTrap intr cause.toNat val epc qpos s
    t.h.epc = epc ∧ t.h.trapcause = (cause.zeroExtend 64 ||| (if intr then 1 <<< 63 else 0)) ∧ t.h.trapval = val ∧
    t.h.trapqpos = qpos ∧ t.h.pc = s.h.trapvec ∧
    t.h.status.getLsbD 3 = s.h.status.getLsbD 0 ∧ t.h.status.getLsbD 2 = s.h.status.getLsbD 1 ∧
    t.h.status.getLsbD 1 = false ∧ t.h.status.getLsbD 0 = (s.h.status.getLsbD 0 || s.h.status.getLsbD 6) ∧
    t.h.status.getLsbD 5 = (s.h.status.getLsbD 5 || !s.h.status.getLsbD 6) ∧
    t.h.status.getLsbD 4 = s.h.status.getLsbD 4 ∧ t.h.status.getLsbD 6 = s.h.status.getLsbD 6 ∧
    t.h.status.getLsbD 7 = s.h.status.getLsbD 7 ∧
    t.h.frozen = !s.h.queue.isEmpty ∧ t.h.queue = s.h.queue ∧ t.h.readback = [] ∧
    (s.h.readback = [] → t.h.x = s.h.x) ∧ t.h.v = s.h.v ∧ t.h.m = s.h.m ∧ t.h.g = s.h.g ∧ t.h.fflags = s.h.fflags ∧
    t.h.trapvec = s.h.trapvec ∧ t.h.scratch = s.h.scratch ∧ t.mem = s.mem ∧ t.others = s.others ∧ t.dies = s.dies

/-- R212: TRAP has its code in [21:12] of a parcel of SYS with funct10 and d zero; it takes a trap with cause 0x10,
`trapval` = code, `epc` = PC + 4 and `trapqpos` = 32, once every earlier instruction of the hart has completed. -/
def Obligations.TrapInstructionTraps : Prop :=
  ∀ (s : State) (code : BitVec 10), encodeBits (.trap code) = some (code.toNat * 2 ^ 12 + 0x2C * 2, 1) ∧
    (queueBusy s.h = false → ∃ t, exec (.trap code) s = .next t ∧ t.h.trapcause = 0x10 ∧ t.h.trapval = code.zeroExtend 64 ∧
      t.h.epc = s.h.pc + 4 ∧ t.h.trapqpos = 32 ∧ t.h.pc = s.h.trapvec ∧ t.mem = s.mem ∧
      (s.h.readback = [] → t.h.x = s.h.x))

/-- R213: ERET of a hart that may return sets `priv` from `ppriv`, `ie` from `pie`, clears `hnd` and `sched`, releases
the queue and continues at `epc` with its low two bits cleared; with `partial` set it may do so when `trapqpos` names
an entry that a replay may name, and the replay is then under way (R370). In user mode with `hnd` = 0 it traps with
cause 0x05. -/
def Sys2Proof.Claim.EretReturns : Prop :=
  ∀ s : State,
    (s.h.status.getLsbD 0 = true ∨ s.h.status.getLsbD 5 = true →
      (s.h.status.getLsbD 4 = true → s.h.trapqpos.toNat ∈ replaySlots s.h) →
      ∃ t, exec .eret s = .next t ∧ t.h.status.getLsbD 0 = s.h.status.getLsbD 3 ∧
        t.h.status.getLsbD 1 = s.h.status.getLsbD 2 ∧ t.h.status.getLsbD 5 = false ∧ t.h.status.getLsbD 7 = false ∧
        t.h.status.getLsbD 6 = s.h.status.getLsbD 6 ∧ t.h.status.getLsbD 4 = s.h.status.getLsbD 4 ∧
        t.h.pc = (s.h.epc &&& ~~~3) ∧ t.h.frozen = false ∧ t.h.replay = s.h.status.getLsbD 4 ∧
        t.h.queue = s.h.queue ∧ t.h.x = s.h.x ∧ t.h.v = s.h.v ∧ t.mem = s.mem) ∧
    (s.h.status.getLsbD 0 = false → s.h.status.getLsbD 5 = false → queueBusy s.h = false →
      exec .eret s = .next (takeTrap false 0x05 0x400058 s.h.pc 32 s))

/-- R206, R213: a handler that returns at once restores the mode, the interrupt enable and the PC of the interrupted
instruction, and changes no register: trap entry followed by ERET, from any state of a hart that handles no trap,
with an aligned PC, no partial fault and no scheduler entry. -/
def Sys2Proof.Claim.ReturnUndoesTrapEntry : Prop :=
  ∀ (s : State) (intr : Bool) (cause : Nat) (val : Word) (qpos : BitVec 6),
    s.h.status.getLsbD 5 = false → s.h.status.getLsbD 4 = false → s.h.status.getLsbD 7 = false → s.h.pc &&& 3 = 0 →
    s.h.readback = [] →
    ∃ t, exec .eret (takeTrap intr cause val s.h.pc qpos s) = .next t ∧
      t.h.status.getLsbD 0 = s.h.status.getLsbD 0 ∧ t.h.status.getLsbD 1 = s.h.status.getLsbD 1 ∧
      t.h.status.getLsbD 5 = false ∧ t.h.pc = s.h.pc ∧ t.h.x = s.h.x ∧ t.h.v = s.h.v ∧ t.h.queue = s.h.queue ∧
      t.h.frozen = false ∧ t.mem = s.mem

/-- R213, R206: the return, and that it undoes a trap entry. -/
def Obligations.EretReturnsFromTraps : Prop :=
  Sys2Proof.Claim.EretReturns ∧ Sys2Proof.Claim.ReturnUndoesTrapEntry

/-- R325: FENCE of every kind and scope completes once the queued accesses it orders have performed (and, at system
scope, the remote writes are acknowledged), and changes no register and no memory; until then it waits at its PC. Kinds 1 and 3 are acquires (R321): at die scope and
beyond they drop the core's copies under read leases (log 42). -/
def Sys2Proof.Claim.FenceCompletes : Prop :=
  ∀ (s : State) (kind scope : BitVec 5), kind ≠ 0 → kind.toNat ≤ 3 → scope.toNat ≤ 4 →
    let performed : Bool := if kind = 1 then !queuedWork readsMemory s.h else released scope.toNat s
    (performed = true → ∃ t, exec (.fence kind scope) s = .next t ∧
      Wrote (Acquired (kind ≠ 2 && 2 ≤ scope.toNat) s) t 0 0 (s.h.pc + 4)) ∧
    (performed = false → exec (.fence kind scope) s = .next (Waiting s))

/-- R215, R434: SNAP completes, counts a snapshot, to be latched 1 µs later, and drives SNAPOUT low until then, exactly
when its die's `snapctl.en` is set. -/
def Sys2Proof.Claim.SnapTakesASnapshotWhenEnabled : Prop :=
  ∀ s : State,
    ((getDie s (curDie s)).snapEn.getLsbD 0 = false → GoesTo .snap s (s.h.pc + 4)) ∧
    ((getDie s (curDie s)).snapEn.getLsbD 0 = true →
      ∃ t, exec .snap s = .next t ∧ t.snapId = (s.snapId + 1) % 2 ^ 32 ∧
        t.snapPending = s.snapPending ++ [timerOf s 0 + 1000] ∧ t.snapLow = some (timerOf s 0 + 1000) ∧
        Wrote s { t with snapId := s.snapId, snapPending := s.snapPending, snapLow := s.snapLow } 0 0 (s.h.pc + 4))

/-- R214: WFA on a scratchpad doubleword completes when the doubleword differs from s[b], or when an interrupt that is
enabled or a pre-emption is pending, and stays at its PC while neither holds. -/
def Sys2Proof.Claim.WfaWaitsForChange : Prop :=
  ∀ (s : State) (a b : SReg) (off : Nat), Free s [a, b] → (readS s a).toNat % 8 = 0 →
    InScratch s (readS s a).toNat 8 off → Unordered s (readS s a).toNat 8 false →
    ((sramBits s off 8) ≠ readS s b →
      ∃ t, exec (.wfa a b) s = .next t ∧ t.h.pc = s.h.pc + 4 ∧ t.h.x = s.h.x ∧ t.mem = s.mem) ∧
    ((s.h.status.getLsbD 1 = true ∧ s.h.irqs ≠ []) ∨ s.h.preempt = true →
      ∃ t, exec (.wfa a b) s = .next t ∧ t.h.pc = s.h.pc + 4 ∧ t.h.x = s.h.x ∧ t.mem = s.mem) ∧
    ((sramBits s off 8) = readS s b → s.h.preempt = false → (s.h.status.getLsbD 1 = false ∨ s.h.irqs = []) →
      ∃ t, exec (.wfa a b) s = .next t ∧ t.h.pc = s.h.pc ∧ t.h.stalled = true ∧ t.h.x = s.h.x ∧ t.mem = s.mem)

/-- R325, R215, R214: FENCE, SNAP and WFA. -/
def Obligations.FenceSnapAndWfa : Prop :=
  Sys2Proof.Claim.FenceCompletes ∧ Sys2Proof.Claim.SnapTakesASnapshotWhenEnabled ∧ Sys2Proof.Claim.WfaWaitsForChange

/-! ### Configuration and status registers (spec/11) -/

namespace Sys2Proof.Claim

/-- The registers of R202 with the value each holds; none for a number that R202 does not list. -/
def registerValue (n : Nat) (s : State) : Option Word :=
  let die := getDie s (curDie s)
  match n with
  | 0x000 => some (BitVec.ofNat 64 (s.cur % 8))
  | 0x001 => some (BitVec.ofNat 64 (getCore s (curCore s)).logical)
  | 0x002 => some (BitVec.ofNat 64 (curDie s))
  | 0x010 => some (s.h.status.zeroExtend 64)
  | 0x011 => some s.h.trapvec
  | 0x012 => some s.h.epc
  | 0x013 => some s.h.trapcause
  | 0x014 => some s.h.trapval
  | 0x015 => some (s.h.trapqpos.zeroExtend 64)
  | 0x016 => some s.h.scratch
  | 0x020 => some (s.h.asid.zeroExtend 64)
  | 0x021 => some s.h.ptbase
  | 0x030 => some (s.h.conf.vcfg.zeroExtend 64)
  | 0x031 => some (BitVec.ofNat 64 s.h.conf.vl)
  | 0x032 => some (BitVec.ofNat 64
      (min 16384 (s.h.conf.lanes * 32768 / (8 * 2 ^ (s.h.conf.vcfg.toNat % 4) * fmtWidth (s.h.conf.vcfg.toNat / 4 % 16)))))
  | 0x033 => some (BitVec.ofNat 64 s.h.vstart)
  | 0x034 => some (BitVec.ofNat 64 s.h.conf.vlpad)
  | 0x035 => some s.h.vdirty
  | 0x036 => some (s.h.vhwsel.zeroExtend 64)
  | 0x037 => some (csrVhwval s.h)
  | 0x040 => some (s.h.fflags.zeroExtend 64)
  | 0x041 => some (s.h.frm.zeroExtend 64)
  | 0x050 => some (s.h.smflags.zeroExtend 64)
  | 0x051 => some (s.h.mxflags.zeroExtend 64)
  | 0x060 => some (BitVec.ofNat 64 (lanesOf s s.cur))
  | 0x061 => some ((getCore s (curCore s)).retiredGroups.zeroExtend 64)
  | 0x070 => some (s.h.errctl.zeroExtend 64)
  | 0x071 => some s.h.waityield
  | 0x072 => some s.h.waitlim
  | 0x080 => some (BitVec.ofNat 64 die.leasewin)
  | 0x090 => some (BitVec.ofNat 64 (s.snapId * 65536 + die.snapClass.toNat * 256 + die.snapEn.toNat))
  | 0x0A0 => some 0
  | 0x0A1 => some (BitVec.ofNat 64 (cpstatOf s (curCore s)))
  | _ => none

/-- The registers that any mode may read. -/
def userReadable : List Nat :=
  [0x000, 0x001, 0x002, 0x010, 0x030, 0x031, 0x032, 0x033, 0x034, 0x035, 0x036, 0x037, 0x040, 0x041, 0x050, 0x051,
   0x060, 0x061, 0x072, 0x080]

/-- The registers that a user-mode hart with `hnd` = 1 may read and write too. -/
def handlerRegisters : List Nat := [0x012, 0x013, 0x014, 0x015, 0x016]

/-- The registers that a supervisor-mode write changes, with what they hold after a write of v. `cpctl`, whose write is
a command, is not among them. -/
def written (n : Nat) (v : Word) (old : Word) : Option Word :=
  match n with
  | 0x010 => some (v &&& 0xFF)
  | 0x011 => some (v &&& ~~~3)
  | 0x012 => some v
  | 0x013 => some (v &&& 0x80000000000000FF)
  | 0x014 => some v
  | 0x015 => if v.toNat ≤ 32 then some v else none
  | 0x016 => some v
  | 0x020 => some (v &&& 0xFFFF)
  | 0x021 => some (v &&& 0xFFFFFFFFF000)
  | 0x033 => some (v &&& 0x7FFF)
  | 0x036 => some (v &&& 0x3F)
  | 0x040 => some (v &&& 0x7F)
  | 0x041 => if v &&& 7 = 7 then none else some (v &&& 7)
  | 0x050 => some (v &&& 0x1FF)
  | 0x051 => some (v &&& 0x7F)
  | 0x070 => some (v &&& 0x14)
  | 0x071 => some (if v.toNat < 4096 then 4096 else v)
  | 0x072 => some v
  | 0x080 => if ∃ k ∈ List.range 25, 12 ≤ k ∧ v.toNat = 2 ^ k then some v else none
  | 0x090 => some ((old &&& ~~~0xFF07) ||| (v &&& 0xFF07))
  | _ => none

/-- The hart's vector queue holds no entry that a read of a vector register would wait for, and its accesses have
performed: what CSR accesses wait for (R95, R205). -/
def CsrQuiet (s : State) : Prop := queueBusy s.h = false ∧ released 4 s = true

/-- A CSR instruction writes v to register n: it gives the old value in d; the register then holds what a rule says,
every other register of R202 what it held (`vhwval`, which follows `vhwsel`, apart), every scalar register but d and
every byte of memory too. -/
def CsrChanged (rule : Nat → Word → Word → Option Word) (i : Instr) (s : State) (d : SReg) (n : Nat) (v : Word) : Prop :=
  ∀ old new, registerValue n s = some old → rule n v old = some new →
    ∃ t, exec i s = .next t ∧ registerValue n t = some new ∧
      (∀ k, k ≠ n → (n = 0x036 → k ≠ 0x037) → registerValue k t = registerValue k s) ∧
      readS t d = (if d = 0 then 0 else old) ∧ (∀ r, r ≠ d → readS t r = readS s r) ∧ t.h.pc = s.h.pc + 4 ∧
      t.mem = s.mem ∧ t.h.v = s.h.v ∧ t.h.m = s.h.m ∧ t.h.g = s.h.g

/-- The same under the rule for supervisor mode. -/
def CsrWritten (i : Instr) (s : State) (d : SReg) (n : Nat) (v : Word) : Prop := CsrChanged written i s d n v

end Sys2Proof.Claim

/-- R202, R203, R204: CFGRD gives the value of every register of R202 to a supervisor-mode hart, those that any mode
may read to a user-mode hart (all of `status` among them: log 60), and the trap registers to one that handles a trap. -/
def Sys2Proof.Claim.CfgrdReadsEveryRegister : Prop :=
  ∀ (s : State) (d : SReg) (csr : BitVec 12) (v : Word), Free s [d] → CsrQuiet s →
    registerValue csr.toNat s = some v →
    (s.h.status.getLsbD 0 = true ∨ csr.toNat ∈ userReadable ∨
      (s.h.status.getLsbD 5 = true ∧ csr.toNat ∈ handlerRegisters)) →
    Gives (.cfgrd d csr) s d v

/-- R202, R203: in supervisor mode CFGWR gives the old value and writes s[a], CFGSET sets and CFGCLR clears the bits
that are ones in s[a]; with a = 0 CFGSET and CFGCLR only read. -/
def Sys2Proof.Claim.SupervisorWrites : Prop :=
  ∀ (s : State) (d a : SReg) (csr : BitVec 12) (v : Word), Free s [d, a] → CsrQuiet s → s.h.status.getLsbD 0 = true →
    registerValue csr.toNat s = some v →
    CsrWritten (.cfgwr d a csr) s d csr.toNat (readS s a) ∧
    (a ≠ 0 → CsrWritten (.cfgset d a csr) s d csr.toNat (v ||| readS s a) ∧
      CsrWritten (.cfgclr d a csr) s d csr.toNat (v &&& ~~~readS s a)) ∧
    Gives (.cfgset d 0 csr) s d v ∧ Gives (.cfgclr d 0 csr) s d v

namespace Sys2Proof.Claim

/-- The registers that any mode may write. -/
def userWritable : List Nat := [0x036, 0x040, 0x041, 0x050, 0x051, 0x072]

/-- What a write of v by a user-mode hart leaves in a register that it may write: of `status` only `ie`, `pie` and
`partial` (bits 1, 2 and 4) change. -/
def userWritten (n : Nat) (v old : Word) : Option Word :=
  if n = 0x010 then some ((old &&& ~~~0x16) ||| (v &&& 0x16)) else written n v old

/-- The values that a register refuses (R202). -/
def refusedValue (n : Nat) (v : Word) : Prop :=
  (n = 0x015 ∧ 32 < v.toNat) ∨ (n = 0x041 ∧ v &&& 7 = 7) ∨ (n = 0x080 ∧ ∀ k ∈ List.range 25, 12 ≤ k → v.toNat ≠ 2 ^ k)

end Sys2Proof.Claim

/-- R204, R206: in user mode the registers that any mode may write, and with `hnd` = 1 the trap registers and `status`
too, are written by CFGWR, CFGSET and CFGCLR as in supervisor mode, but of `status` only `ie`, `pie` and `partial`. -/
def Sys2Proof.Claim.UserWrites : Prop :=
  ∀ (s : State) (d a : SReg) (csr : BitVec 12) (v : Word), Free s [d, a] → CsrQuiet s → s.h.status.getLsbD 0 = false →
    let n := csr.toNat
    n ∈ userWritable ∨ (s.h.status.getLsbD 5 = true ∧ (n = 0x010 ∨ n ∈ handlerRegisters)) →
    registerValue n s = some v →
    CsrChanged userWritten (.cfgwr d a csr) s d n (readS s a) ∧
    (a ≠ 0 → CsrChanged userWritten (.cfgset d a csr) s d n (v ||| readS s a) ∧
      CsrChanged userWritten (.cfgclr d a csr) s d n (v &&& ~~~readS s a)) ∧
    Gives (.cfgset d 0 csr) s d v ∧ Gives (.cfgclr d 0 csr) s d v

/-- R202: a value above 32 for `trapqpos`, 7 for `frm`, and for `leasewin` one that is no power of two from 2^12 to
2^24 trap with cause 0x04 and that value, and change nothing else. -/
def Sys2Proof.Claim.RefusedValues : Prop :=
  ∀ (s : State) (d a : SReg) (csr : BitVec 12) (v : Word), Free s [d, a] → queueBusy s.h = false →
    (s.h.status.getLsbD 0 = true ∨ csr.toNat = 0x041 ∨ (s.h.status.getLsbD 5 = true ∧ csr.toNat = 0x015)) →
    registerValue csr.toNat s = some v →
    let traps (i : Instr) (x : Word) : Prop := refusedValue csr.toNat x → exec i s = .next (takeTrap false 0x04 x s.h.pc 32 s)
    traps (.cfgwr d a csr) (readS s a) ∧
    (a ≠ 0 → traps (.cfgset d a csr) (v ||| readS s a) ∧ traps (.cfgclr d a csr) (v &&& ~~~readS s a))

/-- R202, R203, R204: what a write of a register by each mode leaves, and the values that are refused. -/
def Obligations.CsrWritesReachTheirRegister : Prop :=
  Sys2Proof.Claim.SupervisorWrites ∧ Sys2Proof.Claim.UserWrites ∧ Sys2Proof.Claim.RefusedValues

/-- R204, R202: from user mode without `hnd`, a read of a supervisor or handler register and a write of a register
that user mode may only read trap with cause 0x05; in every mode a write of a register that R202 makes read-only, and
an access to a number that R202 does not list, trap with cause 0x01. `trapval` holds the parcel. -/
def Sys2Proof.Claim.CsrAccessIsGuarded : Prop :=
  ∀ (s : State) (d a : SReg) (csr : BitVec 12), queueBusy s.h = false →
    (s.h.status.getLsbD 0 = false → s.h.status.getLsbD 5 = false → (registerValue csr.toNat s).isSome →
      csr.toNat ∉ userReadable →
      exec (.cfgrd d csr) s = .next (takeTrap false 0x05 (parcelsOf (.cfgrd d csr)) s.h.pc 32 s)) ∧
    (s.h.status.getLsbD 0 = false → s.h.status.getLsbD 5 = false →
      csr.toNat ∈ [0x010, 0x011, 0x012, 0x013, 0x014, 0x015, 0x016, 0x020, 0x021, 0x033, 0x070, 0x071, 0x080, 0x090, 0x0A0] →
      exec (.cfgwr d a csr) s = .next (takeTrap false 0x05 (parcelsOf (.cfgwr d a csr)) s.h.pc 32 s)) ∧
    (csr.toNat ∈ [0x000, 0x001, 0x002, 0x030, 0x031, 0x032, 0x034, 0x035, 0x037, 0x060, 0x061, 0x0A1] ∨
        registerValue csr.toNat s = none →
      exec (.cfgwr d a csr) s = .next (takeTrap false 0x01 (parcelsOf (.cfgwr d a csr)) s.h.pc 32 s))

/-- R202, R203, R204: what CFGRD gives, and what traps (log 25 for `lanemask`, log 60 for `status` in user mode). -/
def Obligations.CsrReadsAndGuards : Prop :=
  Sys2Proof.Claim.CfgrdReadsEveryRegister ∧ Sys2Proof.Claim.CsrAccessIsGuarded

/-! ### Ranges, regions, invalidation, banks, codebooks (spec/15, spec/23) -/

namespace Sys2Proof.Claim

/-- The instruction completes in a state that goes on at PC + 4 and has the scalar registers, the vector registers and
the memory it began with, but for register d, which holds v. -/
def CompletesWith (i : Instr) (s : State) (d : SReg) (v : Word) (t : State) : Prop :=
  exec i s = .next t ∧ t.h.pc = s.h.pc + 4 ∧ readS t d = (if d = 0 then 0 else v) ∧
  (∀ r, r ≠ d → readS t r = readS s r) ∧ t.h.v = s.h.v ∧ t.h.m = s.h.m ∧ t.h.g = s.h.g ∧ t.mem = s.mem

/-- What SETTLE, RENEW and DISCARD wait for and read before they act on a line: the length is at most 64 GiB, the hart's
earlier accesses have performed, and every page of the widened range is translated (R268). -/
def RangeTranslated (s : State) (a b : SReg) (need : Kind) (base n : Nat) (lus : List Nat) (s1 : State) : Prop :=
  (readS s b).toNat ≤ 2 ^ 36 ∧ released 3 s = true ∧ widened (readS s a).toNat (readS s b).toNat = (base, n) ∧
  runAcc (rangeUnits (currentWho s) base n need) s = (.ok lus, s1)

end Sys2Proof.Claim

/-- R268 to R273: SETTLE completes once every line of its range is fetched at its home, with the collected bytes on
their way under the number drawn, which it returns; RENEW completes once every line is renewed; DISCARD completes at once,
with the discard of every line on its way, and PREF whatever its lines do. -/
def Sys2Proof.Claim.RangeInstructionsComplete : Prop :=
  ∀ (s : State) (d a b : SReg) (base n : Nat) (lus : List Nat) (s1 s2 : State), Free s [d, a, b] →
    (RangeTranslated s a b .load base n lus s1 → n ≠ 0 → allUnits (settleFetch (tenantOf s1 (curCore s1))) lus s1 = (s2, true) →
      let (lines, s3) := collectSettle lus s2
      let (region, num, s4) := drawSettle base n s3
      exec (.settle d a b) s = .next (advance (writeS d (if region = 4096 then 0 else BitVec.ofNat 64 num)
        { s4 with settles := s4.settles ++ [{ region := region, num := num, lines := lines }] }))) ∧
    (∀ left, RangeTranslated s a b .load base n lus s1 → renewAll (curCore s1) lus s1 = (s2, true, left) →
      exec (.renew a b) s = .next (advance (countTimes 4 left s2))) ∧
    (RangeTranslated s a b .store base n lus s1 →
      exec (.discard a b) s = .next (advance (lus.foldl (fun u lu => sendDiscard s1.cur lu u) s1))) ∧
    (widened (readS s a).toNat (min (2 ^ 36) (readS s b).toNat) = (base, n) →
      exec (.pref a b) s = .next (advance (prefRange (currentWho s) base n s)))

/-- R274, R275: REGDEF of a range whose pages are valid, readable and writable, that no definition of the ASID overlaps,
with room in the table and under the ASID's limit, enters it under an index that was free and returns the index;
with length 0 it releases the region of that index, when it is the ASID's and no in-place command names it, and
returns 0, and for any other index it returns all ones. -/
def Sys2Proof.Claim.RegdefDefinesAndReleases : Prop :=
  ∀ (s s1 : State) (d a b : SReg) (frames : List Nat), Free s [d, a, b] →
    let asid := (currentWho s).asid
    let A := (readS s a).toNat
    let B := (readS s b).toNat
    (A % 4096 = 0 → B % 4096 = 0 → B ≠ 0 → B ≤ 2 ^ 36 → runAcc (regionFrames (currentWho s) A B) s = (.ok frames, s1) →
      regionRefused s1 asid A B = false →
      ∃ r t, exec (.regdef d a b) s = .next t ∧ r < 4096 ∧ tget s1.regionTable r = none ∧
        tget t.regionTable r = some { asid := asid, base := A, length := B, frames := frames } ∧
        (∀ k, k ≠ r → tget t.regionTable k = tget s1.regionTable k) ∧
        readS t d = (if d = 0 then 0 else BitVec.ofNat 64 r) ∧ t.h.pc = s1.h.pc + 4 ∧ t.mem = s1.mem) ∧
    (B = 0 → ∀ e, tget s.regionTable A = some e → e.asid = asid → regionBusy s A asid = false →
      ∃ t, CompletesWith (.regdef d a b) s d 0 t ∧ t.regionTable = tdel s.regionTable A) ∧
    (B = 0 → (∀ e, tget s.regionTable A = some e → e.asid ≠ asid) →
      ∃ t, CompletesWith (.regdef d a b) s d (BitVec.allOnes 64) t ∧ t.regionTable = s.regionTable)

/-- R268 to R275: SETTLE, RENEW, DISCARD, PREF and REGDEF. -/
def Obligations.RangesAndRegions : Prop :=
  Sys2Proof.Claim.RangeInstructionsComplete ∧ Sys2Proof.Claim.RegdefDefinesAndReleases

/-- R392, R393: TLBINV of a non-empty range enters an invalidation that every core of the package still has to
acknowledge, and completes without waiting for them; TLBWAIT completes when none of the hart's is outstanding, as an
acquire at package scope (log 42), and waits at its PC while one is; both trap with cause 0x05 in user mode. -/
def Obligations.InvalidationsAreIssuedAndAwaited : Prop :=
  ∀ (s : State) (d a b : SReg), Free s [d, a, b] →
    (s.h.status.getLsbD 0 = true → (readS s d).toNat < 2 ^ 16 → (readS s b).toNat ≠ 0 → (readS s b).toNat < 2 ^ 64 - 1 →
      nonCanonical (readS s a).toNat (readS s b).toNat = none → released 3 s = true → (invsOf s s.cur).length < 4 →
      ∃ t x, exec (.tlbinv d a b) s = .next t ∧ t.tlbInvs = s.tlbInvs ++ [x] ∧ x.hart = s.cur ∧ x.logical = s.h.logical ∧ x.asid = (readS s d).toNat ∧
        x.first = (readS s a).toNat / 4096 ∧
        x.first + x.count = ((readS s a).toNat + (readS s b).toNat - 1) / 4096 + 1 ∧
        (∀ c, c ∈ x.waiting ↔ c < 576) ∧
        t.h.x = s.h.x ∧ t.h.pc = s.h.pc + 4 ∧ t.mem = s.mem) ∧
    (s.h.status.getLsbD 0 = true → invsOf s s.cur = [] →
      ∃ t, exec .tlbwait s = .next t ∧ Wrote (Acquired true s) t 0 0 (s.h.pc + 4)) ∧
    (s.h.status.getLsbD 0 = true → invsOf s s.cur ≠ [] →
      exec .tlbwait s = .next (Waiting s)) ∧
    (s.h.status.getLsbD 0 = false → queueBusy s.h = false →
      exec .tlbwait s = .next (takeTrap false 0x05 (parcelsOf .tlbwait) s.h.pc 32 s) ∧
      exec (.tlbinv d a b) s = .next (takeTrap false 0x05 (parcelsOf (.tlbinv d a b)) s.h.pc 32 s))

/-- The bank changes its mode: it reads zero, the other banks keep theirs, and memory outside the bank is what it was in
state u. -/
def Sys2Proof.Claim.BankChanged (s u t : State) (bank mode : Nat) : Prop :=
  let c := curCore s
  t.h.pc = s.h.pc + 4 ∧ (getCore t c).banks.getD bank .cache = modeOfCode mode ∧
  (∀ j, j ≠ bank → (getCore t c).banks.getD j .cache = (getCore s c).banks.getD j .cache) ∧
  (∀ o, 8192 * bank ≤ o → o < 8192 * (bank + 1) → memGet t.mem (sramBase c + o) = 0) ∧
  (∀ j, j < sramBase c + 8192 * bank ∨ sramBase c + 8192 * (bank + 1) ≤ j → memGet t.mem j = memGet u.mem j)

/-- R390: BANKCFG of a bank within the budget, on which nothing is outstanding, returns the old mode's code and gives
the bank the new mode; the bank then reads zero when the mode has changed. A change that would leave fewer than 4 or
more than 32 banks in cache mode returns all ones and changes nothing. A bank that leaves cache mode first gives up
every line it holds: a dirty line is written back to the die's slice. A busy bank is waited for; a bank above 95, a
mode of 3 or above and a bank beyond the budget trap. -/
def Sys2Proof.Claim.BankcfgChangesTheBank : Prop :=
  ∀ (s : State) (d a b : SReg), Free s [d, a, b] →
    let c := curCore s
    let k := getCore s c
    let bank := (readS s a).toNat
    let mode := (readS s b).toNat
    let old := k.banks.getD bank .cache
    let ways := ((List.range 96).filter fun j =>
      if j = bank then mode = 0 else k.banks.getD j .scratch = .cache).length
    bank < 96 → mode < 3 → bank < k.budget → released 4 s = true → bankBusy s c bank = false →
    (old = modeOfCode mode → ∃ t, CompletesWith (.bankcfg d a b) s d (BitVec.ofNat 64 mode) t ∧ t.cores = s.cores) ∧
    (old ≠ modeOfCode mode → ways < 4 ∨ 32 < ways →
      ∃ t, CompletesWith (.bankcfg d a b) s d (BitVec.allOnes 64) t ∧ t.cores = s.cores) ∧
    (old ≠ modeOfCode mode → 4 ≤ ways → ways ≤ 32 → old ≠ .cache →
      ∃ t, exec (.bankcfg d a b) s = .next t ∧ readS t d = (if d = 0 then 0 else BitVec.ofNat 64 (modeCode old)) ∧
        BankChanged s s t bank mode) ∧
    (old ≠ modeOfCode mode → 4 ≤ ways → ways ≤ 32 → old = .cache →
      let u := emptyWay c bank s
      ∃ t, exec (.bankcfg d a b) s = .next t ∧ readS t d = 0 ∧ BankChanged s u t bank mode ∧
        t.l1 = u.l1 ∧ t.l2 = u.l2 ∧ t.dir = u.dir ∧
        ∀ lu x, let line := getLine s (coreDie c) lu
          (∀ y ∈ copiesOf s c, (getCopy s c y).way = bank ∨ (getCopy s c y).way2 = some bank ↔ y = lu) → lu ∈ copiesOf s c →
          (getCopy s c lu).st = .w → line.holder = .w x → x.core = k.logical → coreOfLogical s (coreDie c) x.core = some c →
          (getLine t (coreDie c) lu).line = absorb (luSize lu) line.line (getCopy s c lu).line ∧
          tget t.l1 (copyKey c lu) = none ∧ (∀ key, key ≠ copyKey c lu → tget t.l1 key = tget s.l1 key) ∧
          ∀ j, j < sramBase c + 8192 * bank ∨ sramBase c + 8192 * (bank + 1) ≤ j → memGet t.mem j = memGet s.mem j)

/-- R390: a bank on which something is outstanding is waited for; a number or a mode that is none traps with cause 0x04,
a bank beyond the budget with 0x0B. -/
def Sys2Proof.Claim.BankcfgWaitsAndRefuses : Prop :=
  ∀ (s : State) (d a b : SReg), Free s [d, a, b] →
    let bank := (readS s a).toNat
    let budget := (getCore s (curCore s)).budget
    let traps (cause : Nat) (val : Word) : Prop :=
      queueBusy s.h = false → exec (.bankcfg d a b) s = .next (takeTrap false cause val s.h.pc 32 s)
    (95 < bank → traps 0x04 (readS s a)) ∧
    (bank ≤ 95 → 3 ≤ (readS s b).toNat → traps 0x04 (readS s b)) ∧
    (bank ≤ 95 → (readS s b).toNat < 3 → budget ≤ bank → traps 0x0B (BitVec.ofNat 64 (0xFFFFF00000000000 + 8192 * bank))) ∧
    (bank ≤ 95 → (readS s b).toNat < 3 → bank < budget → released 4 s = false ∨ bankBusy s (curCore s) bank = true →
      exec (.bankcfg d a b) s = .next (Waiting s))

/-- R391: CBLD from a scratchpad window reads the 1024 bytes and makes word i of the core's codebook table the i-th
little-endian word of them. -/
def Sys2Proof.Claim.CbldLoadsTheTable : Prop :=
  ∀ (s : State) (a : SReg) (off : Nat), Free s [a] → (readS s a).toNat % 1024 = 0 →
    InScratch s (readS s a).toNat 1024 off → queuedWork decodesCb2 s.h = false →
    queueBlocks s (readS s a).toNat 1024 false = false →
    (∀ k, k < 32 → copyConflict s (curCore s) ((readS s a).toNat + 32 * k) ((readS s a).toNat + 32 * k + 32) false
      s.h.performing = false) → NotOusted s →
    ∃ t, exec (.cbld a) s = .next t ∧ t.h.pc = s.h.pc + 4 ∧ t.h.x = s.h.x ∧ t.mem = s.mem ∧
      ∀ i : Fin 256, (getCore t (curCore s)).codebook[i] = sramBits s (off + 4 * i.val) 4

/-- R390, R391: BANKCFG and CBLD. -/
def Obligations.BankcfgAndCbld : Prop :=
  Sys2Proof.Claim.BankcfgChangesTheBank ∧ Sys2Proof.Claim.BankcfgWaitsAndRefuses ∧ Sys2Proof.Claim.CbldLoadsTheTable

/-! ### Counters and barriers (spec/22) -/

/-- R380, R381, R382, R383: RDCNT gives the counter's value; WAITC gives it when it has reached s[b], read unsigned, or
when its limit, counted from its first issue, has passed, and waits at its PC while neither is so. Of settle, copy, in-place and barrier counters both are
acquires (R321), which drop the core's copies under read leases (log 42). -/
def Sys2Proof.Claim.CountersAreReadAndAwaited : Prop :=
  ∀ (s : State) (space : BitVec 6) (d a b : SReg), Free s [d, a, b] → space.toNat < 9 →
    indexIllegal s space.toNat (readS s a).toNat = false →
    let x := counterRead s (curCore s) s.h space.toNat (readS s a).toNat
    let after := Acquired (decide (space.toNat ∈ [1, 2, 3, 6])) s
    (∃ t, exec (.rdcnt space d a) s = .next t ∧ Wrote after t d (BitVec.ofNat 64 x) (s.h.pc + 4)) ∧
    ((readS s b).toNat ≤ x →
      ∃ t, exec (.waitc space d a b) s = .next t ∧ Wrote after t d (BitVec.ofNat 64 x) (s.h.pc + 4)) ∧
    (s.h.waitlim ≠ 0 → s.h.waitlim.toNat * 5 ≤ (timerOf s (curDie s) - s.h.waitT0.getD (timerOf s (curDie s))) * 9 →
      ∃ t, exec (.waitc space d a b) s = .next t ∧ Wrote after t d (BitVec.ofNat 64 x) (s.h.pc + 4)) ∧
    (x < (readS s b).toNat → s.h.waitlim = 0 ∨
        (timerOf s (curDie s) - s.h.waitT0.getD (timerOf s (curDie s))) * 9 < s.h.waitlim.toNat * 5 →
      ∃ t, exec (.waitc space d a b) s = .next t ∧ t.h.pc = s.h.pc ∧ t.h.stalled = true ∧ t.h.x = s.h.x ∧ t.mem = s.mem ∧
        t.h.waitOn = some (space.toNat, (readS s a).toNat, (readS s b).toNat) ∧
        t.h.waitT0 = some (s.h.waitT0.getD (timerOf s (curDie s))))

/-- R384: an arrival at a barrier returns the generation it arrived in; the last of the expected arrivals closes the
round: the generation grows by one and no round is open; an arrival with another expected count than the open round's
traps with cause 0x19 and does not count, and an expected count of 0 or above 65536 traps with 0x04. BARWAIT returns the generation once it exceeds s[b], as an acquire (R321, log 42),
and waits while it does not. -/
def Sys2Proof.Claim.BarriersOpenAndClose : Prop :=
  ∀ (s : State) (d a b : SReg), Free s [d, a, b] →
    let id := (readS s a).toNat
    let n := (readS s b).toNat
    let x := tgetD s.barriers id {}
    id < 1024 →
    (0 < n → n ≤ 65536 → released 3 s = true → (x.expected = 0 ∨ x.expected = n) →
      ∃ t, CompletesWith (.bararv d a b) s d (BitVec.ofNat 64 x.generation) t ∧
        (∀ k, k ≠ id → tgetD t.barriers k {} = tgetD s.barriers k {}) ∧
        tgetD t.barriers id {} =
          (if x.arrived + 1 = n then { generation := (x.generation + 1) % 2 ^ 64, arrived := 0, expected := 0 }
           else { generation := x.generation, arrived := x.arrived + 1, expected := n })) ∧
    (n = 0 ∨ 65536 < n → queueBusy s.h = false →
      exec (.bararv d a b) s = .next (takeTrap false 0x04 (readS s b) s.h.pc 32 s)) ∧
    (0 < n → n ≤ 65536 → released 3 s = true → queueBusy s.h = false → x.expected ≠ 0 → x.expected ≠ n →
      exec (.bararv d a b) s = .next (takeTrap false 0x19 (readS s a) s.h.pc 32 s)) ∧
    (n < x.generation → ∃ t, exec (.barwait d a b) s = .next t ∧
      Wrote (Acquired true s) t d (BitVec.ofNat 64 x.generation) (s.h.pc + 4)) ∧
    (x.generation ≤ n → exec (.barwait d a b) s = .next (Waiting s))

/-- R380 to R384: counters and barriers. -/
def Obligations.CountersAndBarriers : Prop :=
  Sys2Proof.Claim.CountersAreReadAndAwaited ∧ Sys2Proof.Claim.BarriersOpenAndClose

/-! ### Regions (spec/24) -/

/-- R402: the indices f of iteration p of a record with D dims: each below its count, 0 beyond D, and p their number in the
record's order, the innermost dim varying fastest. -/
def Sys2Proof.Claim.IterationIndices (record p : Nat) (f : Nat → Nat) : Prop :=
  (∀ j, j < lnDims record → f j < lnCount record j) ∧ (∀ j, lnDims record ≤ j → f j = 0) ∧
  (List.range (lnDims record)).foldl (fun n i => n * lnCount record (lnOrder record i) + f (lnOrder record i)) 0 = p

/-- R402, R403: RLAUNCH at an aligned address writes the result of the launch as R403's checks give it, once the hart's
earlier accesses have performed; RWAIT of a status word in the scratchpad whose state is 0, 2, 3 or 4 gives the word, as an
acquire (what it drops: log 42), and waits at its PC in every other state; NEXTIT gives 1 and takes the next iteration,
whose indices s4 to s9 receive, or gives 0 and leaves them. -/
def Sys2Proof.Claim.RegionInstructionsComplete : Prop :=
  ∀ (s s1 : State) (d a : SReg), Free s [d, a] →
    (∀ x, (readS s a).toNat % 256 = 0 → fifoBankAt s (readS s a).toNat = false → released 3 s = true →
      runAcc (launch (readS s a).toNat) s = (.ok x, s1) →
      exec (.rlaunch d a) s = .next (advance (writeS d (BitVec.ofNat 64 x) (dropReplies s1.cur s1)))) ∧
    (∀ off, InScratch s ((readS s a).toNat + 64) 8 off → (readS s a).toNat + 64 < 2 ^ 64 →
      Unordered s ((readS s a).toNat + 64) 8 false →
      ((sramBits s off 8).toNat % 8 ∈ [0, 2, 3, 4] →
        ∃ t, exec (.rwait d a) s = .next t ∧ readS t d = (if d = 0 then 0 else (sramBits s off 8)) ∧
          (∀ r, r ≠ d → readS t r = readS s r) ∧ t.h.pc = s.h.pc + 4 ∧ OnlyAccess (Acquired true s) t) ∧
      ((sramBits s off 8).toNat % 8 ∉ [0, 2, 3, 4] →
        ∃ t, exec (.rwait d a) s = .next t ∧ t.h.pc = s.h.pc ∧ t.h.x = s.h.x ∧ t.mem = s.mem)) ∧
    (∀ rcb lh record, Free s [d, 4, 5, 6, 7, 8, 9] → s.h.logical = some (rcb, lh) → (getRegion s rcb).record = some record →
      lnOrderOk record = true →
      (nextIteration (getRegion s rcb) = none → Gives (.nextit d) s d 0) ∧
      (∀ p, nextIteration (getRegion s rcb) = some p →
        ∃ t f, exec (.nextit d) s = .next t ∧ t.h.pc = s.h.pc + 4 ∧ (getRegion t rcb).nextIter = p + 1 ∧
          readS t d = (if d = 0 then 0 else 1) ∧ (∀ r : SReg, r ≠ d → r.toNat < 4 ∨ 9 < r.toNat → readS t r = readS s r) ∧
          IterationIndices record p f ∧
          (∀ r : SReg, r ≠ d → 4 ≤ r.toNat → r.toNat ≤ 9 → readS t r = BitVec.ofNat 64 (f (r.toNat - 4))) ∧
          t.mem = s.mem))

/-- R403, R324, R400: RYIELD at a boundary of a hart for whose core no region of its priority or higher waits goes on at
once, having done what a pre-emption and the resumption do: its early loads are dropped, and so are the core's copies
under read leases (log 42). When one waits, the hart leaves its slot with its context after the RYIELD and its trap CSRs,
waits with its region's unplaced harts, and the core is taken for the region that waits. -/
def Sys2Proof.Claim.RyieldGivesUpTheSlot : Prop :=
  ∀ (s : State) (rcb lh : Nat), s.h.logical = some (rcb, lh) → mayStop s s.cur = true →
    (wantsCore s rcb (getRegion s rcb).priority = none → exec .ryield s = .next (advance (stopAndGoOn s))) ∧
    (wantsCore s rcb (getRegion s rcb).priority = none → s.h.readback = [] → s.h.pass.first = none → s.h.memberPass = [] →
      ∃ t, exec .ryield s = .next t ∧ t.h.pc = s.h.pc + 4 ∧ t.h.x = s.h.x ∧ t.h.queue = s.h.queue ∧ t.h.v = s.h.v ∧
        t.h.loadData = Vector.replicate 2 [] ∧ t.l1 = (Acquired true s).l1 ∧ t.mem = s.mem ∧ t.others = s.others) ∧
    (∀ x, wantsCore s rcb (getRegion s rcb).priority = some x → lh < (getRegion s rcb).harts.length →
      exec .ryield s = .next (takeCore (curCore s) x (requeue rcb (yieldSlot rcb lh s.cur (advance s)))) ∧
      ∃ t, exec .ryield s = .next t ∧ (getCore t (curCore s)).taken = true ∧ (getCore t (curCore s)).taker = some x ∧
        (getLogical (getRegion t rcb) lh).place = .waiting ∧ (getHart t s.cur).run = .idle ∧
        (s.h.status.getLsbD 7 = false → (getLogical (getRegion t rcb) lh).kept =
          some { epc := s.h.epc, trapcause := s.h.trapcause, trapval := s.h.trapval, trapqpos := s.h.trapqpos
                 status := s.h.status, frozen := s.h.frozen }))

/-- R403, R436: REXIT of a hart whose queue is empty or frozen, with no read-back value outstanding and its accesses
performed, ends it with the code s[a]; with bit 63 set, in supervisor mode or with `hnd` set, its region ends as
faulted with cause s[a][7:0]. While the queue still holds entries that are not frozen, the hart waits at its PC. -/
def Sys2Proof.Claim.RexitEndsTheHart : Prop :=
  ∀ (s : State) (a : SReg), Free s [a] →
    (queueBusy s.h = false → s.h.readback = [] → released 3 s = true →
      ((readS s a).getLsbD 63 = false ∨ (s.h.status.getLsbD 0 = false ∧ s.h.status.getLsbD 5 = false) ∨ s.h.logical = none →
        exec (.rexit a) s = .next (exitHart s.cur (readS s a) (perfAdd 0 1 { s with h := discardFrozen s.h }))) ∧
      (∀ rcb lh, (readS s a).getLsbD 63 = true → (s.h.status.getLsbD 0 = true ∨ s.h.status.getLsbD 5 = true) →
        s.h.logical = some (rcb, lh) →
        let s1 := perfAdd 0 1 { s with h := discardFrozen s.h }
        let r := getRegion s1 rcb
        let s2 := setRegion rcb
          { setLogical lh { getLogical r lh with place := .free, ctx := none } r with exit := readS s a } s1
        exec (.rexit a) s = .next (faultRegion rcb ((readS s a).toNat % 256)
          (vacate s.cur (forgetWrites s.cur (handOff s.cur true s2)))))) ∧
    (queueBusy s.h = true → exec (.rexit a) s = .next (Waiting s))

/-- R402, R403, R436: RLAUNCH, RWAIT, NEXTIT, RYIELD and REXIT. -/
def Obligations.RegionInstructions : Prop :=
  Sys2Proof.Claim.RegionInstructionsComplete ∧ Sys2Proof.Claim.RyieldGivesUpTheSlot ∧ Sys2Proof.Claim.RexitEndsTheHart

/-! ### Engines and FIFOs (spec/15, spec/19) -/

/-- R352, R276: CPGO of a valid record in the core's scratchpad draws the channel's next ID, queues the command on the
channel and returns the ID; IPGO reads its record, draws the hart's next ID, queues the command in the hart's
in-place FIFO and returns the ID. -/
def Sys2Proof.Claim.PushesQueueTheirCommand : Prop :=
  ∀ (s s1 : State) (d a b : SReg) (x : Nat), Free s [d, a, b] → fifoBankAt s (readS s a).toNat = false →
    released 3 s = true →
    (∀ ch, (readS s b).toNat = ch → ch < 4 → (readS s a).toNat % 128 = 0 →
      runAcc (readRecord (readS s a).toNat 4) s = (.ok { val := x, pois := [] }, s1) → lnCopyOk x = true →
      (getChannel s1 (curCore s) ch).queue.length < 9 →
      tableUsed s1 (curCore s) + min 1 (lnWindow x).length ≤ 32 →
      ∃ t q, exec (.cpgo d a b) s = .next t ∧
        (ch < (getCore s1 (curCore s)).channels.size →
          (getChannel t (curCore s) ch).queue = (getChannel s1 (curCore s) ch).queue ++ [q] ∧
          (getChannel t (curCore s) ch).nextId = q.id) ∧
        q.id = ((getChannel s1 (curCore s) ch).nextId + 1) % 2 ^ 48 ∧ q.record = x ∧ q.hart = s1.cur ∧
        readS t d = (if d = 0 then 0 else BitVec.ofNat 64 q.id) ∧ t.h.pc = s1.h.pc + 4 ∧ t.mem = s1.mem) ∧
    ((readS s a).toNat % 32 = 0 → runAcc (readInPlace (readS s a).toNat) s = (.ok { val := x, pois := [] }, s1) →
      waitingRecords s1 < 16 →
      ∃ t q, exec (.ipgo d a) s = .next t ∧ t.h.ipFifo = s1.h.ipFifo ++ [q] ∧ q.id = (s1.h.ipNext + 1) % 2 ^ 64 ∧
        q.record = x ∧ t.h.ipNext = q.id ∧ readS t d = (if d = 0 then 0 else BitVec.ofNat 64 (s1.h.ipNext + 1)) ∧
        t.h.pc = s1.h.pc + 4 ∧ t.mem = s1.mem)

/-- R347, R348, R349, R366, R227: EPUSH appends s[b] to a FIFO-mode bank that has room and no one before the hart, and
EPOP takes the oldest entry of one that holds some; on a full bank the one, on an empty bank the other waits at its PC.
EPOP of the fault queue 112, and of the error queue 113 of the die, gives the head record's words in turn, the fourth
removing it, and 0 from an empty queue or one that the host owns. -/
def Sys2Proof.Claim.FifosPushAndPop : Prop :=
  ∀ (s : State) (d a b : SReg), Free s [d, a, b] →
    let id := (readS s a).toNat
    let c := curCore s
    let q := tgetD (getCore s c).fifos id []
    let die := getDie s (curDie s)
    let word (r : Rec4) (cursor : Nat) : Word :=
      BitVec.ofNat 64 (match cursor with | 0 => r.w0 | 1 => r.w1 | 2 => r.w2 | _ => r.w3)
    let waits (i : Instr) (side : Nat) : Prop :=
      ∃ t, exec i s = .next t ∧ t.h.pc = s.h.pc ∧ t.h.stalled = true ∧ t.h.x = s.h.x ∧ t.mem = s.mem ∧
        tgetD (getCore t c).fifos id [] = q ∧ s.cur ∈ tgetD (getCore t c).waiters side []
    (id < 96 → (getCore s c).banks.getD id .cache = .fifo → NotOusted s →
      (released 3 s = true → q.length < 1024 → tgetD (getCore s c).waiters (2 * id + 1) [] = [] →
        ∃ t, CompletesWith (.epush a b) s 0 0 t ∧ tgetD (getCore t c).fifos id [] = q ++ [readS s b]) ∧
      (released 3 s = true → 1024 ≤ q.length → waits (.epush a b) (2 * id + 1)) ∧
      (∀ x l, q = x :: l → tgetD (getCore s c).waiters (2 * id) [] = [] →
        ∃ t, CompletesWith (.epop d a) s d x t ∧ tgetD (getCore t c).fifos id [] = l) ∧
      (q = [] → waits (.epop d a) (2 * id))) ∧
    (id = 112 → s.h.status.getLsbD 0 = true →
      ((getCore s c).faults = [] → ∃ t, CompletesWith (.epop d a) s d 0 t ∧ (getCore t c).faults = []) ∧
      (∀ r l, (getCore s c).faults = r :: l → (getCore s c).faultCursor < 4 →
        ∃ t, CompletesWith (.epop d a) s d (word r (getCore s c).faultCursor) t ∧
          (getCore t c).faultCursor = ((getCore s c).faultCursor + 1) % 4 ∧
          (getCore t c).faults = if (getCore s c).faultCursor = 3 then l else r :: l)) ∧
    (id = 113 → s.h.status.getLsbD 0 = true →
      (die.errOwn = true ∨ die.errs = [] → ∃ t, CompletesWith (.epop d a) s d 0 t ∧
        (getDie t (curDie s)).errs = die.errs ∧ (getDie t (curDie s)).errCursor = die.errCursor) ∧
      (die.errOwn = false → ∀ r l, die.errs = r :: l → die.errCursor < 4 →
        ∃ t, CompletesWith (.epop d a) s d (word r die.errCursor) t ∧
          (getDie t (curDie s)).errCursor = (die.errCursor + 1) % 4 ∧
          (getDie t (curDie s)).errs = if die.errCursor = 3 then l else r :: l))

/-- R276, R347 to R349, R352: CPGO, IPGO, EPUSH and EPOP. -/
def Obligations.PushesAndFifos : Prop :=
  Sys2Proof.Claim.PushesQueueTheirCommand ∧ Sys2Proof.Claim.FifosPushAndPop

/-! ### The vector side: commit and elements (spec/06, spec/07, spec/19) -/

namespace Sys2Proof.Claim

/-- A vector instruction can be committed and performed at once: its encoding is well formed, nothing is queued or
frozen, so that the head's configuration is the committed one and no pass, front or replay is under way, the scalars it
captures are readable and the read-back queue has room. -/
def AtOnce (i : Instr) (s : State) : Prop :=
  wellFormed i = true ∧ s.h.frozen = false ∧ s.h.queue = [] ∧ s.h.headConf = s.h.conf ∧ s.h.replay = false ∧
  s.h.pass = {} ∧ s.h.front = 16384 ∧ s.h.lastUse = [] ∧ s.h.owesTrap = none ∧ (∀ q ∈ s.h.loadData.toList, q = []) ∧
  Free s (capturesOf i) ∧ s.h.readback.length < 8

/-- Beside its result in vector, mask and matrix registers, flags and memory, a vector instruction that is committed and
performed leaves: the PC past its two parcels, the queue empty with its head one slot on,
`vstart` 0, performance counters 1 and 2, and the model's own counter of uses. -/
def OnlyVector (s t : State) : Prop :=
  (∀ k, k ≠ 1 → k ≠ 2 → t.h.perf.toArray.getD k 0 = s.h.perf.toArray.getD k 0) ∧
  t = { s with
    tick := t.tick
    h := { s.h with
      v := t.h.v, vdirty := t.h.vdirty, marks := t.h.marks, m := t.h.m, g := t.h.g, fflags := t.h.fflags
      smflags := t.h.smflags, mxflags := t.h.mxflags, readback := t.h.readback
      pc := s.h.pc + 8, vstart := 0, queue := [], arrived := t.h.arrived, qhead := (s.h.qhead + 1) % 32
      loadFirst := 0, memberPass := [], performing := none, perf := t.h.perf, stalled := false, full := false
      waitT0 := none } }

/-- Element i of the vector at register r in a format, under the committed configuration. -/
def element (s : State) (r : BitVec 6) (fmt i : Nat) : Nat := vget s.h.conf s.h r.toNat fmt i

/-- The format, and the width of its elements, that `vcfg` names. -/
def fmtOf (s : State) : Nat := confFmt s.h.conf
def widthOf (s : State) : Nat := confW s.h.conf

/-- The committed vector fits: VL is at most VLmax, the smaller of 16384 and L × 4096 × 8 / N / w (R112, R208). -/
def Fits (s : State) : Prop := s.h.conf.vl ≤ 16384 ∧ s.h.conf.vl ≤ regElems s.h.conf (widthOf s)

/-- VLmax of the committed configuration (R112, R208). -/
def vlMost (s : State) : Nat := min 16384 (s.h.conf.lanes * 32768 / (confN s.h.conf * widthOf s))

/-- No register field is at or above N (R58). -/
abbrev IndicesLegal (i : Instr) (s : State) : Prop := indexBad i s.h.conf = false

/-- n registers from r lie below N (R117). -/
abbrev GroupFits (s : State) (r n : Nat) : Prop := r + n ≤ confN s.h.conf

/-- n registers from r and k registers from q have none in common. -/
abbrev Apart (r n q k : Nat) : Prop := r + n ≤ q ∨ q + k ≤ r

/-- The registers that n elements of the committed format occupy (R117, R172). -/
def registersFor (s : State) (n : Nat) : Nat := (n + regElems s.h.conf (widthOf s) - 1) / max 1 (regElems s.h.conf (widthOf s))

/-- The elements of a block of the committed configuration, 8 to 64; 0 where it has no blocks (R207). -/
def blockOf (s : State) : Nat := blockLen (confBlk s.h.conf)

/-- n registers from r share their scale bytes' register (R85). -/
abbrev OneScaleGroup (s : State) (r n : Nat) : Prop :=
  r / (blockOf s * widthOf s / 8) = (r + n - 1) / (blockOf s * widthOf s / 8)

/-- Element i is one the instruction performs: from `vstart` on, below the pads, selected by the mask (R115). -/
abbrev Active (s : State) (m : BitVec 4) (i : Nat) : Prop :=
  s.h.vstart ≤ i ∧ i < s.h.conf.vl - s.h.conf.vlpad ∧ maskBit s.h m.toNat i = true

/-- R115: after the instruction, the n registers from d hold, in a format, at the elements from `vstart` to vl − 1 the
result where the mask selects, 0 or the old element where it does not, and the pad value in the pads; every bit of
register d outside those elements (n = 1), every other register and every mask and matrix register is as it was. -/
def Elements (s t : State) (f : VF) (fmt n : Nat) (res : Nat → Nat) : Prop :=
  let c := s.h.conf
  (∀ r, r < f.d.toNat ∨ f.d.toNat + n ≤ r → vreg t.h r = vreg s.h r) ∧ t.h.m = s.h.m ∧ t.h.g = s.h.g ∧
  (n = 1 → ∀ k, k < s.h.vstart * fmtWidth fmt ∨ c.vl * fmtWidth fmt ≤ k →
    (vreg t.h f.d.toNat).testBit k = (vreg s.h f.d.toNat).testBit k) ∧
  (∀ i, s.h.vstart ≤ i → i < c.vl → vget c t.h f.d.toNat fmt i =
    if c.vl - c.vlpad ≤ i then padValue fmt
    else if maskBit s.h f.m.toNat i then res i % 2 ^ fmtWidth fmt
    else if f.mz then 0 else element s f.d fmt i)

/-- The flags of the performed elements, joined. -/
def flagsOver (s : State) (m : BitVec 4) (fl : Nat → Nat) : Nat :=
  (visited s.h.conf s.h).foldl
    (fun x i => if !isPad s.h.conf i && maskBit s.h m.toNat i then x ||| fl i else x) 0

/-- A vector instruction of one element at a time: it completes, element i of the destination becomes `res i`, and the
flags of the elements join `fflags`; nothing else changes. -/
def PerElement (i : Instr) (s : State) (f : VF) (fmt n : Nat) (res fl : Nat → Nat) : Prop :=
  ∃ t, exec i s = .next t ∧ OnlyVector s t ∧ Elements s t f fmt n res ∧
    t.h.fflags = s.h.fflags ||| BitVec.ofNat 7 (flagsOver s f.m fl) ∧ t.h.smflags = s.h.smflags ∧
    t.h.mxflags = s.h.mxflags ∧ t.h.readback = s.h.readback

/-- A compare: it completes, and bit i of the destination mask becomes the truth of `res i` where the mask selects, 0 in
the pads, 0 or the old bit where it does not; no vector register changes. -/
def PerBit (i : Instr) (s : State) (f : VF) (res : Nat → Prop) (fl : Nat → Nat) : Prop :=
  ∃ t, exec i s = .next t ∧ OnlyVector s t ∧ t.h.v = s.h.v ∧ t.h.g = s.h.g ∧ t.h.vdirty = s.h.vdirty ∧
    (∀ k : Fin 16, k.val ≠ f.d.toNat → t.h.m[k] = s.h.m[k]) ∧
    (∀ i, i < s.h.vstart ∨ s.h.conf.vl ≤ i → maskBit t.h f.d.toNat i = maskBit s.h f.d.toNat i) ∧
    (∀ i, s.h.vstart ≤ i → i < s.h.conf.vl → (maskBit t.h f.d.toNat i = true ↔
      i < s.h.conf.vl - s.h.conf.vlpad ∧
        (if maskBit s.h f.m.toNat i then res i else f.mz = false ∧ maskBit s.h f.d.toNat i = true))) ∧
    t.h.fflags = s.h.fflags ||| BitVec.ofNat 7 (flagsOver s f.m fl) ∧ t.h.readback = s.h.readback

/-- Operand a of an element: the low bits of the captured scalar, or the vector's element (R119). -/
def opA (s : State) (f : VF) (i : Nat) : Nat :=
  if f.sa then (readS s (sregOf f.a)).toNat % 2 ^ widthOf s else element s f.a (fmtOf s) i

def opB (s : State) (f : VF) (i : Nat) : Nat := element s f.b (fmtOf s) i
def opC (s : State) (f : VF) (i : Nat) : Nat := element s f.c (fmtOf s) i

/-- An element read as a signed number, under UINT8 as an unsigned one (R121). -/
def signedElem (fmt x : Nat) : Int :=
  if fmt = 9 then (x : Int) else if 2 * x < 2 ^ fmtWidth fmt then (x : Int) else (x : Int) - 2 ^ fmtWidth fmt

/-- The code of an integer in an element of w bits. -/
def codeOf (w : Nat) (x : Int) : Nat := (x % 2 ^ w).toNat

/-- The least and greatest integers of an integer format. -/
def leastOf (fmt : Nat) : Int := if fmt = 9 then 0 else -(2 ^ (fmtWidth fmt - 1))
def greatestOf (fmt : Nat) : Int := if fmt = 9 then 255 else 2 ^ (fmtWidth fmt - 1) - 1

def clampTo (fmt : Nat) (x : Int) : Int := max (leastOf fmt) (min (greatestOf fmt) x)

end Sys2Proof.Claim

/-- R68, R333, R334: a vector instruction whose checks against the configuration pass is committed, once the range table
has room for what it may touch in the window (R361): with the queue empty
it is the head's entry and runs at once, and what its run leaves is the next state; with entries before it it takes the
slot at the tail with the scalars captured now, and the scalar side goes on at PC + 8. That the head runs at once is the
model's choice (log 1). A hart resumed under fewer lanes commits nothing behind entries captured under more (R18, R219). -/
def Obligations.VectorInstructionsAreCommitted : Prop :=
  ∀ (i : Instr) (s : State) (v : CheckFn × PerfFn), vectorOf i = some v → s.h.frozen = false → v.1 s.h.conf = 0 →
    Free s (capturesOf i) → s.h.queue.length < 32 → readbackUsed s.h < 8 →
    (touchRange s (curCore s) i s.h.conf (captureA i s) (captureB i s) = none ∨
      tableUsed s (curCore s) < 32) →
    (s.h.queue = [] →
      let s0 : State := { s with h := { s.h with headConf := s.h.conf } }
      let s1 := performAs (s.h.arrived ++ [s.tick]).head? (pushEntry (.instr i (captureA i s) (captureB i s)) s0)
      exec i s = .next (finishHead 1 s.h.qhead s.h.vstart (parcelsOf i) (v.2 s.h.conf (captureA i s) (captureB i s) s1))) ∧
    (s.h.queue ≠ [] → tailConf s.h ≠ s.h.conf → exec i s = .next (Waiting s)) ∧
    (s.h.queue ≠ [] → tailConf s.h = s.h.conf → ∃ t, exec i s = .next t ∧
      t.h.queue = s.h.queue ++ [.instr i (captureA i s) (captureB i s)] ∧ t.h.pc = s.h.pc + 8 ∧ t.h.x = s.h.x ∧
      t.h.v = s.h.v ∧ t.h.m = s.h.m ∧ t.h.g = s.h.g ∧ t.h.conf = s.h.conf ∧ t.mem = s.mem)

/-- R68, R340: a vector instruction committed while the queue stands frozen, or whose format or shape the configuration
does not allow, traps with cause 0x04, and one that names a register at or above N with cause 0x03, once the queue has
drained; `trapval` holds its parcels. Integer instructions refuse a configuration whose format is not an integer's. -/
def Sys2Proof.Claim.VectorChecksTrapAtCommit : Prop :=
  (∀ (i : Instr) (s : State) (v : CheckFn × PerfFn), vectorOf i = some v →
    (s.h.frozen = true → exec i s = .next (takeTrap false 0x04 (parcelsOf i) s.h.pc 32 s)) ∧
    (s.h.frozen = false → v.1 s.h.conf ≠ 0 → s.h.queue = [] →
      exec i s = .next (takeTrap false (v.1 s.h.conf) (parcelsOf i) s.h.pc 32 s))) ∧
  ∀ (s : State) (f : VF), s.h.frozen = false → s.h.queue = [] →
    (isInt (fmtOf s) = false →
      exec (.vadd f) s = .next (takeTrap false 0x04 (parcelsOf (.vadd f)) s.h.pc 32 s)) ∧
    (isInt (fmtOf s) = true → confN s.h.conf ≤ f.d.toNat →
      exec (.vadd f) s = .next (takeTrap false 0x03 (parcelsOf (.vadd f)) s.h.pc 32 s))

namespace Sys2Proof.Claim

/-- The vector and matrix registers under a configuration that adopts L lanes, `cap` bits to a register (R113): where L
is a new one, every register keeps what its first L lanes hold, and a mark is at most the register; where it is not, they
stay as they are. What the lanes that a register gains hold is the model's choice (log 52). -/
def Adopted (s t : State) (cap : Nat) : Prop :=
  let new : Prop := lanesOf s s.cur ≠ s.h.headConf.lanes
  t.h.vdirty = s.h.vdirty ∧ t.h.m = s.h.m ∧
  (new → (∀ r : Fin 64, t.h.v[r] = s.h.v[r] % 2 ^ cap ∧ t.h.marks[r] = min s.h.marks[r] cap) ∧
    ∀ k : Fin 8, t.h.g[k] = s.h.g[k] % 2 ^ (1152 * lanesOf s s.cur)) ∧
  (¬ new → t.h.v = s.h.v ∧ t.h.marks = s.h.marks ∧ t.h.g = s.h.g)

end Sys2Proof.Claim

/-- R207 to R210, R113: VCFG of a legal value makes it the configuration with vl and vlpad 0; one that changes N clears
every vector register, its mark and `vdirty`. SETVL grants the smallest multiple of the block length that holds s[a], at
most the largest one in VLmax, writes it to s[d], and pads the difference. Either adopts the lanes that the hart has; a
new L keeps of a register what its lanes hold. Neither changes a mask register or memory. -/
def Obligations.ConfigurationIsCommitted : Prop :=
  ∀ (s : State) (f : VF), s.h.frozen = false → s.h.queue = [] →
    (vcfgIllegal f.imm.toNat = false →
      ∃ t, exec (.vcfg f) s = .next t ∧ t.h.conf = { vcfg := f.imm, vl := 0, vlpad := 0, lanes := lanesOf s s.cur } ∧
        t.h.headConf = t.h.conf ∧ t.h.vstart = 0 ∧ t.h.queue = [] ∧ t.h.pc = s.h.pc + 8 ∧ t.h.x = s.h.x ∧
        t.h.m = s.h.m ∧ t.mem = s.mem ∧
        (f.imm.toNat % 4 = s.h.headConf.vcfg.toNat % 4 →
          Adopted s t (lanesOf s s.cur * 32768 / (8 * 2 ^ (f.imm.toNat % 4)))) ∧
        (f.imm.toNat % 4 ≠ s.h.headConf.vcfg.toNat % 4 →
          t.h.v = Vector.replicate 64 0 ∧ t.h.marks = Vector.replicate 64 0 ∧ t.h.vdirty = 0 ∧
          ∀ k : Fin 8, t.h.g[k] = if lanesOf s s.cur = s.h.headConf.lanes then s.h.g[k]
            else s.h.g[k] % 2 ^ (1152 * lanesOf s s.cur))) ∧
    (setvlIllegal f.imm.toNat = false → Free s [sregOf f.a, sregOf f.d] → ∀ b most : Nat,
      b = (if bitsGet f.imm.toNat 4 3 ≠ 0 then 4 * 2 ^ bitsGet f.imm.toNat 4 3
           else if bitsGet f.imm.toNat 0 4 = 12 then 8 else 1) →
      most = min 16384 (lanesOf s s.cur * 32768 / (confN s.h.conf * fmtWidth (bitsGet f.imm.toNat 0 4))) →
      ∃ t, exec (.setvl f) s = .next t ∧
        t.h.conf.vl % b = 0 ∧ t.h.conf.vl ≤ most ∧
        (t.h.conf.vl < (readS s (sregOf f.a)).toNat → most < t.h.conf.vl + b) ∧
        ((readS s (sregOf f.a)).toNat ≤ t.h.conf.vl → t.h.conf.vl < (readS s (sregOf f.a)).toNat + b) ∧
        t.h.conf.vlpad = t.h.conf.vl - (readS s (sregOf f.a)).toNat ∧ t.h.conf.lanes = lanesOf s s.cur ∧
        confN t.h.conf = confN s.h.conf ∧ confFmt t.h.conf = bitsGet f.imm.toNat 0 4 ∧
        readS t (sregOf f.d) = (if sregOf f.d = 0 then 0 else BitVec.ofNat 64 t.h.conf.vl) ∧
        (∀ r, r ≠ sregOf f.d → readS t r = readS s r) ∧ t.h.queue = [] ∧ t.h.pc = s.h.pc + 8 ∧
        Adopted s t (lanesOf s s.cur * 32768 / confN s.h.conf) ∧ t.mem = s.mem)

/-- R121, R115: the seventeen integer instructions of VINT that write a vector, on every integer format, vector or scalar
operand a, mask and `mz`: the exact result cut to w bits, or clamped with SAT. -/
def Obligations.IntegerElements : Prop :=
  ∀ (s : State) (f : VF), AtOnce (.vadd f) s → isInt (fmtOf s) = true → indexBad (.vadd f) s.h.conf = false → Fits s →
    let w := widthOf s
    let sa (i : Nat) : Int := signedElem (fmtOf s) (opA s f i)
    let sb (i : Nat) : Int := signedElem (fmtOf s) (opB s f i)
    let a (i : Nat) : Nat := opA s f i
    let b (i : Nat) : Nat := opB s f i
    let gives (i : Instr) (x : Nat → Int) : Prop := PerElement i s f (fmtOf s) 1 (fun k => codeOf w (x k)) (fun _ => 0)
    let sat (i : Instr) (x : Nat → Int) : Prop := PerElement i s f (fmtOf s) 1
      (fun k => codeOf w (clampTo (fmtOf s) (x k))) (fun k => if clampTo (fmtOf s) (x k) = x k then 0 else 64)
    gives (.vadd f) (fun i => a i + b i) ∧ gives (.vsub f) (fun i => (a i : Int) - b i) ∧
    gives (.vmul f) (fun i => a i * b i) ∧ gives (.vmulh f) (fun i => sa i * sb i / 2 ^ w) ∧
    gives (.vmulhu f) (fun i => (a i : Int) * b i / 2 ^ w) ∧ gives (.vmin f) (fun i => min (sa i) (sb i)) ∧
    gives (.vmax f) (fun i => max (sa i) (sb i)) ∧ gives (.vminu f) (fun i => min (a i : Int) (b i)) ∧
    gives (.vmaxu f) (fun i => max (a i : Int) (b i)) ∧ gives (.vand f) (fun i => (a i &&& b i : Nat)) ∧
    gives (.vor f) (fun i => (a i ||| b i : Nat)) ∧ gives (.vxor f) (fun i => (a i ^^^ b i : Nat)) ∧
    gives (.vsll f) (fun i => (a i : Int) * 2 ^ (b i % w)) ∧ gives (.vsrl f) (fun i => (a i : Int) / 2 ^ (b i % w)) ∧
    gives (.vsra f) (fun i => sa i / 2 ^ (b i % w)) ∧ sat (.vaddsat f) (fun i => sa i + sb i) ∧
    sat (.vsubsat f) (fun i => sa i - sb i)

/-- R116, R121, R122: the integer and the floating-point compares write bit i of a mask register; an unordered pair
compares false, with NV for a signalling NaN and, except in VFCMPEQ, for any NaN. -/
def Obligations.ComparesWriteAMask : Prop :=
  ∀ (s : State) (rm : BitVec 3) (f : VF),
    let sa (i : Nat) : Int := signedElem (fmtOf s) (opA s f i)
    let sb (i : Nat) : Int := signedElem (fmtOf s) (opB s f i)
    let x (i : Nat) : XVal := decodeX (fmtOf s) (opA s f i)
    let y (i : Nat) : XVal := decodeX (fmtOf s) (opB s f i)
    let nan (i : Nat) : Bool := isNanX (x i) || isNanX (y i)
    let sig (i : Nat) : Bool := isSigX (x i) || isSigX (y i)
    (AtOnce (.vcmpeq f) s → isInt (fmtOf s) = true → indexBad (.vcmpeq f) s.h.conf = false → Fits s →
      PerBit (.vcmpeq f) s f (fun i => opA s f i = opB s f i) (fun _ => 0) ∧
      PerBit (.vcmplt f) s f (fun i => sa i < sb i) (fun _ => 0) ∧
      PerBit (.vcmpltu f) s f (fun i => opA s f i < opB s f i) (fun _ => 0)) ∧
    (AtOnce (.vfcmpeq rm f) s → isFloat16Up (fmtOf s) = true → indexBad (.vfcmpeq rm f) s.h.conf = false → Fits s →
      PerBit (.vfcmpeq rm f) s f (fun i => nan i = false ∧ cmpX (x i) (y i) = 0) (fun i => if sig i then 1 else 0) ∧
      PerBit (.vfcmplt rm f) s f (fun i => nan i = false ∧ cmpX (x i) (y i) < 0) (fun i => if nan i then 1 else 0) ∧
      PerBit (.vfcmple rm f) s f (fun i => nan i = false ∧ cmpX (x i) (y i) ≤ 0) (fun i => if nan i then 1 else 0))

namespace Sys2Proof.Claim

/-- Rounding by stochastic bits takes its bias bytes from a register below N that the instruction does not write, in the
formats that allow it (R81). -/
def BiasReadable (s : State) (rm : BitVec 3) (reg : Nat) (d : BitVec 6) (n : Nat) : Prop :=
  rmOf rm s.h = 6 → 8 ≤ widthOf s ∧ reg < confN s.h.conf ∧ (reg < d.toNat ∨ d.toNat + n ≤ reg)

/-- The same for an instruction that may write the bias register too. -/
abbrev BiasLegal (s : State) (rm : BitVec 3) (reg : Nat) : Prop :=
  rmOf rm s.h = 6 → 8 ≤ widthOf s ∧ reg < confN s.h.conf

/-- The instruction completes and leaves what a vector instruction leaves. -/
def Completes (i : Instr) (s : State) : Prop := ∃ t, exec i s = .next t ∧ OnlyVector s t

/-- The format that the conversions of the VCVT group name in their immediate. -/
def toFormat (f : VF) : Nat := f.imm.toNat % 16

/-- Registers of a vector of that format under the committed configuration (R117). -/
def toGroup (s : State) (f : VF) : Nat := groupLen s.h.conf (toFormat f)

/-- The destination group lies below N, apart from the source when the widths differ (R117). -/
abbrev GroupLegal (s : State) (f : VF) (fmt : Nat) : Prop :=
  GroupFits s f.d.toNat (groupLen s.h.conf fmt) ∧
  (fmtWidth fmt ≠ widthOf s → Apart f.d.toNat (groupLen s.h.conf fmt) f.a.toNat 1)

/-- The offset formats OB8 and OB4, which have a zero-point register after the scale register (R125, R126). -/
abbrev offset (fmt : Nat) : Prop := fmt = 10 ∨ fmt = 11

/-- When VCVT executes (R124, R117): both formats are FP, UINT8 or integers, none of them blocked. -/
abbrev VcvtLegal (s : State) (rm : BitVec 3) (sat : Bool) (f : VF) : Prop :=
  fmtOf s ∉ [10, 11, 12, 15] ∧ toFormat f ∉ [10, 11, 12, 15] ∧ GroupLegal s f (toFormat f) ∧
  IndicesLegal (.vcvt rm sat f) s

/-- When VQNT executes (R125): from FP32 in whole blocks to a blocked format. -/
abbrev VqntLegal (s : State) (rm : BitVec 3) (sat : Bool) (f : VF) : Prop :=
  fmtOf s = 0 ∧ confBlk s.h.conf ≠ 0 ∧ s.h.conf.vl % blockOf s = 0 ∧ toFormat f ∈ [3, 4, 5, 8, 10, 11] ∧
  f.d ≠ f.a ∧ (offset (toFormat f) → f.c.toNat + 1 < confN s.h.conf) ∧ IndicesLegal (.vqnt rm sat f) s

/-- VQNT's destination, scale, zero-point and bias registers, and its source, have none in common that it writes. -/
def QuantRegistersApart (s : State) (rm : BitVec 3) (f : VF) : Prop :=
  let n := if offset (toFormat f) then 2 else 1
  Apart f.a.toNat 1 f.c.toNat n ∧ Apart f.d.toNat 1 f.c.toNat n ∧ (rmOf rm s.h = 6 → f.c.toNat + n ≠ f.d.toNat)

/-- Block n of VQNT after it (R125): with a NaN among its values the scale byte is 0xFF and codes and zero point are 0;
else k is the block's scale, the scale byte k + 127, the zero point of an offset format −lo × 2^−k rounded and cut to the
codes, a pad the zero point's code, and every other code the value times 2^−k rounded. -/
def QuantBlock (s t : State) (rm : BitVec 3) (sat : Bool) (f : VF) (n : Nat) : Prop :=
  let c := s.h.conf
  let tf := toFormat f
  let i0 := n * blockOf s
  let val (i : Nat) : XVal := if isPad c i then xZero false else decodeX 0 (element s f.a 0 i)
  let xs := (List.range (blockOf s)).map fun j => val (i0 + j)
  let at8 := 8 * scaleIndex c (fmtWidth tf) f.d.toNat i0
  let scale := bitsGet (vreg t.h f.c.toNat) at8 8
  let zero := bitsGet (vreg t.h (f.c.toNat + 1)) at8 8
  let code (j : Nat) : Nat := vget c t.h f.d.toNat tf (i0 + j)
  (xs.any isNanX = true → scale = 0xFF ∧ (offset tf → zero = 0) ∧ ∀ j, j < blockOf s → code j = 0) ∧
  (xs.any isNanX = false →
    let fin := xs.filter fun x => !isInfX x
    let lo := fin.foldl minX (xZero false)
    let hi := fin.foldl maxX (xZero false)
    let k := blockScale (if offset tf then (addX hi (negX lo) false).1 else maxX (absX lo) (absX hi)) (qntMax tf)
    let top : Int := if tf = 10 then 255 else 15
    let zp : Int := if offset tf then min (max (intOfX 0 0 (mulX (negX lo) (xPow2 (-k))).1).1 0) top else 0
    (scale : Int) = k + 127 ∧ (offset tf → (zero : Int) = zp) ∧
    ∀ j, j < blockOf s → code j =
      if isPad c (i0 + j) then zp.toNat
      else (qntCode tf (rmOf rm s.h) (biasByte s.h (f.c.toNat + if offset tf then 2 else 1) (i0 + j)) sat
        (val (i0 + j)) k zp).1 % 2 ^ fmtWidth tf)

/-- When VDQNT executes (R126): from a blocked format to FP32, BF16 or FP16. -/
abbrev VdqntLegal (s : State) (rm : BitVec 3) (sat : Bool) (f : VF) : Prop :=
  fmtOf s ∈ [3, 4, 5, 8, 10, 11, 12] ∧ confBlk s.h.conf ≠ 0 ∧ toFormat f ≤ 2 ∧ GroupLegal s f (toFormat f) ∧
  (offset (fmtOf s) → f.c.toNat + 1 < confN s.h.conf) ∧ IndicesLegal (.vdqnt rm sat f) s

/-- When VCBDEC executes (R127): from CB2 to BF16. -/
abbrev VcbdecLegal (s : State) (rm : BitVec 3) (sat : Bool) (f : VF) : Prop :=
  fmtOf s = 12 ∧ GroupLegal s f 1 ∧ IndicesLegal (.vcbdec rm sat f) s

end Sys2Proof.Claim

/-- R122, R92, R93, R123: the eleven VFP instructions that write a vector and the seven of VSFU, on FP32, BF16 and FP16:
sums, products and fused multiply-adds rounded once, minimum and maximum, |a| and −a without a flag, the class, and the
special functions; the bracket of VFRCPS and VFRSQS that is exactly zero is the model's choice (log 24). -/
def Obligations.FloatElements : Prop :=
  ∀ (s : State) (rm : BitVec 3) (f : VF), isFloat16Up (fmtOf s) = true → Fits s →
    let fmt := fmtOf s
    let w := widthOf s
    let gives (i : Instr) (x : Nat → Nat × Nat) : Prop := PerElement i s f fmt 1 (fun k => (x k).1) (fun k => (x k).2)
    let a := opA s f
    let b := opB s f
    let c := opC s f
    let r := rmOf rm s.h
    let bias (k : Nat) (i : Nat) : Nat := biasByte s.h (f.c.toNat + k) i
    (AtOnce (.vfadd rm f) s → indexBad (.vfadd rm f) s.h.conf = false → BiasReadable s rm f.c.toNat f.d 1 →
      gives (.vfadd rm f) (fun i => fAdd fmt (a i) (b i) r (bias 0 i)) ∧
      gives (.vfsub rm f) (fun i => fAdd fmt (a i) (fNeg fmt (b i)) r (bias 0 i)) ∧
      gives (.vfmul rm f) (fun i => fMul fmt (a i) (b i) r (bias 0 i)) ∧
      gives (.vfmin rm f) (fun i => fMin fmt (a i) (b i)) ∧ gives (.vfmax rm f) (fun i => fMax fmt (a i) (b i))) ∧
    (AtOnce (.vfma rm f) s → indexBad (.vfma rm f) s.h.conf = false → BiasReadable s rm (f.c.toNat + 1) f.d 1 →
      gives (.vfma rm f) (fun i => fFma fmt (a i) (b i) (c i) r (bias 1 i)) ∧
      gives (.vfms rm f) (fun i => fFma fmt (a i) (b i) (fNeg fmt (c i)) r (bias 1 i)) ∧
      gives (.vfnma rm f) (fun i => fFma fmt (fNeg fmt (a i)) (b i) (c i) r (bias 1 i))) ∧
    (AtOnce (.vfabs rm f) s → indexBad (.vfabs rm f) s.h.conf = false → BiasReadable s rm f.c.toNat f.d 1 →
      gives (.vfabs rm f) (fun i => (a i % 2 ^ (w - 1), 0)) ∧
      gives (.vfneg rm f) (fun i => (if a i < 2 ^ (w - 1) then a i + 2 ^ (w - 1) else a i - 2 ^ (w - 1), 0)) ∧
      gives (.vfclass rm f) (fun i => (2 ^ fpClass fmt (a i), 0))) ∧
    (AtOnce (.vfrcp f) s → indexBad (.vfrcp f) s.h.conf = false →
      gives (.vfrcp f) (fun i => rcpApprox fmt (a i)) ∧ gives (.vfrsq f) (fun i => rsqApprox fmt (a i)) ∧
      gives (.vfexp2 f) (fun i => specialFn 0 fmt (a i)) ∧ gives (.vflog2 f) (fun i => specialFn 1 fmt (a i)) ∧
      gives (.vftanh f) (fun i => specialFn 2 fmt (a i))) ∧
    (AtOnce (.vfrcps f) s → indexBad (.vfrcps f) s.h.conf = false →
      gives (.vfrcps f) (fun i => stepApprox fmt false (a i) (b i)) ∧
      gives (.vfrsqs f) (fun i => stepApprox fmt true (a i) (b i)))

/-- R124, R126, R127, R117, R125: VCVT to a format of any width, VDQNT of a blocked vector by its scales and VCBDEC
through the codebook complete and write each element of the destination's register group, VCVT and VDQNT complete
whatever registers they share with their bias and scales too; VQNT completes, writes the
destination register, the scale bytes in register c and, for the offset formats, the zero points in register c + 1, and
changes no other register; where these registers lie apart from the source, the bias and one another, every block from
`vstart` on has the scale, zero point and codes that R125 gives it. -/
def Obligations.ConversionElements : Prop :=
  ∀ (s : State) (rm : BitVec 3) (sat : Bool) (f : VF), Fits s →
    let fmt := fmtOf s
    let tf := toFormat f
    let r := rmOf rm s.h
    (AtOnce (.vcvt rm sat f) s → VcvtLegal s rm sat f → BiasReadable s rm f.c.toNat f.d (toGroup s f) →
      let x (i : Nat) : Nat × Nat := cvtElem fmt tf r (biasByte s.h f.c.toNat i) sat (element s f.a fmt i)
      PerElement (.vcvt rm sat f) s f tf (toGroup s f) (fun i => (x i).1) (fun i => (x i).2)) ∧
    (AtOnce (.vdqnt rm sat f) s → VdqntLegal s rm sat f →
      BiasReadable s rm (f.c.toNat + if offset fmt then 2 else 1) f.d (toGroup s f) →
      Apart f.d.toNat (toGroup s f) f.c.toNat 2 →
      let x (i : Nat) : Nat × Nat := dqntElem s.h.conf f r sat s i
      PerElement (.vdqnt rm sat f) s f tf (toGroup s f) (fun i => (x i).1) (fun i => (x i).2)) ∧
    (AtOnce (.vcvt rm sat f) s → VcvtLegal s rm sat f → BiasLegal s rm f.c.toNat → Completes (.vcvt rm sat f) s) ∧
    (AtOnce (.vdqnt rm sat f) s → VdqntLegal s rm sat f →
      BiasLegal s rm (f.c.toNat + if offset fmt then 2 else 1) → Completes (.vdqnt rm sat f) s) ∧
    (AtOnce (.vcbdec rm sat f) s → VcbdecLegal s rm sat f →
      let x (i : Nat) : Nat × Nat := roundX (cbWeight s.h.conf s f.a.toNat i) 1 0 0 false
      PerElement (.vcbdec rm sat f) s f 1 (groupLen s.h.conf 1) (fun i => (x i).1) (fun i => (x i).2)) ∧
    (AtOnce (.vqnt rm sat f) s → VqntLegal s rm sat f →
      BiasLegal s rm (f.c.toNat + if offset tf then 2 else 1) → s.h.vstart % blockOf s = 0 →
      ∃ t, exec (.vqnt rm sat f) s = .next t ∧ OnlyVector s t ∧ t.h.m = s.h.m ∧ t.h.g = s.h.g ∧
        t.h.readback = s.h.readback ∧ t.h.smflags = s.h.smflags ∧ t.h.mxflags = s.h.mxflags ∧
        (∀ k, k ≠ f.d.toNat → k ≠ f.c.toNat → (k = f.c.toNat + 1 → ¬ offset tf) → vreg t.h k = vreg s.h k) ∧
        (QuantRegistersApart s rm f → ∀ n, s.h.vstart ≤ n * blockOf s → n * blockOf s < s.h.conf.vl →
          QuantBlock s t rm sat f n))

/-- R128, R129, R89: a reduction writes the result of segment k to element k and nothing else: VREDSUM the sum of the
segment's selected elements cut to w bits, VREDMIN and VREDMAX one of them that none lies below or above, or the
identity when none is selected, the floating-point ones the pairwise tree over them. -/
def Obligations.ReductionsBySegment : Prop :=
  ∀ (s : State) (f : VF), s.h.vstart = 0 → Fits s →
    let c := s.h.conf
    let fmt := fmtOf s
    let n := if f.imm = 0 then c.vl else f.imm.toNat
    let inSegment (k i : Nat) : Prop := k * n ≤ i ∧ i < (k + 1) * n ∧ Active s f.m i
    let reduces (i : Instr) (p : Nat → Nat → Prop) : Prop :=
      ∃ t, exec i s = .next t ∧ OnlyVector s t ∧ t.h.m = s.h.m ∧ t.h.g = s.h.g ∧ t.h.readback = s.h.readback ∧
        (∀ r, r ≠ f.d.toNat → vreg t.h r = vreg s.h r) ∧
        (∀ k, k * n < c.vl → p k (element t f.d fmt k)) ∧
        ∀ k, c.vl ≤ k * n → k < regElems c (widthOf s) → element t f.d fmt k = element s f.d fmt k
    let val (i : Nat) : Nat := element s f.a fmt i
    let sval (i : Nat) : Int := signedElem fmt (val i)
    (AtOnce (.vredsum f) s → isInt fmt = true → indexBad (.vredsum f) c = false →
      reduces (.vredsum f) (fun k x => x =
        (((List.range n).map (k * n + ·)).foldl
          (fun a i => if contributes c s.h f.m.toNat i then a + val i else a) 0) % 2 ^ widthOf s) ∧
      reduces (.vredmin f) (fun k x =>
        (∀ i, inSegment k i → signedElem fmt x ≤ sval i) ∧
        ((∃ i, inSegment k i ∧ val i = x) ∨ ((∀ i, ¬ inSegment k i) ∧ x = codeOf (widthOf s) (greatestOf fmt)))) ∧
      reduces (.vredmax f) (fun k x =>
        (∀ i, inSegment k i → sval i ≤ signedElem fmt x) ∧
        ((∃ i, inSegment k i ∧ val i = x) ∨ ((∀ i, ¬ inSegment k i) ∧ x = codeOf (widthOf s) (leastOf fmt))))) ∧
    (AtOnce (.vredsum f) s → isFloat16Up fmt = true → indexBad (.vredsum f) c = false →
      let tree (op : Nat → Nat → Nat → Nat × Nat) (e k : Nat) : Nat :=
        (segmentResult c f s.h op e k).1 % 2 ^ widthOf s
      reduces (.vfredsum f) (fun k x => x = tree (fun fmt a b => fAdd fmt a b 0 0) 0 k) ∧
      reduces (.vfredmin f) (fun k x => x = tree fMin (infCode fmt) k) ∧
      reduces (.vfredmax f) (fun k x => x = tree fMax (infCode fmt + 2 ^ (widthOf s - 1)) k))

namespace Sys2Proof.Claim

/-- When VPERM, VCOMPRESS and VEXPAND execute (R143, R145): elements of at least 8 bits, from element 0 on. -/
abbrev ByteWide (i : Instr) (s : State) : Prop := 8 ≤ widthOf s ∧ IndicesLegal i s

/-- What VGTRN and VQTRN ask of a transpose of n rows (R146): 1 to 64 rows, no more than VLmax, at least one column, and
two groups of registers below N without a register in common. -/
abbrev TransposeLegal (s : State) (f : VF) : Prop :=
  let n := f.imm.toNat
  1 ≤ n ∧ n ≤ 64 ∧ n ≤ vlMost s ∧ s.h.conf.vl ≠ 0 ∧ Apart f.a.toNat n f.d.toNat s.h.conf.vl ∧
  GroupFits s f.a.toNat n ∧ GroupFits s f.d.toNat s.h.conf.vl

/-- When VGTRN executes (R146). -/
abbrev VgtrnLegal (s : State) (f : VF) : Prop := fmtOf s ≠ 12 ∧ TransposeLegal s f ∧ IndicesLegal (.vgtrn f) s

/-- When VQTRN executes (R147): a blocked format in whole blocks both ways, each group of one scale group, apart from the
scale registers c and c + 1. -/
abbrev VqtrnLegal (s : State) (f : VF) : Prop :=
  fmtOf s ∈ [3, 4, 5, 8] ∧ blockOf s ≠ 0 ∧ f.imm.toNat % blockOf s = 0 ∧ s.h.conf.vl % blockOf s = 0 ∧
  TransposeLegal s f ∧ OneScaleGroup s f.a.toNat f.imm.toNat ∧ OneScaleGroup s f.d.toNat s.h.conf.vl ∧
  Apart f.c.toNat 2 f.a.toNat f.imm.toNat ∧ Apart f.c.toNat 2 f.d.toNat s.h.conf.vl ∧
  f.c.toNat + 1 < confN s.h.conf ∧ IndicesLegal (.vqtrn f) s

end Sys2Proof.Claim

/-- R143 to R145: every source element is read before one is written. VPERM takes the element its index names, 0 beyond
vl; the slides move by s[b] and leave, or fill with 0, what has no source; VCOMPRESS puts the selected elements one
after another from element 0 and VEXPAND spreads the elements from 0 on over the selected positions. -/
def Sys2Proof.Claim.PermutesMoveElements : Prop :=
  ∀ (s : State) (f : VF), s.h.vstart = 0 → Fits s →
    let c := s.h.conf
    let fmt := fmtOf s
    let val (i : Nat) : Nat := element s f.a fmt i
    let rank (i : Nat) : Nat := ((List.range i).filter fun j => maskBit s.h f.m.toNat j && !isPad c j).length
    let moves (i : Instr) (p : State → Prop) : Prop :=
      ∃ t, exec i s = .next t ∧ OnlyVector s t ∧ t.h.m = s.h.m ∧ t.h.g = s.h.g ∧ t.h.fflags = s.h.fflags ∧
        t.h.readback = s.h.readback ∧ (∀ r, r ≠ f.d.toNat → vreg t.h r = vreg s.h r) ∧
        (∀ k, c.vl ≤ k → k < regElems c (widthOf s) → element t f.d fmt k = element s f.d fmt k) ∧ p t
    (AtOnce (.vperm f) s → ByteWide (.vperm f) s → moves (.vperm f) fun t =>
      Elements s t f fmt 1 fun i => if opB s f i < c.vl then val (opB s f i) else 0) ∧
    (AtOnce (.vslideup f) s → IndicesLegal (.vslideup f) s →
      let k := (readS s (sregOf f.b)).toNat
      (moves (.vslideup f) fun t => ∀ i, i < c.vl → element t f.d fmt i =
        if i < k then element s f.d fmt i
        else if c.vl - c.vlpad ≤ i then padValue fmt
        else if maskBit s.h f.m.toNat i then val (i - k) else if f.mz then 0 else element s f.d fmt i) ∧
      (moves (.vslidedn f) fun t =>
        Elements s t f fmt 1 fun i => if i + k < c.vl then val (i + k) else 0)) ∧
    (AtOnce (.vcompress f) s → ByteWide (.vcompress f) s →
      (moves (.vcompress f) fun t =>
        (∀ i, i < c.vl - c.vlpad → maskBit s.h f.m.toNat i = true → element t f.d fmt (rank i) = val i) ∧
        ∀ i, rank c.vl ≤ i → i < c.vl → element t f.d fmt i = if f.mz then 0 else element s f.d fmt i) ∧
      (moves (.vexpand f) fun t => Elements s t f fmt 1 fun i => val (rank i)))

/-- R146, R147: VGTRN writes element j of source register r to element r of destination register j, pads as the pad
value; VQTRN does so for blocked vectors, each code re-expressed at the largest scale of the rows of its block, which
becomes the block's scale byte in register c + 1 (pads: code 0 and scale byte 0x7F); no other register changes. -/
def Sys2Proof.Claim.TransposesSwapRowsAndColumns : Prop :=
  ∀ (s : State) (f : VF), s.h.vstart = 0 → Fits s →
    let c := s.h.conf
    let fmt := fmtOf s
    (AtOnce (.vgtrn f) s → VgtrnLegal s f →
      ∃ t, exec (.vgtrn f) s = .next t ∧ OnlyVector s t ∧ t.h.m = s.h.m ∧ t.h.g = s.h.g ∧ t.h.fflags = s.h.fflags ∧
        t.h.readback = s.h.readback ∧
        (∀ k, k < f.d.toNat ∨ f.d.toNat + c.vl ≤ k → vreg t.h k = vreg s.h k) ∧
        ∀ j r, j < c.vl → r < f.imm.toNat → vget c t.h (f.d.toNat + j) fmt r =
          if c.vl - c.vlpad ≤ j then padValue fmt else vget c s.h (f.a.toNat + r) fmt j) ∧
    (AtOnce (.vqtrn f) s → VqtrnLegal s f →
      ∃ t, exec (.vqtrn f) s = .next t ∧ OnlyVector s t ∧ t.h.m = s.h.m ∧ t.h.g = s.h.g ∧
        t.h.readback = s.h.readback ∧
        (∀ k, k < f.d.toNat ∨ f.d.toNat + c.vl ≤ k → k ≠ f.c.toNat + 1 → vreg t.h k = vreg s.h k) ∧
        ∀ j r, j < c.vl → r < f.imm.toNat →
          let b0 := r / blockOf s * blockOf s
          let scaleOf (q : Nat) : Nat := scaleByte c s.h f.c.toNat (widthOf s) (f.a.toNat + q) j
          let most := (List.range (blockOf s)).foldl (fun x q => max x (scaleOf (b0 + q))) 0
          bitsGet (vreg t.h (f.c.toNat + 1)) (8 * scaleIndex c (widthOf s) (f.d.toNat + j) b0) 8 =
            (if c.vl - c.vlpad ≤ j then 0x7F else most) ∧
          vget c t.h (f.d.toNat + j) fmt r =
            if c.vl - c.vlpad ≤ j then 0
            else if most = 0xFF then (if fmt = 5 ∨ fmt = 8 then 0 else qNaN fmt % 2 ^ widthOf s)
            else (roundX (scaleX (decodeX fmt (vget c s.h (f.a.toNat + r) fmt j)) ((scaleOf r : Int) - most)) fmt 0 0 true).1
              % 2 ^ widthOf s)

/-- R143 to R147: permutes and transposes. -/
def Obligations.PermutesAndTransposes : Prop :=
  Sys2Proof.Claim.PermutesMoveElements ∧ Sys2Proof.Claim.TransposesSwapRowsAndColumns

/-- R148: the shifts of a vector's bit string of vl × w bits by s[b], at most its length, alone and with a second string
that fills; every bit above the string, every other register and the flags stay. -/
def Sys2Proof.Claim.BitStringsShift : Prop :=
  ∀ (s : State) (f : VF), s.h.vstart = 0 → AtOnce (.vbfsl f) s → indexBad (.vbfsl f) s.h.conf = false →
    let n := s.h.conf.vl * widthOf s
    let str (r : BitVec 6) : Nat := vreg s.h r.toNat % 2 ^ n
    let k := min (readS s (sregOf f.b)).toNat n
    let shifts (i : Instr) (x : Nat) : Prop :=
      ∃ t, exec i s = .next t ∧ OnlyVector s t ∧ t.h.m = s.h.m ∧ t.h.g = s.h.g ∧ t.h.fflags = s.h.fflags ∧
        t.h.readback = s.h.readback ∧ (∀ r, r ≠ f.d.toNat → vreg t.h r = vreg s.h r) ∧
        vreg t.h f.d.toNat = vreg s.h f.d.toNat / 2 ^ n * 2 ^ n + x
    shifts (.vbfsl f) (str f.a * 2 ^ k % 2 ^ n + str f.c / 2 ^ (n - k)) ∧
    shifts (.vbfsr f) (str f.a / 2 ^ k + str f.c * 2 ^ (n - k) % 2 ^ n) ∧
    (f.c = 0 → shifts (.vbsll f) (str f.a * 2 ^ k % 2 ^ n) ∧ shifts (.vbsrl f) (str f.a / 2 ^ k))

/-- R137, R138, R335: mask logic writes bits below vl − vlpad of a mask register and zeros its pads; MPOPC and MFIRST
queue the number, or the position, of the selected ones as a read-back value for s[d], all ones when there is none. -/
def Sys2Proof.Claim.MaskInstructions : Prop :=
  ∀ (s : State) (f : VF), s.h.vstart = 0 → s.h.conf.vl ≤ 16384 →
    let live := s.h.conf.vl - s.h.conf.vlpad
    let writes (i : Instr) (bit : Nat → Prop) : Prop :=
      ∃ t, exec i s = .next t ∧ OnlyVector s t ∧ t.h.v = s.h.v ∧ t.h.g = s.h.g ∧ t.h.fflags = s.h.fflags ∧
        t.h.readback = s.h.readback ∧ (∀ k : Fin 16, k.val ≠ f.d.toNat → t.h.m[k] = s.h.m[k]) ∧
        ∀ i, (maskBit t.h f.d.toNat i = true ↔
          if i < s.h.conf.vl then i < live ∧ bit i else maskBit s.h f.d.toNat i = true)
    let delivers (i : Instr) (p : Nat → Prop) : Prop :=
      ∃ t x, exec i s = .next t ∧ OnlyVector s t ∧ t.h.v = s.h.v ∧ t.h.m = s.h.m ∧ t.h.g = s.h.g ∧
        t.h.fflags = s.h.fflags ∧ t.h.readback = s.h.readback ++ [(sregOf f.d, BitVec.ofNat 64 x)] ∧ p x
    let A (i : Nat) : Prop := maskBit s.h f.a.toNat i = true
    let B (i : Nat) : Prop := maskBit s.h f.b.toNat i = true
    let selected (i : Nat) : Prop := i < live ∧ A i ∧ maskBit s.h f.m.toNat i = true
    (AtOnce (.mand f) s →
      writes (.mand f) (fun i => A i ∧ B i) ∧ writes (.mor f) (fun i => A i ∨ B i) ∧
      writes (.mxor f) (fun i => ¬ (A i ↔ B i)) ∧ writes (.mandn f) (fun i => A i ∧ ¬ B i)) ∧
    (AtOnce (.mset f) s → writes (.mset f) (fun i => i < (readS s (sregOf f.a)).toNat)) ∧
    (AtOnce (.mpopc f) s →
      delivers (.mpopc f) (fun x => x = ((List.range live).filter fun i =>
        maskBit s.h f.a.toNat i && maskBit s.h f.m.toNat i).length) ∧
      delivers (.mfirst f) (fun x => (selected x ∧ ∀ j, j < x → ¬ selected j) ∨
        ((∀ j, ¬ selected j) ∧ x = 2 ^ 64 - 1)))

/-- R137, R138, R148: bit strings and masks. -/
def Obligations.MasksAndBitStrings : Prop :=
  Sys2Proof.Claim.BitStringsShift ∧ Sys2Proof.Claim.MaskInstructions

/-- R139 to R142: VMV, VBCAST, VIOTA and VMERGE write each element; VINS writes the one its immediate names, and VMVS
queues that element, sign-extended for the signed formats, for s[d]. An index at or above VLmax traps with cause
0x04. -/
def Obligations.MovesOfElements : Prop :=
  ∀ (s : State) (f : VF), Fits s →
    let c := s.h.conf
    let fmt := fmtOf s
    let w := widthOf s
    let flagless (i : Instr) (x : Nat → Nat) : Prop := PerElement i s f fmt 1 x (fun _ => 0)
    (AtOnce (.vmv f) s → indexBad (.vmv f) c = false → flagless (.vmv f) (fun i => element s f.a fmt i)) ∧
    (AtOnce (.vbcast f) s → (f.sa = false → f.imm.toNat < vlMost s) → IndicesLegal (.vbcast f) s →
      flagless (.vbcast f) (fun _ => if f.sa then (readS s (sregOf f.a)).toNat else element s f.a fmt f.imm.toNat)) ∧
    (AtOnce (.viota f) s → isInt fmt = true → indexBad (.viota f) c = false →
      flagless (.viota f) (fun i => ((List.range i).filter fun j =>
        decide (j < c.vl - c.vlpad) && maskBit s.h f.a.toNat j).length)) ∧
    (AtOnce (.vmerge f) s → indexBad (.vmerge f) c = false →
      ∃ t, exec (.vmerge f) s = .next t ∧ OnlyVector s t ∧ t.h.m = s.h.m ∧ t.h.g = s.h.g ∧ t.h.fflags = s.h.fflags ∧
        (∀ r, r ≠ f.d.toNat → vreg t.h r = vreg s.h r) ∧
        ∀ i, i < regElems c w → element t f.d fmt i =
          if i < s.h.vstart ∨ c.vl ≤ i then element s f.d fmt i
          else if c.vl - c.vlpad ≤ i then padValue fmt
          else if maskBit s.h f.m.toNat i then opA s f i else opB s f i) ∧
    (AtOnce (.vins f) s → s.h.vstart = 0 → f.imm.toNat < vlMost s → IndicesLegal (.vins f) s →
      ∃ t, exec (.vins f) s = .next t ∧ OnlyVector s t ∧ t.h.m = s.h.m ∧ t.h.g = s.h.g ∧ t.h.fflags = s.h.fflags ∧
        (∀ r, r ≠ f.d.toNat → vreg t.h r = vreg s.h r) ∧
        ∀ i, i < regElems c w → element t f.d fmt i =
          if i = f.imm.toNat then (readS s (sregOf f.a)).toNat % 2 ^ w else element s f.d fmt i) ∧
    (AtOnce (.vmvs f) s → s.h.vstart = 0 → f.imm.toNat < vlMost s → IndicesLegal (.vmvs f) s →
      ∃ t, exec (.vmvs f) s = .next t ∧ OnlyVector s t ∧ t.h.v = s.h.v ∧ t.h.m = s.h.m ∧ t.h.g = s.h.g ∧
        t.h.fflags = s.h.fflags ∧
        let x := element s f.a fmt f.imm.toNat
        t.h.readback = s.h.readback ++ [(sregOf f.d,
          if isInt fmt ∧ fmt ≠ 9 then BitVec.ofInt 64 (signedElem fmt x) else BitVec.ofNat 64 x)]) ∧
    (s.h.frozen = false → s.h.queue = [] → vlMost s ≤ f.imm.toNat →
      (f.sa = false → exec (.vbcast f) s = .next (takeTrap false 0x04 (parcelsOf (.vbcast f)) s.h.pc 32 s)) ∧
      exec (.vins f) s = .next (takeTrap false 0x04 (parcelsOf (.vins f)) s.h.pc 32 s) ∧
      exec (.vmvs f) s = .next (takeTrap false 0x04 (parcelsOf (.vmvs f)) s.h.pc 32 s))

/-! ### Vector memory on the scratchpad, small matrices (spec/14, spec/08) -/

namespace Sys2Proof.Claim

/-- Nothing else is outstanding in the window of the turn's core: no copy command, no queued entry of another hart of the
core that is not frozen (R361), and no bank that left FIFO mode while the hart waited there (R347). -/
def NoCopies (s : State) : Prop :=
  (∀ ch ∈ (getCore s (curCore s)).channels.toList, ch.queue = []) ∧
  (∀ n, n / 8 = curCore s → n ≠ s.cur → (getHart s n).frozen = true ∨ (getHart s n).queue = []) ∧
  NotOusted s

/-- A release that the configuration's ordering asks for need not wait: for no discard of the hart (R329), and at system
scope for no remote write (R317, R321, R326). -/
def OrderReady (s : State) : Prop :=
  confMo s.h.conf ≠ 0 → (∀ p ∈ s.discards, p.2 ≠ s.cur) ∧ (confScope s.h.conf = 4 → s.h.remoteWrites = 0)

/-- The captured ordering makes an instruction an acquire at die scope or beyond (R318, R321). -/
def acquiring (s : State) : Bool := confMo s.h.conf ≠ 0 && 2 ≤ confScope s.h.conf

/-- Under `mo` = 2 some element is performed, each of which is an acquire (R326). -/
def EachAcquires (s : State) (f : VF) : Prop := confMo s.h.conf = 2 ∧ ∃ i, Active s f.m i

/-- As `OnlyVector`, for an instruction that accesses memory: memory, the tickets of `mo` = 2 and answers of earlier
remote accesses may change too, and an acquire drops the core's copies under read leases (log 42). -/
def OnlyVectorMemory (acquires : Prop) (s t : State) : Prop :=
  ∃ acq : Bool, (acq = true ↔ acquires) ∧
    OnlyVector { Acquired acq s with mem := t.mem, tickets := t.tickets, remotes := t.remotes } t

/-- What a load acquires: under `mo` ≠ 0 at its end, under `mo` = 2 with each element; a read-only one nothing (R328). -/
def LoadAcquires (s : State) (hint : BitVec 2) (f : VF) : Prop := hint ≠ 1 ∧ (acquiring s = true ∨ EachAcquires s f)

/-- The access of n bytes at va lies in scratchpad banks of the core's window, at this SRAM offset. -/
def scratchOff (va : Nat) : Nat := va - 0xFFFFF00000000000
def Scratch (s : State) (va n : Nat) : Prop := InScratch s va n (scratchOff va)

/-- The address of element i: unit stride, the stride s[b], or the index register b (R256). -/
def unitEa (s : State) (f : VF) (i : Nat) : Nat := ((readS s (sregOf f.a)).toNat + i * widthOf s / 8) % 2 ^ 64
def strideEa (s : State) (f : VF) (i : Nat) : Nat :=
  ((readS s (sregOf f.a)).toNat + i * (readS s (sregOf f.b)).toNat) % 2 ^ 64
def indexEa (s : State) (f : VF) (i : Nat) : Nat :=
  ((readS s (sregOf f.a)).toNat + element s f.b (fmtOf s) i * widthOf s / 8) % 2 ^ 64

/-- A transfer of whole vectors may have elements of less than a byte only without a mask (R256). -/
abbrev UnitLegal (i : Instr) (s : State) (f : VF) : Prop := (widthOf s < 8 → f.m = 0) ∧ IndicesLegal i s

/-- The format that a VAMO op code takes (R260). -/
abbrev VamoLegal (s : State) (op : BitVec 4) (old : Bool) (f : VF) : Prop :=
  ((op ∈ [0, 3, 4] ∧ fmtOf s = 6) ∨ (op = 1 ∧ fmtOf s = 13) ∨ (op ∈ [2, 5, 6] ∧ fmtOf s = 0) ∨
    (7 ≤ op.toNat ∧ fmtOf s ∈ [6, 13, 0])) ∧ IndicesLegal (.vamo op old f) s

/-- The format that a VUPD tag takes (R261). -/
abbrev VupdLegal (s : State) (tag : BitVec 4) (f : VF) : Prop :=
  fmtOf s = (if tag ∈ [1, 5, 6] then 6 else if tag ∈ [3, 7, 8] then 0 else if tag = 4 then 1 else 13) ∧
  IndicesLegal (.vupd tag f) s

/-- Every element below the pads has its bytes in the scratchpad. -/
def InReach (s : State) (ea : Nat → Nat) : Prop :=
  ∀ i, i < s.h.conf.vl - s.h.conf.vlpad → Scratch s (ea i) (max 1 (widthOf s / 8))

/-- The bits of the w-bit element i that lies at va, in the core's SRAM (R2, R256). -/
def elementAt (s : State) (va i : Nat) : Nat :=
  memRead s.mem (sramBase (curCore s) + scratchOff va) (max 1 (widthOf s / 8)) /
    2 ^ (widthOf s * i % 8) % 2 ^ widthOf s

/-- A load: element i of register d becomes the element at its address; memory is unchanged. -/
def LoadsElements (i : Instr) (s : State) (hint : BitVec 2) (f : VF) (ea : Nat → Nat) : Prop :=
  ∃ t, exec i s = .next t ∧ OnlyVectorMemory (LoadAcquires s hint f) s t ∧ t.mem = s.mem ∧ t.h.fflags = s.h.fflags ∧
    Elements s t f (fmtOf s) 1 (fun i => elementAt s (ea i) i)

/-- Key of the first byte of element i in memory. -/
def keyOf (s : State) (ea : Nat → Nat) (i : Nat) : Nat := sramBase (curCore s) + scratchOff (ea i)

/-- A store: each selected element's bytes stand at its address, of elements that share a byte the later one's; every
other byte of memory is unchanged, and so is every register. -/
def StoresElements (i : Instr) (s : State) (f : VF) (ea : Nat → Nat) : Prop :=
  let n := widthOf s / 8
  ∃ t, exec i s = .next t ∧ OnlyVectorMemory (EachAcquires s f) s t ∧ t.h.v = s.h.v ∧ t.h.m = s.h.m ∧ t.h.g = s.h.g ∧
    t.h.fflags = s.h.fflags ∧ t.h.vdirty = s.h.vdirty ∧
    (∀ i k, Active s f.m i → k < n →
      (∀ j, Active s f.m j → i < j → ∀ q, q < n → keyOf s ea j + q ≠ keyOf s ea i + k) →
      memGet t.mem (keyOf s ea i + k) = BitVec.ofNat 8 (element s f.c (fmtOf s) i / 256 ^ k)) ∧
    ∀ a, (∀ i q, Active s f.m i → q < n → a ≠ keyOf s ea i + q) → memGet t.mem a = memGet s.mem a

end Sys2Proof.Claim

/-- R256, R257, R115, R252: VLD (any width of at least four bits), VLDS and VLDX from scratchpad banks, under every hint,
mask and ordering: each selected element is the one at its address. -/
def Sys2Proof.Claim.VectorLoadsFromScratchpad : Prop :=
  ∀ (s : State) (hint : BitVec 2) (f : VF), Fits s → NoCopies s → OrderReady s →
    (AtOnce (.vld hint f) s → UnitLegal (.vld hint f) s f → 4 ≤ widthOf s → InReach s (unitEa s f) →
      LoadsElements (.vld hint f) s hint f (unitEa s f)) ∧
    (AtOnce (.vlds hint f) s → 8 ≤ widthOf s → IndicesLegal (.vlds hint f) s → InReach s (strideEa s f) →
      LoadsElements (.vlds hint f) s hint f (strideEa s f)) ∧
    (AtOnce (.vldx hint f) s → 8 ≤ widthOf s → IndicesLegal (.vldx hint f) s → InReach s (indexEa s f) →
      LoadsElements (.vldx hint f) s hint f (indexEa s f))

/-- R256, R259, R252: VST, VSTS and VSTX of elements of at least eight bits to scratchpad banks, and VST of 2-bit and 4-bit
elements that fill whole 16-bit units, store each selected element at its address and change no other byte. -/
def Sys2Proof.Claim.VectorStoresToScratchpad : Prop :=
  ∀ (s : State) (f : VF), Fits s → NoCopies s → OrderReady s →
    (AtOnce (.vst f) s → IndicesLegal (.vst f) s → 8 ≤ widthOf s → InReach s (unitEa s f) →
      StoresElements (.vst f) s f (unitEa s f)) ∧
    (AtOnce (.vsts f) s → 8 ≤ widthOf s → IndicesLegal (.vsts f) s → InReach s (strideEa s f) →
      StoresElements (.vsts f) s f (strideEa s f)) ∧
    (AtOnce (.vstx f) s → 8 ≤ widthOf s → IndicesLegal (.vstx f) s → InReach s (indexEa s f) →
      StoresElements (.vstx f) s f (indexEa s f)) ∧
    (AtOnce (.vst f) s → UnitLegal (.vst f) s f → widthOf s < 8 → s.h.vstart = 0 →
      let bits := (s.h.conf.vl - s.h.conf.vlpad) * widthOf s
      let A := (readS s (sregOf f.a)).toNat
      bits % 16 = 0 → 0 < bits → Scratch s A (bits / 8) →
      ∃ t, exec (.vst f) s = .next t ∧ OnlyVectorMemory (EachAcquires s f) s t ∧ t.h.v = s.h.v ∧ t.h.m = s.h.m ∧ t.h.g = s.h.g ∧
        let key := sramBase (curCore s) + scratchOff A
        (∀ k, k < bits / 8 → memGet t.mem (key + k) = BitVec.ofNat 8 (vreg s.h f.c.toNat / 256 ^ k)) ∧
        ∀ a, a < key ∨ key + bits / 8 ≤ a → memGet t.mem a = memGet s.mem a)

/-- R256, R257, R259: vector loads and stores on scratchpad banks. -/
def Obligations.VectorScratchpadAccess : Prop :=
  Sys2Proof.Claim.VectorLoadsFromScratchpad ∧ Sys2Proof.Claim.VectorStoresToScratchpad

/-- R260, R254: a VAMO of any operation its format allows, on aligned scratchpad locations: the selected elements combine
with their locations, those of one location one after another in element order (log 37), and with return-old the
destination receives what the location held when the element's turn came. -/
def Sys2Proof.Claim.VectorAtomicsOnScratchpad : Prop :=
  ∀ (s : State) (op : BitVec 4) (old : Bool) (f : VF), Fits s → NoCopies s → OrderReady s →
    AtOnce (.vamo op old f) s → VamoLegal s op old f → InReach s (indexEa s f) →
    (∀ i, Active s f.m i → indexEa s f i % (widthOf s / 8) = 0) →
    let n := widthOf s / 8
    let before (i k : Nat) : Nat := (List.range k).foldl (fun x j =>
      if Active s f.m j ∧ indexEa s f j = indexEa s f i then
        combine (vamoOp op.toNat) n x (element s f.c (fmtOf s) j) 0 % 2 ^ widthOf s
      else x) (memRead s.mem (keyOf s (indexEa s f) i) n)
    ∃ t, exec (.vamo op old f) s = .next t ∧ OnlyVectorMemory (acquiring s = true ∨ EachAcquires s f) s t ∧
      t.h.fflags = s.h.fflags ∧
      (old = true → Elements s t f (fmtOf s) 1 fun i => before i i) ∧
      (old = false → t.h.v = s.h.v ∧ t.h.m = s.h.m ∧ t.h.g = s.h.g) ∧
      (∀ i, Active s f.m i → memRead t.mem (keyOf s (indexEa s f) i) n = before i s.h.conf.vl) ∧
      ∀ a, (∀ i q, Active s f.m i → q < n → a ≠ keyOf s (indexEa s f) i + q) → memGet t.mem a = memGet s.mem a

/-- R296, R261: a VUPD whose elements all lie in lines that the core holds in U under its tag performs each into its
partial: an element untouched so far becomes the datum, a touched one Op of its value and the datum, in element order;
a BF16 datum is taken exactly in FP32. No register, byte of memory or line of a slice changes. -/
def Sys2Proof.Claim.VectorUpdatesReachTheirPartials : Prop :=
  ∀ (s : State) (tag : BitVec 4) (f : VF) (lu : Nat → Nat), Fits s → NoCopies s → AtOnce (.vupd tag f) s →
    VupdLegal s tag f → confMo s.h.conf = 0 → s.discards = [] →
    let c := curCore s
    let n := widthOf s / 8
    (∀ i, Active s f.m i → touchesWindow (indexEa s f i) n = false ∧ indexEa s f i % n = 0 ∧ isHostLu (lu i) = false ∧
      virtualHit s (currentWho s) (indexEa s f i) 2 = some (lu i, getCopy s c (lu i)) ∧
      (getCopy s c (lu i)).st = .u ∧ (getCopy s c (lu i)).tag = tag.toNat) →
    let datum (i : Nat) : Nat := element s f.c (fmtOf s) i * if tag = 4 then 2 ^ 16 else 1
    ∃ t, exec (.vupd tag f) s = .next t ∧ t.h.v = s.h.v ∧ t.h.m = s.h.m ∧ t.h.g = s.h.g ∧ t.h.x = s.h.x ∧
      t.h.fflags = s.h.fflags ∧ t.h.pc = s.h.pc + 8 ∧ t.mem = s.mem ∧ t.l2 = s.l2 ∧ t.dir = s.dir ∧ t.tickets = s.tickets ∧
      (∀ key, (∀ i, Active s f.m i → key ≠ copyKey c (lu i)) → tget t.l1 key = tget s.l1 key) ∧
      ∀ i0, Active s f.m i0 → ∀ e, e < updCount tag.toNat 128 →
        partialElem tag.toNat (getCopy t c (lu i0)).upd e =
          (List.range s.h.conf.vl).foldl (fun old i =>
            if Active s f.m i ∧ lu i = lu i0 ∧ indexEa s f i % 128 / n = e then
              some ((match old with | none => datum i | some y => updOp tag.toNat y (datum i)) % 2 ^ updWidth tag.toNat)
            else old) (partialElem tag.toNat (getCopy s c (lu i0)).upd e)

/-- R261, R262: a VUPD whose elements can all perform their updates, meeting neither poison nor a fault, completes with
no register changed; with every element masked off, or none to perform, it completes at once and changes no memory. -/
def Sys2Proof.Claim.VectorUpdatesComplete : Prop :=
  ∀ (s : State) (tag : BitVec 4) (f : VF), Fits s → NoCopies s → OrderReady s → AtOnce (.vupd tag f) s → VupdLegal s tag f →
    ((∀ i, ¬ Active s f.m i) →
      ∃ t, exec (.vupd tag f) s = .next t ∧ OnlyVectorMemory False s t ∧ t.mem = s.mem ∧ t.tickets = s.tickets ∧
        t.h.v = s.h.v ∧ t.h.m = s.h.m ∧ t.h.g = s.h.g ∧ t.h.fflags = s.h.fflags) ∧
    (let s1 := performAs (s.h.arrived ++ [s.tick]).head?
        (pushEntry (.instr (.vupd tag f) (readS s (sregOf f.a)) 0) { s with h := { s.h with headConf := s.h.conf } })
     ∀ s2, runParts .inOrder (dueElem s.h.conf f s1.h)
        (fun p => vupdUnit s.h.conf f tag.toNat (readS s (sregOf f.a)) p.first)
        (partsTodo (dueElem s.h.conf f s1.h) (singles s.h.conf.vl) s1) s1 = (s2, true) →
      s2.h.pass.faults = [] → s2.h.pass.first = none → s2.h.lastUse = [] → s2.h.owesTrap = none →
      s.h.conf.vl ≤ s2.h.front → s2.cur = s.cur →
      exec (.vupd tag f) s = .next (finishHead 1 s.h.qhead s.h.vstart (parcelsOf (.vupd tag f))
        (.done { s2 with h := { s2.h with pass := {}, vstart := 0 } })))

/-- R260, R261, R254, R296: VAMO and VUPD. -/
def Obligations.VectorAtomicsAndUpdates : Prop :=
  Sys2Proof.Claim.VectorAtomicsOnScratchpad ∧ Sys2Proof.Claim.VectorUpdatesComplete ∧
  Sys2Proof.Claim.VectorUpdatesReachTheirPartials

namespace Sys2Proof.Claim

/-- Entry (p, q) of the matrix of instance i in register n, as an FP32 code (R150, R151). -/
def entry (s : State) (n : BitVec 6) (i p q : Nat) : Nat :=
  bitsGet (s.h.g.toArray.getD n.toNat 0) (1152 * i + 32 * (6 * p + q)) 32

/-- Component j of instance i of a vector operand (R153). -/
def comp (s : State) (r : BitVec 6) (i j : Nat) : Nat := bitsGet (vreg s.h r.toNat) (32 * (8 * i + j)) 32

/-- An instance is performed: below the pads and selected (R152). -/
def Instance (s : State) (m : BitVec 4) (i : Nat) : Prop :=
  i < s.h.conf.vl - s.h.conf.vlpad ∧ i < s.h.conf.lanes ∧ maskBit s.h m.toNat i = true

/-- A small-matrix instruction that writes entries of g[d]: for each performed instance the entries of the shape become
the result's; an instance the mask leaves out has them zeroed under `mz` or keeps them; every other entry of every
matrix register keeps its value. -/
def MatrixEntries (s t : State) (f : VF) (shape : Nat → Nat → Prop) (res : Nat → Nat → Nat → Nat) : Prop :=
  ∀ (n : BitVec 6) (i p q : Nat), n.toNat < 8 → p < 6 → q < 6 →
    (n = f.d → shape p q → Instance s f.m i → entry t n i p q = res i p q % 2 ^ 32) ∧
    (¬ (n = f.d ∧ shape p q ∧ i < s.h.conf.vl - s.h.conf.vlpad ∧ i < s.h.conf.lanes ∧
        (maskBit s.h f.m.toNat i = true ∨ f.mz = true)) → entry t n i p q = entry s n i p q) ∧
    (n = f.d → shape p q → i < s.h.conf.vl - s.h.conf.vlpad → i < s.h.conf.lanes →
      maskBit s.h f.m.toNat i = false → f.mz = true → entry t n i p q = 0)

/-- A small-matrix instruction that writes entries and nothing else completes. -/
def GivesEntries (i : Instr) (s : State) (f : VF) (shape : Nat → Nat → Prop) (res : Nat → Nat → Nat → Nat) : Prop :=
  ∃ t, exec i s = .next t ∧ OnlyVector s t ∧ t.h.v = s.h.v ∧ t.h.m = s.h.m ∧ t.h.fflags = s.h.fflags ∧
    t.h.readback = s.h.readback ∧ MatrixEntries s t f shape res

/-- A small-matrix instruction that writes component vectors and nothing else completes: component j of a performed
instance is `res i j`, 0 from the count given on. -/
def GivesComponents (i : Instr) (s : State) (f : VF) (res : Nat → Nat → Nat) : Prop :=
  ∃ t, exec i s = .next t ∧ OnlyVector s t ∧ t.h.g = s.h.g ∧ t.h.fflags = s.h.fflags ∧ t.h.readback = s.h.readback ∧
    (∀ r, r ≠ f.d.toNat → vreg t.h r = vreg s.h r) ∧
    (∀ i j, Instance s f.m i → j < 8 → comp t f.d i j = res i j % 2 ^ 32) ∧
    ∀ i j, i < s.h.conf.vl → i < s.h.conf.lanes → j < 8 → ¬ Instance s f.m i →
      comp t f.d i j = if s.h.conf.vl - s.h.conf.vlpad ≤ i ∨ f.mz = true then 0 else comp s f.d i j

/-- The shape fields are between 1 and 6 and no vector field is at or above N (R54, R58). -/
abbrev ShapeLegal (i : Instr) (s : State) (f : VF) : Prop :=
  (∀ n ∈ [smRows f, smCols f, smInner f], 1 ≤ n ∧ n ≤ 6) ∧ IndicesLegal i s

end Sys2Proof.Claim

/-- R158, R159, R152, R154: the matrix instructions without a factorisation: identity, sum, scaling, transpose, row put
and row get, and products as chains of fused multiply-adds, for every shape, mask and `mz`. -/
def Obligations.MatrixArithmetic : Prop :=
  ∀ (s : State) (f : VF), s.h.vstart = 0 → Fits s →
    let r := smRows f
    let c := smCols f
    let blk (p q : Nat) : Prop := p < r ∧ q < c
    let A (i p q : Nat) : Nat := entry s f.a i p q
    let B (i p q : Nat) : Nat := entry s f.b i p q
    let row := (readS s (sregOf f.b)).toNat
    let flat (g : Nat → Nat → Nat × Nat) (i j : Nat) : Nat := (g i j).1
    (AtOnce (.smid f) s → ShapeLegal (.smid f) s f →
      GivesEntries (.smid f) s f blk (fun _ p q => if p = q then 0x3F800000 else 0)) ∧
    (AtOnce (.smadd f) s → ShapeLegal (.smadd f) s f →
      GivesEntries (.smadd f) s f blk (fun i p q => (fAdd 0 (A i p q) (B i p q) 0 0).1)) ∧
    (AtOnce (.smscl f) s → ShapeLegal (.smscl f) s f →
      GivesEntries (.smscl f) s f blk
        (fun i p q => (fMul 0 ((readS s (sregOf f.b)).toNat % 2 ^ 32) (A i p q) 0 0).1)) ∧
    (AtOnce (.smtr f) s → ShapeLegal (.smtr f) s f →
      GivesEntries (.smtr f) s f (fun p q => p < c ∧ q < r) (fun i p q => A i q p)) ∧
    (AtOnce (.smput f) s → ShapeLegal (.smput f) s f → fmtOf s = 0 → row < 6 →
      GivesEntries (.smput f) s f (fun p q => p = row ∧ q < c) (fun i _ q => comp s f.a i q)) ∧
    (AtOnce (.smget f) s → ShapeLegal (.smget f) s f → fmtOf s = 0 → row < 6 →
      GivesComponents (.smget f) s f (fun i j => if j < c then A i row j else 0)) ∧
    (AtOnce (.smmul f) s → ShapeLegal (.smmul f) s f →
      let terms (i p q : Nat) : List (Nat × Nat) := (List.range (smInner f)).map fun k => (A i p k, B i k q)
      GivesEntries (.smmul f) s f blk (fun i p q => (dot (terms i p q) none).1) ∧
      GivesEntries (.smma f) s f blk (fun i p q => (dot (terms i p q) (some (entry s f.d i p q))).1)) ∧
    (AtOnce (.smmv f) s → ShapeLegal (.smmv f) s f → fmtOf s = 0 →
      GivesComponents (.smmv f) s f (flat fun i j =>
        if j < r then dot ((List.range c).map fun q => (A i j q, comp s f.b i q)) none else (0, 0)))

namespace Sys2Proof.Claim

/-- t less the products of pairs, each subtracted by one fused multiply-add, first to last. -/
def lessProducts (l : List (Nat × Nat)) (t : Nat) : Nat := (dot (l.map fun p => (fNeg 0 p.1, p.2)) (some t)).1

/-- A quotient and a square root of FP32 codes, rounded once. -/
def quotient (x y : Nat) : Nat := (rd (divX (decodeX 0 x) (decodeX 0 y))).1
def rootOf (x : Nat) : Nat := (rd (sqrtX (decodeX 0 x))).1

/-- t > 0, false for a NaN. -/
def isPositive (t : Nat) : Prop := isNanX (decodeX 0 t) = false ∧ 0 < cmpX (decodeX 0 t) (xZero false)

/-- R160: L is the factor of the lower triangle of A, which stops at column k; k = n where it does not stop. -/
def CholeskyOf (n : Nat) (A L : Nat → Nat → Nat) (k : Nat) : Prop :=
  let below (x j : Nat) : Nat := lessProducts ((List.range j).map fun i => (L x i, L j i)) (A x j)
  k ≤ n ∧
  (∀ j, j < k → isPositive (below j j) ∧ L j j = rootOf (below j j) ∧
    ∀ x, j < x → x < n → L x j = quotient (below x j) (L j j)) ∧
  (k < n → ¬ isPositive (below k k)) ∧
  (∀ p q, p < n → q < n → p < q → L p q = 0) ∧ (∀ p q, p < n → q ≤ p → k ≤ q → L p q = 0x7FC00000)

/-- R161: the row x ≥ j with the largest |U(x, j)|, a NaN above infinity and the lowest row of a tie. -/
def PivotRow (n j : Nat) (U : Nat → Nat → Nat) (p : Nat) : Prop :=
  j ≤ p ∧ p < n ∧
  ∀ x, j ≤ x → x < n → ranksAbove (U x j) (U p j) = false ∧ (x < p → ranksAbove (U p j) (U x j) = true)

/-- R161: row x after rows j and p have changed places. -/
def exchanged (j p x : Nat) : Nat := if x = j then p else if x = p then j else x

/-- R161: one column of the elimination, from U and its row order to those after it. -/
def EliminatesColumn (n j : Nat) (U U' : Nat → Nat → Nat) (order order' : Nat → Nat) : Prop :=
  ∃ p, PivotRow n j U p ∧ (∀ x, x < n → order' x = order (exchanged j p x)) ∧
    let V (x q : Nat) : Nat := U (exchanged j p x) q
    ∀ x q, x < n → q < n → U' x q =
      if x ≤ j ∨ q < j then V x q
      else if isZeroX (decodeX 0 (V j j)) then (if q = j then 0 else V x q)
      else if q = j then quotient (V x j) (V j j)
      else lessProducts [(quotient (V x j) (V j j), V j q)] (V x q)

/-- R161: U holds the factors of A with its rows in that order, and a pivot was zero or not. -/
def FactoredAs (n : Nat) (A U : Nat → Nat → Nat) (order : Nat → Nat) (singular : Prop) : Prop :=
  ∃ (W : Nat → Nat → Nat → Nat) (o : Nat → Nat → Nat), (∀ x q, x < n → q < n → W 0 x q = A x q) ∧ (∀ x, x < n → o 0 x = x) ∧
    (∀ j, j < n → EliminatesColumn n j (W j) (W (j + 1)) (o j) (o (j + 1))) ∧
    (∀ x q, x < n → q < n → W n x q = U x q) ∧ (∀ x, x < n → o n x = order x) ∧
    (singular ↔ ∃ j, j < n ∧ isZeroX (decodeX 0 (U j j)) = true)

/-- R162: the solution x of the triangular system that `inner` selects in G, for the right-hand side y. -/
def SolvedBy (inner n : Nat) (G : Nat → Nat → Nat) (y x : Nat → Nat) : Prop :=
  ∀ p, p < n →
    let terms : List (Nat × Nat) :=
      if inner ≤ 2 then (List.range p).map fun k => (G p k, x k)
      else (List.range (n - 1 - p)).map fun k =>
        ((if inner = 3 then G p (n - 1 - k) else G (n - 1 - k) p), x (n - 1 - k))
    x p = if inner = 1 then lessProducts terms (y p) else quotient (lessProducts terms (y p)) (G p p)

/-- R154: the flag mask c after SMCHOL, SMLU and SMSOLV; `smflags` bit k joins the flags of the instances. -/
def FlagBits (s t : State) (f : VF) (k : Nat) (flag : Nat → Bool) : Prop :=
  let cleared (i : Nat) : Prop :=
    i < s.h.conf.vl ∧ i < s.h.conf.lanes ∧ (s.h.conf.vl - s.h.conf.vlpad ≤ i ∨ f.mz = true)
  (f.c ≠ 0 → f.c.toNat < 16 → ∀ i, i < 16384 →
    (Instance s f.m i → maskBit t.h f.c.toNat i = flag i) ∧
    (¬ Instance s f.m i → cleared i → maskBit t.h f.c.toNat i = false) ∧
    (¬ Instance s f.m i → ¬ cleared i → maskBit t.h f.c.toNat i = maskBit s.h f.c.toNat i)) ∧
  (f.c = 0 → t.h.m = s.h.m) ∧ s.h.smflags &&& t.h.smflags = s.h.smflags ∧
  ((∃ i, Instance s f.m i ∧ flag i = true) → t.h.smflags.getLsbD k = true)

end Sys2Proof.Claim

/-- R160 to R162, R154: SMCHOL, SMLU and SMSOLV complete on every operand, whatever the matrices hold, with the factor,
the factors and their row order, and the solution that the pseudocode gives, each operation rounded once, and change only
their matrix or vector destinations, the flag mask named by c and the sticky flags of the unit. A row index of 6 or more
in SMGET and SMPUT traps with cause 0x04 and keeps the entry (R155, R340). -/
def Obligations.MatrixFactorsComplete : Prop :=
  ∀ (s : State) (f : VF), s.h.vstart = 0 → Fits s →
    let n := smRows f
    let block (p q : Nat) : Prop := p < n ∧ q < n
    let A (i p q : Nat) : Nat := entry s f.a i p q
    let masks (t : State) : Prop := ∀ k : Fin 16, k.val ≠ f.c.toNat → t.h.m[k] = s.h.m[k]
    let only (i : Instr) (v g : Option Nat) (p : State → Prop) : Prop :=
      ∃ t, exec i s = .next t ∧ OnlyVector s t ∧ masks t ∧ t.h.fflags = s.h.fflags ∧ t.h.readback = s.h.readback ∧
        (∀ r, some r ≠ v → vreg t.h r = vreg s.h r) ∧
        (∀ n : Fin 8, some n.val ≠ g → t.h.g[n] = s.h.g[n]) ∧ p t
    let components (t : State) (r : BitVec 6) (res : Nat → Nat → Nat) : Prop :=
      (∀ i j, Instance s f.m i → j < 8 → comp t r i j = res i j % 2 ^ 32) ∧
      ∀ i j, i < s.h.conf.vl → i < s.h.conf.lanes → j < 8 → ¬ Instance s f.m i →
        comp t r i j = if s.h.conf.vl - s.h.conf.vlpad ≤ i ∨ f.mz = true then 0 else comp s r i j
    (AtOnce (.smchol f) s → ShapeLegal (.smchol f) s f → smCols f = n → only (.smchol f) none (some f.d.toNat) fun t =>
      ∃ (L : Nat → Nat → Nat → Nat) (stop : Nat → Nat),
        (∀ i, Instance s f.m i → CholeskyOf n (A i) (L i) (stop i)) ∧ MatrixEntries s t f block L ∧
        FlagBits s t f 8 fun i => decide (stop i < n)) ∧
    (AtOnce (.smlu f) s → ShapeLegal (.smlu f) s f → smCols f = n → fmtOf s = 0 →
      only (.smlu f) (some f.b.toNat) (some f.d.toNat) fun t =>
        ∃ (U : Nat → Nat → Nat → Nat) (order : Nat → Nat → Nat) (flag : Nat → Bool),
          (∀ i, Instance s f.m i → FactoredAs n (A i) (U i) (order i) (flag i = true)) ∧ MatrixEntries s t f block U ∧
          components t f.b (fun i j => 8 * i + if j < n then order i j else j) ∧ FlagBits s t f 7 flag) ∧
    (AtOnce (.smsolv f) s → ShapeLegal (.smsolv f) s f → smInner f ≤ 4 → fmtOf s = 0 →
      only (.smsolv f) (some f.d.toNat) none fun t =>
        ∃ x : Nat → Nat → Nat,
          (∀ i, Instance s f.m i → SolvedBy (smInner f) n (A i) (comp s f.b i) (x i)) ∧
          components t f.d (fun i j => if j < n then x i j else 0) ∧
          FlagBits s t f 7 fun i => decide (smInner f ≠ 1 ∧ ∃ p ∈ List.range n, isZeroX (decodeX 0 (A i p p)) = true)) ∧
    (AtOnce (.smget f) s → ShapeLegal (.smget f) s f → fmtOf s = 0 → 6 ≤ (readS s (sregOf f.b)).toNat →
      ∃ t, exec (.smget f) s = .next t ∧ t.h.trapcause = 0x04 ∧ t.h.trapval = parcelsOf (.smget f) ∧
        t.h.epc = s.h.pc + 8 ∧ t.h.queue.length = 1 ∧ t.h.frozen = true ∧ t.h.v = s.h.v) ∧
    (AtOnce (.smput f) s → ShapeLegal (.smput f) s f → fmtOf s = 0 → 6 ≤ (readS s (sregOf f.b)).toNat →
      ∃ t, exec (.smput f) s = .next t ∧ t.h.trapcause = 0x04 ∧ t.h.trapval = parcelsOf (.smput f) ∧
        t.h.epc = s.h.pc + 8 ∧ t.h.queue.length = 1 ∧ t.h.frozen = true ∧ t.h.v = s.h.v ∧ t.h.g = s.h.g)

/-- R157: SMLD and SMST move the entries of each performed instance between g and the scratchpad at base + i × stride,
row after row; SMST changes no other byte. -/
def Obligations.MatrixLoadsAndStores : Prop :=
  ∀ (s : State) (f : VF), s.h.vstart = 0 → Fits s → NoCopies s → OrderReady s →
    let r := smRows f
    let c := smCols f
    let va (i p q : Nat) : Nat :=
      ((readS s (sregOf f.a)).toNat + i * (readS s (sregOf f.b)).toNat + 4 * (p * c + q)) % 2 ^ 64
    let key (i p q : Nat) : Nat := sramBase (curCore s) + scratchOff (va i p q)
    (∀ i p q, Instance s f.m i → p < r → q < c → Scratch s (va i p q) 4) →
    (AtOnce (.smld f) s → ShapeLegal (.smld f) s f →
      ∃ t, exec (.smld f) s = .next t ∧
        OnlyVectorMemory (acquiring s = true ∨ (confMo s.h.conf = 2 ∧ ∃ i, Instance s f.m i)) s t ∧ t.mem = s.mem ∧ t.h.v = s.h.v ∧ t.h.m = s.h.m ∧
        MatrixEntries s t f (fun p q => p < r ∧ q < c) (fun i p q => memRead s.mem (key i p q) 4)) ∧
    (AtOnce (.smst f) s → ShapeLegal (.smst f) s f →
      (∀ i p q j x y, Instance s f.m i → p < r → q < c → Instance s f.m j → x < r → y < c →
        (i, p, q) ≠ (j, x, y) → key i p q + 4 ≤ key j x y ∨ key j x y + 4 ≤ key i p q) →
      ∃ t, exec (.smst f) s = .next t ∧ OnlyVectorMemory (confMo s.h.conf = 2 ∧ ∃ i, Instance s f.m i) s t ∧ t.h.v = s.h.v ∧ t.h.m = s.h.m ∧ t.h.g = s.h.g ∧
        (∀ i p q, Instance s f.m i → p < r → q < c → memRead t.mem (key i p q) 4 = entry s f.c i p q) ∧
        ∀ a, (∀ i p q, Instance s f.m i → p < r → q < c → a < key i p q ∨ key i p q + 4 ≤ a) →
          memGet t.mem a = memGet s.mem a)

/-! ### Engines (spec/09, spec/10), context blocks (spec/11, spec/19), convoys (spec/19) -/

namespace Sys2Proof.Claim

/-- The formats of streamed rows, and those of planes (R169). -/
def rowFormats : List Nat := [1, 2, 3, 4, 5]
def planeFormats : List Nat := [1, 2, 3, 4, 5, 11, 12]

/-- When MCFG executes (R169). -/
abbrev McfgLegal (f : VF) : Prop := f.imm.toNat % 16 ∈ rowFormats ∧ f.imm.toNat / 16 % 16 ∈ planeFormats

/-- A source group of n registers with the scale register c, which a format without block scales leaves 0 (R172). -/
abbrev ScalesLegal (s : State) (f : VF) (n : Nat) : Prop :=
  if fmtOf s = 1 ∨ fmtOf s = 2 ∨ confBlk s.h.conf = 0 then f.c = 0
  else OneScaleGroup s f.a.toNat n ∧ Apart f.c.toNat (if fmtOf s = 11 then 2 else 1) f.a.toNat n

/-- When MLDW executes (R172, R173): mode 0 or 1 with a plane's format, mode 2 re-expresses
blocks of FP8 or FP4. -/
abbrev MldwLegal (s : State) (f : VF) : Prop :=
  let n := registersFor s 4096
  (f.imm = 0 ∧ fmtOf s ∈ rowFormats ∧ confBlk s.h.conf = 0 ∨
    f.imm = 1 ∧ fmtOf s ∈ planeFormats ∧ (confBlk s.h.conf ≠ 0 ∨ fmtOf s ∈ rowFormats) ∨
    f.imm = 2 ∧ fmtOf s ∈ [3, 4, 5] ∧ confBlk s.h.conf ≠ 0) ∧
  ScalesLegal s f n ∧ GroupFits s f.a.toNat n ∧ (fmtOf s = 11 → f.c.toNat + 1 < confN s.h.conf) ∧
  IndicesLegal (.mldw f) s

/-- Whole rows, at least one and at most 64 (R174, R196). -/
abbrev RowsLegal (s : State) : Prop := s.h.conf.vl % 64 = 0 ∧ s.h.conf.vl ≠ 0 ∧ s.h.conf.vl ≤ 4096

/-- When MSTRM executes (R174). -/
abbrev MstrmLegal (s : State) (f : VF) : Prop :=
  let n := registersFor s s.h.conf.vl
  RowsLegal s ∧ ScalesLegal s f n ∧ GroupFits s f.a.toNat n ∧ IndicesLegal (.mstrm f) s

/-- Registers of the records of the rows of a vector, 32 bytes each (R186). -/
def recordRegisters (s : State) : Nat :=
  (32 * (s.h.conf.vl / 64) + regBits s.h.conf / 8 - 1) / max 1 (regBits s.h.conf / 8)

/-- When MDRN executes (R177, R178): a set in [3:1], 0 for a plain drain, and the columns in [9:4]. -/
abbrev MdrnLegal (s : State) (f : VF) : Prop :=
  let n := registersFor s s.h.conf.vl
  let set := f.imm.toNat / 2 % 8
  RowsLegal s ∧ fmtOf s ≤ 4 ∧ confBlk s.h.conf = 0 ∧ set ≠ 7 ∧
  (set = 0 → f.imm.toNat / 16 % 64 = 0 ∧ f.c = 0) ∧
  (set ≠ 0 → f.c ≠ 0 ∧ Apart f.c.toNat (recordRegisters s) f.d.toNat n ∧ GroupFits s f.c.toNat (recordRegisters s)) ∧
  GroupFits s f.d.toNat n ∧ IndicesLegal (.mdrn f) s

/-- What VPROJ and VPJADJ ask of their groups (R196). -/
abbrev ProjLegal (i : Instr) (s : State) (f : VF) : Prop :=
  let n := registersFor s s.h.conf.vl
  projSet f ≠ 0 ∧ projSet f ≠ 7 ∧ projN f ≤ 64 ∧ fmtOf s ≤ 2 ∧ confBlk s.h.conf = 0 ∧ RowsLegal s ∧
  Apart f.c.toNat (recordRegisters s) f.d.toNat n ∧ (f.d ≠ f.a → Apart f.d.toNat n f.a.toNat n) ∧
  GroupFits s f.d.toNat n ∧ GroupFits s f.a.toNat n ∧ GroupFits s f.c.toNat (recordRegisters s) ∧ IndicesLegal i s

/-- When VPROJ executes: its records lie apart from its source too. -/
abbrev VprojLegal (s : State) (f : VF) : Prop :=
  ProjLegal (.vproj f) s f ∧ Apart f.c.toNat (recordRegisters s) f.a.toNat (registersFor s s.h.conf.vl)

/-- When VPJADJ executes: its gradient group lies below N, apart from its destination. -/
abbrev VpjadjLegal (s : State) (f : VF) : Prop :=
  let n := registersFor s s.h.conf.vl
  ProjLegal (.vpjadj f) s f ∧ Apart f.d.toNat n f.b.toNat n ∧ GroupFits s f.b.toNat n

/-- The turn's hart owns its core's engine (R14, R170). -/
def Owns (s : State) : Prop := (getCore s (curCore s)).owner = some (s.cur % 8)

/-- The turn's core. -/
def coreOf (s : State) : Core := getCore s (curCore s)

/-- As `OnlyVector`, for an instruction that changes its core: the core's table entry may change. -/
def OnlyVectorCore (s t : State) : Prop := OnlyVector { s with cores := t.cores } t

/-- An engine instruction completes, leaves the vector, mask and matrix registers and makes the core what is given. -/
def MakesCore (i : Instr) (s : State) (k : Core) : Prop :=
  ∃ t, exec i s = .next t ∧ OnlyVectorCore s t ∧ t.h.v = s.h.v ∧ t.h.m = s.h.m ∧ t.h.g = s.h.g ∧
    t.h.fflags = s.h.fflags ∧ coreOf t = k ∧ ∀ c, c ≠ curCore s → getCore t c = getCore s c

end Sys2Proof.Claim

/-- R169, R172, R173, R174, R180: MCFG sets the configuration, MLDW the shadow plane from the registers, as R172 or, in
mode 2, R173 re-expresses them, MSWAP exchanges the planes, MZERO clears an accumulator, and MSTRM adds the rows,
entry by entry in groups of eight products, into its accumulator and nothing else. -/
def Obligations.MatrixEngineInstructions : Prop :=
  ∀ (s : State) (f : VF), Owns s → s.h.vstart = 0 →
    let k := coreOf s
    let imm := f.imm.toNat
    (AtOnce (.mcfg f) s → McfgLegal f →
      MakesCore (.mcfg f) s { k with engConf := BitVec.ofNat 8 imm }) ∧
    (AtOnce (.mswap f) s → MakesCore (.mswap f) s { k with wpa := k.wps, wps := k.wpa }) ∧
    (AtOnce (.mzero f) s → MakesCore (.mzero f) s { k with acc := k.acc.setIfInBounds f.d.toNat 0 }) ∧
    (AtOnce (.mldw f) s → MldwLegal s f → fmtOf s = bfOf k →
      MakesCore (.mldw f) s { k with
        wps := if imm = 2 then (requantPlane s.h.conf f s.h).1 else loadPlane s.h.conf f s }) ∧
    (AtOnce (.mstrm f) s → MstrmLegal s f → fmtOf s = afOf k → k.wpa.loaded = true →
      ∃ t, exec (.mstrm f) s = .next t ∧ OnlyVectorCore s t ∧ t.h.v = s.h.v ∧ t.h.m = s.h.m ∧ t.h.g = s.h.g ∧
        coreOf t = { k with acc := (coreOf t).acc } ∧
        (∀ n : Fin 4, n.val ≠ f.d.toNat → (coreOf t).acc[n] = k.acc[n]) ∧
        ∀ m n, m < s.h.conf.vl / 64 → n < 64 →
          let start := if imm % 2 = 1 then 0 else accEntry (getAcc k f.d.toNat) m n
          let row := (List.range 64).map fun j =>
            if isPad s.h.conf (64 * m + j) then none else some (rowValue s.h.conf f s.h (64 * m + j))
          accEntry (getAcc (coreOf t) f.d.toNat) m n =
            (streamRow row (fun n => (List.range 64).map fun j => planeValue k.wpa j n) (fun _ => start)).1.getD n 0
              % 2 ^ 48)

/-- R170, R68: an engine instruction of a hart that does not own the engine traps with cause 0x18 at the head of the queue
and keeps its entry there; the engine does not change. -/
def Sys2Proof.Claim.EngineBelongsToItsOwner : Prop :=
  ∀ (s : State) (f : VF), ¬ Owns s →
    let refused (i : Instr) : Prop :=
      ∃ t, exec i s = .next t ∧ t.h.trapcause = 0x18 ∧ t.h.trapval = parcelsOf i ∧
        t.h.trapqpos = BitVec.ofNat 6 s.h.qhead ∧ t.h.epc = s.h.pc + 8 ∧ t.h.pc = s.h.trapvec ∧ t.h.frozen = true ∧
        t.h.queue.length = 1 ∧ (coreOf t).acc = (coreOf s).acc ∧ (coreOf t).wpa = (coreOf s).wpa ∧
        (coreOf t).wps = (coreOf s).wps ∧ t.h.v = s.h.v ∧ t.mem = s.mem
    (AtOnce (.mcfg f) s → McfgLegal f → refused (.mcfg f)) ∧ (AtOnce (.mswap f) s → refused (.mswap f)) ∧
    (AtOnce (.mzero f) s → refused (.mzero f)) ∧
    (AtOnce (.mldw f) s → MldwLegal s f → refused (.mldw f)) ∧
    (AtOnce (.mstrm f) s → MstrmLegal s f → refused (.mstrm f)) ∧
    (AtOnce (.mdrn f) s → MdrnLegal s f → refused (.mdrn f)) ∧
    (AtOnce (.vproj f) s → VprojLegal s f → refused (.vproj f)) ∧
    (AtOnce (.vpjadj f) s → VpjadjLegal s f → refused (.vpjadj f))

/-- R68, R340, R170: the checks of a vector instruction, at commit and at the head. -/
def Obligations.VectorTraps : Prop :=
  Sys2Proof.Claim.VectorChecksTrapAtCommit ∧ Sys2Proof.Claim.EngineBelongsToItsOwner

namespace Sys2Proof.Claim

/-- RndA48 of an exact value, SumA48 of the columns of S, and their mean (R189, R194). -/
def rndA48 (x : XVal) : XVal := (rndA (x, 0)).1
def sumA48 (x : Nat → XVal) (S : List Nat) : XVal := (sumA (S.map fun j => (x j, 0))).1
def meanOf (x : Nat → XVal) (S : List Nat) : XVal := (rndA (divF (sumA48 x S, 0) (xInt S.length, 0))).1

/-- Exact differences and products of values (R189). -/
def minus (x y : XVal) : XVal := (addX x (negX y) false).1
def times (x y : XVal) : XVal := (mulX x y).1

/-- Column j of a row after R187's conversion to A48. -/
def column (row : List XVal) (j : Nat) : XVal := colVal (row.map fun v => (flushA v).1) j

/-- The mask of a set of columns (R195). -/
def maskFor (S : List Nat) : Nat := (S.map fun j => 2 ^ j).sum

/-- R190: S and τ are where Michelot's iteration on the columns K ends: S a set on which τ is the threshold and which lies
above τ, or the lowest of the greatest columns of a set that lies nowhere above its threshold. -/
def SimplexEnds (x : Nat → XVal) (z : XVal) (K S : List Nat) (tau : XVal) : Prop :=
  let threshold (S : List Nat) : XVal := (rndA (divF (subF (sumA (S.map fun j => (x j, 0))) (z, 0)) (xInt S.length, 0))).1
  (S.Sublist K ∧ S ≠ [] ∧ tau = threshold S ∧ ∀ j ∈ S, aboveX (x j) tau = true) ∨
  (∃ S' j0, S'.Sublist K ∧ j0 ∈ S' ∧ S = [j0] ∧ tau = rndA48 (minus (x j0) z) ∧
    (∀ j ∈ S', aboveX (x j) (threshold S') = false ∧ aboveX (x j) (x j0) = false ∧ (j < j0 → aboveX (x j0) (x j) = true)))

/-- R194: consecutive blocks that the columns K are pooled into: no two neighbours violate the order. -/
def PooledBlocks (x : Nat → XVal) (down : Bool) (K : List Nat) (bs : List (List Nat)) : Prop :=
  bs.flatten = K ∧ (∀ b ∈ bs, b ≠ []) ∧
  ∀ i b b', bs[i]? = some b → bs[i + 1]? = some b' →
    (if down then aboveX (meanOf x b') (meanOf x b) else aboveX (meanOf x b) (meanOf x b')) = false

/-- R188, R189: a row that is projected: some column is considered, the parameter is valid, no column is NaN, and none is
infinite except under the box. -/
def Projectable (set : Nat) (p : Word) (K : List Nat) (row : List XVal) : Prop :=
  K ≠ [] ∧ K.Pairwise (· < ·) ∧ (∀ j ∈ K, j < 64) ∧ paramValid set p = true ∧
  ∀ j ∈ K, isNanX (column row j) = false ∧ (set ≠ 4 → isInfX (column row j) = false)

/-- R187 to R194: what a row is projected to under each set: the exact value of each considered column before Out, and the
fields of its record. -/
def ProjectionsFollowTheirRules : Prop :=
  ∀ (set : Nat) (p : Word) (K : List Nat) (row : List XVal),
    let x := column row
    let z := decodeX 0 (p.toNat % 2 ^ 32)
    let hi := decodeX 0 (p.toNat / 2 ^ 32)
    let r := projectRow set p K row
    let values (g : Nat → XVal) : Prop := r.out = K.map fun j => (j, g j)
    let record (tau : Nat) (S signs : List Nat) (active : Bool) : Prop :=
      r.tau = tau ∧ r.mask = maskFor S ∧ r.size = S.length ∧ r.signs = maskFor signs ∧ r.active = active ∧ r.nan = false
    (K = [] → r.out = [] ∧ record 0 [] [] false) ∧
    (K ≠ [] → (paramValid set p = false ∨ ∃ j ∈ K, isNanX (x j) = true ∨ (set ≠ 4 ∧ isInfX (x j) = true)) →
      values (fun _ => .nan false) ∧ r.tau = 0 ∧ r.mask = 0 ∧ r.size = 0 ∧ r.nan = true) ∧
    (Projectable set p K row →
      (set = 1 → ∃ S tau, SimplexEnds x z K S tau ∧ record (codeA tau) S [] true ∧
        values fun j => if j ∈ S then minus (x j) tau else xZero false) ∧
      (set = 2 → let a (j : Nat) : XVal := absX (x j)
        (cmpX (sumA48 a K) z ≤ 0 → values x ∧ record 0 (K.filter fun j => !isZeroX (x j)) [] false) ∧
        (0 < cmpX (sumA48 a K) z → ∃ S tau, SimplexEnds a z K S tau ∧
          record (codeA tau) S (S.filter fun j => signX (x j)) true ∧
          values fun j => if j ∈ S then (if signX (x j) then negX (minus (a j) tau) else minus (a j) tau) else xZero false)) ∧
      (set = 3 → let nu := (rndA (sqrtX (sumA (K.map fun j => mulX (x j) (x j))).1)).1
        let S := K.filter fun j => !isZeroX (x j)
        (cmpX nu z ≤ 0 → values x ∧ record (codeA nu) S [] false) ∧
        (0 < cmpX nu z → values (fun j => times (x j) (rndA (divX z nu)).1) ∧ record (codeA nu) S [] true)) ∧
      (set = 4 → values (fun j => if aboveX z (x j) then z else if aboveX (x j) hi then hi else x j) ∧
        record 0 (K.filter fun j => aboveX (x j) z && aboveX hi (x j)) []
          (K.any fun j => aboveX z (x j) || aboveX (x j) hi)) ∧
      (set = 5 ∨ set = 6 → ∃ bs, PooledBlocks x (set == 6) K bs ∧
        r.out = bs.flatMap (fun b => b.map fun j => (j, meanOf x b)) ∧
        record 0 (bs.map fun b => b.headD 0) [] (decide (bs.length < K.length))))

/-- R198: the gradient of a row before Out, by its set and its record. -/
def GradientsFollowTheirRules : Prop :=
  ∀ (set : Nat) (K : List Nat) (g0 y0 : List XVal) (r : Nat), K ≠ [] →
    let g := column g0
    let y := column y0
    let S := K.filter fun j => bitAt (bitsGet r 128 64) j
    let values (v : Nat → XVal) : Prop := (adjointRow set K g0 y0 r).1 = K.map fun j => (j, v j)
    let sign (v : XVal) (j : Nat) : XVal := if bitAt (bitsGet r 192 64) j then negX v else v
    (bitAt r 19 = true → values fun _ => .nan false) ∧
    (bitAt r 19 = false →
      (set = 1 → S ≠ [] → values fun j => if j ∈ S then minus (g j) (meanOf g S) else xZero false) ∧
      (set = 1 → S = [] → values fun _ => xZero false) ∧
      (set = 2 ∨ set = 3 → bitAt r 18 = false → values g) ∧
      (set = 2 → bitAt r 18 = true → S ≠ [] → values fun j =>
        if j ∈ S then minus (g j) (sign (meanOf (fun k => sign (g k) k) S) j) else xZero false) ∧
      (set = 3 → bitAt r 18 = true →
        let z := decodeX 0 (bitsGet r 96 32)
        let nu := a48 (bitsGet r 32 48)
        let h := (sumA (K.map fun j => mulX (y j) (g j))).1
        let c := (rndA (divF (h, 0) (mulX z z))).1
        let q := if isZeroX nu then .inf false else (rndA (divX z nu)).1
        (posFinite z = false → values fun _ => .nan false) ∧
        (posFinite z = true → values fun j => times q (rndA (subF (g j, 0) (mulX c (y j)))).1)) ∧
      (set = 4 → values fun j => if j ∈ S then g j else xZero false) ∧
      (set = 5 ∨ set = 6 → ∃ bs : List (List Nat), bs.flatten = K ∧ (∀ b ∈ bs, b ≠ []) ∧
        (∀ b ∈ bs, ∀ j ∈ b.drop 1, bitAt (bitsGet r 128 64) j = false) ∧
        (∀ b ∈ bs.drop 1, bitAt (bitsGet r 128 64) (b.headD 0) = true) ∧
        (adjointRow set K g0 y0 r).1 = bs.flatMap fun b => b.map fun j => (j, meanOf g b)))

/-- Row m of a group in the committed format. -/
def rowAt (s : State) (r : BitVec 6) (m : Nat) : List XVal :=
  (List.range 64).map fun j => decodeX (fmtOf s) (element s r (fmtOf s) (64 * m + j))

/-- The considered columns of row m among the first n (R187). -/
def considered (s : State) (n m : Nat) : List Nat := (List.range n).filter fun j => !isPad s.h.conf (64 * m + j)

/-- Row m of group d holds the values through Out, and +0 in every other column. -/
def RowBecomes (s t : State) (d : BitVec 6) (m : Nat) (sat : Bool) (vals : List (Nat × XVal)) : Prop :=
  ∀ j, j < 64 → element t d (fmtOf s) (64 * m + j) =
    match vals.find? fun q => q.1 == j with
    | some q => (roundX q.2 (fmtOf s) s.h.frm.toNat 0 sat).1 % 2 ^ widthOf s
    | none => 0

/-- Row m of group d and record m of group c hold what projecting a row gives (R195, R196). -/
def ProjectedRow (s t : State) (f : VF) (set n m : Nat) (sat : Bool) (p : Word) (row : List XVal) : Prop :=
  let r := projectRow set p (considered s n m) row
  RowBecomes s t f.d m sat r.out ∧ getRecord s.h.conf f.c.toNat m t.h = recordOf set n p r % 2 ^ 256

end Sys2Proof.Claim

/-- R177, R178, R187 to R198: MDRN writes each row of the accumulator, or with a set its projection and the record, through
Out to the elements, +0 in the pads, and zeros the drained rows when bit 0 of its immediate says so; VPROJ writes the
projection of each row of its source and the record, and VPJADJ the gradient of each row by its record, up to a row whose
record it refuses. They complete for every value of the rows and change only their destination groups, the records and
the sticky flags. What a row is projected to, and its gradient, are said by set (corners: logs 24, 56, 63). -/
def Obligations.FacetInstructionsComplete : Prop :=
  Sys2Proof.Claim.ProjectionsFollowTheirRules ∧ Sys2Proof.Claim.GradientsFollowTheirRules ∧
  ∀ (s : State) (f : VF), Owns s → s.h.vstart = 0 → s.h.frm ≠ 6 → Fits s →
    let c := s.h.conf
    let k := coreOf s
    let param := readS s (sregOf f.b)
    let groupD (r : Nat) : Prop := f.d.toNat ≤ r ∧ r < f.d.toNat + registersFor s c.vl
    let records (r : Nat) : Prop := f.c.toNat ≤ r ∧ r < f.c.toNat + recordRegisters s
    let drained (t : State) : Prop := coreOf t = { k with acc := (coreOf t).acc } ∧
      (∀ n : Fin 4, n.val ≠ f.a.toNat → (coreOf t).acc[n] = k.acc[n]) ∧
      ∀ m n, m < 64 → n < 64 → accEntry (getAcc (coreOf t) f.a.toNat) m n =
        if m < c.vl / 64 ∧ f.imm.toNat % 2 = 1 then 0 else accEntry (getAcc k f.a.toNat) m n
    let quiet (i : Instr) (changed : Nat → Prop) (p : State → Prop) : Prop :=
      ∃ t, exec i s = .next t ∧ OnlyVectorCore s t ∧ t.h.m = s.h.m ∧ t.h.g = s.h.g ∧ t.h.fflags = s.h.fflags ∧
        (∀ r, ¬ changed r → vreg t.h r = vreg s.h r) ∧ p t
    (AtOnce (.mdrn f) s → MdrnLegal s f →
      (drainSet f = 0 → quiet (.mdrn f) groupD fun t =>
        (∀ m n, m < c.vl / 64 → n < 64 → element t f.d (fmtOf s) (64 * m + n) =
          if isPad c (64 * m + n) then 0
          else (roundX (a48 (accEntry (getAcc k f.a.toNat) m n)) (fmtOf s) s.h.frm.toNat 0 (bitAt f.imm.toNat 10)).1
            % 2 ^ widthOf s) ∧ drained t) ∧
      (drainSet f ≠ 0 → quiet (.mdrn f) (fun r => groupD r ∨ records r) fun t =>
        (∀ m, m < c.vl / 64 → ProjectedRow s t f (drainSet f) (drainN f) m (bitAt f.imm.toNat 10) param
          ((List.range 64).map fun j => a48 (accEntry (getAcc k f.a.toNat) m j))) ∧ drained t)) ∧
    (AtOnce (.vproj f) s → VprojLegal s f → quiet (.vproj f) (fun r => groupD r ∨ records r) fun t =>
      (∀ m, m < c.vl / 64 → ProjectedRow s t f (projSet f) (projN f) m false param (rowAt s f.a m)) ∧ coreOf t = k) ∧
    (AtOnce (.vpjadj f) s → VpjadjLegal s f → (∀ r, records r → ¬ groupD r) →
      let refuses (m : Nat) : Bool := recordBad f (getRecord c f.c.toNat m s.h)
      let rows (t : State) (M : Nat) : Prop := ∀ m, m < M → RowBecomes s t f.d m false
        (adjointRow (projSet f) (considered s (projN f) m) (rowAt s f.a m) (rowAt s f.b m)
          (getRecord c f.c.toNat m s.h)).1
      ((∀ m, m < c.vl / 64 → refuses m = false) →
        quiet (.vpjadj f) groupD fun t => rows t (c.vl / 64) ∧ coreOf t = k) ∧
      (∀ M, M < c.vl / 64 → refuses M = true → (∀ m, m < M → refuses m = false) →
        ∃ t, exec (.vpjadj f) s = .next t ∧ t.h.trapcause = 0x04 ∧ t.h.vstart = 64 * M ∧ t.h.frozen = true ∧ rows t M ∧
          ∀ r, ¬ groupD r → vreg t.h r = vreg s.h r))

namespace Sys2Proof.Claim

/-- The bytes x describe an object that MFIL takes (R181, R182): an accumulator always; a configuration with legal formats;
a plane whose descriptor at byte 9216 has a plane's format, a block length its format allows, and zeros after it, or is
that of an empty plane, all zeros. -/
abbrev FillLegal (obj x : Nat) : Prop :=
  let fmt := bitsGet x 73728 4
  let blk := bitsGet x 73732 3
  obj < 4 ∨
  (obj = 6 ∧ bitsGet x 0 4 ∈ rowFormats ∧ bitsGet x 4 4 ∈ planeFormats ∧ bitsGet x 8 504 = 0) ∨
  ((obj = 4 ∨ obj = 5) ∧ bitsGet x 73728 512 = 0) ∨
  ((obj = 4 ∨ obj = 5) ∧ fmt ∈ planeFormats ∧ blk ≤ 4 ∧ (fmt = 11 ∨ fmt = 12 → blk ≠ 0) ∧ bitsGet x 73736 504 = 0)

end Sys2Proof.Claim

/-- R181, R182: MSPL writes the object's bytes at its address in the scratchpad, changing no register; MFIL makes the
object what those bytes say, when they describe one that the engine can hold, and changes nothing else. Both acquire
under `mo` = 2 (log 37), with what an acquire drops (log 42); the bytes' corners are log 50's. -/
def Obligations.EngineObjectsSpillAndFill : Prop :=
  ∀ (s : State) (f : VF), Owns s → s.h.vstart = 0 → NoCopies s → OrderReady s →
    let obj := spillObj f
    let n := objectBytes obj
    let A := (readS s (sregOf f.a)).toNat
    let key := sramBase (curCore s) + scratchOff A
    obj < 7 → A % 256 = 0 → Scratch s A n →
    (AtOnce (.mspl f) s →
      ∃ t, exec (.mspl f) s = .next t ∧
        OnlyVector { Acquired (confMo s.h.conf = 2) s with
          mem := t.mem, tickets := t.tickets, remotes := t.remotes } t ∧ t.h.v = s.h.v ∧ t.h.m = s.h.m ∧ t.h.g = s.h.g ∧
        memRead t.mem key n = objectBits (coreOf s) obj % 2 ^ (8 * n) ∧
        ∀ a, a < key ∨ key + n ≤ a → memGet t.mem a = memGet s.mem a) ∧
    (AtOnce (.mfil f) s → FillLegal obj (memRead s.mem key n) →
      ∃ t, exec (.mfil f) s = .next t ∧
        OnlyVectorMemory (acquiring s = true ∨ confMo s.h.conf = 2) { s with cores := t.cores } t ∧ t.mem = s.mem ∧
        t.h.v = s.h.v ∧ t.h.vdirty = s.h.vdirty ∧ t.h.marks = s.h.marks ∧ t.h.m = s.h.m ∧ t.h.g = s.h.g ∧
        t.h.fflags = s.h.fflags ∧ t.h.smflags = s.h.smflags ∧ t.h.mxflags = s.h.mxflags ∧ t.h.readback = s.h.readback ∧
        coreOf t = fillObject (coreOf s) obj (memRead s.mem key n) (fun _ => false) ∧
        ∀ c, c ≠ curCore s → getCore t c = getCore s c)

namespace Sys2Proof.Claim

/-- What a queue holds after commits (R18, R332): at most 32 entries, each with its own instruction and operands that its
24 bytes can name. -/
def EntryHolds : Entry → Prop
  | .instr i _ _ => wellFormed i = true ∧ (vectorOf i).isSome
  | .config i c => wellFormed i = true ∧ (∃ f, i = .vcfg f ∨ i = .setvl f) ∧ c.vl < 2 ^ 15 ∧ c.vlpad < 2 ^ 15 ∧ c.lanes < 2 ^ 7
  | .convoy hdr starts => wellFormed hdr = true ∧ (encodeBits hdr).any (fun p => p.2 == 1) ∧ starts.length = 6 ∧
      ∀ x ∈ starts, x < 2 ^ 16

def QueueHolds (h : Hart) : Prop :=
  h.queue.length ≤ 32 ∧ h.qhead < 32 ∧ (∀ e ∈ h.queue, EntryHolds e) ∧ h.headConf.vl < 2 ^ 15 ∧ h.headConf.vlpad < 2 ^ 15 ∧
  h.headConf.lanes < 2 ^ 7

/-- The element groups saved of register r, and those before it in the vector block (R217). -/
def savedGroups (h : Hart) (r : Nat) : Nat := if h.vdirty.getLsbD r then (h.marks.toArray.getD r 0 + 255) / 256 else 0
def groupsBefore (h : Hart) (r : Nat) : Nat := (List.range r).foldl (fun n q => n + savedGroups h q) 0

/-- A supervisor-mode hart with nothing else under way names a save area in the scratchpad. -/
def AreaReady (s : State) (f : VF) : Prop :=
  let base := (readS s (sregOf f.a)).toNat
  s.h.status.getLsbD 0 = true ∧ Free s [sregOf f.a] ∧ base % 256 = 0 ∧ NoCopies s ∧ OrderReady s ∧ s.h.pass = {} ∧
  s.h.replay = false ∧ Scratch s base 0x31800

/-- Key of the first byte of the save area. -/
def areaKey (s : State) (f : VF) : Nat := sramBase (curCore s) + scratchOff (readS s (sregOf f.a)).toNat

/-- n bytes of the save area. -/
def areaBytes (s t : State) (f : VF) (off n : Nat) : Nat := memRead t.mem (areaKey s f + off) n

/-- Nothing outside these offsets of the save area has changed. -/
def AreaFrame (s t : State) (f : VF) (lo hi : Nat) : Prop :=
  ∀ a, a < areaKey s f + lo ∨ areaKey s f + hi ≤ a → memGet t.mem a = memGet s.mem a

end Sys2Proof.Claim

/-- R217, R219: VSAVE of a hart whose queue is empty writes the header, the marks, the masks with `md`, the matrices of
each working lane and the groups of each dirty vector register up to its mark, and nothing else. Row order within a
matrix is the model's (log 59). -/
def Sys2Proof.Claim.VsaveWritesTheContext : Prop :=
  ∀ (s : State) (f : VF), AreaReady s f → s.h.queue = [] → s.h.conf.lanes ≤ 32 → groupsBefore s.h 64 ≤ 4096 →
    ∃ t, exec (.vsave f) s = .next t ∧ t.h.pc = s.h.pc + 8 ∧ t.h.x = s.h.x ∧ t.h.v = s.h.v ∧ t.h.m = s.h.m ∧
      t.h.g = s.h.g ∧ t.h.conf = s.h.conf ∧ AreaFrame s t f 0x600 0x31800 ∧
      (∀ k x, (k, x) ∈ ([(0, s.h.conf.vcfg.toNat), (1, s.h.conf.vl), (2, s.h.conf.vlpad), (3, s.h.vstart), (4, s.h.vdirty.toNat),
          (5, s.h.fflags.toNat), (6, s.h.smflags.toNat), (7, s.h.mxflags.toNat), (8, s.h.conf.lanes)] : List (Nat × Nat)) →
        areaBytes s t f (0x600 + 8 * k) 8 = x % 2 ^ 64) ∧
      (∀ r : Fin 64, areaBytes s t f (0x680 + 4 * r.val) 4 = s.h.marks[r] % 2 ^ 32) ∧
      (∀ k : Fin 15, areaBytes s t f (0x800 + 2048 * k.val) 2048 = s.h.m[k.val + 1] % 2 ^ 16384) ∧
      areaBytes s t f (0x800 + 2048 * 15) 2048 = s.h.md % 2 ^ 16384 ∧
      (∀ (j : Nat) (k : Fin 8), j < s.h.conf.lanes →
        areaBytes s t f (0x8800 + 144 * (8 * j + k.val)) 144 = bitsGet s.h.g[k] (1152 * j) 1152) ∧
      ∀ r, r < 64 → areaBytes s t f (0x11800 + 32 * groupsBefore s.h r) (32 * savedGroups s.h r) =
        vreg s.h r % 2 ^ (256 * savedGroups s.h r)

/-- R217, R219, R207: VREST of a hart whose queue is empty, from an area saved under as many lanes as the hart has, makes
the configuration, the vector status, the masks, matrices and vector registers what the area holds: a dirty register the
groups up to its mark and zero above them, every other zero. -/
def Sys2Proof.Claim.VrestReadsTheContext : Prop :=
  ∀ (s : State) (f : VF), AreaReady s f → s.h.queue = [] →
    let at0 (off n : Nat) : Nat := areaBytes s s f off n
    at0 0x640 8 = lanesOf s s.cur → lanesOf s s.cur ≤ 32 →
    (∀ h : Hart, h.vdirty = BitVec.ofNat 64 (at0 0x620 8) → (∀ r : Fin 64, h.marks[r] = at0 (0x680 + 4 * r.val) 4) →
      groupsBefore h 64 ≤ 4096) →
    ∃ t, exec (.vrest f) s = .next t ∧ t.h.pc = s.h.pc + 8 ∧ t.h.x = s.h.x ∧ t.mem = s.mem ∧
      t.h.conf.vcfg = BitVec.ofNat 16 (at0 0x600 8 % 2 ^ 14) ∧ t.h.conf.vl = at0 0x608 8 % 2 ^ 15 ∧
      t.h.conf.vlpad = at0 0x610 8 % 2 ^ 15 ∧ t.h.conf.lanes = lanesOf s s.cur ∧ t.h.headConf = t.h.conf ∧
      t.h.vstart = at0 0x618 8 % 2 ^ 15 ∧ t.h.vdirty = BitVec.ofNat 64 (at0 0x620 8) ∧
      t.h.fflags = BitVec.ofNat 7 (at0 0x628 8) ∧ t.h.smflags = BitVec.ofNat 9 (at0 0x630 8) ∧
      t.h.mxflags = BitVec.ofNat 7 (at0 0x638 8) ∧ (∀ r : Fin 64, t.h.marks[r] = at0 (0x680 + 4 * r.val) 4) ∧
      (∀ k : Fin 15, t.h.m[k.val + 1] = at0 (0x800 + 2048 * k.val) 2048) ∧ t.h.md = at0 (0x800 + 2048 * 15) 2048 ∧
      (∀ (j : Nat) (k : Fin 8), j < lanesOf s s.cur →
        bitsGet t.h.g[k] (1152 * j) 1152 = at0 (0x8800 + 144 * (8 * j + k.val)) 144) ∧
      ∀ r, r < 64 → vreg t.h r = if savedGroups t.h r = 0 then 0
        else at0 (0x11800 + 32 * groupsBefore t.h r) (32 * savedGroups t.h r)

/-- R332, R344: VQSAVE of a queue that runs nothing, frozen ones with entries in it, writes the image, the count, the head
slot, each entry of 24 bytes in order and the configuration at the head, empties the queue, and changes nothing else; what
it writes reads back as the queue that it held, wherever it is an image that VQREST takes. -/
def Sys2Proof.Claim.VqsaveWritesTheImage : Prop :=
  ∀ (s : State) (f : VF), AreaReady s f → queueBusy s.h = false → QueueHolds s.h →
    ∃ t, exec (.vqsave f) s = .next t ∧ t.h.pc = s.h.pc + 8 ∧ t.h.queue = [] ∧ t.h.frozen = false ∧
      t.h.headConf = s.h.conf ∧ t.h.x = s.h.x ∧ t.h.v = s.h.v ∧ AreaFrame s t f 0x200 0x600 ∧
      areaBytes s t f 0x200 4 = s.h.queue.length ∧ areaBytes s t f 0x204 4 = s.h.qhead ∧
      (∀ j e, s.h.queue[j]? = some e → areaBytes s t f (0x208 + 24 * j) 24 = entryBits e % 2 ^ 192) ∧
      areaBytes s t f (0x200 + 0x308) 8 = s.h.headConf.vcfg.toNat + s.h.headConf.vl * 2 ^ 16 +
        s.h.headConf.vlpad * 2 ^ 32 + s.h.headConf.lanes * 2 ^ 48 ∧
      ∀ q, readImage (slotCap s s.cur) (areaBytes s t f 0x200 1024) = some q →
        q = (s.h.qhead, s.h.headConf, s.h.queue)

/-- R332, R344: VQREST of an empty queue makes it what the image holds, and leaves its entries frozen until ERET; an image
that it does not take traps with cause 0x04. -/
def Sys2Proof.Claim.VqrestReadsTheImage : Prop :=
  ∀ (s : State) (f : VF), AreaReady s f → s.h.queue = [] → s.h.frozen = false →
    (∀ head c l, readImage (slotCap s s.cur) (areaBytes s s f 0x200 1024) = some (head, c, l) →
      ∃ t, exec (.vqrest f) s = .next t ∧ t.h.pc = s.h.pc + 8 ∧ t.h.queue = l ∧ t.h.qhead = head ∧
        t.h.headConf = c ∧ (t.h.frozen = true ↔ l ≠ []) ∧ t.h.x = s.h.x ∧ t.h.v = s.h.v ∧ t.mem = s.mem) ∧
    (readImage (slotCap s s.cur) (areaBytes s s f 0x200 1024) = none →
      ∃ t, exec (.vqrest f) s = .next t ∧ t.h.trapcause = 0x04 ∧ t.h.epc = s.h.pc ∧ t.h.queue = [] ∧ t.mem = s.mem)

/-- R216, R219: in user mode all four trap with cause 0x05; VSAVE and VREST with entries in the queue, and VQREST of a
frozen one, trap with cause 0x04. That VSAVE and VREST do so as soon as the head stands at a boundary, and wait until it
does, is the model's choice (log 59). -/
def Sys2Proof.Claim.ContextInstructionsAreGuarded : Prop :=
  ∀ (s : State) (f : VF),
    let user (i : Instr) : Prop := s.h.status.getLsbD 0 = false → queueBusy s.h = false →
      exec i s = .next (takeTrap false 0x05 (parcelsOf i) s.h.pc 32 s)
    let refused (i : Instr) : Prop := s.h.status.getLsbD 0 = true → Free s [sregOf f.a] →
      (readS s (sregOf f.a)).toNat % 256 = 0 →
      (atBoundary s s.cur = true → s.h.pass = {} → s.h.memberPass = [] →
        ∃ t, exec i s = .next t ∧ t.h.trapcause = 0x04 ∧ t.h.epc = s.h.pc ∧ t.h.queue = s.h.queue ∧ t.mem = s.mem) ∧
      (atBoundary s s.cur = false → exec i s = .next (Waiting s))
    user (.vsave f) ∧ user (.vrest f) ∧ user (.vqsave f) ∧ user (.vqrest f) ∧
    (s.h.queue ≠ [] → refused (.vsave f) ∧ refused (.vrest f)) ∧ (s.h.frozen = true → refused (.vqrest f))

/-- R216 to R219, R332, R344: VSAVE, VREST, VQSAVE and VQREST. -/
def Obligations.ContextInstructions : Prop :=
  Sys2Proof.Claim.VsaveWritesTheContext ∧ Sys2Proof.Claim.VrestReadsTheContext ∧ Sys2Proof.Claim.VqsaveWritesTheImage ∧
  Sys2Proof.Claim.VqrestReadsTheImage ∧ Sys2Proof.Claim.ContextInstructionsAreGuarded

/-- R60 to R62, R333, R338: a convoy header whose members follow it, each a listed instruction on the unit its slot names
that passes its checks, commits all slots at once when the queue and the range table have room (R361): the header and the
members take the slots at the tail, the PC moves past them, and at the head of the queue they run (behind entries captured
under more lanes they wait: R18, R219); a header whose k is not 2 to 6 or whose slots name no unit traps with cause
0x02. -/
def Obligations.ConvoysCommitTogether : Prop :=
  ∀ (s : State) (s6 s5 s4 s3 s2 s1 : BitVec 4) (k : BitVec 3),
    let hdr := Instr.convoyHeader s6 s5 s4 s3 s2 s1 k
    let units := [s1.toNat, s2.toNat, s3.toNat, s4.toNat, s5.toNat, s6.toNat]
    let legal : Prop := 2 ≤ k.toNat ∧ k.toNat ≤ 6 ∧ (∀ u ∈ units.take k.toNat, u < 9) ∧ ∀ u ∈ units.drop k.toNat, u = 15
    (legal → s.h.frozen = false → ∀ t l, checkMembers hdr s.h.pc.toNat (units.take k.toNat) ((s.h.pc.toNat + 4) % 2 ^ 64) s =
        (t, [], .ok l) → t.h = { s.h with perf := t.h.perf } → l.length = k.toNat → Free s (l.flatMap capturesOf) →
      s.h.queue.length + k.toNat + 1 ≤ 32 → readbackUsed s.h + k.toNat ≤ 8 →
      tableUsed t (curCore t) + convoyRanges l t ≤ 32 →
      (s.h.queue ≠ [] → tailConf s.h ≠ s.h.conf → exec hdr s = .next (Waiting t)) ∧
      (s.h.queue = [] ∨ tailConf s.h = s.h.conf →
      ∃ u, exec hdr s = .next (if s.h.queue.isEmpty then runHead u else u) ∧
        u.h.queue = s.h.queue ++ (.convoy hdr (List.replicate k.toNat 0 ++ List.replicate (6 - k.toNat) 0xFFFF) ::
          l.map fun i => .instr i (captureA i t) (captureB i t)) ∧
        u.h.pc = s.h.pc + BitVec.ofNat 64 (4 + 8 * k.toNat) ∧ u.h.x = s.h.x ∧ u.h.v = s.h.v ∧ u.mem = t.mem)) ∧
    (¬ legal → queueBusy s.h = false →
      exec hdr s = .next (takeTrap false 0x02 (parcelsOf hdr) s.h.pc 32 s))

/-! ### Steps of the scheduler, of interrupts and of waits (spec/19, spec/22, spec/24) -/

namespace Sys2Proof.Claim

/-- Hart n becomes what is given; every other hart, the cores, the dies and memory are unchanged. -/
def MakesHart (i : Instr) (s : State) (n : Nat) (h : Hart) : Prop :=
  ∃ t, exec i s = .next t ∧ getHart t n = h ∧ (∀ k, k ≠ n → getHart t k = getHart s k) ∧ t.cur = s.cur ∧
    t.cores = s.cores ∧ t.dies = s.dies ∧ t.mem = s.mem

end Sys2Proof.Claim

/-- R343: the scheduler entry saves the PC in `epc`, cause 0x11 with bit 63, the save block in `trapval`, the head slot in
`trapqpos`, and `priv` and `ie`; it sets `sched`, clears `ie`, enters supervisor mode at the die's SCHEDENT, freezes the
queue and changes no vector, mask or matrix register and no byte of memory. -/
def Sys2Proof.Claim.SchedulerEntrySavesAndEnters : Prop :=
  ∀ s : State,
    let t := schedulerEntry s
    t.h.epc = s.h.pc ∧ t.h.trapcause = 0x8000000000000011 ∧ t.h.trapval = BitVec.ofNat 64 s.h.saveBlock ∧
    t.h.trapqpos = headSlot s.h ∧ t.h.pc = (getDie s (curDie s)).schedent ∧
    t.h.status.getLsbD 7 = true ∧ t.h.status.getLsbD 0 = true ∧ t.h.status.getLsbD 1 = false ∧
    t.h.status.getLsbD 2 = s.h.status.getLsbD 1 ∧ t.h.status.getLsbD 3 = s.h.status.getLsbD 0 ∧
    t.h.status.getLsbD 4 = s.h.status.getLsbD 4 ∧ t.h.status.getLsbD 5 = s.h.status.getLsbD 5 ∧
    t.h.status.getLsbD 6 = s.h.status.getLsbD 6 ∧ t.h.preempt = false ∧ t.h.frozen = !s.h.queue.isEmpty ∧
    t.h.queue = s.h.queue ∧ t.h.v = s.h.v ∧ t.h.m = s.h.m ∧ t.h.g = s.h.g ∧ (s.h.readback = [] → t.h.x = s.h.x) ∧
    t.mem = s.mem ∧ t.others = s.others

/-- R206, R343: trap entry and the scheduler entry. -/
def Obligations.TrapAndSchedulerEntry : Prop :=
  Sys2Proof.Claim.TrapEntrySavesAndEnters ∧ Sys2Proof.Claim.SchedulerEntrySavesAndEnters

/-- R335, R368, R343, R30, R12, R383, R347, R392: the steps of a hart that no instruction makes. The oldest read-back value
is written to its register, and to none for s0; the lowest pending interrupt and an accepted pre-emption are taken at a
boundary, behind a trap of class 4 that waits there, and neither while `ie`, or what accepts a stop, does not allow it; a
hart blocked long enough is parked, the 65th raises 0x22; a free partition goes to a hart that lost its lanes, else to the
hart parked longest, else to one that waits (their order: log 62); an expired WAITC and a push or pop that can go on do;
a core that acknowledges an invalidation loses its translations and L1 copies in the range, a dirty one after its bytes
have gone to the slice. The scheduler entry and an expired WAITC acquire, with what log 42 says an acquire drops. -/
def Obligations.HartStepsComplete : Prop :=
  ∀ (s : State) (n : Nat) (l : List Nat), s.args = n :: l →
    let h := getHart s n
    let d := dieOfCore (coreOfHart n)
    (∀ r v q, h.readback = (r, v) :: q → r ≠ 0 →
      MakesHart .readBackDelivery s n { h with x := h.x.set r.toNat v, readback := q }) ∧
    (∀ v q, h.readback = (0, v) :: q → MakesHart .readBackDelivery s n { h with readback := q }) ∧
    (∀ cause v q, h.run = .running → ieBit h = true → h.irqs = (cause, v) :: q → h.preempt = false → h.wfaWait = false →
      atBoundary s n = true → h.arrayTrap = none → exec .takeInterrupt s = .next
        (asHart n (fun u => let u := deliverStop u
          takeTrap true cause v u.h.pc (headSlot u.h) { u with h := { u.h with irqs := q } }) s)) ∧
    (∀ val, h.run = .running → ieBit h = true → h.irqs ≠ [] → h.preempt = false → h.wfaWait = false →
      atBoundary s n = true → h.arrayTrap = some val → exec .takeInterrupt s = .next (asHart n (takeArrayTrap val) s)) ∧
    (ieBit h = false ∨ h.irqs = [] → exec .takeInterrupt s = .next s) ∧
    (h.run = .running → h.preempt = true → acceptsStop h = true → h.wfaWait = false → mayStop s n = true →
      (h.arrayTrap = none → exec .schedulerEntry s = .next (afterStop n (asHart n
        (fun u => Acquired true (schedulerEntry (deliverStop u))) s))) ∧
      (∀ val, h.arrayTrap = some val → exec .schedulerEntry s = .next (asHart n (takeArrayTrap val) s))) ∧
    (h.preempt = false ∨ acceptsStop h = false → exec .schedulerEntry s = .next s) ∧
    (∀ rcb lh t0, h.run = .running → h.stalled = true → h.waitT0 = some t0 → h.logical = some (rcb, lh) →
      schedBit h = false → acceptsStop h = true → mayStop s n = true →
      h.waityield.toNat * 5 ≤ (timerOf s d - t0) * 9 →
      (parkedCount (getRegion s rcb) < 64 →
        let u := saveHart n (.parked (timerOf s d)) s
        exec .park s = .next (updateRegion rcb (getRegion u rcb) u)) ∧
      (64 ≤ parkedCount (getRegion s rcb) → (getRegion s rcb).cause = 0 →
        exec .park s = .next (raiseIrq (supervisorHart s d) 0x22 (BitVec.ofNat 64 rcb)
          (setRegion rcb { getRegion s rcb with cause := 0x22 } s)))) ∧
    (∀ rcb k lh, (getCore s n).region = some rcb → freeSlot s n = some k → (getCore s n).taken = false →
      (getRegion s rcb).state = 1 →
      (movedNext s rcb n = some lh → exec .parkedResume s = .next (placeHart rcb lh k s)) ∧
      (movedNext s rcb n = none → parkedNext s rcb n = some lh →
        let u := placeHart rcb lh k s
        exec .parkedResume s = .next (updateRegion rcb (getRegion u rcb) u)) ∧
      (movedNext s rcb n = none → parkedNext s rcb n = none → nextWaiting s rcb n = some lh →
        exec .parkedResume s = .next (placeHart rcb lh k s))) ∧
    (∀ t0 w space d a b u, n = s.cur → s.h.run = .running → s.h.waitT0 = some t0 → waitOver s t0 = true →
      runAcc (fetchInstr s.h.pc.toNat) s = (.ok (w, some (.waitc space d a b), []), u) → u.h = { s.h with perf := u.h.perf } →
      u.cur = s.cur →
      u.dies = s.dies → Free s [d, a, b] → space.toNat < 9 → indexIllegal u space.toNat (readS s a).toNat = false →
      let u := dropFetch (some (.waitc space d a b)) s.h.pc.toNat u
      exec .waitlimExpiry s = .next (advance (writeS d
        (BitVec.ofNat 64 (counterRead u (curCore u) u.h space.toNat (readS s a).toNat))
        (Acquired (decide (space.toNat ∈ [1, 2, 3, 6])) u)))) ∧
    (waitsAtBank s n = true →
      (4608 ≤ n → exec .fifoBankWake s = .next (copyStep ((n - 4608) / 4) ((n - 4608) % 4) s)) ∧
      (n < 4608 → n = s.cur →
        let u := if queueBusy s.h then runHead s else s
        (linesAtBanks u n (· == n) = false → exec .fifoBankWake s = .next (switchTo n u)) ∧
        (linesAtBanks u n (· == n) = true →
          ∀ i p v w, runAcc (fetchInstr u.h.pc.toNat) u = (.ok (p, some i, []), v) →
            ((∃ a b, i = .epush a b) ∨ ∃ d a, i = .epop d a) → exec i (dropFetch (some i) u.h.pc.toNat v) = .next w →
            exec .fifoBankWake s = .next (switchTo n w)))) ∧
    (waitsAtBank s n = false → exec .fifoBankWake s = .next s) ∧
    (∀ c, l = [c] → coreInFlight s c = true → exec .tlbinvAcknowledge s = .next s) ∧
    (∀ c, l = [c] → coreInFlight s c = false →
      let mine := s.tlbInvs.filter fun x => (invsOf s n).contains x && x.waiting.contains c
      let hitEntry (e : MtbEntry) : Bool := mine.any fun x =>
        (e.asid == x.asid || bitAt e.pte 6) && invHits x e.vpn (pageSize e.level / 4096)
      let hitCopy (k : L1Copy) : Bool := mine.any fun x => (k.asid == x.asid || k.global) && invHits x (copyPage k) 1
      ∃ t, exec .tlbinvAcknowledge s = .next t ∧
        t.tlbInvs = (s.tlbInvs.map fun x => if x ∈ invsOf s n then { x with waiting := x.waiting.filter (· != c) } else x).filter
          (fun x => !x.waiting.isEmpty) ∧
        (getCore t c).mtb = (getCore s c).mtb.filter (fun e => !hitEntry e) ∧
        (∀ lu, hitCopy (getCopy s c lu) = true → (getCopy t c lu).st = .i) ∧
        ((∀ p ∈ s.l1, p.1 / 2 ^ 44 = c → holdsPartial p.2 = false) → t.mem = s.mem ∧
          (∀ lu, lu < 2 ^ 44 → hitCopy (getCopy s c lu) = false → getCopy t c lu = getCopy s c lu) ∧
          ∀ lu x, lu < 2 ^ 44 → hitCopy (getCopy s c lu) = true → (getCopy s c lu).st = .w →
            (getLine s (dieOfCore c) lu).holder = .w x → x.core = (getCore s c).logical →
            coreOfLogical s (dieOfCore c) x.core = some c →
            (getLine t (dieOfCore c) lu).line =
              absorb (luSize lu) (getLine s (dieOfCore c) lu).line (getCopy s c lu).line))

namespace Sys2Proof.Claim

/-- R399, R375, R388, R391, R170: a core that is free for a region is bound to it: it is the region's, has the region's
partition mode and banks, eight of them in cache mode, with nothing of its last region left. -/
def RegionBindGivesTheCore : Prop :=
  ∀ (s : State) (c rcb : Nat), s.args = [c, rcb] → c < 576 → (getCore s c).taken = false → bindReady s c rcb = true →
    exec .regionBind s = .next (bindCore c rcb s) ∧
    ∃ t, exec .regionBind s = .next t ∧
      let k := getCore t c
      k.region = some rcb ∧ k.taken = false ∧ k.taker = none ∧ k.pmode = (getRegion s rcb).pmode ∧
      k.budget = (getRegion s rcb).banks ∧ k.boundAt = timerOf s (dieOfCore c) ∧
      (∀ b, b < 96 → k.banks.getD b .fifo = if b < 8 then .cache else .scratch) ∧
      c ∈ (getRegion t rcb).held ∧ (getRegion t rcb).state = (getRegion s rcb).state

/-- R400: a region takes a core when no core is free: it waits for one, none is on its way to it, and this is the core that
it takes; every hart that runs there is asked to stop. -/
def CoreTakeoverAsksTheHarts : Prop :=
  ∀ (s : State) (c : Nat), s.args = [c] →
    (∀ rcb, takerOf s c = some rcb →
      (∀ x, x < 576 → coreFree s x = false) ∧ needsCore s rcb = true ∧ coreComing s rcb = false ∧
      coreToTake s rcb = some c ∧
      ∃ t, exec .coreTakeover s = .next t ∧ (getCore t c).taken = true ∧ (getCore t c).taker = some rcb ∧
        (∀ slot, slot < 8 → (getHart s (8 * c + slot)).run = .running → (getHart t (8 * c + slot)).preempt = true) ∧
        (∀ x, x ≠ c → getCore t x = getCore s x) ∧ t.regions = s.regions ∧ t.mem = s.mem) ∧
    (takerOf s c = none → exec .coreTakeover s = .next s)

/-- R401, R404: a region whose budget is used up stops with its descendants: their state is 5, to end by budget, and
their harts that wait count as exited. -/
def BudgetStopEndsTheTree : Prop :=
  ∀ (s : State) (x : Nat), s.args = [x] →
    ((getRegion s x).budget ≠ 0 → (getRegion s x).budget ≤ (getRegion s x).used → (getRegion s x).state = 1 →
      x ∈ treeOf s x ∧
      ∃ t, exec .budgetStop s = .next t ∧
        ∀ y ∈ treeOf s x, (getRegion s y).state = 1 → (getRegion t y).state = 5 ∧ (getRegion t y).final = 4 ∧
          ∀ lh, lh < (getRegion s y).harts.length → (getLogical (getRegion s y) lh).place = .waiting →
            (getLogical (getRegion t y) lh).place = .free) ∧
    ((getRegion s x).used < (getRegion s x).budget → exec .budgetStop s = .next s)

/-- R402: a free hart of a region with iterations left receives the next one. -/
def IterationDispatchHandsOut : Prop :=
  ∀ (s : State) (x lh p : Nat), s.args = [x, lh] → nextIteration (getRegion s x) = some p →
    (getLogical (getRegion s x) lh).place = .free → lh < (getRegion s x).harts.length →
    ∃ t, exec .iterationDispatch s = .next t ∧ (getRegion t x).nextIter = p + 1 ∧
      (getLogical (getRegion t x) lh).place = .waiting ∧ (getLogical (getRegion t x) lh).iter = p ∧
      (getLogical (getRegion t x) lh).ctx = none ∧
      (∀ k, k ≠ lh → getLogical (getRegion t x) k = getLogical (getRegion s x) k) ∧
      t = { s with regions := t.regions }

/-- R403, R398: an ending region that waits for nothing more takes its final state, in its RCB too once the line of its
status word can be collected; its cores are free, and it leaves the run queue. -/
def RegionCompleteWritesTheState : Prop :=
  ∀ (s : State) (x : Nat), s.args = [x] → parkingEnds s x = false → (getRegion s x).state = 5 →
    regionBlocked s x = false → (getRegion s x).final ∈ [2, 3, 4] →
    exec .regionComplete s = .next (completeRegion x s) ∧
    ∃ t, exec .regionComplete s = .next t ∧ (getRegion t x).state = (getRegion s x).final ∧ (getRegion t x).held = [] ∧
      (∀ c ∈ (getRegion s x).held, (getCore t c).region = none ∧ (getCore t c).taken = false) ∧
      x ∉ (getDie t (getRegion s x).die).runQueue ∧
      ((getRegion t x).unwritten = false →
        bitsGet (homeCopy t (luOf (x + 64))).data (8 * (x + 64 - luBase (luOf (x + 64)))) 3 = (getRegion s x).final)

end Sys2Proof.Claim

/-- R399, R400, R401, R402, R403: a free core is bound to a region; a core is taken for a region that waits when none is
free; a region whose budget is used up stops with its descendants; a free hart receives the next iteration; an ending
region that waits for nothing more takes its final state. -/
def Obligations.RegionStepsComplete : Prop :=
  Sys2Proof.Claim.RegionBindGivesTheCore ∧ Sys2Proof.Claim.CoreTakeoverAsksTheHarts ∧
  Sys2Proof.Claim.BudgetStopEndsTheTree ∧ Sys2Proof.Claim.IterationDispatchHandsOut ∧
  Sys2Proof.Claim.RegionCompleteWritesTheState

/-! ### Steps of coherence (spec/16, spec/17) -/

namespace Sys2Proof.Claim

/-- No timestamp that the access of core c reads is near the limit at which the die rolls over (R289). -/
def NoRollover (s : State) (c lu : Nat) : Prop :=
  let d := dieOfCore c
  ∀ x ∈ [(getCore s c).pts, (getCopy s c lu).wts, (getCopy s c lu).rts, (getLine s d lu).wts, (getLine s d lu).rts,
    mtsOf s d (sliceOf lu)], x + 16 ≤ 2 ^ 47

/-- The first message in flight, about the unit, and what follows it. -/
def FirstMessage (s : State) (m : Msg) (lu : Nat) (rest : List Msg) : Prop := s.net = m :: rest ∧ m.lu = lu

end Sys2Proof.Claim

/-- R286 to R299: the steps of coherence inside a die. A fill of a line that the slice can read and no other core holds to
write gives an S copy whose lease is max(line.rts, line.wts + 16, pts + 16); a GetW gives a W copy and names its holder; a
recall writes the dirty bytes back and leaves S; update permission, merges and evictions of U copies; renewal at half a
window, the drop at seven eighths, the expiry at a full one; the rollover, when a timestamp would pass 2^47, which sets
every timestamp of the die to 0 and drops its S copies. -/
def Obligations.DieCoherenceSteps : Prop :=
  (∀ (s : State) (d : Nat) (l : List Nat), s.args = d :: l →
    (stampDue s d = true → exec .timestampRollover s = .next (rollover d s)) ∧
    (stampDue s d = false → exec .timestampRollover s = .next s) ∧
    (∀ c lu q, c < 576 → dieOfCore c = d → lu < 2 ^ 44 → (getLine s d lu).queue = c :: q → (getCopy s c lu).st = .is →
      (getCopy s c lu).ro = false → canRead (getLine s d lu).st = true →
      2 ^ 47 < max (getLine s d lu).rts (max ((getLine s d lu).wts + 16) ((getCore s c).pts + 16)) → stampDue s d = true) ∧
    let t := rollover d s
    (∀ c, c < 576 → dieOfCore c = d → (getCore t c).pts = 0) ∧
    (∀ p ∈ t.l1, dieOfCore (p.1 / 2 ^ 44) = d → p.2.st ≠ .s ∧ p.2.wts = 0 ∧ p.2.rts = 0) ∧
    (∀ p ∈ t.l2, p.1 / 2 ^ 44 = d → p.2.wts = 0 ∧ p.2.rts = 0) ∧
    (∀ p ∈ t.dir, homeDie p.1 = d → p.2.wts = 0 ∧ p.2.rts = 0) ∧ t.mem = s.mem) ∧
  ∀ (s : State) (x lu : Nat) (l : List Nat), s.args = x :: lu :: l →
    let d := dieOfCore x
    let lease : Lease := { core := (getCore s x).logical, granted := timerOf s d, window := (getDie s d).leasewin }
    let k := getCopy s x lu
    let line := getLine s d lu
    let age := leaseCycles k.granted (timerOf s d)
    (NoRollover s x lu → (tget s.l1 (copyKey x lu)).isSome → line.queue = [] → k.st ≠ .w → line.holder = .none →
      (canRead line.st = true →
        ∃ t, exec .fillRequest s = .next t ∧ (getCopy t x lu).st = .s ∧
          (getCopy t x lu).line = { line.line with dirty := 0 } ∧
          (getCopy t x lu).rts = max line.rts (max (line.wts + 16) ((getCore s x).pts + 16)) ∧
          (getCopy t x lu).wts = line.wts ∧ (getLine t d lu).rts = (getCopy t x lu).rts ∧
          (getCopy t x lu).granted = timerOf s d ∧ (getCopy t x lu).window = (getDie s d).leasewin ∧ t.mem = s.mem) ∧
      (line.st = .m →
        ∃ t, exec .getw s = .next t ∧ (getCopy t x lu).st = .w ∧ (getCopy t x lu).line = { line.line with dirty := 0 } ∧
          (getLine t d lu).holder = .w lease ∧
          (getCopy t x lu).granted = timerOf s d ∧ (getCopy t x lu).window = (getDie s d).leasewin ∧ t.mem = s.mem)) ∧
    (∀ y c, (getLine s x lu).holder = .w y → coreOfLogical s x y.core = some c → (getCopy s c lu).st = .w →
      ∃ t, exec .recall s = .next t ∧ (getCopy t c lu).st = .s ∧ (getCopy t c lu).line.dirty = 0 ∧
        (getLine t x lu).holder = .none ∧ (getLine t x lu).wts = (getCopy s c lu).wts ∧
        (getLine t x lu).line = absorb (luSize lu) (getLine s x lu).line (getCopy s c lu).line ∧ t.mem = s.mem) ∧
    (∀ tag, l = [tag] → (tget s.l1 (copyKey x lu)).isSome → line.queue = [] → isHostLu lu = false → 1 ≤ tag → tag ≤ 11 →
      tag ≠ 4 ∨ k.way2.isSome →
      exec .dieGetu s = .next (keepPlace x lu (getUpdate x lu tag) s).1) ∧
    exec .mergeRequest s = .next (mergeDie x lu s) ∧
    (k.st = .u → exec .uCopyEviction s = .next (evictCopy x lu s)) ∧
    (k.st = .s ∨ k.st = .w ∨ k.st = .u →
      (k.window ≤ 2 * age → exec .leaseRenewal s = .next (renewLease x lu s)) ∧
      (2 * age < k.window → exec .leaseRenewal s = .next s) ∧
      (7 * k.window ≤ 8 * age → exec .leaseHolderTimeout s = .next (dropCopy x lu s)) ∧
      (8 * age < 7 * k.window → exec .leaseHolderTimeout s = .next s)) ∧
    (∀ y, (getLine s x lu).holder = .w y ∨ (getLine s x lu).holder = .u [y] →
      (y.window ≤ leaseCycles y.granted (timerOf s x) → exec .leaseExpiry s = .next (expireHolder x lu y.core s)) ∧
      (leaseCycles y.granted (timerOf s x) < y.window → exec .leaseExpiry s = .next s))

/-- R303, R306, R307, R310, R311: the delivery of each of the seventeen messages between dies and the home, when it is the
first in flight and its receiver can take it: requests and Puts reach the home; forwards, invalidations, data and
acknowledgements change the die's line and are answered; a RENEW Inv leaves an owner in M or O its copy (R304). -/
def Obligations.MessagesAreDelivered : Prop :=
  ∀ (s : State) (d lu : Nat) (l : List Nat) (m : Msg) (rest : List Msg), s.args = d :: lu :: l →
    FirstMessage s m lu rest →
    let u := { s with net := rest }
    let line := getLine s d lu
    let reply (k : MsgKind) (dst : Agent) : Msg := { kind := k, lu := lu, src := .die d, dst := dst }
    let becomes (i : Instr) (st : DieSt) (out : List Msg) : Prop :=
      ∃ t, exec i s = .next t ∧ (getLine t d lu).st = st ∧ t.net = rest ++ out ∧ t.mem = s.mem ∧ t.l1 = s.l1
    (m.src = .die d → m.dst = .home →
      (∀ i k, (i, k) ∈ ([(.gets, .getS), (.getm, .getM), (.upg, .upg), (.putm, .putM), (.puto, .putO), (.pute, .putE)] :
          List (Instr × MsgKind)) → m.kind = k → exec i s = .next (arriveHome m u)) ∧
      (m.kind = .putU → exec .putu s = .next (if mergeAsks s lu d then mergeArrived m u else arriveHome m u)) ∧
      (m.kind = .getU → l = [m.tag] → exec .getu s = .next (arriveHome m u)) ∧
      (m.kind = .ackHome → exec .ackToHome s = .next (serveWaiting 64 lu (setDir lu { getDir s lu with busy := false } u))) ∧
      (m.kind = .mrgData → exec .mrgdata s = .next
        (arrived lu (setDir lu { getDir s lu with merged := (getDir s lu).merged ++ [(d, m.upd)] } u)))) ∧
    (m.dst = .die d → line.holder = .none →
      (∀ r, m.kind = .fwdGetS → m.req = .die r → line.st = .e ∨ line.st = .m ∨ line.st = .o →
        becomes .fwdgets .o [{ reply .data (.die r) with
          req := .die r, count := m.count, line := { line.line with dirty := 0 } }]) ∧
      (∀ r, m.kind = .fwdGetM → m.req = .die r → line.st = .e ∨ line.st = .m ∨ line.st = .o →
        becomes .fwdgetm .i [{ reply .data (.die r) with
          req := .die r, excl := true, count := m.count, line := line.line }]) ∧
      (∀ f, m.kind = .inv f → line.st = .s → becomes .inv .i [reply (.invAck false) m.req]) ∧
      (∀ f, m.kind = .inv f → line.st = .e → f ≠ 0 → becomes .inv .i [reply (.invAck false) m.req]) ∧
      (m.kind = .inv 1 → line.st = .o ∨ line.st = .m → becomes .inv line.st [reply (.invAck true) m.req]) ∧
      (m.kind = .inv 2 → line.st = .o ∨ line.st = .m → becomes .inv .i [reply (.invAck false) m.req]) ∧
      (m.kind = .data → line.st = .isD → mtsOf s d (sliceOf lu) < 2 ^ 47 →
        (m.src = .home → d = homeDie lu → (homeStamps s lu).2 ≤ 2 ^ 47) →
        becomes .data (if m.excl then .e else .s) [reply .ackHome .home]) ∧
      (m.kind = .ackDie → line.st = .miA ∨ line.st = .oiA ∨ line.st = .eiA → becomes .ackToDie .i []) ∧
      (m.kind = .mrgReq → line.st = .u → requestInFlight s d lu = none →
        becomes .mrgreq .i [{ reply .mrgData .home with
          upd := joinPartial line.tag (updCount line.tag (luSize lu)) line.upd
            (treePartial line.tag (updCount line.tag (luSize lu)) []) }])) ∧
    (∀ f e, m.kind = .invAck f → m.src = .die d → m.dst = .die e →
      (getLine s e lu).st = .imA ∨ (getLine s e lu).st = .smA ∨ (getLine s e lu).st = .omA →
      ((getLine s e lu).acks = 1 →
        ∃ t, exec .invack s = .next t ∧ (getLine t e lu).st = .m ∧ (getLine t e lu).acks = 0 ∧
          t.net = rest ++ [{ kind := .ackHome, lu := lu, src := .die e, dst := .home }] ∧ t.mem = s.mem) ∧
      (2 ≤ (getLine s e lu).acks →
        ∃ t, exec .invack s = .next t ∧ (getLine t e lu).st = (getLine s e lu).st ∧
          (getLine t e lu).acks = (getLine s e lu).acks - 1 ∧ t.net = rest ∧ t.mem = s.mem))

/-! ### Steps of the host and of fabric peers (spec/12, spec/17, spec/30) -/

namespace Sys2Proof.Claim

/-- A half stands at the bridge alone: no other request waits there and no back-invalidation of its line is under way. -/
def BridgeIdle (s : State) (half : Nat) : Prop := s.bridge = [] ∧ snoopsInFlight s (halfUnit half) = false

/-- A request of the host for a half of device memory that can be served: the half's unit is collected at its home. -/
def Served (s : State) (kind half : Nat) (write : Bool) (u : State) : Prop :=
  hostFetch (halfUnit half) write { s with bridge := [{ kind := kind, half := half, val := 0 }] } = (u, true)

/-- R314, R424: what the host does to device memory through CXL.mem, once the part answers there. A half is named by its
place in the HDM window. -/
def HostUsesDeviceMemory : Prop :=
  ∀ (s u : State) (half : Nat) (l : List Nat), s.args = half :: l →
    (∀ dev, hdmHalf half = some dev → s.bootPhase = 6 → BridgeIdle s dev →
      let lu := halfUnit dev
      (Served s 0 dev false u → ∃ t, exec .hostMemrd s = .next t ∧ t.hostReply = some (half, halfBytes u dev) ∧
        halfOf (getDir t lu) dev = .shared ∧ t.bridge = [] ∧ t.mem = u.mem) ∧
      (Served s 1 dev true u → ∃ t, exec .hostOwnershipRequest s = .next t ∧
        t.hostReply = some (half, halfBytes u dev) ∧ halfOf (getDir t lu) dev = .owned ∧ t.bridge = [] ∧ t.mem = u.mem) ∧
      (∀ val, l = [val] →
        (halfOf (getDir s lu) dev = .owned → HasRoom s lu → ∃ t, exec .hostMemwr s = .next t ∧
          halfBytes t dev = val % 2 ^ 512 ∧ halfOf (getDir t lu) dev = .none ∧ t.bridge = [] ∧ t.mem = s.mem) ∧
        (halfOf (getDir s lu) dev ≠ .owned → exec .hostMemwr s = .next s))) ∧
    (∀ dev, hdmHalf half = some dev → s.bootPhase ≠ 6 →
      exec .hostMemrd s = .next (answer half 0 s) ∧ exec .hostOwnershipRequest s = .next (answer half 0 s) ∧
      exec .hostMemwr s = .next (hostErr s)) ∧
    (hdmHalf half = none →
      exec .hostMemrd s = .next (answer half 0 (hostErr s)) ∧
      exec .hostOwnershipRequest s = .next (answer half 0 (hostErr s)) ∧ exec .hostMemwr s = .next (hostErr s)) ∧
    (∀ dev val take, hdmHalf half = some dev → l = [val] → s.backInv = [(dev, take)] → s.bridge = [] →
      (getDir s (halfUnit dev)).waiting = [] → HasRoom s (halfUnit dev) →
      ∃ t, exec .backInvalidationResponse s = .next t ∧ t.backInv = [] ∧
        halfOf (getDir t (halfUnit dev)) dev = (if take then .none else .shared) ∧ t.mem = s.mem ∧
        (halfOf (getDir s (halfUnit dev)) dev = .owned → halfBytes t dev = val % 2 ^ 512))

/-- R316: the snoops of a half of host memory, and the host's answers to the part's own requests. -/
def HostSnoopsAndAnswers : Prop :=
  ∀ (s u : State) (half : Nat) (l : List Nat), s.args = half :: l →
    let hlu := hostHalf half
    let e := getDir s hlu
    (e.hostRight = .none → exec .hostSnpdata s = .next { s with hostReply := none } ∧
      exec .hostSnpinv s = .next { s with hostReply := none } ∧ exec .hostSnpcur s = .next { s with hostReply := none }) ∧
    (e.hostRight ≠ .none →
      (snoopFetch half false s = (u, true) →
        (∃ t, exec .hostSnpdata s = .next t ∧ t.hostReply = some (half, (homeCopy u hlu).data) ∧
          (getDir t hlu).hostRight = .shared ∧ homeCopy t hlu = { homeCopy u hlu with dirty := 0 }) ∧
        ∃ t, exec .hostSnpcur s = .next t ∧ t.hostReply = some (half, (homeCopy u hlu).data) ∧
          getDir t hlu = getDir u hlu ∧ t.mem = u.mem) ∧
      (snoopFetch half true s = (u, true) →
        ∃ t, exec .hostSnpinv s = .next t ∧ t.hostReply = some (half, (homeCopy u hlu).data) ∧
          (getDir t hlu).hostRight = .none ∧ (getDir t hlu).copy = none)) ∧
    (∀ val kind, l = [val] → e.waiting = [] → e.hostRight = .none → e.copy = none → s.cxl = [(half, kind)] → kind ≤ 1 →
      HasRoom s hlu →
      ∃ t, exec .hostCacheResponse s = .next t ∧ t.cxl = [] ∧ t.mem = s.mem ∧
        (getDir t hlu).hostRight = (if kind = 0 then .shared else .owned) ∧
        (getDir t hlu).copy = some { data := val % 2 ^ 512 } ∧ (getDir t hlu).tenant = e.tenant)

/-- R222, R423, R424: reads and writes of the host through BAR2, which holds so many GiB of device memory from BAR2OFF
on. A read that has to wait for its lines keeps the address that it named. -/
def HostUsesBar2 : Prop :=
  ∀ (s u : State) (off n : Nat) (l : List Nat), s.args = off :: n :: l → s.posted = [] →
    (inBar2 s off n = true → s.bootPhase = 6 →
      (∀ pa, bar2Address s off = some pa →
        (l = [] →
          (collectPieces (.outside .hostBar2Read [pa, n]) (linePieces pa n) false s = (u, true) → exec .hostBar2Read s =
            .next (answer off (homeBytes pa n u).val (deliverPoison (homeBytes pa n u).pois none none u))) ∧
          (collectPieces (.outside .hostBar2Read [pa, n]) (linePieces pa n) false s = (u, false) → exec .hostBar2Read s =
            .next { u with agenda := u.agenda ++ [.event .hostBar2Read [off, n, pa + 1, 1]] })) ∧
        (∀ val, l = [val] → collectPieces (.outside .hostBar2Write [pa, n, val]) (linePieces pa n) true s = (u, true) →
          exec .hostBar2Write s = .next (homePut pa n val u))) ∧
      (bar2Address s off = none →
        (l = [] → exec .hostBar2Read s = .next (answer off 0 (hostErr s))) ∧
        (∀ val, l = [val] → exec .hostBar2Write s = .next (hostErr s)))) ∧
    (inBar2 s off n = true → s.bootPhase ≠ 6 →
      (l = [] → exec .hostBar2Read s = .next (answer off 0 s)) ∧
      (∀ val, l = [val] → exec .hostBar2Write s = .next (hostErr s))) ∧
    (inBar2 s off n = false →
      (l = [] → exec .hostBar2Read s = .next s) ∧ (∀ val, l = [val] → exec .hostBar2Write s = .next s))

/-- R312, R317: the accesses of fabric peers to this device, and their answers to its own. An atomic whose element is free of
poison answers the old value. -/
def PeersAskAndAnswer : Prop :=
  ∀ (s u : State) (x : Nat) (l : List Nat), s.args = x :: l →
    (∀ pa n val expected, l = [pa, n, val, expected] → isDevicePa pa = true →
      (x = 0 → collectPieces (.outside .peerRequest [pa, n]) (linePieces pa n) false s = (u, true) → exec .peerRequest s =
        .next (answer pa (homeBytes pa n u).val (deliverPoison (homeBytes pa n u).pois none none u))) ∧
      (x = 1 → collectPieces (.outside .peerRequest [pa, n, val]) (linePieces pa n) true s = (u, true) →
        exec .peerRequest s = .next (answer pa 0 (homePut pa n val u))) ∧
      (∀ op, x = op + 2 → op ≤ 13 → collectPieces (.outside .peerRequest s.args) [(pa, n, 0)] true s = (u, true) →
        let off := pa - luBase (luOf pa)
        let old := lineBytes (luOf pa) (homeCopy u (luOf pa)) off n
        old.pois = [] → exec .peerRequest s = .next (answer pa old.val
          (homeWrite (luOf pa) (combine op n old.val val expected <<< (8 * off)) (maskOf off n) u)))) ∧
    (∀ val r rest, l = [val] → s.remotes = r :: rest → r.id = x → r.reply = none → r.hart < 4608 →
      (r.kind = 1 → ∀ n, (r.owner = none ∧ n = r.hart) ∨ (∃ rcb lh y, r.owner = some (rcb, lh) ∧
          tget s.regions rcb = some y ∧ (getLogical y lh).place = .placed n) →
        ∃ t, exec .peerResponse s = .next t ∧
        (getHart t n).remoteWrites = (getHart s n).remoteWrites - (1 + r.more.length) ∧ (∀ y ∈ t.remotes, y.id ≠ x) ∧
        t.mem = s.mem) ∧
      (r.kind = 2 → ∀ n, r.owner = none → n = r.hart →
        ∃ t, exec .peerResponse s = .next t ∧
        (getHart t n).remoteWrites = (getHart s n).remoteWrites - (1 + r.more.length) ∧
        t.remotes.head? = some { r with reply := some val } ∧ t.mem = s.mem) ∧
      (r.kind = 0 → ∃ t, exec .peerResponse s = .next t ∧ t.remotes.head? = some { r with reply := some val } ∧
        t = { s with remotes := t.remotes }))

end Sys2Proof.Claim

/-- R312, R314, R315, R316, R424: the accesses of the host through CXL.mem, CXL.cache and BAR2, of fabric peers, and the
answers to this device's own. A read of device memory gives what its home collected; a shared read leaves the half
shared, an ownership request owned, the owner's write-back none; a snoop takes or keeps what the part held; an answer ends
what waited for it. Before phase 6 device memory is not there. -/
def Obligations.HostAndPeerSteps : Prop :=
  Sys2Proof.Claim.HostUsesDeviceMemory ∧ Sys2Proof.Claim.HostSnoopsAndAnswers ∧ Sys2Proof.Claim.HostUsesBar2 ∧
  Sys2Proof.Claim.PeersAskAndAnswer

/-! ### Steps of the engines (spec/15, spec/20) -/

namespace Sys2Proof.Claim

/-- The memory after the dirty bytes of some lines have reached the arrays. -/
def linesWritten (l : List (Nat × LineData)) (m : List Host.Cell) : List Host.Cell :=
  l.foldl (fun m p => memWriteMasked m (luBase p.1) (luSize p.1) p.2.data p.2.dirty) m

/-- Element j of the row at an offset of a region, and its address. -/
def elemAt (r : Nat) (e : RegionEntry) (o j : Nat) : Nat := regionPa e (o + j * ipElem r)
def elemOf (m : List Host.Cell) (r : Nat) (e : RegionEntry) (o j : Nat) : Nat := memRead m (elemAt r e o j) (ipElem r)

/-- The elements that element j of the row at an offset o depends on (R278, R279): of the source rows, and of the
destination row where the op adds to it. -/
def dependsOn (r : Nat) (d e : RegionEntry) (o j : Nat) : List Nat :=
  let own := [elemAt r d o j]
  let sources := (ipSources r).map fun x => elemAt r e x j
  if ipOp r = 6 then [] else if ipOp r = 7 then sources
  else if ipGather r then (if ipAcc r then own ++ sources else sources)
  else own ++ [elemAt r e (ipSoff r + (o - ipDoff r)) j]

/-- The value of element j of the row at an offset o after a command (R278, R279): the sum or maximum of a GATHER op in
partials by stack, the sum of SUM in index order, source and destination added, alpha times the source added, or zero; the
poison value where it depends on a poisoned granule (R264, R282). -/
def elemAfter (s : State) (r : Nat) (d e : RegionEntry) (o j : Nat) : Nat :=
  let old := elemOf s.mem r d o j
  let source (x : Nat) : Nat := elemOf s.mem r e x j
  let reduced (stack : Nat → Nat) : Nat :=
    ipFinal r (ipCombine r ((ipSources r).map fun x => (stack x, ipHold r (source x))))
  if (dependsOn r d e o j).any fun pa => s.poison.contains (pa / 32) then ipPoison r
  else if ipOp r = 6 then 0
  else if ipOp r = 7 then reduced fun _ => 0
  else if ipGather r then
    let x := reduced fun x => stackOf (elemAt r e x j)
    if ipAcc r then ipAdd r x old else x
  else if ipOp r = 5 then ipAxpy r (source (ipSoff r + (o - ipDoff r))) old
  else ipAdd r (source (ipSoff r + (o - ipDoff r))) old

/-- R278 to R282: the rows that an in-place command leaves. Every source is read before a row is written, each element of
each destination row has its value, and no other byte of memory changes. -/
def InPlaceLeavesItsRows : Prop :=
  ∀ (s : State) (q : IpCmd) (d e : RegionEntry), ipCheck s q = .ok (d, e) →
    d.frames.Nodup → d.length ≤ 4096 * d.frames.length → (∀ f ∈ d.frames, isDevicePa (f * 4096) = true) →
    let r := q.record
    let t := ipPerform q d e s
    let n := ipRowBytes r / ipElem r
    (∀ o ∈ ipDests r, ∀ j, j < n → elemOf t.mem r d o j = elemAfter s r d e o j % 2 ^ (8 * ipElem r)) ∧
    ∀ a, (∀ o ∈ ipDests r, ∀ j, j < n → a < elemAt r d o j ∨ elemAt r d o j + ipElem r ≤ a) →
      memGet t.mem a = memGet s.mem a

/-- R269, R270, R276, R281, R354, R357, R360: what the steps of the engines come to. -/
def EnginesStep : Prop :=
  ∀ (s : State) (x y : Nat) (l : List Nat), s.args = x :: y :: l →
    (∀ ent z rest, s.settles = z :: rest → z.region = x → z.num = y → x < 4096 →
      tget s.regionTable x = some ent → (ent.mark + 1) % 2 ^ 48 = y → ent.complete = [] →
      ∃ t, exec .settleComplete s = .next t ∧ tget t.regionTable x = some { ent with mark := y } ∧
        (∀ w ∈ t.settles, ¬ (w.region = x ∧ w.num = y)) ∧
        ((z.lines.map (·.1)).Nodup → (∀ w ∈ rest, ∀ p ∈ w.lines, p.1 ∉ z.lines.map (·.1)) →
          t.mem = linesWritten z.lines s.mem)) ∧
    (∀ q, ipEarlier x s = some q → exec .ipcmdDispatch s = .next (ipBegin q s)) ∧
    (∀ q f, ipEarlier x s = none → (getHart s x).ipFifo = q :: f →
      let u := setHart x { getHart s x with ipFifo := f } { s with ipRunning := s.ipRunning ++ [q] }
      let q' := { q with begun := true }
      let v := { u with ipRunning := u.ipRunning.map fun z => if z = q then q' else z }
      (∀ d e, ipCheck v q' = .ok (d, e) → exec .ipcmdDispatch s = .next (ipPerform q' d e v)) ∧
      (∀ a, ipCheck v q' = .error a → exec .ipcmdDispatch s = .next (ipFail q' a v))) ∧
    (∀ q, s.ipRunning = [q] → q.hart = x → q.id = y → q.begun = true → q.done = false → q.orphan = false →
      q.region = none → ((getHart s x).ipMark + 1) % 2 ^ 64 = y →
      MakesHart .ipcmdComplete s x { getHart s x with ipMark := y }) ∧
    (∀ q rest r w u, y < 4 → (getChannel s x y).queue = q :: rest → (getChannel s x y).halted = false →
      q.chunk < lnPoints q.record → copyWaits s x y q = false → runAcc (chunkMove x y q) s = (.ok (r, w), u) →
      ∃ t, exec .copyChunk s = .next t ∧ getChannel t x y = { getChannel u x y with
          queue := { q with chunk := q.chunk + 1 } :: rest
          bytesRead := ((getChannel u x y).bytesRead + r) % 2 ^ 64
          bytesWritten := ((getChannel u x y).bytesWritten + w) % 2 ^ 64 } ∧ t.mem = u.mem) ∧
    (∀ q rest, y < 4 → (getChannel s x y).queue = q :: rest → (getChannel s x y).halted = false →
      lnPoints q.record ≤ q.chunk → writesPerformed s x y = true →
      ∃ t, exec .copyCommandComplete s = .next t ∧ t.mem = s.mem ∧
        getChannel t x y = { getChannel s x y with queue := rest, mark := q.id, aborted := false }) ∧
    (let c := coreOfHart x
     y < 4 → (getHart s x).status.getLsbD 0 = true → (getChannel s c y).halted = true →
      (∀ q rest, (getChannel s c y).queue = q :: rest →
        ∃ t, exec .cpctlAbort s = .next t ∧ t.mem = s.mem ∧
          getChannel t c y = { getChannel s c y with queue := rest, mark := q.id, aborted := true, halted := false }) ∧
      ∃ t, exec .cpctlRetry s = .next t ∧ t.mem = s.mem ∧ getChannel t c y = { getChannel s c y with halted := false })

end Sys2Proof.Claim

/-- R269, R270, R276 to R282, R354, R357, R360: a settle completes: the dirty bytes that it still holds are in memory, and
the watermark passes it; a base-die unit takes the head of a hart's in-place FIFO and performs it, which leaves the values of
R278 and R279 in its rows, or, when its record fails its checks, counts an error; a completed command moves its hart's
watermark; a channel moves its next chunk, completes a command whose chunks are moved, and a halted one is aborted or
resumed by its supervisor. -/
def Obligations.EngineStepsComplete : Prop := Sys2Proof.Claim.EnginesStep ∧ Sys2Proof.Claim.InPlaceLeavesItsRows

/-! ### Service, registers, power (spec/12, spec/30) -/

/-- R229 to R234, R375, R394, R430, R432, R433: the scrubber corrects what it meets in a row, leaves what it cannot correct
with a poison syndrome and changes no byte; scores halve once for each half-life that has passed; a self-test starts on a retired unit and not on one in service, and ends; lane groups, slice ways, ports and rows
retire; a port trains, comes up, goes down and counts its retries. Before the host's port trains no write of the host arrives
(R426). -/
def Obligations.ServiceStepsComplete : Prop :=
  ∀ (s : State) (x : Nat) (l : List Nat), s.args = x :: l → s.posted = [] →
    let k := getDie s x
    let p := getPort s x
    (∀ row, l = [row] →
      let ctl := if x % 2 = 0 then (getDie s (x / 2)).scrub0 else (getDie s (x / 2)).scrub1
      let key := x * 2 ^ 45 + row % 2 ^ 45
      (ctl % 2 = 1 → ∃ t, exec .scrubRow s = .next t ∧ t.mem = s.mem ∧
        (∀ g, rowKey s g = key → g ∉ t.correctable) ∧ (∀ g ∈ t.correctable, g ∈ s.correctable) ∧
        (∀ g y, (g, y) ∈ s.detected → rowKey s g = key → g ∈ t.poison) ∧ (∀ g ∈ s.poison, g ∈ t.poison) ∧
        (t.retiredRows = s.retiredRows → ∀ g ∈ s.correctable, rowKey s g ≠ key → g ∈ t.correctable)) ∧
      (ctl % 2 = 0 → exec .scrubRow s = .next s)) ∧
    (x < 8 →
      let life := bitsGet k.retcfg 8 8 * 86400000000000
      let n := (timerOf s x - k.halved) / life
      (n = 0 → exec .scoreHalving s = .next s) ∧
      (n ≠ 0 → exec .scoreHalving s = .next { setDie x { k with halved := k.halved + n * life } s with
        hotRows := s.hotRows.map fun h => if rowStack h.1 / 2 = x then (h.1, h.2.1 / 2 ^ n, h.2.2) else h })) ∧
    (∀ code, l = [code] → code < 2 ^ 24 →
      (s.bootPhase ≠ 0 → k.bistRunning = true → exec .bistctlGo s = .next (hostErr s)) ∧
      (s.bootPhase ≠ 0 → k.bistRunning = false → unitExists code = true → unitRetired code s = true →
        ∃ t, exec .bistctlGo s = .next t ∧ t = setDie x { k with
          bistUnit := code, bistRunning := true, bistResult := 0, bistStatUnit := code } s) ∧
      (s.bootPhase ≠ 0 → k.bistRunning = false → code ≠ 0 → unitRetired code s = false →
        ∃ t, exec .bistctlGo s = .next t ∧ t = setDie x { k with
          bistUnit := code, bistResult := 2, bistStatUnit := code } s) ∧
      (s.bootPhase ≠ 0 → k.bistRunning = false → code = 0 →
        ∃ t, exec .bistctlGo s = .next t ∧ (getDie t x).bistRunning = !dieBound s x ∧
          (getDie t x).bistResult = if dieBound s x then 2 else 0)) ∧
    (∀ unit, l = [unit] → k.bistRunning = true →
      ∃ t, exec .bistComplete s = .next t ∧ (getDie t x).bistRunning = false ∧ t.msix.getLsbD 10 = true ∧
        (getDie t x).bistResult = (if unit = 0 then 0 else 1) ∧
        (getDie t x).bistStatUnit = (if unit = 0 then k.bistStatUnit else unit % 2 ^ 24)) ∧
    (∀ val, l = [val] → s.bootPhase ≠ 0 → unitExists (val % 2 ^ 24) = true →
      let written := setDie x { k with retreq := val % 2 ^ 28 } s
      let kind := val / 2 ^ 20 % 16
      (kind = 2 → ∃ t, exec .retreqLaneGroup s = .next t ∧
        (getCore t (codeCore (val % 2 ^ 24))).retiredGroups.getLsbD (val / 2 ^ 7 % 8) = true) ∧
      (kind = 3 → exec .retreqSliceWay s =
        .next (retireWay (val / 2 ^ 17 % 8) (val % 2 ^ 6) (val / 2 ^ 24 % 16) written)) ∧
      (kind = 7 → ∃ t, exec .retreqLinkPort s = .next t ∧ (getPort t (val % 2 ^ 7)).state = 3)) ∧
    (∀ val, l = [val] → s.bootPhase ≠ 0 → val / 2 ^ 40 % 32 ≤ 23 → exec .retrowGo s =
      .next (retireRow ((2 * x + val / 2 ^ 45 % 2) * 2 ^ 45 + val % 2 ^ 45) (setDie x { k with retrow := val % 2 ^ 46 } s))) ∧
    (s.bootPhase = 0 → exec .bistctlGo s = .next s ∧ exec .retrowGo s = .next s ∧ exec .portctlRetire s = .next s ∧
      exec .portctlTrain s = .next s) ∧
    (x < 72 → s.bootPhase ≠ 0 → ∃ t, exec .portctlRetire s = .next t ∧ (getPort t x).state = 3 ∧ t.mem = s.mem) ∧
    (s.bootPhase ≠ 0 → p.state = 3 → exec .portctlTrain s = .next (setPort x { p with state := 1, enable := true } s)) ∧
    (p.state ≠ 3 → exec .portctlTrain s = .next s) ∧
    (∀ up dev port, l = [up, dev, port] → p.state = 1 →
      (up = 0 → exec .portTrainingDone s = .next (setPort x { p with state := 0 } s)) ∧
      (up ≠ 0 → dev ≤ 72 → exec .portTrainingDone s =
        .next (setPort x { p with state := 2, peerDev := dev, peerPort := port % 2 ^ 7 } s))) ∧
    (p.state = 1 ∨ p.state = 2 → ∃ t, exec .portDown s = .next t ∧ (getPort t x).state = 0 ∧ t.mem = s.mem) ∧
    ((p.recent.filter fun t => timerOf s 0 - t < 1000000000).length + 1 < 2 ^ 20 →
      ∃ t, exec .flitCrcRetry s = .next t ∧ (getPort t x).retries = (p.retries + 1) % 2 ^ 32 ∧
        (getPort t x).state = p.state ∧ t = { s with ports := t.ports })

/-- R221, R223, R225, R227, R215, R232, R434: the mailbox takes a launch when it is empty and the address may be one, marks an
overrun when it is full and answers code 2 otherwise; LTAKE empties it into a register of a supervisor hart; the writes of
LDONE, ERROWN, ERRPOP and HOSTERR; the three triggers of a snapshot and its latch; a write that is not of eight aligned
bytes is ignored and counted. Before the host's port trains no write of the host arrives (R426). -/
def Obligations.RegisterStepsComplete : Prop :=
  (∀ s : State, ((∃ d, d < 8 ∧ (getDie s d).snapEn.getLsbD 1 = true) → exec .snapinTrigger s = .next (fireSnapshot s)) ∧
    ((∀ d, d < 8 → (getDie s d).snapEn.getLsbD 1 = false) → exec .snapinTrigger s = .next s) ∧
    (∀ t q, s.snapPending = t :: q →
      (t ≤ timerOf s 0 → exec .snapshotLatch s = .next { s with snapPending := q, snapData := snapWords s }) ∧
      (timerOf s 0 < t → exec .snapshotLatch s = .next s))) ∧
  ∀ (s : State) (x : Nat) (l : List Nat), s.args = x :: l → s.posted = [] →
    let k := getDie s x
    (s.bootPhase = 0 → ∀ i ∈ [Instr.launchWrite, .lstatOverrunClear, .errpopWrite, .hosterrWrite, .snaptrigWrite, .registerWrite],
      exec i s = .next s) ∧
    (∀ d r, l = [d, r] → isSuper (getHart s x) = true → 0 < r → (hr : r < 32) →
      ∃ t, exec .ltakeLoad s = .next t ∧ (getDie t d).launch = 0 ∧
        getHart t x = { getHart s x with x := (getHart s x).x.set r (BitVec.ofNat 64 (getDie s d).launch) } ∧
        t.mem = s.mem) ∧
    (∀ val, l = [val] → val < 2 ^ 64 → x < 8 → ∃ t, exec .ldoneWrite s = .next t ∧ (getDie t x).ldone = val ∧
      t.msix.getLsbD x = true ∧ (∀ j, j ≠ x → t.msix.getLsbD j = s.msix.getLsbD j) ∧ t.mem = s.mem) ∧
    (s.bootPhase ≠ 0 →
    (x < 8 →
      (∀ val, l = [val] → val < 2 ^ 64 →
        (k.launch = 0 → val ≠ 0 → val % 256 = 0 → val < 2 ^ 48 → isDevicePa val = true → exec .launchWrite s =
          .next (setDie x { k with launch := val, accepted := (k.accepted + 1) % 2 ^ 32 } s)) ∧
        (k.launch ≠ 0 → exec .launchWrite s = .next (setDie x { k with overrun := true } s)) ∧
        (k.launch = 0 → val = 0 ∨ val % 256 ≠ 0 ∨ 2 ^ 48 ≤ val ∨ isDevicePa val = false →
          exec .launchWrite s = .next (setDie x { k with code := 2 } s))) ∧
      exec .lstatOverrunClear s = .next (setDie x { k with overrun := false } s) ∧
      (k.errOwn = true → exec .errpopWrite s = .next (setDie x { k with errs := k.errs.tail } s)) ∧
      (k.errOwn = false → exec .errpopWrite s = .next (hostErr s))) ∧
    (∀ val, l = [val] → ∃ t, exec .errownWrite s = .next t ∧ (getDie t x).errOwn = decide (val % 2 = 1) ∧
      (getDie t x).errs = k.errs ∧ (val % 2 = 1 → k.errOwn = false → k.errs ≠ [] → t.msix.getLsbD 8 = true) ∧
      t.mem = s.mem) ∧
    exec .hosterrWrite s = .next { s with hosterr := 0 } ∧
    exec .snaptrigWrite s = .next (if x % 2 = 1 then fireSnapshot s else s) ∧
    (∀ n val, l = [n, val] →
      (n ≠ 8 ∨ x % 8 ≠ 0 → exec .registerWrite s = .next (hostErr s)) ∧
      (n = 8 → x = 0x100 → val < 2 ^ 16 → exec .registerWrite s =
        .next (if 1500 ≤ val ∧ val ≤ 4200 then { s with pwrlim := val } else hostErr s)) ∧
      (n = 8 → x = 0x210 → exec .registerWrite s = .next { s with snapSel := val % 2 ^ 24 })))

namespace Sys2Proof.Claim

/-- R428: an operation of FWCTL begins when it may and shows its result at its completion. An operand of 1 is an error of
the flash. -/
def FwctlRuns : Prop :=
  ∀ s : State,
    (∀ i op, (i, op) ∈ ([(.fwctlRestore, 1), (.fwctlProgram, 2), (.fwctlEnrol, 3), (.fwctlRevoke, 4)] : List (Instr × Nat)) →
      s.posted = [] →
      let may : Prop := s.bootPhase = 6 ∨ (op = 1 ∧ s.bootPhase = 15 ∧ s.bootReason = 3)
      (s.fwBusy = false → may → ∃ t, exec i s = .next t ∧ t.fwBusy = true ∧ t.fwOp = op ∧ t.fwRun = op ∧
        t.fwResult = fwRefusal op s ∧ t.mem = s.mem ∧ t.flash.bankA = s.flash.bankA ∧ t.flash.bankB = s.flash.bankB) ∧
      (s.fwBusy = true ∨ ¬ may → exec i s = .next (if s.bootPhase = 0 then s else hostErr s))) ∧
    (∀ val, s.args = [0x308, 8, val] → val < 2 ^ 63 → s.posted = [] → s.bootPhase ≠ 0 →
      exec .registerWrite s = .next { s with fwOp := val % 8 }) ∧
    (s.fwBusy = false → exec .fwctlComplete s = .next s) ∧
    (s.fwBusy = true →
      (s.fwResult ≠ 2 → exec .fwctlComplete s = .next { s with fwBusy := false }) ∧
      (s.fwResult = 2 →
        let bank (t : State) : Option Nat := if 1 ≤ s.flash.lastBank then t.flash.bankA else t.flash.bankB
        let ends (result : Nat) (p : State → Prop) : Prop :=
          ∃ t, exec .fwctlComplete s = .next t ∧ t.fwBusy = false ∧ t.fwResult = result ∧ p t
        (s.fwRun = 1 →
          (s.args = [] → ends 2 fun t => bank t = s.flash.recovery) ∧
          (s.args = [1] → ends 6 fun t => bank t = Config.flashLeft s.tick)) ∧
        (s.fwRun = 2 → ∀ x u, imageAt s = (some x, u) →
          (imageValid u.flash x = true → s.args = [] →
            ends 2 fun t => (if 1 ≤ u.flash.lastBank then t.flash.bankA else t.flash.bankB) = some x) ∧
          (imageValid u.flash x = false → ends 3 fun t => t.flash = { u.flash with writing := none })) ∧
        (s.fwRun = 3 → ∀ x u, liveBytes s.fwaddr keyBytes s = (some x, u) →
          (s.args = [] → ends 2 fun t => t.flash.ownerKeys = u.flash.ownerKeys ++ [x % 2 ^ 768]) ∧
          (s.args = [1] → ends 6 fun t => t.flash = u.flash)) ∧
        (s.fwRun = 4 →
          (s.args = [] → exec .fwctlComplete s =
            .next { s with fwBusy := false, flash := { s.flash with vendorRevoked := true } }) ∧
          (s.args = [1] → exec .fwctlComplete s = .next { s with fwBusy := false, fwResult := 6 }))))

/-- R426, R427: power-on with the I/O domain down begins the sequence at phase 0, and with another domain down at phase 1,
with nothing in the cores or the memory; each phase is a turn, and the sequence stops at phase 15 with its reason or waits in
phase 5 for the firmware, whose last write of SCHEDENT or SCHEDPT ends it. Phases as turns are the model's (log 5). -/
def PowerOnRunsTheSequence : Prop :=
  (∀ (s : State) (fails : List Nat),
    (∀ x y, s.args = x :: y :: fails → s.powerIo = false → ∃ t, exec .powerOn s = .next t ∧ t.bootPhase = 0 ∧
      t.powerIo = true ∧ t.powerCompute = true ∧ t.powerStacks = true ∧ t.recov = (x != 0) ∧ t.enrol = (y != 0) ∧
      t.bootFails = fails ∧ t.cores = [] ∧ t.regions = [] ∧ t.poison = [] ∧ (∀ p, p < 72 → (getPort t p).state = 1) ∧
      t.agenda = s.agenda.filter (· != .boot) ++ [.boot]) ∧
    (∀ x y, s.args = x :: y :: fails → s.powerIo = true → s.powerCompute = false ∨ s.powerStacks = false →
      ∃ t, exec .powerOn s = .next t ∧ t.bootPhase = 1 ∧ t.powerCompute = true ∧ t.powerStacks = true ∧
        t.bootFails = fails ∧ t.cores = [] ∧ t.regions = [] ∧ t.ports = s.ports) ∧
    (s.powerIo = true → s.powerCompute = true → s.powerStacks = true → exec .powerOn s = .next s)) ∧
  (∀ (s : State) (r : List Turn), s.agenda = .boot :: r →
    let stops (reason unit : Nat) : Prop :=
      step s = .next { s with agenda := r, bootPhase := 15, bootReason := reason, bootUnit := unit }
    (s.bootPhase = 0 → step s = .next { s with bootPhase := 1, agenda := r ++ [.boot] }) ∧
    (s.bootPhase = 1 → ∃ t, step s = .next t ∧ t.bootPhase = 2 ∧ t.agenda = r ++ [.boot] ∧
      ∀ p ∈ t.dies, p.2.timer = 0) ∧
    (s.bootPhase = 2 →
      (∀ x, fatalTest s.bootFails = some x → stops 1 (x % 2 ^ 24)) ∧
      (fatalTest s.bootFails = none → step s = .next { s with bootPhase := 3, agenda := r ++ [.boot] })) ∧
    (s.bootPhase = 3 → ∃ t, step s = .next t ∧ t.bootPhase = 4 ∧ t.agenda = r ++ [.boot] ∧ t.mem = s.mem ∧
      ∀ x ∈ s.bootFails, failsTraining x = false → unitExists (x % 2 ^ 24) = true → unitKind (x % 2 ^ 24) = 1 →
        (getCore t (codeCore (x % 2 ^ 24))).retired = true) ∧
    (s.bootPhase = 4 →
      (∀ x, s.bootFails.find? failsTraining = some x → stops 2 (x % 2 ^ 24)) ∧
      (s.bootFails.find? failsTraining = none → step s = .next { s with bootPhase := 5, agenda := r ++ [.boot] })) ∧
    (s.bootPhase = 5 →
      (bootImage s.recov s.flash = none → stops 3 0) ∧
      (∀ image bank, bootImage s.recov s.flash = some (image, bank) → ∃ t, step s = .next t ∧ t.bootPhase = 5 ∧
        t.agenda = r ∧ t.fwRecovery = bank.isNone ∧
        ∀ d, d < 8 → hasSupervisor s d = true →
          (getHart t (supervisorHart t d)).run = .running ∧
          (getHart t (supervisorHart t d)).pc = BitVec.ofNat 64 (Config.imageEntry image) &&& ~~~3))) ∧
  ∀ (s : State) (d val : Nat), d < 8 → s.bootPhase = 5 →
    (∀ e, e < 8 → e ≠ d → hasSupervisor s e = false ∨ ((getDie s e).entSet = true ∧ (getDie s e).ptSet = true)) →
    ((getDie s d).ptSet = true → (mmioWrite (dieBlock d + 0x20) 8 val s).bootPhase = 6) ∧
    ((getDie s d).entSet = true → (mmioWrite (dieBlock d + 0x28) 8 val s).bootPhase = 6)

/-- R234, R435: the loss of a domain and the thermal shutdown take what it powers; the clock steps down by 100 MHz over the
power limit and up below it, and stays at it. -/
def PowerGoesAndTheClockSteps : Prop :=
  ∀ s : State,
    (∃ t, exec .clockThrottleStep s = .next t ∧ t.clock = (if overLimit s then max 900 (s.clock - 100)
      else if belowLimit s then min 1800 (s.clock + 100) else s.clock) ∧
      (t.clock ≠ s.clock → t.msix.getLsbD 9 = true) ∧ t.mem = s.mem) ∧
    ∀ (x : Nat) (l : List Nat), s.args = x :: l →
      (x = 0 ∨ x = 1 → ∃ t, exec .powerDomainLoss s = .next t ∧ t.bootPhase = 1 ∧ t.bootFails = l ∧ t.regions = [] ∧
        t.cores = [] ∧ t.l1 = [] ∧ t.l2 = [] ∧ t.barriers = [] ∧ t.ports = s.ports ∧ t.pwrlim = s.pwrlim ∧
        t.powerIo = s.powerIo) ∧
      (x = 2 → ∃ t, exec .powerDomainLoss s = .next t ∧ t.powerIo = false ∧ t.regions = [] ∧ t.cores = [] ∧ t.ports = [] ∧
        t.flash = spoilBank s.flash ∧ t.agenda = .event .powerOn l :: s.agenda.filter (· != .boot)) ∧
      (920 ≤ (getDie s x).tempd → ∃ t, exec .thermalShutdown s = .next t ∧ t.powerCompute = false ∧ t.powerStacks = false ∧
        t.powerIo = s.powerIo ∧ t.cores = [] ∧ t.regions = [] ∧ t.ports = s.ports) ∧
      ((getDie s x).tempd < 920 → exec .thermalShutdown s = .next s)

end Sys2Proof.Claim

/-- R426, R427, R428, R234, R435: power-on and its sequence, the operations of FWCTL, the loss of a domain, the thermal
shutdown and the steps of the clock. -/
def Obligations.PowerStepsComplete : Prop :=
  Sys2Proof.Claim.FwctlRuns ∧ Sys2Proof.Claim.PowerOnRunsTheSequence ∧ Sys2Proof.Claim.PowerGoesAndTheClockSteps

/-! ### Encodings (spec/03) -/

/-- R52, R54, R55, R57, R60: decoding an encoded well-formed instruction gives it back, with whatever bytes follow, for
every instruction with an encoding and every value of its operands. -/
def Obligations.EncodingRoundTrips : Prop :=
  ∀ (i : Instr) (w n : Nat) (rest : List Byte), encodeBits i = some (w, n) → wellFormed i = true →
    decode (encode i ++ rest) = .ok (i, rest)

/-- R52, R54: an accepted sequence of bytes is the encoding of the instruction it decodes to, which is well formed: no bit
of an encoding is ignored, and no two sequences stand for one instruction. -/
def Obligations.DecodingIsExact : Prop :=
  ∀ (bs rest : List Byte) (i : Instr), decode bs = .ok (i, rest) → wellFormed i = true ∧ bs = encode i ++ rest

/-- R55, R56, R57, R60, R64, R65: words written out from the encoding tables decode to the instructions they stand for;
the all-zero parcel, a reserved major opcode and a non-zero unused field are refused by name. -/
def Obligations.WordsDecode : Prop :=
  -- ADD s3, s1, s2: funct10 0, b 2, a 1, d 3, major 0x01
  decodeTableWord 32 0b0000000000_00010_00001_00011_000001_0 = some (.add 3 1 2) ∧
  -- ADDI s3, s1, −1: imm[14:0] all ones, a 1, d 3, major 0x02
  decodeTableWord 32 0b111111111111111_00001_00011_000010_0 = some (.addi 3 1 0x7FFF) ∧
  -- SRAI s3, s1, 33: imm[14:13] 2, imm[12:6] 0, imm[5:0] 33, major 0x08
  decodeTableWord 32 0b10_0000000_100001_00001_00011_001000_0 = some (.srai 3 1 33) ∧
  -- STD s2, 8(s1): imm[14:5] 0, b 2, a 1, imm[4:0] 8, major 0x1B
  decodeTableWord 32 0b0000000000_00010_00001_01000_011011_0 = some (.std 1 2 8) ∧
  -- AMOADD.D with scope 2, aq and rl: funct10 010 1 1 1 0000, b 2, a 1, d 3, major 0x28
  decodeTableWord 32 0b010_1_1_1_0000_00010_00001_00011_101000_0 = some (.amoAdd 2 true true true 3 1 2) ∧
  -- CFGRD s3, status: imm[14:12] 0, CSR 0x010, a 0, d 3, major 0x2D
  decodeTableWord 32 0b000_000000010000_00000_00011_101101_0 = some (.cfgrd 3 0x010) ∧
  -- VADD v3, v1, v2, m5 with mz: imm16 0, function 0, sa 0, mz 1, m 5, c 0, b 2, a 1, d 3, major 2
  decodeTableWord 64 0b0000000000000000_0000000000_0_1_0101_000000_000010_000001_000011_000010_01 =
    some (.vadd { d := 3, a := 1, b := 2, c := 0, sa := false, m := 5, mz := true, imm := 0 }) ∧
  -- VLD v3 from s1, hint 2: function 10 00000000, sa 1, a 1, d 3, major 0x0B
  decodeTableWord 64 0b0000000000000000_1000000000_1_0_0000_000000_000000_000001_000011_001011_01 =
    some (.vld 2 { d := 3, a := 1, b := 0, c := 0, sa := true, m := 0, mz := false, imm := 0 }) ∧
  -- a convoy header of two slots, VINT in slot 1 and VFP in slot 2
  decodeTableWord 32 0b1111_1111_1111_1111_0001_0000_000_010_11 = some (.convoyHeader 15 15 15 15 1 0 2) ∧
  decode (leBytes 4 0) = .error .allZero ∧
  decode (leBytes 4 0b0000000000_00000_00000_00000_111111_0) = .error .majorReserved ∧
  decode (leBytes 4 0b0000010101_00001_00001_00011_000001_0) = .error .fieldReserved

/-! ### Steps, memory, reset (spec/01, spec/05, spec/11) -/

/-- R53, R68, R108, R264: the parcels at the program counter are fetched, and a parcel that is poisoned traps with 0x01 as the
all-zero one does, its poison being delivered once; a step runs the instruction they decode to, after
which the rest of the machine goes on; where the model's agenda names a step of another agent, or a hart whose turn it is,
that is what the step runs (log 1). -/
def Obligations.StepRunsTheDecodedInstruction : Prop :=
  ∀ (s : State) (i : Instr) (w0 w1 : Nat) (u v : State),
    let ready : Prop := s.agenda = [] ∧ s.h.run = .running ∧ s.h.readback = [] ∧ queueBusy s.h = false ∧
      stopReady s s.cur = false ∧ interruptReady s s.cur = false ∧ s.h.arrayTrap = none ∧ s.h.replay = false
    (ready → runAcc (fetchParcel s.h.pc.toNat) s = (.ok (w0, []), u) →
      (parcelCount w0 = 1 → decodeParcels w0 0 = .ok i → step s = afterTurn (exec i (dropFetch (some i) s.h.pc.toNat u))) ∧
      (parcelCount w0 ≠ 1 → runAcc (fetchParcel ((s.h.pc.toNat + 4) % 2 ^ 64)) u = (.ok (w1, []), v) →
        decodeParcels w0 w1 = .ok i → step s = afterTurn (exec i (dropFetch (some i) s.h.pc.toNat v))) ∧
      (∀ r, parcelCount w0 = 1 → decodeParcels w0 0 = .error r → queueBusy u.h = false →
        step s = afterTurn (.next (takeTrap false 0x01 (BitVec.ofNat 64 w0) u.h.pc 32 (dropFetch none s.h.pc.toNat u))))) ∧
    (∀ gs, ready → runAcc (fetchParcel s.h.pc.toNat) s = (.ok (0, gs), u) → gs ≠ [] → queueBusy u.h = false →
      let t := takeTrap false 0x01 0 u.h.pc 32 (dropFetch none s.h.pc.toNat u)
      step s = afterTurn (.next (if t.h.stalled then t else deliverPoison gs none none t))) ∧
    (∀ l r, s.agenda = .event i l :: r → encodeBits i = none → step s = exec i { s with agenda := r, args := l }) ∧
    (∀ n r, s.agenda = .hart n :: r → step s = hartTurn (switchTo n { s with agenda := r }))

/-- Every instruction and every step, from every state, has a next state: it takes its effect, a trap, or waits; none stops
the machine. -/
def Obligations.NoInstructionStops : Prop := ∀ (i : Instr) (s : State), ∃ t, exec i s = .next t

/-- The memory keeps its canonical form, addresses strictly rising and no byte listed that reads as an unlisted one:
whatever a step does, from whatever state. -/
def Obligations.MemoryStaysCanonical : Prop :=
  ∀ s t : State, Memory.wf s.mem = true → step s = .next t → Memory.wf t.mem = true

/-- R2: a byte written reads back and every other byte stays; n bytes written at an address read back as the low n bytes
of the number, lowest first, and every byte outside them stays; and memories in canonical form that read the same are the
same. -/
def Obligations.MemoryHoldsWhatIsWritten : Prop :=
  ∀ (m m' : List Host.Cell), Memory.wf m = true → Memory.wf m' = true →
    (∀ a b, memGet (memSet m a b) a = b ∧ ∀ c, c ≠ a → memGet (memSet m a b) c = memGet m c) ∧
    (∀ a n v, memRead (memWrite m a n v) a n = v % 2 ^ (8 * n) ∧
      ∀ c, c < a ∨ a + n ≤ c → memGet (memWrite m a n v) c = memGet m c) ∧
    ((∀ a, memGet m a = memGet m' a) → m = m')

/-- R98: s0 reads as zero and ignores writes. -/
def Obligations.RegisterZeroReadsZero : Prop :=
  ∀ (s : State) (v : Word), readS s 0 = 0 ∧ writeS 0 v s = s

/-- R202, R223, R376, R389, R426: at reset the registers hold the values the spec gives them, memory is empty and in
canonical form, nothing is in flight, and power-on comes next. Where the spec gives no value the log does (log 3). -/
def Obligations.ResetState : Prop :=
  let s := State.reset
  Memory.wf s.mem = true ∧ s.mem = [] ∧ s.h.status = 0x41 ∧ s.h.trapqpos = 32 ∧ s.h.waityield = 0x100000 ∧
  s.h.waitlim = 0 ∧ s.h.fflags = 0 ∧ s.h.frm = 0 ∧ s.h.errctl = 0 ∧ (∀ d, (getDie s d).leasewin = 65536) ∧
  (∀ d, (getDie s d).snapEn = 0) ∧ s.pwrlim = 4200 ∧ s.hosterr = 0 ∧ s.snapId = 0 ∧ s.regionTable = [] ∧
  s.barriers = [] ∧ s.net = [] ∧ s.remotes = [] ∧ s.agenda = [.event .powerOn [0, 0]]
end

