-- ==== Sys2Proof/Laws/Acc.lean ====
section
/-! SUPPORT. How an access runs: each of its building blocks once, so that an access comes apart without unfolding the
monad. -/

namespace Sys2Proof.Machine

@[simp] theorem runAcc_pure {α : Type} (x : α) (s : State) : runAcc (pure x) s = (.ok x, s) := rfl

/-- A sequence of two accesses: the second runs where the first completed. -/
theorem runAcc_bind {α β : Type} (m : Acc α) (f : α → Acc β) (s : State) :
    runAcc (m >>= f) s = match runAcc m s with
      | (.ok x, t) => runAcc (f x) t
      | (.error e, t) => (.error e, t) := by
  simp only [runAcc, ExceptT.run_bind, StateT.run_bind]
  cases h : (StateT.run (ExceptT.run m) s) with
  | mk r t => cases r <;> simp <;> rfl

@[simp] theorem runAcc_throw {α : Type} (e : Stop) (s : State) : runAcc (throw e : Acc α) s = (.error e, s) := rfl

@[simp] theorem runAcc_get (s : State) : runAcc (get : Acc State) s = (.ok s, s) := rfl

@[simp] theorem runAcc_set (t s : State) : runAcc (set t : Acc Unit) s = (.ok (), t) := rfl

@[simp] theorem runAcc_modify (f : State → State) (s : State) : runAcc (modify f : Acc Unit) s = (.ok (), f s) := rfl

/-- A request that is granted completes; one that is not waits, in the state it left. -/
theorem runAcc_demand (f : State → State × Bool) (s : State) :
    runAcc (demand f) s = (if (f s).2 then .ok () else .error .wait, (f s).1) := by
  unfold demand
  simp only [runAcc_bind, runAcc_get]
  cases h : f s with
  | mk t ok => cases ok <;> rfl

/-- What a sequence that completes did: both parts completed. -/
theorem runAcc_bind_ok {α β : Type} {m : Acc α} {f : α → Acc β} {s u : State} {y : β}
    (h : runAcc (m >>= f) s = (.ok y, u)) : ∃ x t, runAcc m s = (.ok x, t) ∧ runAcc (f x) t = (.ok y, u) := by
  rw [runAcc_bind] at h
  split at h
  · rename_i x t hm; exact ⟨x, t, hm, h⟩
  · simp at h

end Sys2Proof.Machine
end

