-- ==== Sys2Proof/Laws/Memory.lean ====
section
/-! SUPPORT. What every operation over memory and over tables keeps: the canonical form of memory, and the entries
of the other keys of a table. -/

namespace Sys2Proof.Machine

/-! ## The canonical form of memory -/

theorem wfFrom_of_le {lo lo' : Nat} {m : List Host.Cell} (hle : lo ≤ lo') (h : Memory.wfFrom lo' m = true) :
    Memory.wfFrom lo m = true := by
  cases m with
  | nil => rfl
  | cons p m =>
    simp only [Memory.wfFrom, Bool.and_eq_true, decide_eq_true_eq] at h ⊢
    exact ⟨⟨le_trans hle h.1.1, h.1.2⟩, h.2⟩

theorem memSet_wfFrom {lo : Nat} (m : List Host.Cell) (a : Nat) (b : Byte) (ha : lo ≤ a)
    (h : Memory.wfFrom lo m = true) : Memory.wfFrom lo (memSet m a b) = true := by
  induction m generalizing lo with
  | nil => unfold memSet; split <;> simp_all [Memory.wfFrom, unlistedByte]
  | cons p m ih =>
    obtain ⟨a', b'⟩ := p
    simp only [Memory.wfFrom, Bool.and_eq_true, decide_eq_true_eq] at h
    obtain ⟨⟨hlo, hb'⟩, hm⟩ := h
    rcases lt_trichotomy a' a with hlt | rfl | hgt
    · simp only [memSet, if_neg (Nat.ne_of_lt hlt), if_neg (Nat.not_lt_of_gt hlt), Memory.wfFrom, Bool.and_eq_true,
        decide_eq_true_eq]
      exact ⟨⟨hlo, hb'⟩, ih hlt hm⟩
    · by_cases hb : b = unlistedByte
      · simpa [memSet, hb] using wfFrom_of_le (Nat.le_succ_of_le hlo) hm
      · simp only [memSet, hb, if_true, if_false, Memory.wfFrom, Bool.and_eq_true, decide_eq_true_eq, bne_iff_ne, ne_eq]
        exact ⟨⟨hlo, hb⟩, hm⟩
    · by_cases hb : b = unlistedByte
      · simpa [memSet, Nat.ne_of_gt hgt, hgt, hb, Memory.wfFrom, hlo, hm] using hb'
      · have hb0 : b ≠ 0 := hb
        simp_all [memSet, Nat.ne_of_gt hgt, Memory.wfFrom, unlistedByte]

/-- One byte written keeps the canonical form. -/
theorem memSet_wf (m : List Host.Cell) (a : Nat) (b : Byte) (h : Memory.wf m = true) : Memory.wf (memSet m a b) = true :=
  memSet_wfFrom m a b (Nat.zero_le a) h

/-- n bytes written keep the canonical form. -/
theorem memWrite_wf (n : Nat) (m : List Host.Cell) (a v : Nat) (h : Memory.wf m = true) :
    Memory.wf (memWrite m a n v) = true := by
  induction n generalizing m a v with
  | zero => exact h
  | succ n ih => exact ih _ _ _ (memSet_wf _ _ _ h)

/-- A masked write keeps the canonical form. -/
theorem memWriteMasked_wf (n : Nat) (m : List Host.Cell) (a v mask : Nat) (h : Memory.wf m = true) :
    Memory.wf (memWriteMasked m a n v mask) = true := by
  induction n generalizing m a v mask with
  | zero => exact h
  | succ n ih =>
    refine ih _ _ _ _ ?_
    split
    · exact memSet_wf _ _ _ h
    · exact h

/-- A block of bytes written keeps the canonical form. -/
theorem foldl_memSet_wf {α : Type} (at0 : α → Nat) (val : α → Byte) (l : List α) (m : List Host.Cell)
    (h : Memory.wf m = true) : Memory.wf (l.foldl (fun m x => memSet m (at0 x) (val x)) m) = true := by
  induction l generalizing m with
  | nil => exact h
  | cons x l ih => exact ih _ (memSet_wf _ _ _ h)

/-- Leaving bytes out keeps the canonical form. -/
theorem filter_wfFrom {lo : Nat} (p : Host.Cell → Bool) (m : List Host.Cell) (h : Memory.wfFrom lo m = true) :
    Memory.wfFrom lo (m.filter p) = true := by
  induction m generalizing lo with
  | nil => rfl
  | cons c m ih =>
    obtain ⟨a, b⟩ := c
    simp only [Memory.wfFrom, Bool.and_eq_true, decide_eq_true_eq] at h
    rw [List.filter_cons]
    split
    · simp only [Memory.wfFrom, Bool.and_eq_true, decide_eq_true_eq]
      exact ⟨h.1, ih h.2⟩
    · exact wfFrom_of_le (Nat.le_succ_of_le h.1.1) (ih h.2)

theorem filter_wf (p : Host.Cell → Bool) (m : List Host.Cell) (h : Memory.wf m = true) : Memory.wf (m.filter p) = true :=
  filter_wfFrom p m h

theorem memBlock_wf (m : List Host.Cell) (a n x : Nat) (h : Memory.wf m = true) : Memory.wf (memBlock m a n x) = true :=
  foldl_memSet_wf _ _ _ _ (filter_wf _ _ h)

/-- The memory after reset lists nothing. -/
theorem reset_wf : Memory.wf State.reset.mem = true := rfl

/-! ## Operations of the arrays -/

@[simp] theorem setPoison_keeps_mem (g : Nat) (s : State) : (setPoison g s).mem = s.mem := rfl

theorem postErr_mem (d cls unit place syndrome : Nat) (element lane : Option Nat) (s : State) :
    (postErr d cls unit place syndrome element lane s).mem = s.mem := by
  unfold postErr raiseIrq setHart
  dsimp only
  (repeat' split) <;> rfl

theorem retireRow_mem (key : Nat) (s : State) : (retireRow key s).mem = s.mem := by
  unfold retireRow
  dsimp only
  split
  · rfl
  · rw [postErr_mem]; rfl

theorem scoreRow_mem (key base : Nat) (s : State) : (scoreRow key base s).mem = s.mem := by
  unfold scoreRow
  dsimp only
  split
  · rw [retireRow_mem]
  · rfl

theorem readGranule_mem (g : Nat) (s : State) : (readGranule g s).mem = s.mem := by
  unfold readGranule
  split
  · rw [correctGranule, scoreRow_mem, postErr_mem]; rfl
  · split
    · exact scoreRow_mem _ _ s
    · rfl

theorem granuleWritten_mem (g mask : Nat) (s : State) : (granuleWritten g mask s).mem = s.mem := by
  unfold granuleWritten
  split
  · rfl
  · split
    · rfl
    · dsimp only
      split
      · rw [setPoison_keeps_mem, poisonWritten, postErr_mem]; exact readGranule_mem g s
      · exact readGranule_mem g s

/-- A fold of steps that keep memory keeps memory. -/
theorem foldl_mem {α : Type} (f : State → α → State) (hf : ∀ s x, (f s x).mem = s.mem) (l : List α) (s : State) :
    (l.foldl f s).mem = s.mem := by
  induction l generalizing s with
  | nil => rfl
  | cons x l ih => rw [List.foldl_cons, ih, hf]

/-- A write into the arrays changes the bytes of its unit under the mask and nothing else of memory. -/
theorem arrayWrite_mem (lu data mask : Nat) (s : State) :
    (arrayWrite lu data mask s).mem = memWriteMasked s.mem (luBase lu) (luSize lu) data mask := by
  unfold arrayWrite
  rw [foldl_mem _ (fun s i => granuleWritten_mem _ _ s)]

theorem arrayStore_mem (lu : Nat) (l : LineData) (s : State) :
    (arrayStore lu l s).mem = memWriteMasked s.mem (luBase lu) (luSize lu) l.data l.dirty := by
  unfold arrayStore
  rw [foldl_mem, arrayWrite_mem]
  intro s i
  split <;> rfl

/-! ## Tables -/

theorem tget_tset_self {α : Type} (t : Table α) (k : Nat) (v : α) : tget (tset t k v) k = some v := by
  induction t with
  | nil => simp [tset, tget]
  | cons p t ih =>
    obtain ⟨k', v'⟩ := p
    by_cases h1 : k' = k
    · simp [tset, tget, h1]
    · by_cases h2 : k < k'
      · simp [tset, tget, h1, h2]
      · simp [tset, tget, h1, h2, ih]

theorem tget_tset_of_ne {α : Type} (t : Table α) (k j : Nat) (v : α) (h : j ≠ k) : tget (tset t k v) j = tget t j := by
  induction t with
  | nil => simp [tset, tget, Ne.symm h]
  | cons p t ih =>
    obtain ⟨k', v'⟩ := p
    by_cases h1 : k' = k
    · subst h1; simp [tset, tget, Ne.symm h]
    · by_cases h2 : k < k'
      · simp only [tset, h1, h2, if_false, if_true, tget, if_neg (Ne.symm h)]
        by_cases h3 : j < k
        · rw [if_pos h3, if_neg (by omega), if_pos (by omega)]
        · rw [if_neg h3]
      · simp [tset, tget, h1, h2, ih]

@[simp] theorem tgetD_tset_self {α : Type} (t : Table α) (k : Nat) (v d : α) : tgetD (tset t k v) k d = v := by
  simp [tgetD, tget_tset_self]

theorem tgetD_tset_of_ne {α : Type} (t : Table α) (k j : Nat) (v d : α) (h : j ≠ k) :
    tgetD (tset t k v) j d = tgetD t j d := by
  simp [tgetD, tget_tset_of_ne t k j v h]

end Sys2Proof.Machine
end

