-- ==== Sys2Proof/Laws/State.lean ====
section
/-! SUPPORT. One lemma for each field and each named update of the state: what the update leaves as it was. -/

set_option Elab.async false

namespace Sys2Proof.Machine

/-! ## What stands in a table by number -/

@[simp] theorem setCore_agenda (c : Nat) (k : Core) (s : State) : (setCore c k s).agenda = s.agenda := rfl
@[simp] theorem setCore_args (c : Nat) (k : Core) (s : State) : (setCore c k s).args = s.args := rfl
@[simp] theorem setCore_cur (c : Nat) (k : Core) (s : State) : (setCore c k s).cur = s.cur := rfl
@[simp] theorem setCore_h (c : Nat) (k : Core) (s : State) : (setCore c k s).h = s.h := rfl
@[simp] theorem setCore_others (c : Nat) (k : Core) (s : State) : (setCore c k s).others = s.others := rfl
@[simp] theorem setCore_dies (c : Nat) (k : Core) (s : State) : (setCore c k s).dies = s.dies := rfl
@[simp] theorem setCore_mem (c : Nat) (k : Core) (s : State) : (setCore c k s).mem = s.mem := rfl
@[simp] theorem setCore_poison (c : Nat) (k : Core) (s : State) : (setCore c k s).poison = s.poison := rfl
@[simp] theorem setCore_correctable (c : Nat) (k : Core) (s : State) : (setCore c k s).correctable = s.correctable := rfl
@[simp] theorem setCore_detected (c : Nat) (k : Core) (s : State) : (setCore c k s).detected = s.detected := rfl
@[simp] theorem setCore_l1 (c : Nat) (k : Core) (s : State) : (setCore c k s).l1 = s.l1 := rfl
@[simp] theorem setCore_l2 (c : Nat) (k : Core) (s : State) : (setCore c k s).l2 = s.l2 := rfl
@[simp] theorem setCore_dir (c : Nat) (k : Core) (s : State) : (setCore c k s).dir = s.dir := rfl
@[simp] theorem setCore_fills (c : Nat) (k : Core) (s : State) : (setCore c k s).fills = s.fills := rfl
@[simp] theorem setCore_net (c : Nat) (k : Core) (s : State) : (setCore c k s).net = s.net := rfl
@[simp] theorem setCore_settles (c : Nat) (k : Core) (s : State) : (setCore c k s).settles = s.settles := rfl
@[simp] theorem setCore_discards (c : Nat) (k : Core) (s : State) : (setCore c k s).discards = s.discards := rfl
@[simp] theorem setCore_tlbInvs (c : Nat) (k : Core) (s : State) : (setCore c k s).tlbInvs = s.tlbInvs := rfl
@[simp] theorem setCore_regionTable (c : Nat) (k : Core) (s : State) : (setCore c k s).regionTable = s.regionTable := rfl
@[simp] theorem setCore_ipRunning (c : Nat) (k : Core) (s : State) : (setCore c k s).ipRunning = s.ipRunning := rfl
@[simp] theorem setCore_tickets (c : Nat) (k : Core) (s : State) : (setCore c k s).tickets = s.tickets := rfl
@[simp] theorem setCore_barriers (c : Nat) (k : Core) (s : State) : (setCore c k s).barriers = s.barriers := rfl
@[simp] theorem setCore_errCounters (c : Nat) (k : Core) (s : State) : (setCore c k s).errCounters = s.errCounters := rfl
@[simp] theorem setCore_snapId (c : Nat) (k : Core) (s : State) : (setCore c k s).snapId = s.snapId := rfl
@[simp] theorem setCore_snapSel (c : Nat) (k : Core) (s : State) : (setCore c k s).snapSel = s.snapSel := rfl
@[simp] theorem setCore_snapPending (c : Nat) (k : Core) (s : State) : (setCore c k s).snapPending = s.snapPending := rfl
@[simp] theorem setCore_snapLow (c : Nat) (k : Core) (s : State) : (setCore c k s).snapLow = s.snapLow := rfl
@[simp] theorem setCore_snapData (c : Nat) (k : Core) (s : State) : (setCore c k s).snapData = s.snapData := rfl
@[simp] theorem setCore_hosterr (c : Nat) (k : Core) (s : State) : (setCore c k s).hosterr = s.hosterr := rfl
@[simp] theorem setCore_pwrlim (c : Nat) (k : Core) (s : State) : (setCore c k s).pwrlim = s.pwrlim := rfl
@[simp] theorem setCore_pwrDies (c : Nat) (k : Core) (s : State) : (setCore c k s).pwrDies = s.pwrDies := rfl
@[simp] theorem setCore_pwrStacks (c : Nat) (k : Core) (s : State) : (setCore c k s).pwrStacks = s.pwrStacks := rfl
@[simp] theorem setCore_pwrIo (c : Nat) (k : Core) (s : State) : (setCore c k s).pwrIo = s.pwrIo := rfl
@[simp] theorem setCore_clock (c : Nat) (k : Core) (s : State) : (setCore c k s).clock = s.clock := rfl
@[simp] theorem setCore_bootPhase (c : Nat) (k : Core) (s : State) : (setCore c k s).bootPhase = s.bootPhase := rfl
@[simp] theorem setCore_bootReason (c : Nat) (k : Core) (s : State) : (setCore c k s).bootReason = s.bootReason := rfl
@[simp] theorem setCore_bootUnit (c : Nat) (k : Core) (s : State) : (setCore c k s).bootUnit = s.bootUnit := rfl
@[simp] theorem setCore_bootFails (c : Nat) (k : Core) (s : State) : (setCore c k s).bootFails = s.bootFails := rfl
@[simp] theorem setCore_fwOp (c : Nat) (k : Core) (s : State) : (setCore c k s).fwOp = s.fwOp := rfl
@[simp] theorem setCore_fwRun (c : Nat) (k : Core) (s : State) : (setCore c k s).fwRun = s.fwRun := rfl
@[simp] theorem setCore_fwaddr (c : Nat) (k : Core) (s : State) : (setCore c k s).fwaddr = s.fwaddr := rfl
@[simp] theorem setCore_fwBusy (c : Nat) (k : Core) (s : State) : (setCore c k s).fwBusy = s.fwBusy := rfl
@[simp] theorem setCore_fwResult (c : Nat) (k : Core) (s : State) : (setCore c k s).fwResult = s.fwResult := rfl
@[simp] theorem setCore_fwRecovery (c : Nat) (k : Core) (s : State) : (setCore c k s).fwRecovery = s.fwRecovery := rfl
@[simp] theorem setCore_bar2off (c : Nat) (k : Core) (s : State) : (setCore c k s).bar2off = s.bar2off := rfl
@[simp] theorem setCore_bar2size (c : Nat) (k : Core) (s : State) : (setCore c k s).bar2size = s.bar2size := rfl
@[simp] theorem setCore_fabid (c : Nat) (k : Core) (s : State) : (setCore c k s).fabid = s.fabid := rfl
@[simp] theorem setCore_recov (c : Nat) (k : Core) (s : State) : (setCore c k s).recov = s.recov := rfl
@[simp] theorem setCore_enrol (c : Nat) (k : Core) (s : State) : (setCore c k s).enrol = s.enrol := rfl
@[simp] theorem setCore_flash (c : Nat) (k : Core) (s : State) : (setCore c k s).flash = s.flash := rfl
@[simp] theorem setCore_ports (c : Nat) (k : Core) (s : State) : (setCore c k s).ports = s.ports := rfl
@[simp] theorem setCore_remotes (c : Nat) (k : Core) (s : State) : (setCore c k s).remotes = s.remotes := rfl
@[simp] theorem setCore_nextRemote (c : Nat) (k : Core) (s : State) : (setCore c k s).nextRemote = s.nextRemote := rfl
@[simp] theorem setCore_bridge (c : Nat) (k : Core) (s : State) : (setCore c k s).bridge = s.bridge := rfl
@[simp] theorem setCore_posted (c : Nat) (k : Core) (s : State) : (setCore c k s).posted = s.posted := rfl
@[simp] theorem setCore_backInv (c : Nat) (k : Core) (s : State) : (setCore c k s).backInv = s.backInv := rfl
@[simp] theorem setCore_cxl (c : Nat) (k : Core) (s : State) : (setCore c k s).cxl = s.cxl := rfl
@[simp] theorem setCore_hostReply (c : Nat) (k : Core) (s : State) : (setCore c k s).hostReply = s.hostReply := rfl
@[simp] theorem setCore_msix (c : Nat) (k : Core) (s : State) : (setCore c k s).msix = s.msix := rfl
@[simp] theorem setCore_regions (c : Nat) (k : Core) (s : State) : (setCore c k s).regions = s.regions := rfl
@[simp] theorem setCore_tenantTargets (c : Nat) (k : Core) (s : State) : (setCore c k s).tenantTargets = s.tenantTargets := rfl
@[simp] theorem setCore_hotRows (c : Nat) (k : Core) (s : State) : (setCore c k s).hotRows = s.hotRows := rfl
@[simp] theorem setCore_retiredRows (c : Nat) (k : Core) (s : State) : (setCore c k s).retiredRows = s.retiredRows := rfl
@[simp] theorem setCore_powerStacks (c : Nat) (k : Core) (s : State) : (setCore c k s).powerStacks = s.powerStacks := rfl
@[simp] theorem setCore_powerCompute (c : Nat) (k : Core) (s : State) : (setCore c k s).powerCompute = s.powerCompute := rfl
@[simp] theorem setCore_powerIo (c : Nat) (k : Core) (s : State) : (setCore c k s).powerIo = s.powerIo := rfl
@[simp] theorem setCore_cycles (c : Nat) (k : Core) (s : State) : (setCore c k s).cycles = s.cycles := rfl
@[simp] theorem setCore_owed (c : Nat) (k : Core) (s : State) : (setCore c k s).owed = s.owed := rfl
@[simp] theorem setCore_tick (c : Nat) (k : Core) (s : State) : (setCore c k s).tick = s.tick := rfl

@[simp] theorem setDie_agenda (d : Nat) (k : Die) (s : State) : (setDie d k s).agenda = s.agenda := rfl
@[simp] theorem setDie_args (d : Nat) (k : Die) (s : State) : (setDie d k s).args = s.args := rfl
@[simp] theorem setDie_cur (d : Nat) (k : Die) (s : State) : (setDie d k s).cur = s.cur := rfl
@[simp] theorem setDie_h (d : Nat) (k : Die) (s : State) : (setDie d k s).h = s.h := rfl
@[simp] theorem setDie_others (d : Nat) (k : Die) (s : State) : (setDie d k s).others = s.others := rfl
@[simp] theorem setDie_cores (d : Nat) (k : Die) (s : State) : (setDie d k s).cores = s.cores := rfl
@[simp] theorem setDie_mem (d : Nat) (k : Die) (s : State) : (setDie d k s).mem = s.mem := rfl
@[simp] theorem setDie_poison (d : Nat) (k : Die) (s : State) : (setDie d k s).poison = s.poison := rfl
@[simp] theorem setDie_correctable (d : Nat) (k : Die) (s : State) : (setDie d k s).correctable = s.correctable := rfl
@[simp] theorem setDie_detected (d : Nat) (k : Die) (s : State) : (setDie d k s).detected = s.detected := rfl
@[simp] theorem setDie_l1 (d : Nat) (k : Die) (s : State) : (setDie d k s).l1 = s.l1 := rfl
@[simp] theorem setDie_l2 (d : Nat) (k : Die) (s : State) : (setDie d k s).l2 = s.l2 := rfl
@[simp] theorem setDie_dir (d : Nat) (k : Die) (s : State) : (setDie d k s).dir = s.dir := rfl
@[simp] theorem setDie_fills (d : Nat) (k : Die) (s : State) : (setDie d k s).fills = s.fills := rfl
@[simp] theorem setDie_net (d : Nat) (k : Die) (s : State) : (setDie d k s).net = s.net := rfl
@[simp] theorem setDie_settles (d : Nat) (k : Die) (s : State) : (setDie d k s).settles = s.settles := rfl
@[simp] theorem setDie_discards (d : Nat) (k : Die) (s : State) : (setDie d k s).discards = s.discards := rfl
@[simp] theorem setDie_tlbInvs (d : Nat) (k : Die) (s : State) : (setDie d k s).tlbInvs = s.tlbInvs := rfl
@[simp] theorem setDie_regionTable (d : Nat) (k : Die) (s : State) : (setDie d k s).regionTable = s.regionTable := rfl
@[simp] theorem setDie_ipRunning (d : Nat) (k : Die) (s : State) : (setDie d k s).ipRunning = s.ipRunning := rfl
@[simp] theorem setDie_tickets (d : Nat) (k : Die) (s : State) : (setDie d k s).tickets = s.tickets := rfl
@[simp] theorem setDie_barriers (d : Nat) (k : Die) (s : State) : (setDie d k s).barriers = s.barriers := rfl
@[simp] theorem setDie_errCounters (d : Nat) (k : Die) (s : State) : (setDie d k s).errCounters = s.errCounters := rfl
@[simp] theorem setDie_snapId (d : Nat) (k : Die) (s : State) : (setDie d k s).snapId = s.snapId := rfl
@[simp] theorem setDie_snapSel (d : Nat) (k : Die) (s : State) : (setDie d k s).snapSel = s.snapSel := rfl
@[simp] theorem setDie_snapPending (d : Nat) (k : Die) (s : State) : (setDie d k s).snapPending = s.snapPending := rfl
@[simp] theorem setDie_snapLow (d : Nat) (k : Die) (s : State) : (setDie d k s).snapLow = s.snapLow := rfl
@[simp] theorem setDie_snapData (d : Nat) (k : Die) (s : State) : (setDie d k s).snapData = s.snapData := rfl
@[simp] theorem setDie_hosterr (d : Nat) (k : Die) (s : State) : (setDie d k s).hosterr = s.hosterr := rfl
@[simp] theorem setDie_pwrlim (d : Nat) (k : Die) (s : State) : (setDie d k s).pwrlim = s.pwrlim := rfl
@[simp] theorem setDie_pwrDies (d : Nat) (k : Die) (s : State) : (setDie d k s).pwrDies = s.pwrDies := rfl
@[simp] theorem setDie_pwrStacks (d : Nat) (k : Die) (s : State) : (setDie d k s).pwrStacks = s.pwrStacks := rfl
@[simp] theorem setDie_pwrIo (d : Nat) (k : Die) (s : State) : (setDie d k s).pwrIo = s.pwrIo := rfl
@[simp] theorem setDie_clock (d : Nat) (k : Die) (s : State) : (setDie d k s).clock = s.clock := rfl
@[simp] theorem setDie_bootPhase (d : Nat) (k : Die) (s : State) : (setDie d k s).bootPhase = s.bootPhase := rfl
@[simp] theorem setDie_bootReason (d : Nat) (k : Die) (s : State) : (setDie d k s).bootReason = s.bootReason := rfl
@[simp] theorem setDie_bootUnit (d : Nat) (k : Die) (s : State) : (setDie d k s).bootUnit = s.bootUnit := rfl
@[simp] theorem setDie_bootFails (d : Nat) (k : Die) (s : State) : (setDie d k s).bootFails = s.bootFails := rfl
@[simp] theorem setDie_fwOp (d : Nat) (k : Die) (s : State) : (setDie d k s).fwOp = s.fwOp := rfl
@[simp] theorem setDie_fwRun (d : Nat) (k : Die) (s : State) : (setDie d k s).fwRun = s.fwRun := rfl
@[simp] theorem setDie_fwaddr (d : Nat) (k : Die) (s : State) : (setDie d k s).fwaddr = s.fwaddr := rfl
@[simp] theorem setDie_fwBusy (d : Nat) (k : Die) (s : State) : (setDie d k s).fwBusy = s.fwBusy := rfl
@[simp] theorem setDie_fwResult (d : Nat) (k : Die) (s : State) : (setDie d k s).fwResult = s.fwResult := rfl
@[simp] theorem setDie_fwRecovery (d : Nat) (k : Die) (s : State) : (setDie d k s).fwRecovery = s.fwRecovery := rfl
@[simp] theorem setDie_bar2off (d : Nat) (k : Die) (s : State) : (setDie d k s).bar2off = s.bar2off := rfl
@[simp] theorem setDie_bar2size (d : Nat) (k : Die) (s : State) : (setDie d k s).bar2size = s.bar2size := rfl
@[simp] theorem setDie_fabid (d : Nat) (k : Die) (s : State) : (setDie d k s).fabid = s.fabid := rfl
@[simp] theorem setDie_recov (d : Nat) (k : Die) (s : State) : (setDie d k s).recov = s.recov := rfl
@[simp] theorem setDie_enrol (d : Nat) (k : Die) (s : State) : (setDie d k s).enrol = s.enrol := rfl
@[simp] theorem setDie_flash (d : Nat) (k : Die) (s : State) : (setDie d k s).flash = s.flash := rfl
@[simp] theorem setDie_ports (d : Nat) (k : Die) (s : State) : (setDie d k s).ports = s.ports := rfl
@[simp] theorem setDie_remotes (d : Nat) (k : Die) (s : State) : (setDie d k s).remotes = s.remotes := rfl
@[simp] theorem setDie_nextRemote (d : Nat) (k : Die) (s : State) : (setDie d k s).nextRemote = s.nextRemote := rfl
@[simp] theorem setDie_bridge (d : Nat) (k : Die) (s : State) : (setDie d k s).bridge = s.bridge := rfl
@[simp] theorem setDie_posted (d : Nat) (k : Die) (s : State) : (setDie d k s).posted = s.posted := rfl
@[simp] theorem setDie_backInv (d : Nat) (k : Die) (s : State) : (setDie d k s).backInv = s.backInv := rfl
@[simp] theorem setDie_cxl (d : Nat) (k : Die) (s : State) : (setDie d k s).cxl = s.cxl := rfl
@[simp] theorem setDie_hostReply (d : Nat) (k : Die) (s : State) : (setDie d k s).hostReply = s.hostReply := rfl
@[simp] theorem setDie_msix (d : Nat) (k : Die) (s : State) : (setDie d k s).msix = s.msix := rfl
@[simp] theorem setDie_regions (d : Nat) (k : Die) (s : State) : (setDie d k s).regions = s.regions := rfl
@[simp] theorem setDie_tenantTargets (d : Nat) (k : Die) (s : State) : (setDie d k s).tenantTargets = s.tenantTargets := rfl
@[simp] theorem setDie_hotRows (d : Nat) (k : Die) (s : State) : (setDie d k s).hotRows = s.hotRows := rfl
@[simp] theorem setDie_retiredRows (d : Nat) (k : Die) (s : State) : (setDie d k s).retiredRows = s.retiredRows := rfl
@[simp] theorem setDie_powerStacks (d : Nat) (k : Die) (s : State) : (setDie d k s).powerStacks = s.powerStacks := rfl
@[simp] theorem setDie_powerCompute (d : Nat) (k : Die) (s : State) : (setDie d k s).powerCompute = s.powerCompute := rfl
@[simp] theorem setDie_powerIo (d : Nat) (k : Die) (s : State) : (setDie d k s).powerIo = s.powerIo := rfl
@[simp] theorem setDie_cycles (d : Nat) (k : Die) (s : State) : (setDie d k s).cycles = s.cycles := rfl
@[simp] theorem setDie_owed (d : Nat) (k : Die) (s : State) : (setDie d k s).owed = s.owed := rfl
@[simp] theorem setDie_tick (d : Nat) (k : Die) (s : State) : (setDie d k s).tick = s.tick := rfl

@[simp] theorem setRegion_agenda (rcb : Nat) (r : Region) (s : State) : (setRegion rcb r s).agenda = s.agenda := rfl
@[simp] theorem setRegion_args (rcb : Nat) (r : Region) (s : State) : (setRegion rcb r s).args = s.args := rfl
@[simp] theorem setRegion_cur (rcb : Nat) (r : Region) (s : State) : (setRegion rcb r s).cur = s.cur := rfl
@[simp] theorem setRegion_h (rcb : Nat) (r : Region) (s : State) : (setRegion rcb r s).h = s.h := rfl
@[simp] theorem setRegion_others (rcb : Nat) (r : Region) (s : State) : (setRegion rcb r s).others = s.others := rfl
@[simp] theorem setRegion_cores (rcb : Nat) (r : Region) (s : State) : (setRegion rcb r s).cores = s.cores := rfl
@[simp] theorem setRegion_dies (rcb : Nat) (r : Region) (s : State) : (setRegion rcb r s).dies = s.dies := rfl
@[simp] theorem setRegion_mem (rcb : Nat) (r : Region) (s : State) : (setRegion rcb r s).mem = s.mem := rfl
@[simp] theorem setRegion_poison (rcb : Nat) (r : Region) (s : State) : (setRegion rcb r s).poison = s.poison := rfl
@[simp] theorem setRegion_correctable (rcb : Nat) (r : Region) (s : State) : (setRegion rcb r s).correctable = s.correctable := rfl
@[simp] theorem setRegion_detected (rcb : Nat) (r : Region) (s : State) : (setRegion rcb r s).detected = s.detected := rfl
@[simp] theorem setRegion_l1 (rcb : Nat) (r : Region) (s : State) : (setRegion rcb r s).l1 = s.l1 := rfl
@[simp] theorem setRegion_l2 (rcb : Nat) (r : Region) (s : State) : (setRegion rcb r s).l2 = s.l2 := rfl
@[simp] theorem setRegion_dir (rcb : Nat) (r : Region) (s : State) : (setRegion rcb r s).dir = s.dir := rfl
@[simp] theorem setRegion_fills (rcb : Nat) (r : Region) (s : State) : (setRegion rcb r s).fills = s.fills := rfl
@[simp] theorem setRegion_net (rcb : Nat) (r : Region) (s : State) : (setRegion rcb r s).net = s.net := rfl
@[simp] theorem setRegion_settles (rcb : Nat) (r : Region) (s : State) : (setRegion rcb r s).settles = s.settles := rfl
@[simp] theorem setRegion_discards (rcb : Nat) (r : Region) (s : State) : (setRegion rcb r s).discards = s.discards := rfl
@[simp] theorem setRegion_tlbInvs (rcb : Nat) (r : Region) (s : State) : (setRegion rcb r s).tlbInvs = s.tlbInvs := rfl
@[simp] theorem setRegion_regionTable (rcb : Nat) (r : Region) (s : State) : (setRegion rcb r s).regionTable = s.regionTable := rfl
@[simp] theorem setRegion_ipRunning (rcb : Nat) (r : Region) (s : State) : (setRegion rcb r s).ipRunning = s.ipRunning := rfl
@[simp] theorem setRegion_tickets (rcb : Nat) (r : Region) (s : State) : (setRegion rcb r s).tickets = s.tickets := rfl
@[simp] theorem setRegion_barriers (rcb : Nat) (r : Region) (s : State) : (setRegion rcb r s).barriers = s.barriers := rfl
@[simp] theorem setRegion_errCounters (rcb : Nat) (r : Region) (s : State) : (setRegion rcb r s).errCounters = s.errCounters := rfl
@[simp] theorem setRegion_snapId (rcb : Nat) (r : Region) (s : State) : (setRegion rcb r s).snapId = s.snapId := rfl
@[simp] theorem setRegion_snapSel (rcb : Nat) (r : Region) (s : State) : (setRegion rcb r s).snapSel = s.snapSel := rfl
@[simp] theorem setRegion_snapPending (rcb : Nat) (r : Region) (s : State) : (setRegion rcb r s).snapPending = s.snapPending := rfl
@[simp] theorem setRegion_snapLow (rcb : Nat) (r : Region) (s : State) : (setRegion rcb r s).snapLow = s.snapLow := rfl
@[simp] theorem setRegion_snapData (rcb : Nat) (r : Region) (s : State) : (setRegion rcb r s).snapData = s.snapData := rfl
@[simp] theorem setRegion_hosterr (rcb : Nat) (r : Region) (s : State) : (setRegion rcb r s).hosterr = s.hosterr := rfl
@[simp] theorem setRegion_pwrlim (rcb : Nat) (r : Region) (s : State) : (setRegion rcb r s).pwrlim = s.pwrlim := rfl
@[simp] theorem setRegion_pwrDies (rcb : Nat) (r : Region) (s : State) : (setRegion rcb r s).pwrDies = s.pwrDies := rfl
@[simp] theorem setRegion_pwrStacks (rcb : Nat) (r : Region) (s : State) : (setRegion rcb r s).pwrStacks = s.pwrStacks := rfl
@[simp] theorem setRegion_pwrIo (rcb : Nat) (r : Region) (s : State) : (setRegion rcb r s).pwrIo = s.pwrIo := rfl
@[simp] theorem setRegion_clock (rcb : Nat) (r : Region) (s : State) : (setRegion rcb r s).clock = s.clock := rfl
@[simp] theorem setRegion_bootPhase (rcb : Nat) (r : Region) (s : State) : (setRegion rcb r s).bootPhase = s.bootPhase := rfl
@[simp] theorem setRegion_bootReason (rcb : Nat) (r : Region) (s : State) : (setRegion rcb r s).bootReason = s.bootReason := rfl
@[simp] theorem setRegion_bootUnit (rcb : Nat) (r : Region) (s : State) : (setRegion rcb r s).bootUnit = s.bootUnit := rfl
@[simp] theorem setRegion_bootFails (rcb : Nat) (r : Region) (s : State) : (setRegion rcb r s).bootFails = s.bootFails := rfl
@[simp] theorem setRegion_fwOp (rcb : Nat) (r : Region) (s : State) : (setRegion rcb r s).fwOp = s.fwOp := rfl
@[simp] theorem setRegion_fwRun (rcb : Nat) (r : Region) (s : State) : (setRegion rcb r s).fwRun = s.fwRun := rfl
@[simp] theorem setRegion_fwaddr (rcb : Nat) (r : Region) (s : State) : (setRegion rcb r s).fwaddr = s.fwaddr := rfl
@[simp] theorem setRegion_fwBusy (rcb : Nat) (r : Region) (s : State) : (setRegion rcb r s).fwBusy = s.fwBusy := rfl
@[simp] theorem setRegion_fwResult (rcb : Nat) (r : Region) (s : State) : (setRegion rcb r s).fwResult = s.fwResult := rfl
@[simp] theorem setRegion_fwRecovery (rcb : Nat) (r : Region) (s : State) : (setRegion rcb r s).fwRecovery = s.fwRecovery := rfl
@[simp] theorem setRegion_bar2off (rcb : Nat) (r : Region) (s : State) : (setRegion rcb r s).bar2off = s.bar2off := rfl
@[simp] theorem setRegion_bar2size (rcb : Nat) (r : Region) (s : State) : (setRegion rcb r s).bar2size = s.bar2size := rfl
@[simp] theorem setRegion_fabid (rcb : Nat) (r : Region) (s : State) : (setRegion rcb r s).fabid = s.fabid := rfl
@[simp] theorem setRegion_recov (rcb : Nat) (r : Region) (s : State) : (setRegion rcb r s).recov = s.recov := rfl
@[simp] theorem setRegion_enrol (rcb : Nat) (r : Region) (s : State) : (setRegion rcb r s).enrol = s.enrol := rfl
@[simp] theorem setRegion_flash (rcb : Nat) (r : Region) (s : State) : (setRegion rcb r s).flash = s.flash := rfl
@[simp] theorem setRegion_ports (rcb : Nat) (r : Region) (s : State) : (setRegion rcb r s).ports = s.ports := rfl
@[simp] theorem setRegion_remotes (rcb : Nat) (r : Region) (s : State) : (setRegion rcb r s).remotes = s.remotes := rfl
@[simp] theorem setRegion_nextRemote (rcb : Nat) (r : Region) (s : State) : (setRegion rcb r s).nextRemote = s.nextRemote := rfl
@[simp] theorem setRegion_bridge (rcb : Nat) (r : Region) (s : State) : (setRegion rcb r s).bridge = s.bridge := rfl
@[simp] theorem setRegion_posted (rcb : Nat) (r : Region) (s : State) : (setRegion rcb r s).posted = s.posted := rfl
@[simp] theorem setRegion_backInv (rcb : Nat) (r : Region) (s : State) : (setRegion rcb r s).backInv = s.backInv := rfl
@[simp] theorem setRegion_cxl (rcb : Nat) (r : Region) (s : State) : (setRegion rcb r s).cxl = s.cxl := rfl
@[simp] theorem setRegion_hostReply (rcb : Nat) (r : Region) (s : State) : (setRegion rcb r s).hostReply = s.hostReply := rfl
@[simp] theorem setRegion_msix (rcb : Nat) (r : Region) (s : State) : (setRegion rcb r s).msix = s.msix := rfl
@[simp] theorem setRegion_tenantTargets (rcb : Nat) (r : Region) (s : State) : (setRegion rcb r s).tenantTargets = s.tenantTargets := rfl
@[simp] theorem setRegion_hotRows (rcb : Nat) (r : Region) (s : State) : (setRegion rcb r s).hotRows = s.hotRows := rfl
@[simp] theorem setRegion_retiredRows (rcb : Nat) (r : Region) (s : State) : (setRegion rcb r s).retiredRows = s.retiredRows := rfl
@[simp] theorem setRegion_powerStacks (rcb : Nat) (r : Region) (s : State) : (setRegion rcb r s).powerStacks = s.powerStacks := rfl
@[simp] theorem setRegion_powerCompute (rcb : Nat) (r : Region) (s : State) : (setRegion rcb r s).powerCompute = s.powerCompute := rfl
@[simp] theorem setRegion_powerIo (rcb : Nat) (r : Region) (s : State) : (setRegion rcb r s).powerIo = s.powerIo := rfl
@[simp] theorem setRegion_cycles (rcb : Nat) (r : Region) (s : State) : (setRegion rcb r s).cycles = s.cycles := rfl
@[simp] theorem setRegion_owed (rcb : Nat) (r : Region) (s : State) : (setRegion rcb r s).owed = s.owed := rfl
@[simp] theorem setRegion_tick (rcb : Nat) (r : Region) (s : State) : (setRegion rcb r s).tick = s.tick := rfl

@[simp] theorem setPort_agenda (p : Nat) (k : Port) (s : State) : (setPort p k s).agenda = s.agenda := rfl
@[simp] theorem setPort_args (p : Nat) (k : Port) (s : State) : (setPort p k s).args = s.args := rfl
@[simp] theorem setPort_cur (p : Nat) (k : Port) (s : State) : (setPort p k s).cur = s.cur := rfl
@[simp] theorem setPort_h (p : Nat) (k : Port) (s : State) : (setPort p k s).h = s.h := rfl
@[simp] theorem setPort_others (p : Nat) (k : Port) (s : State) : (setPort p k s).others = s.others := rfl
@[simp] theorem setPort_cores (p : Nat) (k : Port) (s : State) : (setPort p k s).cores = s.cores := rfl
@[simp] theorem setPort_dies (p : Nat) (k : Port) (s : State) : (setPort p k s).dies = s.dies := rfl
@[simp] theorem setPort_mem (p : Nat) (k : Port) (s : State) : (setPort p k s).mem = s.mem := rfl
@[simp] theorem setPort_poison (p : Nat) (k : Port) (s : State) : (setPort p k s).poison = s.poison := rfl
@[simp] theorem setPort_correctable (p : Nat) (k : Port) (s : State) : (setPort p k s).correctable = s.correctable := rfl
@[simp] theorem setPort_detected (p : Nat) (k : Port) (s : State) : (setPort p k s).detected = s.detected := rfl
@[simp] theorem setPort_l1 (p : Nat) (k : Port) (s : State) : (setPort p k s).l1 = s.l1 := rfl
@[simp] theorem setPort_l2 (p : Nat) (k : Port) (s : State) : (setPort p k s).l2 = s.l2 := rfl
@[simp] theorem setPort_dir (p : Nat) (k : Port) (s : State) : (setPort p k s).dir = s.dir := rfl
@[simp] theorem setPort_fills (p : Nat) (k : Port) (s : State) : (setPort p k s).fills = s.fills := rfl
@[simp] theorem setPort_net (p : Nat) (k : Port) (s : State) : (setPort p k s).net = s.net := rfl
@[simp] theorem setPort_settles (p : Nat) (k : Port) (s : State) : (setPort p k s).settles = s.settles := rfl
@[simp] theorem setPort_discards (p : Nat) (k : Port) (s : State) : (setPort p k s).discards = s.discards := rfl
@[simp] theorem setPort_tlbInvs (p : Nat) (k : Port) (s : State) : (setPort p k s).tlbInvs = s.tlbInvs := rfl
@[simp] theorem setPort_regionTable (p : Nat) (k : Port) (s : State) : (setPort p k s).regionTable = s.regionTable := rfl
@[simp] theorem setPort_ipRunning (p : Nat) (k : Port) (s : State) : (setPort p k s).ipRunning = s.ipRunning := rfl
@[simp] theorem setPort_tickets (p : Nat) (k : Port) (s : State) : (setPort p k s).tickets = s.tickets := rfl
@[simp] theorem setPort_barriers (p : Nat) (k : Port) (s : State) : (setPort p k s).barriers = s.barriers := rfl
@[simp] theorem setPort_errCounters (p : Nat) (k : Port) (s : State) : (setPort p k s).errCounters = s.errCounters := rfl
@[simp] theorem setPort_snapId (p : Nat) (k : Port) (s : State) : (setPort p k s).snapId = s.snapId := rfl
@[simp] theorem setPort_snapSel (p : Nat) (k : Port) (s : State) : (setPort p k s).snapSel = s.snapSel := rfl
@[simp] theorem setPort_snapPending (p : Nat) (k : Port) (s : State) : (setPort p k s).snapPending = s.snapPending := rfl
@[simp] theorem setPort_snapLow (p : Nat) (k : Port) (s : State) : (setPort p k s).snapLow = s.snapLow := rfl
@[simp] theorem setPort_snapData (p : Nat) (k : Port) (s : State) : (setPort p k s).snapData = s.snapData := rfl
@[simp] theorem setPort_hosterr (p : Nat) (k : Port) (s : State) : (setPort p k s).hosterr = s.hosterr := rfl
@[simp] theorem setPort_pwrlim (p : Nat) (k : Port) (s : State) : (setPort p k s).pwrlim = s.pwrlim := rfl
@[simp] theorem setPort_pwrDies (p : Nat) (k : Port) (s : State) : (setPort p k s).pwrDies = s.pwrDies := rfl
@[simp] theorem setPort_pwrStacks (p : Nat) (k : Port) (s : State) : (setPort p k s).pwrStacks = s.pwrStacks := rfl
@[simp] theorem setPort_pwrIo (p : Nat) (k : Port) (s : State) : (setPort p k s).pwrIo = s.pwrIo := rfl
@[simp] theorem setPort_clock (p : Nat) (k : Port) (s : State) : (setPort p k s).clock = s.clock := rfl
@[simp] theorem setPort_bootPhase (p : Nat) (k : Port) (s : State) : (setPort p k s).bootPhase = s.bootPhase := rfl
@[simp] theorem setPort_bootReason (p : Nat) (k : Port) (s : State) : (setPort p k s).bootReason = s.bootReason := rfl
@[simp] theorem setPort_bootUnit (p : Nat) (k : Port) (s : State) : (setPort p k s).bootUnit = s.bootUnit := rfl
@[simp] theorem setPort_bootFails (p : Nat) (k : Port) (s : State) : (setPort p k s).bootFails = s.bootFails := rfl
@[simp] theorem setPort_fwOp (p : Nat) (k : Port) (s : State) : (setPort p k s).fwOp = s.fwOp := rfl
@[simp] theorem setPort_fwRun (p : Nat) (k : Port) (s : State) : (setPort p k s).fwRun = s.fwRun := rfl
@[simp] theorem setPort_fwaddr (p : Nat) (k : Port) (s : State) : (setPort p k s).fwaddr = s.fwaddr := rfl
@[simp] theorem setPort_fwBusy (p : Nat) (k : Port) (s : State) : (setPort p k s).fwBusy = s.fwBusy := rfl
@[simp] theorem setPort_fwResult (p : Nat) (k : Port) (s : State) : (setPort p k s).fwResult = s.fwResult := rfl
@[simp] theorem setPort_fwRecovery (p : Nat) (k : Port) (s : State) : (setPort p k s).fwRecovery = s.fwRecovery := rfl
@[simp] theorem setPort_bar2off (p : Nat) (k : Port) (s : State) : (setPort p k s).bar2off = s.bar2off := rfl
@[simp] theorem setPort_bar2size (p : Nat) (k : Port) (s : State) : (setPort p k s).bar2size = s.bar2size := rfl
@[simp] theorem setPort_fabid (p : Nat) (k : Port) (s : State) : (setPort p k s).fabid = s.fabid := rfl
@[simp] theorem setPort_recov (p : Nat) (k : Port) (s : State) : (setPort p k s).recov = s.recov := rfl
@[simp] theorem setPort_enrol (p : Nat) (k : Port) (s : State) : (setPort p k s).enrol = s.enrol := rfl
@[simp] theorem setPort_flash (p : Nat) (k : Port) (s : State) : (setPort p k s).flash = s.flash := rfl
@[simp] theorem setPort_remotes (p : Nat) (k : Port) (s : State) : (setPort p k s).remotes = s.remotes := rfl
@[simp] theorem setPort_nextRemote (p : Nat) (k : Port) (s : State) : (setPort p k s).nextRemote = s.nextRemote := rfl
@[simp] theorem setPort_bridge (p : Nat) (k : Port) (s : State) : (setPort p k s).bridge = s.bridge := rfl
@[simp] theorem setPort_posted (p : Nat) (k : Port) (s : State) : (setPort p k s).posted = s.posted := rfl
@[simp] theorem setPort_backInv (p : Nat) (k : Port) (s : State) : (setPort p k s).backInv = s.backInv := rfl
@[simp] theorem setPort_cxl (p : Nat) (k : Port) (s : State) : (setPort p k s).cxl = s.cxl := rfl
@[simp] theorem setPort_hostReply (p : Nat) (k : Port) (s : State) : (setPort p k s).hostReply = s.hostReply := rfl
@[simp] theorem setPort_msix (p : Nat) (k : Port) (s : State) : (setPort p k s).msix = s.msix := rfl
@[simp] theorem setPort_regions (p : Nat) (k : Port) (s : State) : (setPort p k s).regions = s.regions := rfl
@[simp] theorem setPort_tenantTargets (p : Nat) (k : Port) (s : State) : (setPort p k s).tenantTargets = s.tenantTargets := rfl
@[simp] theorem setPort_hotRows (p : Nat) (k : Port) (s : State) : (setPort p k s).hotRows = s.hotRows := rfl
@[simp] theorem setPort_retiredRows (p : Nat) (k : Port) (s : State) : (setPort p k s).retiredRows = s.retiredRows := rfl
@[simp] theorem setPort_powerStacks (p : Nat) (k : Port) (s : State) : (setPort p k s).powerStacks = s.powerStacks := rfl
@[simp] theorem setPort_powerCompute (p : Nat) (k : Port) (s : State) : (setPort p k s).powerCompute = s.powerCompute := rfl
@[simp] theorem setPort_powerIo (p : Nat) (k : Port) (s : State) : (setPort p k s).powerIo = s.powerIo := rfl
@[simp] theorem setPort_cycles (p : Nat) (k : Port) (s : State) : (setPort p k s).cycles = s.cycles := rfl
@[simp] theorem setPort_owed (p : Nat) (k : Port) (s : State) : (setPort p k s).owed = s.owed := rfl
@[simp] theorem setPort_tick (p : Nat) (k : Port) (s : State) : (setPort p k s).tick = s.tick := rfl

@[simp] theorem setCopy_agenda (c lu : Nat) (k : L1Copy) (s : State) : (setCopy c lu k s).agenda = s.agenda := rfl
@[simp] theorem setCopy_args (c lu : Nat) (k : L1Copy) (s : State) : (setCopy c lu k s).args = s.args := rfl
@[simp] theorem setCopy_cur (c lu : Nat) (k : L1Copy) (s : State) : (setCopy c lu k s).cur = s.cur := rfl
@[simp] theorem setCopy_h (c lu : Nat) (k : L1Copy) (s : State) : (setCopy c lu k s).h = s.h := rfl
@[simp] theorem setCopy_others (c lu : Nat) (k : L1Copy) (s : State) : (setCopy c lu k s).others = s.others := rfl
@[simp] theorem setCopy_cores (c lu : Nat) (k : L1Copy) (s : State) : (setCopy c lu k s).cores = s.cores := rfl
@[simp] theorem setCopy_dies (c lu : Nat) (k : L1Copy) (s : State) : (setCopy c lu k s).dies = s.dies := rfl
@[simp] theorem setCopy_mem (c lu : Nat) (k : L1Copy) (s : State) : (setCopy c lu k s).mem = s.mem := rfl
@[simp] theorem setCopy_poison (c lu : Nat) (k : L1Copy) (s : State) : (setCopy c lu k s).poison = s.poison := rfl
@[simp] theorem setCopy_correctable (c lu : Nat) (k : L1Copy) (s : State) : (setCopy c lu k s).correctable = s.correctable := rfl
@[simp] theorem setCopy_detected (c lu : Nat) (k : L1Copy) (s : State) : (setCopy c lu k s).detected = s.detected := rfl
@[simp] theorem setCopy_l2 (c lu : Nat) (k : L1Copy) (s : State) : (setCopy c lu k s).l2 = s.l2 := rfl
@[simp] theorem setCopy_dir (c lu : Nat) (k : L1Copy) (s : State) : (setCopy c lu k s).dir = s.dir := rfl
@[simp] theorem setCopy_fills (c lu : Nat) (k : L1Copy) (s : State) : (setCopy c lu k s).fills = s.fills := rfl
@[simp] theorem setCopy_net (c lu : Nat) (k : L1Copy) (s : State) : (setCopy c lu k s).net = s.net := rfl
@[simp] theorem setCopy_settles (c lu : Nat) (k : L1Copy) (s : State) : (setCopy c lu k s).settles = s.settles := rfl
@[simp] theorem setCopy_discards (c lu : Nat) (k : L1Copy) (s : State) : (setCopy c lu k s).discards = s.discards := rfl
@[simp] theorem setCopy_tlbInvs (c lu : Nat) (k : L1Copy) (s : State) : (setCopy c lu k s).tlbInvs = s.tlbInvs := rfl
@[simp] theorem setCopy_regionTable (c lu : Nat) (k : L1Copy) (s : State) : (setCopy c lu k s).regionTable = s.regionTable := rfl
@[simp] theorem setCopy_ipRunning (c lu : Nat) (k : L1Copy) (s : State) : (setCopy c lu k s).ipRunning = s.ipRunning := rfl
@[simp] theorem setCopy_tickets (c lu : Nat) (k : L1Copy) (s : State) : (setCopy c lu k s).tickets = s.tickets := rfl
@[simp] theorem setCopy_barriers (c lu : Nat) (k : L1Copy) (s : State) : (setCopy c lu k s).barriers = s.barriers := rfl
@[simp] theorem setCopy_errCounters (c lu : Nat) (k : L1Copy) (s : State) : (setCopy c lu k s).errCounters = s.errCounters := rfl
@[simp] theorem setCopy_snapId (c lu : Nat) (k : L1Copy) (s : State) : (setCopy c lu k s).snapId = s.snapId := rfl
@[simp] theorem setCopy_snapSel (c lu : Nat) (k : L1Copy) (s : State) : (setCopy c lu k s).snapSel = s.snapSel := rfl
@[simp] theorem setCopy_snapPending (c lu : Nat) (k : L1Copy) (s : State) : (setCopy c lu k s).snapPending = s.snapPending := rfl
@[simp] theorem setCopy_snapLow (c lu : Nat) (k : L1Copy) (s : State) : (setCopy c lu k s).snapLow = s.snapLow := rfl
@[simp] theorem setCopy_snapData (c lu : Nat) (k : L1Copy) (s : State) : (setCopy c lu k s).snapData = s.snapData := rfl
@[simp] theorem setCopy_hosterr (c lu : Nat) (k : L1Copy) (s : State) : (setCopy c lu k s).hosterr = s.hosterr := rfl
@[simp] theorem setCopy_pwrlim (c lu : Nat) (k : L1Copy) (s : State) : (setCopy c lu k s).pwrlim = s.pwrlim := rfl
@[simp] theorem setCopy_pwrDies (c lu : Nat) (k : L1Copy) (s : State) : (setCopy c lu k s).pwrDies = s.pwrDies := rfl
@[simp] theorem setCopy_pwrStacks (c lu : Nat) (k : L1Copy) (s : State) : (setCopy c lu k s).pwrStacks = s.pwrStacks := rfl
@[simp] theorem setCopy_pwrIo (c lu : Nat) (k : L1Copy) (s : State) : (setCopy c lu k s).pwrIo = s.pwrIo := rfl
@[simp] theorem setCopy_clock (c lu : Nat) (k : L1Copy) (s : State) : (setCopy c lu k s).clock = s.clock := rfl
@[simp] theorem setCopy_bootPhase (c lu : Nat) (k : L1Copy) (s : State) : (setCopy c lu k s).bootPhase = s.bootPhase := rfl
@[simp] theorem setCopy_bootReason (c lu : Nat) (k : L1Copy) (s : State) : (setCopy c lu k s).bootReason = s.bootReason := rfl
@[simp] theorem setCopy_bootUnit (c lu : Nat) (k : L1Copy) (s : State) : (setCopy c lu k s).bootUnit = s.bootUnit := rfl
@[simp] theorem setCopy_bootFails (c lu : Nat) (k : L1Copy) (s : State) : (setCopy c lu k s).bootFails = s.bootFails := rfl
@[simp] theorem setCopy_fwOp (c lu : Nat) (k : L1Copy) (s : State) : (setCopy c lu k s).fwOp = s.fwOp := rfl
@[simp] theorem setCopy_fwRun (c lu : Nat) (k : L1Copy) (s : State) : (setCopy c lu k s).fwRun = s.fwRun := rfl
@[simp] theorem setCopy_fwaddr (c lu : Nat) (k : L1Copy) (s : State) : (setCopy c lu k s).fwaddr = s.fwaddr := rfl
@[simp] theorem setCopy_fwBusy (c lu : Nat) (k : L1Copy) (s : State) : (setCopy c lu k s).fwBusy = s.fwBusy := rfl
@[simp] theorem setCopy_fwResult (c lu : Nat) (k : L1Copy) (s : State) : (setCopy c lu k s).fwResult = s.fwResult := rfl
@[simp] theorem setCopy_fwRecovery (c lu : Nat) (k : L1Copy) (s : State) : (setCopy c lu k s).fwRecovery = s.fwRecovery := rfl
@[simp] theorem setCopy_bar2off (c lu : Nat) (k : L1Copy) (s : State) : (setCopy c lu k s).bar2off = s.bar2off := rfl
@[simp] theorem setCopy_bar2size (c lu : Nat) (k : L1Copy) (s : State) : (setCopy c lu k s).bar2size = s.bar2size := rfl
@[simp] theorem setCopy_fabid (c lu : Nat) (k : L1Copy) (s : State) : (setCopy c lu k s).fabid = s.fabid := rfl
@[simp] theorem setCopy_recov (c lu : Nat) (k : L1Copy) (s : State) : (setCopy c lu k s).recov = s.recov := rfl
@[simp] theorem setCopy_enrol (c lu : Nat) (k : L1Copy) (s : State) : (setCopy c lu k s).enrol = s.enrol := rfl
@[simp] theorem setCopy_flash (c lu : Nat) (k : L1Copy) (s : State) : (setCopy c lu k s).flash = s.flash := rfl
@[simp] theorem setCopy_ports (c lu : Nat) (k : L1Copy) (s : State) : (setCopy c lu k s).ports = s.ports := rfl
@[simp] theorem setCopy_remotes (c lu : Nat) (k : L1Copy) (s : State) : (setCopy c lu k s).remotes = s.remotes := rfl
@[simp] theorem setCopy_nextRemote (c lu : Nat) (k : L1Copy) (s : State) : (setCopy c lu k s).nextRemote = s.nextRemote := rfl
@[simp] theorem setCopy_bridge (c lu : Nat) (k : L1Copy) (s : State) : (setCopy c lu k s).bridge = s.bridge := rfl
@[simp] theorem setCopy_posted (c lu : Nat) (k : L1Copy) (s : State) : (setCopy c lu k s).posted = s.posted := rfl
@[simp] theorem setCopy_backInv (c lu : Nat) (k : L1Copy) (s : State) : (setCopy c lu k s).backInv = s.backInv := rfl
@[simp] theorem setCopy_cxl (c lu : Nat) (k : L1Copy) (s : State) : (setCopy c lu k s).cxl = s.cxl := rfl
@[simp] theorem setCopy_hostReply (c lu : Nat) (k : L1Copy) (s : State) : (setCopy c lu k s).hostReply = s.hostReply := rfl
@[simp] theorem setCopy_msix (c lu : Nat) (k : L1Copy) (s : State) : (setCopy c lu k s).msix = s.msix := rfl
@[simp] theorem setCopy_regions (c lu : Nat) (k : L1Copy) (s : State) : (setCopy c lu k s).regions = s.regions := rfl
@[simp] theorem setCopy_tenantTargets (c lu : Nat) (k : L1Copy) (s : State) : (setCopy c lu k s).tenantTargets = s.tenantTargets := rfl
@[simp] theorem setCopy_hotRows (c lu : Nat) (k : L1Copy) (s : State) : (setCopy c lu k s).hotRows = s.hotRows := rfl
@[simp] theorem setCopy_retiredRows (c lu : Nat) (k : L1Copy) (s : State) : (setCopy c lu k s).retiredRows = s.retiredRows := rfl
@[simp] theorem setCopy_powerStacks (c lu : Nat) (k : L1Copy) (s : State) : (setCopy c lu k s).powerStacks = s.powerStacks := rfl
@[simp] theorem setCopy_powerCompute (c lu : Nat) (k : L1Copy) (s : State) : (setCopy c lu k s).powerCompute = s.powerCompute := rfl
@[simp] theorem setCopy_powerIo (c lu : Nat) (k : L1Copy) (s : State) : (setCopy c lu k s).powerIo = s.powerIo := rfl
@[simp] theorem setCopy_cycles (c lu : Nat) (k : L1Copy) (s : State) : (setCopy c lu k s).cycles = s.cycles := rfl
@[simp] theorem setCopy_owed (c lu : Nat) (k : L1Copy) (s : State) : (setCopy c lu k s).owed = s.owed := rfl
@[simp] theorem setCopy_tick (c lu : Nat) (k : L1Copy) (s : State) : (setCopy c lu k s).tick = s.tick := rfl

@[simp] theorem dropCopy_agenda (c lu : Nat) (s : State) : (Machine.dropCopy c lu s).agenda = s.agenda := rfl
@[simp] theorem dropCopy_args (c lu : Nat) (s : State) : (Machine.dropCopy c lu s).args = s.args := rfl
@[simp] theorem dropCopy_cur (c lu : Nat) (s : State) : (Machine.dropCopy c lu s).cur = s.cur := rfl
@[simp] theorem dropCopy_h (c lu : Nat) (s : State) : (Machine.dropCopy c lu s).h = s.h := rfl
@[simp] theorem dropCopy_others (c lu : Nat) (s : State) : (Machine.dropCopy c lu s).others = s.others := rfl
@[simp] theorem dropCopy_cores (c lu : Nat) (s : State) : (Machine.dropCopy c lu s).cores = s.cores := rfl
@[simp] theorem dropCopy_dies (c lu : Nat) (s : State) : (Machine.dropCopy c lu s).dies = s.dies := rfl
@[simp] theorem dropCopy_mem (c lu : Nat) (s : State) : (Machine.dropCopy c lu s).mem = s.mem := rfl
@[simp] theorem dropCopy_poison (c lu : Nat) (s : State) : (Machine.dropCopy c lu s).poison = s.poison := rfl
@[simp] theorem dropCopy_correctable (c lu : Nat) (s : State) : (Machine.dropCopy c lu s).correctable = s.correctable := rfl
@[simp] theorem dropCopy_detected (c lu : Nat) (s : State) : (Machine.dropCopy c lu s).detected = s.detected := rfl
@[simp] theorem dropCopy_l2 (c lu : Nat) (s : State) : (Machine.dropCopy c lu s).l2 = s.l2 := rfl
@[simp] theorem dropCopy_dir (c lu : Nat) (s : State) : (Machine.dropCopy c lu s).dir = s.dir := rfl
@[simp] theorem dropCopy_fills (c lu : Nat) (s : State) : (Machine.dropCopy c lu s).fills = s.fills := rfl
@[simp] theorem dropCopy_net (c lu : Nat) (s : State) : (Machine.dropCopy c lu s).net = s.net := rfl
@[simp] theorem dropCopy_settles (c lu : Nat) (s : State) : (Machine.dropCopy c lu s).settles = s.settles := rfl
@[simp] theorem dropCopy_discards (c lu : Nat) (s : State) : (Machine.dropCopy c lu s).discards = s.discards := rfl
@[simp] theorem dropCopy_tlbInvs (c lu : Nat) (s : State) : (Machine.dropCopy c lu s).tlbInvs = s.tlbInvs := rfl
@[simp] theorem dropCopy_regionTable (c lu : Nat) (s : State) : (Machine.dropCopy c lu s).regionTable = s.regionTable := rfl
@[simp] theorem dropCopy_ipRunning (c lu : Nat) (s : State) : (Machine.dropCopy c lu s).ipRunning = s.ipRunning := rfl
@[simp] theorem dropCopy_tickets (c lu : Nat) (s : State) : (Machine.dropCopy c lu s).tickets = s.tickets := rfl
@[simp] theorem dropCopy_barriers (c lu : Nat) (s : State) : (Machine.dropCopy c lu s).barriers = s.barriers := rfl
@[simp] theorem dropCopy_errCounters (c lu : Nat) (s : State) : (Machine.dropCopy c lu s).errCounters = s.errCounters := rfl
@[simp] theorem dropCopy_snapId (c lu : Nat) (s : State) : (Machine.dropCopy c lu s).snapId = s.snapId := rfl
@[simp] theorem dropCopy_snapSel (c lu : Nat) (s : State) : (Machine.dropCopy c lu s).snapSel = s.snapSel := rfl
@[simp] theorem dropCopy_snapPending (c lu : Nat) (s : State) : (Machine.dropCopy c lu s).snapPending = s.snapPending := rfl
@[simp] theorem dropCopy_snapLow (c lu : Nat) (s : State) : (Machine.dropCopy c lu s).snapLow = s.snapLow := rfl
@[simp] theorem dropCopy_snapData (c lu : Nat) (s : State) : (Machine.dropCopy c lu s).snapData = s.snapData := rfl
@[simp] theorem dropCopy_hosterr (c lu : Nat) (s : State) : (Machine.dropCopy c lu s).hosterr = s.hosterr := rfl
@[simp] theorem dropCopy_pwrlim (c lu : Nat) (s : State) : (Machine.dropCopy c lu s).pwrlim = s.pwrlim := rfl
@[simp] theorem dropCopy_pwrDies (c lu : Nat) (s : State) : (Machine.dropCopy c lu s).pwrDies = s.pwrDies := rfl
@[simp] theorem dropCopy_pwrStacks (c lu : Nat) (s : State) : (Machine.dropCopy c lu s).pwrStacks = s.pwrStacks := rfl
@[simp] theorem dropCopy_pwrIo (c lu : Nat) (s : State) : (Machine.dropCopy c lu s).pwrIo = s.pwrIo := rfl
@[simp] theorem dropCopy_clock (c lu : Nat) (s : State) : (Machine.dropCopy c lu s).clock = s.clock := rfl
@[simp] theorem dropCopy_bootPhase (c lu : Nat) (s : State) : (Machine.dropCopy c lu s).bootPhase = s.bootPhase := rfl
@[simp] theorem dropCopy_bootReason (c lu : Nat) (s : State) : (Machine.dropCopy c lu s).bootReason = s.bootReason := rfl
@[simp] theorem dropCopy_bootUnit (c lu : Nat) (s : State) : (Machine.dropCopy c lu s).bootUnit = s.bootUnit := rfl
@[simp] theorem dropCopy_bootFails (c lu : Nat) (s : State) : (Machine.dropCopy c lu s).bootFails = s.bootFails := rfl
@[simp] theorem dropCopy_fwOp (c lu : Nat) (s : State) : (Machine.dropCopy c lu s).fwOp = s.fwOp := rfl
@[simp] theorem dropCopy_fwRun (c lu : Nat) (s : State) : (Machine.dropCopy c lu s).fwRun = s.fwRun := rfl
@[simp] theorem dropCopy_fwaddr (c lu : Nat) (s : State) : (Machine.dropCopy c lu s).fwaddr = s.fwaddr := rfl
@[simp] theorem dropCopy_fwBusy (c lu : Nat) (s : State) : (Machine.dropCopy c lu s).fwBusy = s.fwBusy := rfl
@[simp] theorem dropCopy_fwResult (c lu : Nat) (s : State) : (Machine.dropCopy c lu s).fwResult = s.fwResult := rfl
@[simp] theorem dropCopy_fwRecovery (c lu : Nat) (s : State) : (Machine.dropCopy c lu s).fwRecovery = s.fwRecovery := rfl
@[simp] theorem dropCopy_bar2off (c lu : Nat) (s : State) : (Machine.dropCopy c lu s).bar2off = s.bar2off := rfl
@[simp] theorem dropCopy_bar2size (c lu : Nat) (s : State) : (Machine.dropCopy c lu s).bar2size = s.bar2size := rfl
@[simp] theorem dropCopy_fabid (c lu : Nat) (s : State) : (Machine.dropCopy c lu s).fabid = s.fabid := rfl
@[simp] theorem dropCopy_recov (c lu : Nat) (s : State) : (Machine.dropCopy c lu s).recov = s.recov := rfl
@[simp] theorem dropCopy_enrol (c lu : Nat) (s : State) : (Machine.dropCopy c lu s).enrol = s.enrol := rfl
@[simp] theorem dropCopy_flash (c lu : Nat) (s : State) : (Machine.dropCopy c lu s).flash = s.flash := rfl
@[simp] theorem dropCopy_ports (c lu : Nat) (s : State) : (Machine.dropCopy c lu s).ports = s.ports := rfl
@[simp] theorem dropCopy_remotes (c lu : Nat) (s : State) : (Machine.dropCopy c lu s).remotes = s.remotes := rfl
@[simp] theorem dropCopy_nextRemote (c lu : Nat) (s : State) : (Machine.dropCopy c lu s).nextRemote = s.nextRemote := rfl
@[simp] theorem dropCopy_bridge (c lu : Nat) (s : State) : (Machine.dropCopy c lu s).bridge = s.bridge := rfl
@[simp] theorem dropCopy_posted (c lu : Nat) (s : State) : (Machine.dropCopy c lu s).posted = s.posted := rfl
@[simp] theorem dropCopy_backInv (c lu : Nat) (s : State) : (Machine.dropCopy c lu s).backInv = s.backInv := rfl
@[simp] theorem dropCopy_cxl (c lu : Nat) (s : State) : (Machine.dropCopy c lu s).cxl = s.cxl := rfl
@[simp] theorem dropCopy_hostReply (c lu : Nat) (s : State) : (Machine.dropCopy c lu s).hostReply = s.hostReply := rfl
@[simp] theorem dropCopy_msix (c lu : Nat) (s : State) : (Machine.dropCopy c lu s).msix = s.msix := rfl
@[simp] theorem dropCopy_regions (c lu : Nat) (s : State) : (Machine.dropCopy c lu s).regions = s.regions := rfl
@[simp] theorem dropCopy_tenantTargets (c lu : Nat) (s : State) : (Machine.dropCopy c lu s).tenantTargets = s.tenantTargets := rfl
@[simp] theorem dropCopy_hotRows (c lu : Nat) (s : State) : (Machine.dropCopy c lu s).hotRows = s.hotRows := rfl
@[simp] theorem dropCopy_retiredRows (c lu : Nat) (s : State) : (Machine.dropCopy c lu s).retiredRows = s.retiredRows := rfl
@[simp] theorem dropCopy_powerStacks (c lu : Nat) (s : State) : (Machine.dropCopy c lu s).powerStacks = s.powerStacks := rfl
@[simp] theorem dropCopy_powerCompute (c lu : Nat) (s : State) : (Machine.dropCopy c lu s).powerCompute = s.powerCompute := rfl
@[simp] theorem dropCopy_powerIo (c lu : Nat) (s : State) : (Machine.dropCopy c lu s).powerIo = s.powerIo := rfl
@[simp] theorem dropCopy_cycles (c lu : Nat) (s : State) : (Machine.dropCopy c lu s).cycles = s.cycles := rfl
@[simp] theorem dropCopy_owed (c lu : Nat) (s : State) : (Machine.dropCopy c lu s).owed = s.owed := rfl
@[simp] theorem dropCopy_tick (c lu : Nat) (s : State) : (Machine.dropCopy c lu s).tick = s.tick := rfl

@[simp] theorem setLine_agenda (d lu : Nat) (l : L2Line) (s : State) : (setLine d lu l s).agenda = s.agenda := rfl
@[simp] theorem setLine_args (d lu : Nat) (l : L2Line) (s : State) : (setLine d lu l s).args = s.args := rfl
@[simp] theorem setLine_cur (d lu : Nat) (l : L2Line) (s : State) : (setLine d lu l s).cur = s.cur := rfl
@[simp] theorem setLine_h (d lu : Nat) (l : L2Line) (s : State) : (setLine d lu l s).h = s.h := rfl
@[simp] theorem setLine_others (d lu : Nat) (l : L2Line) (s : State) : (setLine d lu l s).others = s.others := rfl
@[simp] theorem setLine_cores (d lu : Nat) (l : L2Line) (s : State) : (setLine d lu l s).cores = s.cores := rfl
@[simp] theorem setLine_dies (d lu : Nat) (l : L2Line) (s : State) : (setLine d lu l s).dies = s.dies := rfl
@[simp] theorem setLine_mem (d lu : Nat) (l : L2Line) (s : State) : (setLine d lu l s).mem = s.mem := rfl
@[simp] theorem setLine_poison (d lu : Nat) (l : L2Line) (s : State) : (setLine d lu l s).poison = s.poison := rfl
@[simp] theorem setLine_correctable (d lu : Nat) (l : L2Line) (s : State) : (setLine d lu l s).correctable = s.correctable := rfl
@[simp] theorem setLine_detected (d lu : Nat) (l : L2Line) (s : State) : (setLine d lu l s).detected = s.detected := rfl
@[simp] theorem setLine_l1 (d lu : Nat) (l : L2Line) (s : State) : (setLine d lu l s).l1 = s.l1 := rfl
@[simp] theorem setLine_dir (d lu : Nat) (l : L2Line) (s : State) : (setLine d lu l s).dir = s.dir := rfl
@[simp] theorem setLine_fills (d lu : Nat) (l : L2Line) (s : State) : (setLine d lu l s).fills = s.fills := rfl
@[simp] theorem setLine_net (d lu : Nat) (l : L2Line) (s : State) : (setLine d lu l s).net = s.net := rfl
@[simp] theorem setLine_settles (d lu : Nat) (l : L2Line) (s : State) : (setLine d lu l s).settles = s.settles := rfl
@[simp] theorem setLine_discards (d lu : Nat) (l : L2Line) (s : State) : (setLine d lu l s).discards = s.discards := rfl
@[simp] theorem setLine_tlbInvs (d lu : Nat) (l : L2Line) (s : State) : (setLine d lu l s).tlbInvs = s.tlbInvs := rfl
@[simp] theorem setLine_regionTable (d lu : Nat) (l : L2Line) (s : State) : (setLine d lu l s).regionTable = s.regionTable := rfl
@[simp] theorem setLine_ipRunning (d lu : Nat) (l : L2Line) (s : State) : (setLine d lu l s).ipRunning = s.ipRunning := rfl
@[simp] theorem setLine_tickets (d lu : Nat) (l : L2Line) (s : State) : (setLine d lu l s).tickets = s.tickets := rfl
@[simp] theorem setLine_barriers (d lu : Nat) (l : L2Line) (s : State) : (setLine d lu l s).barriers = s.barriers := rfl
@[simp] theorem setLine_errCounters (d lu : Nat) (l : L2Line) (s : State) : (setLine d lu l s).errCounters = s.errCounters := rfl
@[simp] theorem setLine_snapId (d lu : Nat) (l : L2Line) (s : State) : (setLine d lu l s).snapId = s.snapId := rfl
@[simp] theorem setLine_snapSel (d lu : Nat) (l : L2Line) (s : State) : (setLine d lu l s).snapSel = s.snapSel := rfl
@[simp] theorem setLine_snapPending (d lu : Nat) (l : L2Line) (s : State) : (setLine d lu l s).snapPending = s.snapPending := rfl
@[simp] theorem setLine_snapLow (d lu : Nat) (l : L2Line) (s : State) : (setLine d lu l s).snapLow = s.snapLow := rfl
@[simp] theorem setLine_snapData (d lu : Nat) (l : L2Line) (s : State) : (setLine d lu l s).snapData = s.snapData := rfl
@[simp] theorem setLine_hosterr (d lu : Nat) (l : L2Line) (s : State) : (setLine d lu l s).hosterr = s.hosterr := rfl
@[simp] theorem setLine_pwrlim (d lu : Nat) (l : L2Line) (s : State) : (setLine d lu l s).pwrlim = s.pwrlim := rfl
@[simp] theorem setLine_pwrDies (d lu : Nat) (l : L2Line) (s : State) : (setLine d lu l s).pwrDies = s.pwrDies := rfl
@[simp] theorem setLine_pwrStacks (d lu : Nat) (l : L2Line) (s : State) : (setLine d lu l s).pwrStacks = s.pwrStacks := rfl
@[simp] theorem setLine_pwrIo (d lu : Nat) (l : L2Line) (s : State) : (setLine d lu l s).pwrIo = s.pwrIo := rfl
@[simp] theorem setLine_clock (d lu : Nat) (l : L2Line) (s : State) : (setLine d lu l s).clock = s.clock := rfl
@[simp] theorem setLine_bootPhase (d lu : Nat) (l : L2Line) (s : State) : (setLine d lu l s).bootPhase = s.bootPhase := rfl
@[simp] theorem setLine_bootReason (d lu : Nat) (l : L2Line) (s : State) : (setLine d lu l s).bootReason = s.bootReason := rfl
@[simp] theorem setLine_bootUnit (d lu : Nat) (l : L2Line) (s : State) : (setLine d lu l s).bootUnit = s.bootUnit := rfl
@[simp] theorem setLine_bootFails (d lu : Nat) (l : L2Line) (s : State) : (setLine d lu l s).bootFails = s.bootFails := rfl
@[simp] theorem setLine_fwOp (d lu : Nat) (l : L2Line) (s : State) : (setLine d lu l s).fwOp = s.fwOp := rfl
@[simp] theorem setLine_fwRun (d lu : Nat) (l : L2Line) (s : State) : (setLine d lu l s).fwRun = s.fwRun := rfl
@[simp] theorem setLine_fwaddr (d lu : Nat) (l : L2Line) (s : State) : (setLine d lu l s).fwaddr = s.fwaddr := rfl
@[simp] theorem setLine_fwBusy (d lu : Nat) (l : L2Line) (s : State) : (setLine d lu l s).fwBusy = s.fwBusy := rfl
@[simp] theorem setLine_fwResult (d lu : Nat) (l : L2Line) (s : State) : (setLine d lu l s).fwResult = s.fwResult := rfl
@[simp] theorem setLine_fwRecovery (d lu : Nat) (l : L2Line) (s : State) : (setLine d lu l s).fwRecovery = s.fwRecovery := rfl
@[simp] theorem setLine_bar2off (d lu : Nat) (l : L2Line) (s : State) : (setLine d lu l s).bar2off = s.bar2off := rfl
@[simp] theorem setLine_bar2size (d lu : Nat) (l : L2Line) (s : State) : (setLine d lu l s).bar2size = s.bar2size := rfl
@[simp] theorem setLine_fabid (d lu : Nat) (l : L2Line) (s : State) : (setLine d lu l s).fabid = s.fabid := rfl
@[simp] theorem setLine_recov (d lu : Nat) (l : L2Line) (s : State) : (setLine d lu l s).recov = s.recov := rfl
@[simp] theorem setLine_enrol (d lu : Nat) (l : L2Line) (s : State) : (setLine d lu l s).enrol = s.enrol := rfl
@[simp] theorem setLine_flash (d lu : Nat) (l : L2Line) (s : State) : (setLine d lu l s).flash = s.flash := rfl
@[simp] theorem setLine_ports (d lu : Nat) (l : L2Line) (s : State) : (setLine d lu l s).ports = s.ports := rfl
@[simp] theorem setLine_remotes (d lu : Nat) (l : L2Line) (s : State) : (setLine d lu l s).remotes = s.remotes := rfl
@[simp] theorem setLine_nextRemote (d lu : Nat) (l : L2Line) (s : State) : (setLine d lu l s).nextRemote = s.nextRemote := rfl
@[simp] theorem setLine_bridge (d lu : Nat) (l : L2Line) (s : State) : (setLine d lu l s).bridge = s.bridge := rfl
@[simp] theorem setLine_posted (d lu : Nat) (l : L2Line) (s : State) : (setLine d lu l s).posted = s.posted := rfl
@[simp] theorem setLine_backInv (d lu : Nat) (l : L2Line) (s : State) : (setLine d lu l s).backInv = s.backInv := rfl
@[simp] theorem setLine_cxl (d lu : Nat) (l : L2Line) (s : State) : (setLine d lu l s).cxl = s.cxl := rfl
@[simp] theorem setLine_hostReply (d lu : Nat) (l : L2Line) (s : State) : (setLine d lu l s).hostReply = s.hostReply := rfl
@[simp] theorem setLine_msix (d lu : Nat) (l : L2Line) (s : State) : (setLine d lu l s).msix = s.msix := rfl
@[simp] theorem setLine_regions (d lu : Nat) (l : L2Line) (s : State) : (setLine d lu l s).regions = s.regions := rfl
@[simp] theorem setLine_tenantTargets (d lu : Nat) (l : L2Line) (s : State) : (setLine d lu l s).tenantTargets = s.tenantTargets := rfl
@[simp] theorem setLine_hotRows (d lu : Nat) (l : L2Line) (s : State) : (setLine d lu l s).hotRows = s.hotRows := rfl
@[simp] theorem setLine_retiredRows (d lu : Nat) (l : L2Line) (s : State) : (setLine d lu l s).retiredRows = s.retiredRows := rfl
@[simp] theorem setLine_powerStacks (d lu : Nat) (l : L2Line) (s : State) : (setLine d lu l s).powerStacks = s.powerStacks := rfl
@[simp] theorem setLine_powerCompute (d lu : Nat) (l : L2Line) (s : State) : (setLine d lu l s).powerCompute = s.powerCompute := rfl
@[simp] theorem setLine_powerIo (d lu : Nat) (l : L2Line) (s : State) : (setLine d lu l s).powerIo = s.powerIo := rfl
@[simp] theorem setLine_cycles (d lu : Nat) (l : L2Line) (s : State) : (setLine d lu l s).cycles = s.cycles := rfl
@[simp] theorem setLine_owed (d lu : Nat) (l : L2Line) (s : State) : (setLine d lu l s).owed = s.owed := rfl
@[simp] theorem setLine_tick (d lu : Nat) (l : L2Line) (s : State) : (setLine d lu l s).tick = s.tick := rfl

@[simp] theorem setDir_agenda (lu : Nat) (e : DirEntry) (s : State) : (setDir lu e s).agenda = s.agenda := rfl
@[simp] theorem setDir_args (lu : Nat) (e : DirEntry) (s : State) : (setDir lu e s).args = s.args := rfl
@[simp] theorem setDir_cur (lu : Nat) (e : DirEntry) (s : State) : (setDir lu e s).cur = s.cur := rfl
@[simp] theorem setDir_h (lu : Nat) (e : DirEntry) (s : State) : (setDir lu e s).h = s.h := rfl
@[simp] theorem setDir_others (lu : Nat) (e : DirEntry) (s : State) : (setDir lu e s).others = s.others := rfl
@[simp] theorem setDir_cores (lu : Nat) (e : DirEntry) (s : State) : (setDir lu e s).cores = s.cores := rfl
@[simp] theorem setDir_dies (lu : Nat) (e : DirEntry) (s : State) : (setDir lu e s).dies = s.dies := rfl
@[simp] theorem setDir_mem (lu : Nat) (e : DirEntry) (s : State) : (setDir lu e s).mem = s.mem := rfl
@[simp] theorem setDir_poison (lu : Nat) (e : DirEntry) (s : State) : (setDir lu e s).poison = s.poison := rfl
@[simp] theorem setDir_correctable (lu : Nat) (e : DirEntry) (s : State) : (setDir lu e s).correctable = s.correctable := rfl
@[simp] theorem setDir_detected (lu : Nat) (e : DirEntry) (s : State) : (setDir lu e s).detected = s.detected := rfl
@[simp] theorem setDir_l1 (lu : Nat) (e : DirEntry) (s : State) : (setDir lu e s).l1 = s.l1 := rfl
@[simp] theorem setDir_l2 (lu : Nat) (e : DirEntry) (s : State) : (setDir lu e s).l2 = s.l2 := rfl
@[simp] theorem setDir_net (lu : Nat) (e : DirEntry) (s : State) : (setDir lu e s).net = s.net := rfl
@[simp] theorem setDir_settles (lu : Nat) (e : DirEntry) (s : State) : (setDir lu e s).settles = s.settles := rfl
@[simp] theorem setDir_discards (lu : Nat) (e : DirEntry) (s : State) : (setDir lu e s).discards = s.discards := rfl
@[simp] theorem setDir_tlbInvs (lu : Nat) (e : DirEntry) (s : State) : (setDir lu e s).tlbInvs = s.tlbInvs := rfl
@[simp] theorem setDir_regionTable (lu : Nat) (e : DirEntry) (s : State) : (setDir lu e s).regionTable = s.regionTable := rfl
@[simp] theorem setDir_ipRunning (lu : Nat) (e : DirEntry) (s : State) : (setDir lu e s).ipRunning = s.ipRunning := rfl
@[simp] theorem setDir_tickets (lu : Nat) (e : DirEntry) (s : State) : (setDir lu e s).tickets = s.tickets := rfl
@[simp] theorem setDir_barriers (lu : Nat) (e : DirEntry) (s : State) : (setDir lu e s).barriers = s.barriers := rfl
@[simp] theorem setDir_errCounters (lu : Nat) (e : DirEntry) (s : State) : (setDir lu e s).errCounters = s.errCounters := rfl
@[simp] theorem setDir_snapId (lu : Nat) (e : DirEntry) (s : State) : (setDir lu e s).snapId = s.snapId := rfl
@[simp] theorem setDir_snapSel (lu : Nat) (e : DirEntry) (s : State) : (setDir lu e s).snapSel = s.snapSel := rfl
@[simp] theorem setDir_snapPending (lu : Nat) (e : DirEntry) (s : State) : (setDir lu e s).snapPending = s.snapPending := rfl
@[simp] theorem setDir_snapLow (lu : Nat) (e : DirEntry) (s : State) : (setDir lu e s).snapLow = s.snapLow := rfl
@[simp] theorem setDir_snapData (lu : Nat) (e : DirEntry) (s : State) : (setDir lu e s).snapData = s.snapData := rfl
@[simp] theorem setDir_hosterr (lu : Nat) (e : DirEntry) (s : State) : (setDir lu e s).hosterr = s.hosterr := rfl
@[simp] theorem setDir_pwrlim (lu : Nat) (e : DirEntry) (s : State) : (setDir lu e s).pwrlim = s.pwrlim := rfl
@[simp] theorem setDir_pwrDies (lu : Nat) (e : DirEntry) (s : State) : (setDir lu e s).pwrDies = s.pwrDies := rfl
@[simp] theorem setDir_pwrStacks (lu : Nat) (e : DirEntry) (s : State) : (setDir lu e s).pwrStacks = s.pwrStacks := rfl
@[simp] theorem setDir_pwrIo (lu : Nat) (e : DirEntry) (s : State) : (setDir lu e s).pwrIo = s.pwrIo := rfl
@[simp] theorem setDir_clock (lu : Nat) (e : DirEntry) (s : State) : (setDir lu e s).clock = s.clock := rfl
@[simp] theorem setDir_bootPhase (lu : Nat) (e : DirEntry) (s : State) : (setDir lu e s).bootPhase = s.bootPhase := rfl
@[simp] theorem setDir_bootReason (lu : Nat) (e : DirEntry) (s : State) : (setDir lu e s).bootReason = s.bootReason := rfl
@[simp] theorem setDir_bootUnit (lu : Nat) (e : DirEntry) (s : State) : (setDir lu e s).bootUnit = s.bootUnit := rfl
@[simp] theorem setDir_bootFails (lu : Nat) (e : DirEntry) (s : State) : (setDir lu e s).bootFails = s.bootFails := rfl
@[simp] theorem setDir_fwOp (lu : Nat) (e : DirEntry) (s : State) : (setDir lu e s).fwOp = s.fwOp := rfl
@[simp] theorem setDir_fwRun (lu : Nat) (e : DirEntry) (s : State) : (setDir lu e s).fwRun = s.fwRun := rfl
@[simp] theorem setDir_fwaddr (lu : Nat) (e : DirEntry) (s : State) : (setDir lu e s).fwaddr = s.fwaddr := rfl
@[simp] theorem setDir_fwBusy (lu : Nat) (e : DirEntry) (s : State) : (setDir lu e s).fwBusy = s.fwBusy := rfl
@[simp] theorem setDir_fwResult (lu : Nat) (e : DirEntry) (s : State) : (setDir lu e s).fwResult = s.fwResult := rfl
@[simp] theorem setDir_fwRecovery (lu : Nat) (e : DirEntry) (s : State) : (setDir lu e s).fwRecovery = s.fwRecovery := rfl
@[simp] theorem setDir_bar2off (lu : Nat) (e : DirEntry) (s : State) : (setDir lu e s).bar2off = s.bar2off := rfl
@[simp] theorem setDir_bar2size (lu : Nat) (e : DirEntry) (s : State) : (setDir lu e s).bar2size = s.bar2size := rfl
@[simp] theorem setDir_fabid (lu : Nat) (e : DirEntry) (s : State) : (setDir lu e s).fabid = s.fabid := rfl
@[simp] theorem setDir_recov (lu : Nat) (e : DirEntry) (s : State) : (setDir lu e s).recov = s.recov := rfl
@[simp] theorem setDir_enrol (lu : Nat) (e : DirEntry) (s : State) : (setDir lu e s).enrol = s.enrol := rfl
@[simp] theorem setDir_flash (lu : Nat) (e : DirEntry) (s : State) : (setDir lu e s).flash = s.flash := rfl
@[simp] theorem setDir_ports (lu : Nat) (e : DirEntry) (s : State) : (setDir lu e s).ports = s.ports := rfl
@[simp] theorem setDir_remotes (lu : Nat) (e : DirEntry) (s : State) : (setDir lu e s).remotes = s.remotes := rfl
@[simp] theorem setDir_nextRemote (lu : Nat) (e : DirEntry) (s : State) : (setDir lu e s).nextRemote = s.nextRemote := rfl
@[simp] theorem setDir_bridge (lu : Nat) (e : DirEntry) (s : State) : (setDir lu e s).bridge = s.bridge := rfl
@[simp] theorem setDir_posted (lu : Nat) (e : DirEntry) (s : State) : (setDir lu e s).posted = s.posted := rfl
@[simp] theorem setDir_backInv (lu : Nat) (e : DirEntry) (s : State) : (setDir lu e s).backInv = s.backInv := rfl
@[simp] theorem setDir_cxl (lu : Nat) (e : DirEntry) (s : State) : (setDir lu e s).cxl = s.cxl := rfl
@[simp] theorem setDir_hostReply (lu : Nat) (e : DirEntry) (s : State) : (setDir lu e s).hostReply = s.hostReply := rfl
@[simp] theorem setDir_msix (lu : Nat) (e : DirEntry) (s : State) : (setDir lu e s).msix = s.msix := rfl
@[simp] theorem setDir_regions (lu : Nat) (e : DirEntry) (s : State) : (setDir lu e s).regions = s.regions := rfl
@[simp] theorem setDir_tenantTargets (lu : Nat) (e : DirEntry) (s : State) : (setDir lu e s).tenantTargets = s.tenantTargets := rfl
@[simp] theorem setDir_hotRows (lu : Nat) (e : DirEntry) (s : State) : (setDir lu e s).hotRows = s.hotRows := rfl
@[simp] theorem setDir_retiredRows (lu : Nat) (e : DirEntry) (s : State) : (setDir lu e s).retiredRows = s.retiredRows := rfl
@[simp] theorem setDir_powerStacks (lu : Nat) (e : DirEntry) (s : State) : (setDir lu e s).powerStacks = s.powerStacks := rfl
@[simp] theorem setDir_powerCompute (lu : Nat) (e : DirEntry) (s : State) : (setDir lu e s).powerCompute = s.powerCompute := rfl
@[simp] theorem setDir_powerIo (lu : Nat) (e : DirEntry) (s : State) : (setDir lu e s).powerIo = s.powerIo := rfl
@[simp] theorem setDir_cycles (lu : Nat) (e : DirEntry) (s : State) : (setDir lu e s).cycles = s.cycles := rfl
@[simp] theorem setDir_owed (lu : Nat) (e : DirEntry) (s : State) : (setDir lu e s).owed = s.owed := rfl
@[simp] theorem setDir_tick (lu : Nat) (e : DirEntry) (s : State) : (setDir lu e s).tick = s.tick := rfl

@[simp] theorem setHart_agenda (n : Nat) (h : Hart) (s : State) : (setHart n h s).agenda = s.agenda := by unfold setHart; split <;> rfl
@[simp] theorem setHart_args (n : Nat) (h : Hart) (s : State) : (setHart n h s).args = s.args := by unfold setHart; split <;> rfl
@[simp] theorem setHart_cur (n : Nat) (h : Hart) (s : State) : (setHart n h s).cur = s.cur := by unfold setHart; split <;> rfl
@[simp] theorem setHart_cores (n : Nat) (h : Hart) (s : State) : (setHart n h s).cores = s.cores := by unfold setHart; split <;> rfl
@[simp] theorem setHart_dies (n : Nat) (h : Hart) (s : State) : (setHart n h s).dies = s.dies := by unfold setHart; split <;> rfl
@[simp] theorem setHart_mem (n : Nat) (h : Hart) (s : State) : (setHart n h s).mem = s.mem := by unfold setHart; split <;> rfl
@[simp] theorem setHart_poison (n : Nat) (h : Hart) (s : State) : (setHart n h s).poison = s.poison := by unfold setHart; split <;> rfl
@[simp] theorem setHart_correctable (n : Nat) (h : Hart) (s : State) : (setHart n h s).correctable = s.correctable := by unfold setHart; split <;> rfl
@[simp] theorem setHart_detected (n : Nat) (h : Hart) (s : State) : (setHart n h s).detected = s.detected := by unfold setHart; split <;> rfl
@[simp] theorem setHart_l1 (n : Nat) (h : Hart) (s : State) : (setHart n h s).l1 = s.l1 := by unfold setHart; split <;> rfl
@[simp] theorem setHart_l2 (n : Nat) (h : Hart) (s : State) : (setHart n h s).l2 = s.l2 := by unfold setHart; split <;> rfl
@[simp] theorem setHart_dir (n : Nat) (h : Hart) (s : State) : (setHart n h s).dir = s.dir := by unfold setHart; split <;> rfl
@[simp] theorem setHart_fills (n : Nat) (h : Hart) (s : State) : (setHart n h s).fills = s.fills := by unfold setHart; split <;> rfl
@[simp] theorem setHart_net (n : Nat) (h : Hart) (s : State) : (setHart n h s).net = s.net := by unfold setHart; split <;> rfl
@[simp] theorem setHart_settles (n : Nat) (h : Hart) (s : State) : (setHart n h s).settles = s.settles := by unfold setHart; split <;> rfl
@[simp] theorem setHart_discards (n : Nat) (h : Hart) (s : State) : (setHart n h s).discards = s.discards := by unfold setHart; split <;> rfl
@[simp] theorem setHart_tlbInvs (n : Nat) (h : Hart) (s : State) : (setHart n h s).tlbInvs = s.tlbInvs := by unfold setHart; split <;> rfl
@[simp] theorem setHart_regionTable (n : Nat) (h : Hart) (s : State) : (setHart n h s).regionTable = s.regionTable := by unfold setHart; split <;> rfl
@[simp] theorem setHart_ipRunning (n : Nat) (h : Hart) (s : State) : (setHart n h s).ipRunning = s.ipRunning := by unfold setHart; split <;> rfl
@[simp] theorem setHart_tickets (n : Nat) (h : Hart) (s : State) : (setHart n h s).tickets = s.tickets := by unfold setHart; split <;> rfl
@[simp] theorem setHart_barriers (n : Nat) (h : Hart) (s : State) : (setHart n h s).barriers = s.barriers := by unfold setHart; split <;> rfl
@[simp] theorem setHart_errCounters (n : Nat) (h : Hart) (s : State) : (setHart n h s).errCounters = s.errCounters := by unfold setHart; split <;> rfl
@[simp] theorem setHart_snapId (n : Nat) (h : Hart) (s : State) : (setHart n h s).snapId = s.snapId := by unfold setHart; split <;> rfl
@[simp] theorem setHart_snapSel (n : Nat) (h : Hart) (s : State) : (setHart n h s).snapSel = s.snapSel := by unfold setHart; split <;> rfl
@[simp] theorem setHart_snapPending (n : Nat) (h : Hart) (s : State) : (setHart n h s).snapPending = s.snapPending := by unfold setHart; split <;> rfl
@[simp] theorem setHart_snapLow (n : Nat) (h : Hart) (s : State) : (setHart n h s).snapLow = s.snapLow := by unfold setHart; split <;> rfl
@[simp] theorem setHart_snapData (n : Nat) (h : Hart) (s : State) : (setHart n h s).snapData = s.snapData := by unfold setHart; split <;> rfl
@[simp] theorem setHart_hosterr (n : Nat) (h : Hart) (s : State) : (setHart n h s).hosterr = s.hosterr := by unfold setHart; split <;> rfl
@[simp] theorem setHart_pwrlim (n : Nat) (h : Hart) (s : State) : (setHart n h s).pwrlim = s.pwrlim := by unfold setHart; split <;> rfl
@[simp] theorem setHart_pwrDies (n : Nat) (h : Hart) (s : State) : (setHart n h s).pwrDies = s.pwrDies := by unfold setHart; split <;> rfl
@[simp] theorem setHart_pwrStacks (n : Nat) (h : Hart) (s : State) : (setHart n h s).pwrStacks = s.pwrStacks := by unfold setHart; split <;> rfl
@[simp] theorem setHart_pwrIo (n : Nat) (h : Hart) (s : State) : (setHart n h s).pwrIo = s.pwrIo := by unfold setHart; split <;> rfl
@[simp] theorem setHart_clock (n : Nat) (h : Hart) (s : State) : (setHart n h s).clock = s.clock := by unfold setHart; split <;> rfl
@[simp] theorem setHart_bootPhase (n : Nat) (h : Hart) (s : State) : (setHart n h s).bootPhase = s.bootPhase := by unfold setHart; split <;> rfl
@[simp] theorem setHart_bootReason (n : Nat) (h : Hart) (s : State) : (setHart n h s).bootReason = s.bootReason := by unfold setHart; split <;> rfl
@[simp] theorem setHart_bootUnit (n : Nat) (h : Hart) (s : State) : (setHart n h s).bootUnit = s.bootUnit := by unfold setHart; split <;> rfl
@[simp] theorem setHart_bootFails (n : Nat) (h : Hart) (s : State) : (setHart n h s).bootFails = s.bootFails := by unfold setHart; split <;> rfl
@[simp] theorem setHart_fwOp (n : Nat) (h : Hart) (s : State) : (setHart n h s).fwOp = s.fwOp := by unfold setHart; split <;> rfl
@[simp] theorem setHart_fwRun (n : Nat) (h : Hart) (s : State) : (setHart n h s).fwRun = s.fwRun := by unfold setHart; split <;> rfl
@[simp] theorem setHart_fwaddr (n : Nat) (h : Hart) (s : State) : (setHart n h s).fwaddr = s.fwaddr := by unfold setHart; split <;> rfl
@[simp] theorem setHart_fwBusy (n : Nat) (h : Hart) (s : State) : (setHart n h s).fwBusy = s.fwBusy := by unfold setHart; split <;> rfl
@[simp] theorem setHart_fwResult (n : Nat) (h : Hart) (s : State) : (setHart n h s).fwResult = s.fwResult := by unfold setHart; split <;> rfl
@[simp] theorem setHart_fwRecovery (n : Nat) (h : Hart) (s : State) : (setHart n h s).fwRecovery = s.fwRecovery := by unfold setHart; split <;> rfl
@[simp] theorem setHart_bar2off (n : Nat) (h : Hart) (s : State) : (setHart n h s).bar2off = s.bar2off := by unfold setHart; split <;> rfl
@[simp] theorem setHart_bar2size (n : Nat) (h : Hart) (s : State) : (setHart n h s).bar2size = s.bar2size := by unfold setHart; split <;> rfl
@[simp] theorem setHart_fabid (n : Nat) (h : Hart) (s : State) : (setHart n h s).fabid = s.fabid := by unfold setHart; split <;> rfl
@[simp] theorem setHart_recov (n : Nat) (h : Hart) (s : State) : (setHart n h s).recov = s.recov := by unfold setHart; split <;> rfl
@[simp] theorem setHart_enrol (n : Nat) (h : Hart) (s : State) : (setHart n h s).enrol = s.enrol := by unfold setHart; split <;> rfl
@[simp] theorem setHart_flash (n : Nat) (h : Hart) (s : State) : (setHart n h s).flash = s.flash := by unfold setHart; split <;> rfl
@[simp] theorem setHart_ports (n : Nat) (h : Hart) (s : State) : (setHart n h s).ports = s.ports := by unfold setHart; split <;> rfl
@[simp] theorem setHart_remotes (n : Nat) (h : Hart) (s : State) : (setHart n h s).remotes = s.remotes := by unfold setHart; split <;> rfl
@[simp] theorem setHart_nextRemote (n : Nat) (h : Hart) (s : State) : (setHart n h s).nextRemote = s.nextRemote := by unfold setHart; split <;> rfl
@[simp] theorem setHart_bridge (n : Nat) (h : Hart) (s : State) : (setHart n h s).bridge = s.bridge := by unfold setHart; split <;> rfl
@[simp] theorem setHart_posted (n : Nat) (h : Hart) (s : State) : (setHart n h s).posted = s.posted := by unfold setHart; split <;> rfl
@[simp] theorem setHart_backInv (n : Nat) (h : Hart) (s : State) : (setHart n h s).backInv = s.backInv := by unfold setHart; split <;> rfl
@[simp] theorem setHart_cxl (n : Nat) (h : Hart) (s : State) : (setHart n h s).cxl = s.cxl := by unfold setHart; split <;> rfl
@[simp] theorem setHart_hostReply (n : Nat) (h : Hart) (s : State) : (setHart n h s).hostReply = s.hostReply := by unfold setHart; split <;> rfl
@[simp] theorem setHart_msix (n : Nat) (h : Hart) (s : State) : (setHart n h s).msix = s.msix := by unfold setHart; split <;> rfl
@[simp] theorem setHart_regions (n : Nat) (h : Hart) (s : State) : (setHart n h s).regions = s.regions := by unfold setHart; split <;> rfl
@[simp] theorem setHart_tenantTargets (n : Nat) (h : Hart) (s : State) : (setHart n h s).tenantTargets = s.tenantTargets := by unfold setHart; split <;> rfl
@[simp] theorem setHart_hotRows (n : Nat) (h : Hart) (s : State) : (setHart n h s).hotRows = s.hotRows := by unfold setHart; split <;> rfl
@[simp] theorem setHart_retiredRows (n : Nat) (h : Hart) (s : State) : (setHart n h s).retiredRows = s.retiredRows := by unfold setHart; split <;> rfl
@[simp] theorem setHart_powerStacks (n : Nat) (h : Hart) (s : State) : (setHart n h s).powerStacks = s.powerStacks := by unfold setHart; split <;> rfl
@[simp] theorem setHart_powerCompute (n : Nat) (h : Hart) (s : State) : (setHart n h s).powerCompute = s.powerCompute := by unfold setHart; split <;> rfl
@[simp] theorem setHart_powerIo (n : Nat) (h : Hart) (s : State) : (setHart n h s).powerIo = s.powerIo := by unfold setHart; split <;> rfl
@[simp] theorem setHart_cycles (n : Nat) (h : Hart) (s : State) : (setHart n h s).cycles = s.cycles := by unfold setHart; split <;> rfl
@[simp] theorem setHart_owed (n : Nat) (h : Hart) (s : State) : (setHart n h s).owed = s.owed := by unfold setHart; split <;> rfl
@[simp] theorem setHart_tick (n : Nat) (h : Hart) (s : State) : (setHart n h s).tick = s.tick := by unfold setHart; split <;> rfl

@[simp] theorem switchTo_agenda (n : Nat) (s : State) : (switchTo n s).agenda = s.agenda := by unfold switchTo; split <;> rfl
@[simp] theorem switchTo_args (n : Nat) (s : State) : (switchTo n s).args = s.args := by unfold switchTo; split <;> rfl
@[simp] theorem switchTo_cores (n : Nat) (s : State) : (switchTo n s).cores = s.cores := by unfold switchTo; split <;> rfl
@[simp] theorem switchTo_dies (n : Nat) (s : State) : (switchTo n s).dies = s.dies := by unfold switchTo; split <;> rfl
@[simp] theorem switchTo_mem (n : Nat) (s : State) : (switchTo n s).mem = s.mem := by unfold switchTo; split <;> rfl
@[simp] theorem switchTo_poison (n : Nat) (s : State) : (switchTo n s).poison = s.poison := by unfold switchTo; split <;> rfl
@[simp] theorem switchTo_correctable (n : Nat) (s : State) : (switchTo n s).correctable = s.correctable := by unfold switchTo; split <;> rfl
@[simp] theorem switchTo_detected (n : Nat) (s : State) : (switchTo n s).detected = s.detected := by unfold switchTo; split <;> rfl
@[simp] theorem switchTo_l1 (n : Nat) (s : State) : (switchTo n s).l1 = s.l1 := by unfold switchTo; split <;> rfl
@[simp] theorem switchTo_l2 (n : Nat) (s : State) : (switchTo n s).l2 = s.l2 := by unfold switchTo; split <;> rfl
@[simp] theorem switchTo_dir (n : Nat) (s : State) : (switchTo n s).dir = s.dir := by unfold switchTo; split <;> rfl
@[simp] theorem switchTo_fills (n : Nat) (s : State) : (switchTo n s).fills = s.fills := by unfold switchTo; split <;> rfl
@[simp] theorem switchTo_net (n : Nat) (s : State) : (switchTo n s).net = s.net := by unfold switchTo; split <;> rfl
@[simp] theorem switchTo_settles (n : Nat) (s : State) : (switchTo n s).settles = s.settles := by unfold switchTo; split <;> rfl
@[simp] theorem switchTo_discards (n : Nat) (s : State) : (switchTo n s).discards = s.discards := by unfold switchTo; split <;> rfl
@[simp] theorem switchTo_tlbInvs (n : Nat) (s : State) : (switchTo n s).tlbInvs = s.tlbInvs := by unfold switchTo; split <;> rfl
@[simp] theorem switchTo_regionTable (n : Nat) (s : State) : (switchTo n s).regionTable = s.regionTable := by unfold switchTo; split <;> rfl
@[simp] theorem switchTo_ipRunning (n : Nat) (s : State) : (switchTo n s).ipRunning = s.ipRunning := by unfold switchTo; split <;> rfl
@[simp] theorem switchTo_tickets (n : Nat) (s : State) : (switchTo n s).tickets = s.tickets := by unfold switchTo; split <;> rfl
@[simp] theorem switchTo_barriers (n : Nat) (s : State) : (switchTo n s).barriers = s.barriers := by unfold switchTo; split <;> rfl
@[simp] theorem switchTo_errCounters (n : Nat) (s : State) : (switchTo n s).errCounters = s.errCounters := by unfold switchTo; split <;> rfl
@[simp] theorem switchTo_snapId (n : Nat) (s : State) : (switchTo n s).snapId = s.snapId := by unfold switchTo; split <;> rfl
@[simp] theorem switchTo_snapSel (n : Nat) (s : State) : (switchTo n s).snapSel = s.snapSel := by unfold switchTo; split <;> rfl
@[simp] theorem switchTo_snapPending (n : Nat) (s : State) : (switchTo n s).snapPending = s.snapPending := by unfold switchTo; split <;> rfl
@[simp] theorem switchTo_snapLow (n : Nat) (s : State) : (switchTo n s).snapLow = s.snapLow := by unfold switchTo; split <;> rfl
@[simp] theorem switchTo_snapData (n : Nat) (s : State) : (switchTo n s).snapData = s.snapData := by unfold switchTo; split <;> rfl
@[simp] theorem switchTo_hosterr (n : Nat) (s : State) : (switchTo n s).hosterr = s.hosterr := by unfold switchTo; split <;> rfl
@[simp] theorem switchTo_pwrlim (n : Nat) (s : State) : (switchTo n s).pwrlim = s.pwrlim := by unfold switchTo; split <;> rfl
@[simp] theorem switchTo_pwrDies (n : Nat) (s : State) : (switchTo n s).pwrDies = s.pwrDies := by unfold switchTo; split <;> rfl
@[simp] theorem switchTo_pwrStacks (n : Nat) (s : State) : (switchTo n s).pwrStacks = s.pwrStacks := by unfold switchTo; split <;> rfl
@[simp] theorem switchTo_pwrIo (n : Nat) (s : State) : (switchTo n s).pwrIo = s.pwrIo := by unfold switchTo; split <;> rfl
@[simp] theorem switchTo_clock (n : Nat) (s : State) : (switchTo n s).clock = s.clock := by unfold switchTo; split <;> rfl
@[simp] theorem switchTo_bootPhase (n : Nat) (s : State) : (switchTo n s).bootPhase = s.bootPhase := by unfold switchTo; split <;> rfl
@[simp] theorem switchTo_bootReason (n : Nat) (s : State) : (switchTo n s).bootReason = s.bootReason := by unfold switchTo; split <;> rfl
@[simp] theorem switchTo_bootUnit (n : Nat) (s : State) : (switchTo n s).bootUnit = s.bootUnit := by unfold switchTo; split <;> rfl
@[simp] theorem switchTo_bootFails (n : Nat) (s : State) : (switchTo n s).bootFails = s.bootFails := by unfold switchTo; split <;> rfl
@[simp] theorem switchTo_fwOp (n : Nat) (s : State) : (switchTo n s).fwOp = s.fwOp := by unfold switchTo; split <;> rfl
@[simp] theorem switchTo_fwRun (n : Nat) (s : State) : (switchTo n s).fwRun = s.fwRun := by unfold switchTo; split <;> rfl
@[simp] theorem switchTo_fwaddr (n : Nat) (s : State) : (switchTo n s).fwaddr = s.fwaddr := by unfold switchTo; split <;> rfl
@[simp] theorem switchTo_fwBusy (n : Nat) (s : State) : (switchTo n s).fwBusy = s.fwBusy := by unfold switchTo; split <;> rfl
@[simp] theorem switchTo_fwResult (n : Nat) (s : State) : (switchTo n s).fwResult = s.fwResult := by unfold switchTo; split <;> rfl
@[simp] theorem switchTo_fwRecovery (n : Nat) (s : State) : (switchTo n s).fwRecovery = s.fwRecovery := by unfold switchTo; split <;> rfl
@[simp] theorem switchTo_bar2off (n : Nat) (s : State) : (switchTo n s).bar2off = s.bar2off := by unfold switchTo; split <;> rfl
@[simp] theorem switchTo_bar2size (n : Nat) (s : State) : (switchTo n s).bar2size = s.bar2size := by unfold switchTo; split <;> rfl
@[simp] theorem switchTo_fabid (n : Nat) (s : State) : (switchTo n s).fabid = s.fabid := by unfold switchTo; split <;> rfl
@[simp] theorem switchTo_recov (n : Nat) (s : State) : (switchTo n s).recov = s.recov := by unfold switchTo; split <;> rfl
@[simp] theorem switchTo_enrol (n : Nat) (s : State) : (switchTo n s).enrol = s.enrol := by unfold switchTo; split <;> rfl
@[simp] theorem switchTo_flash (n : Nat) (s : State) : (switchTo n s).flash = s.flash := by unfold switchTo; split <;> rfl
@[simp] theorem switchTo_ports (n : Nat) (s : State) : (switchTo n s).ports = s.ports := by unfold switchTo; split <;> rfl
@[simp] theorem switchTo_remotes (n : Nat) (s : State) : (switchTo n s).remotes = s.remotes := by unfold switchTo; split <;> rfl
@[simp] theorem switchTo_nextRemote (n : Nat) (s : State) : (switchTo n s).nextRemote = s.nextRemote := by unfold switchTo; split <;> rfl
@[simp] theorem switchTo_bridge (n : Nat) (s : State) : (switchTo n s).bridge = s.bridge := by unfold switchTo; split <;> rfl
@[simp] theorem switchTo_posted (n : Nat) (s : State) : (switchTo n s).posted = s.posted := by unfold switchTo; split <;> rfl
@[simp] theorem switchTo_backInv (n : Nat) (s : State) : (switchTo n s).backInv = s.backInv := by unfold switchTo; split <;> rfl
@[simp] theorem switchTo_cxl (n : Nat) (s : State) : (switchTo n s).cxl = s.cxl := by unfold switchTo; split <;> rfl
@[simp] theorem switchTo_hostReply (n : Nat) (s : State) : (switchTo n s).hostReply = s.hostReply := by unfold switchTo; split <;> rfl
@[simp] theorem switchTo_msix (n : Nat) (s : State) : (switchTo n s).msix = s.msix := by unfold switchTo; split <;> rfl
@[simp] theorem switchTo_regions (n : Nat) (s : State) : (switchTo n s).regions = s.regions := by unfold switchTo; split <;> rfl
@[simp] theorem switchTo_tenantTargets (n : Nat) (s : State) : (switchTo n s).tenantTargets = s.tenantTargets := by unfold switchTo; split <;> rfl
@[simp] theorem switchTo_hotRows (n : Nat) (s : State) : (switchTo n s).hotRows = s.hotRows := by unfold switchTo; split <;> rfl
@[simp] theorem switchTo_retiredRows (n : Nat) (s : State) : (switchTo n s).retiredRows = s.retiredRows := by unfold switchTo; split <;> rfl
@[simp] theorem switchTo_powerStacks (n : Nat) (s : State) : (switchTo n s).powerStacks = s.powerStacks := by unfold switchTo; split <;> rfl
@[simp] theorem switchTo_powerCompute (n : Nat) (s : State) : (switchTo n s).powerCompute = s.powerCompute := by unfold switchTo; split <;> rfl
@[simp] theorem switchTo_powerIo (n : Nat) (s : State) : (switchTo n s).powerIo = s.powerIo := by unfold switchTo; split <;> rfl
@[simp] theorem switchTo_cycles (n : Nat) (s : State) : (switchTo n s).cycles = s.cycles := by unfold switchTo; split <;> rfl
@[simp] theorem switchTo_owed (n : Nat) (s : State) : (switchTo n s).owed = s.owed := by unfold switchTo; split <;> rfl
@[simp] theorem switchTo_tick (n : Nat) (s : State) : (switchTo n s).tick = s.tick := by unfold switchTo; split <;> rfl

/-! ## Registers and the PC of the turn's hart -/

@[simp] theorem writeS_agenda (r : SReg) (v : Word) (s : State) : (writeS r v s).agenda = s.agenda := by unfold writeS; split <;> rfl
@[simp] theorem writeS_args (r : SReg) (v : Word) (s : State) : (writeS r v s).args = s.args := by unfold writeS; split <;> rfl
@[simp] theorem writeS_cur (r : SReg) (v : Word) (s : State) : (writeS r v s).cur = s.cur := by unfold writeS; split <;> rfl
@[simp] theorem writeS_others (r : SReg) (v : Word) (s : State) : (writeS r v s).others = s.others := by unfold writeS; split <;> rfl
@[simp] theorem writeS_cores (r : SReg) (v : Word) (s : State) : (writeS r v s).cores = s.cores := by unfold writeS; split <;> rfl
@[simp] theorem writeS_dies (r : SReg) (v : Word) (s : State) : (writeS r v s).dies = s.dies := by unfold writeS; split <;> rfl
@[simp] theorem writeS_mem (r : SReg) (v : Word) (s : State) : (writeS r v s).mem = s.mem := by unfold writeS; split <;> rfl
@[simp] theorem writeS_poison (r : SReg) (v : Word) (s : State) : (writeS r v s).poison = s.poison := by unfold writeS; split <;> rfl
@[simp] theorem writeS_correctable (r : SReg) (v : Word) (s : State) : (writeS r v s).correctable = s.correctable := by unfold writeS; split <;> rfl
@[simp] theorem writeS_detected (r : SReg) (v : Word) (s : State) : (writeS r v s).detected = s.detected := by unfold writeS; split <;> rfl
@[simp] theorem writeS_l1 (r : SReg) (v : Word) (s : State) : (writeS r v s).l1 = s.l1 := by unfold writeS; split <;> rfl
@[simp] theorem writeS_l2 (r : SReg) (v : Word) (s : State) : (writeS r v s).l2 = s.l2 := by unfold writeS; split <;> rfl
@[simp] theorem writeS_dir (r : SReg) (v : Word) (s : State) : (writeS r v s).dir = s.dir := by unfold writeS; split <;> rfl
@[simp] theorem writeS_fills (r : SReg) (v : Word) (s : State) : (writeS r v s).fills = s.fills := by unfold writeS; split <;> rfl
@[simp] theorem writeS_net (r : SReg) (v : Word) (s : State) : (writeS r v s).net = s.net := by unfold writeS; split <;> rfl
@[simp] theorem writeS_settles (r : SReg) (v : Word) (s : State) : (writeS r v s).settles = s.settles := by unfold writeS; split <;> rfl
@[simp] theorem writeS_discards (r : SReg) (v : Word) (s : State) : (writeS r v s).discards = s.discards := by unfold writeS; split <;> rfl
@[simp] theorem writeS_tlbInvs (r : SReg) (v : Word) (s : State) : (writeS r v s).tlbInvs = s.tlbInvs := by unfold writeS; split <;> rfl
@[simp] theorem writeS_regionTable (r : SReg) (v : Word) (s : State) : (writeS r v s).regionTable = s.regionTable := by unfold writeS; split <;> rfl
@[simp] theorem writeS_ipRunning (r : SReg) (v : Word) (s : State) : (writeS r v s).ipRunning = s.ipRunning := by unfold writeS; split <;> rfl
@[simp] theorem writeS_tickets (r : SReg) (v : Word) (s : State) : (writeS r v s).tickets = s.tickets := by unfold writeS; split <;> rfl
@[simp] theorem writeS_barriers (r : SReg) (v : Word) (s : State) : (writeS r v s).barriers = s.barriers := by unfold writeS; split <;> rfl
@[simp] theorem writeS_errCounters (r : SReg) (v : Word) (s : State) : (writeS r v s).errCounters = s.errCounters := by unfold writeS; split <;> rfl
@[simp] theorem writeS_snapId (r : SReg) (v : Word) (s : State) : (writeS r v s).snapId = s.snapId := by unfold writeS; split <;> rfl
@[simp] theorem writeS_snapSel (r : SReg) (v : Word) (s : State) : (writeS r v s).snapSel = s.snapSel := by unfold writeS; split <;> rfl
@[simp] theorem writeS_snapPending (r : SReg) (v : Word) (s : State) : (writeS r v s).snapPending = s.snapPending := by unfold writeS; split <;> rfl
@[simp] theorem writeS_snapLow (r : SReg) (v : Word) (s : State) : (writeS r v s).snapLow = s.snapLow := by unfold writeS; split <;> rfl
@[simp] theorem writeS_snapData (r : SReg) (v : Word) (s : State) : (writeS r v s).snapData = s.snapData := by unfold writeS; split <;> rfl
@[simp] theorem writeS_hosterr (r : SReg) (v : Word) (s : State) : (writeS r v s).hosterr = s.hosterr := by unfold writeS; split <;> rfl
@[simp] theorem writeS_pwrlim (r : SReg) (v : Word) (s : State) : (writeS r v s).pwrlim = s.pwrlim := by unfold writeS; split <;> rfl
@[simp] theorem writeS_pwrDies (r : SReg) (v : Word) (s : State) : (writeS r v s).pwrDies = s.pwrDies := by unfold writeS; split <;> rfl
@[simp] theorem writeS_pwrStacks (r : SReg) (v : Word) (s : State) : (writeS r v s).pwrStacks = s.pwrStacks := by unfold writeS; split <;> rfl
@[simp] theorem writeS_pwrIo (r : SReg) (v : Word) (s : State) : (writeS r v s).pwrIo = s.pwrIo := by unfold writeS; split <;> rfl
@[simp] theorem writeS_clock (r : SReg) (v : Word) (s : State) : (writeS r v s).clock = s.clock := by unfold writeS; split <;> rfl
@[simp] theorem writeS_bootPhase (r : SReg) (v : Word) (s : State) : (writeS r v s).bootPhase = s.bootPhase := by unfold writeS; split <;> rfl
@[simp] theorem writeS_bootReason (r : SReg) (v : Word) (s : State) : (writeS r v s).bootReason = s.bootReason := by unfold writeS; split <;> rfl
@[simp] theorem writeS_bootUnit (r : SReg) (v : Word) (s : State) : (writeS r v s).bootUnit = s.bootUnit := by unfold writeS; split <;> rfl
@[simp] theorem writeS_bootFails (r : SReg) (v : Word) (s : State) : (writeS r v s).bootFails = s.bootFails := by unfold writeS; split <;> rfl
@[simp] theorem writeS_fwOp (r : SReg) (v : Word) (s : State) : (writeS r v s).fwOp = s.fwOp := by unfold writeS; split <;> rfl
@[simp] theorem writeS_fwRun (r : SReg) (v : Word) (s : State) : (writeS r v s).fwRun = s.fwRun := by unfold writeS; split <;> rfl
@[simp] theorem writeS_fwaddr (r : SReg) (v : Word) (s : State) : (writeS r v s).fwaddr = s.fwaddr := by unfold writeS; split <;> rfl
@[simp] theorem writeS_fwBusy (r : SReg) (v : Word) (s : State) : (writeS r v s).fwBusy = s.fwBusy := by unfold writeS; split <;> rfl
@[simp] theorem writeS_fwResult (r : SReg) (v : Word) (s : State) : (writeS r v s).fwResult = s.fwResult := by unfold writeS; split <;> rfl
@[simp] theorem writeS_fwRecovery (r : SReg) (v : Word) (s : State) : (writeS r v s).fwRecovery = s.fwRecovery := by unfold writeS; split <;> rfl
@[simp] theorem writeS_bar2off (r : SReg) (v : Word) (s : State) : (writeS r v s).bar2off = s.bar2off := by unfold writeS; split <;> rfl
@[simp] theorem writeS_bar2size (r : SReg) (v : Word) (s : State) : (writeS r v s).bar2size = s.bar2size := by unfold writeS; split <;> rfl
@[simp] theorem writeS_fabid (r : SReg) (v : Word) (s : State) : (writeS r v s).fabid = s.fabid := by unfold writeS; split <;> rfl
@[simp] theorem writeS_recov (r : SReg) (v : Word) (s : State) : (writeS r v s).recov = s.recov := by unfold writeS; split <;> rfl
@[simp] theorem writeS_enrol (r : SReg) (v : Word) (s : State) : (writeS r v s).enrol = s.enrol := by unfold writeS; split <;> rfl
@[simp] theorem writeS_flash (r : SReg) (v : Word) (s : State) : (writeS r v s).flash = s.flash := by unfold writeS; split <;> rfl
@[simp] theorem writeS_ports (r : SReg) (v : Word) (s : State) : (writeS r v s).ports = s.ports := by unfold writeS; split <;> rfl
@[simp] theorem writeS_remotes (r : SReg) (v : Word) (s : State) : (writeS r v s).remotes = s.remotes := by unfold writeS; split <;> rfl
@[simp] theorem writeS_nextRemote (r : SReg) (v : Word) (s : State) : (writeS r v s).nextRemote = s.nextRemote := by unfold writeS; split <;> rfl
@[simp] theorem writeS_bridge (r : SReg) (v : Word) (s : State) : (writeS r v s).bridge = s.bridge := by unfold writeS; split <;> rfl
@[simp] theorem writeS_posted (r : SReg) (v : Word) (s : State) : (writeS r v s).posted = s.posted := by unfold writeS; split <;> rfl
@[simp] theorem writeS_backInv (r : SReg) (v : Word) (s : State) : (writeS r v s).backInv = s.backInv := by unfold writeS; split <;> rfl
@[simp] theorem writeS_cxl (r : SReg) (v : Word) (s : State) : (writeS r v s).cxl = s.cxl := by unfold writeS; split <;> rfl
@[simp] theorem writeS_hostReply (r : SReg) (v : Word) (s : State) : (writeS r v s).hostReply = s.hostReply := by unfold writeS; split <;> rfl
@[simp] theorem writeS_msix (r : SReg) (v : Word) (s : State) : (writeS r v s).msix = s.msix := by unfold writeS; split <;> rfl
@[simp] theorem writeS_regions (r : SReg) (v : Word) (s : State) : (writeS r v s).regions = s.regions := by unfold writeS; split <;> rfl
@[simp] theorem writeS_tenantTargets (r : SReg) (v : Word) (s : State) : (writeS r v s).tenantTargets = s.tenantTargets := by unfold writeS; split <;> rfl
@[simp] theorem writeS_hotRows (r : SReg) (v : Word) (s : State) : (writeS r v s).hotRows = s.hotRows := by unfold writeS; split <;> rfl
@[simp] theorem writeS_retiredRows (r : SReg) (v : Word) (s : State) : (writeS r v s).retiredRows = s.retiredRows := by unfold writeS; split <;> rfl
@[simp] theorem writeS_powerStacks (r : SReg) (v : Word) (s : State) : (writeS r v s).powerStacks = s.powerStacks := by unfold writeS; split <;> rfl
@[simp] theorem writeS_powerCompute (r : SReg) (v : Word) (s : State) : (writeS r v s).powerCompute = s.powerCompute := by unfold writeS; split <;> rfl
@[simp] theorem writeS_powerIo (r : SReg) (v : Word) (s : State) : (writeS r v s).powerIo = s.powerIo := by unfold writeS; split <;> rfl
@[simp] theorem writeS_cycles (r : SReg) (v : Word) (s : State) : (writeS r v s).cycles = s.cycles := by unfold writeS; split <;> rfl
@[simp] theorem writeS_owed (r : SReg) (v : Word) (s : State) : (writeS r v s).owed = s.owed := by unfold writeS; split <;> rfl
@[simp] theorem writeS_tick (r : SReg) (v : Word) (s : State) : (writeS r v s).tick = s.tick := by unfold writeS; split <;> rfl

@[simp] theorem continueAt_agenda (pc : Word) (s : State) : (continueAt pc s).agenda = s.agenda := rfl
@[simp] theorem continueAt_args (pc : Word) (s : State) : (continueAt pc s).args = s.args := rfl
@[simp] theorem continueAt_cur (pc : Word) (s : State) : (continueAt pc s).cur = s.cur := rfl
@[simp] theorem continueAt_others (pc : Word) (s : State) : (continueAt pc s).others = s.others := rfl
@[simp] theorem continueAt_cores (pc : Word) (s : State) : (continueAt pc s).cores = s.cores := rfl
@[simp] theorem continueAt_dies (pc : Word) (s : State) : (continueAt pc s).dies = s.dies := rfl
@[simp] theorem continueAt_mem (pc : Word) (s : State) : (continueAt pc s).mem = s.mem := rfl
@[simp] theorem continueAt_poison (pc : Word) (s : State) : (continueAt pc s).poison = s.poison := rfl
@[simp] theorem continueAt_correctable (pc : Word) (s : State) : (continueAt pc s).correctable = s.correctable := rfl
@[simp] theorem continueAt_detected (pc : Word) (s : State) : (continueAt pc s).detected = s.detected := rfl
@[simp] theorem continueAt_l1 (pc : Word) (s : State) : (continueAt pc s).l1 = s.l1 := rfl
@[simp] theorem continueAt_l2 (pc : Word) (s : State) : (continueAt pc s).l2 = s.l2 := rfl
@[simp] theorem continueAt_dir (pc : Word) (s : State) : (continueAt pc s).dir = s.dir := rfl
@[simp] theorem continueAt_fills (pc : Word) (s : State) : (continueAt pc s).fills = s.fills := rfl
@[simp] theorem continueAt_net (pc : Word) (s : State) : (continueAt pc s).net = s.net := rfl
@[simp] theorem continueAt_settles (pc : Word) (s : State) : (continueAt pc s).settles = s.settles := rfl
@[simp] theorem continueAt_discards (pc : Word) (s : State) : (continueAt pc s).discards = s.discards := rfl
@[simp] theorem continueAt_tlbInvs (pc : Word) (s : State) : (continueAt pc s).tlbInvs = s.tlbInvs := rfl
@[simp] theorem continueAt_regionTable (pc : Word) (s : State) : (continueAt pc s).regionTable = s.regionTable := rfl
@[simp] theorem continueAt_ipRunning (pc : Word) (s : State) : (continueAt pc s).ipRunning = s.ipRunning := rfl
@[simp] theorem continueAt_tickets (pc : Word) (s : State) : (continueAt pc s).tickets = s.tickets := rfl
@[simp] theorem continueAt_barriers (pc : Word) (s : State) : (continueAt pc s).barriers = s.barriers := rfl
@[simp] theorem continueAt_errCounters (pc : Word) (s : State) : (continueAt pc s).errCounters = s.errCounters := rfl
@[simp] theorem continueAt_snapId (pc : Word) (s : State) : (continueAt pc s).snapId = s.snapId := rfl
@[simp] theorem continueAt_snapSel (pc : Word) (s : State) : (continueAt pc s).snapSel = s.snapSel := rfl
@[simp] theorem continueAt_snapPending (pc : Word) (s : State) : (continueAt pc s).snapPending = s.snapPending := rfl
@[simp] theorem continueAt_snapLow (pc : Word) (s : State) : (continueAt pc s).snapLow = s.snapLow := rfl
@[simp] theorem continueAt_snapData (pc : Word) (s : State) : (continueAt pc s).snapData = s.snapData := rfl
@[simp] theorem continueAt_hosterr (pc : Word) (s : State) : (continueAt pc s).hosterr = s.hosterr := rfl
@[simp] theorem continueAt_pwrlim (pc : Word) (s : State) : (continueAt pc s).pwrlim = s.pwrlim := rfl
@[simp] theorem continueAt_pwrDies (pc : Word) (s : State) : (continueAt pc s).pwrDies = s.pwrDies := rfl
@[simp] theorem continueAt_pwrStacks (pc : Word) (s : State) : (continueAt pc s).pwrStacks = s.pwrStacks := rfl
@[simp] theorem continueAt_pwrIo (pc : Word) (s : State) : (continueAt pc s).pwrIo = s.pwrIo := rfl
@[simp] theorem continueAt_clock (pc : Word) (s : State) : (continueAt pc s).clock = s.clock := rfl
@[simp] theorem continueAt_bootPhase (pc : Word) (s : State) : (continueAt pc s).bootPhase = s.bootPhase := rfl
@[simp] theorem continueAt_bootReason (pc : Word) (s : State) : (continueAt pc s).bootReason = s.bootReason := rfl
@[simp] theorem continueAt_bootUnit (pc : Word) (s : State) : (continueAt pc s).bootUnit = s.bootUnit := rfl
@[simp] theorem continueAt_bootFails (pc : Word) (s : State) : (continueAt pc s).bootFails = s.bootFails := rfl
@[simp] theorem continueAt_fwOp (pc : Word) (s : State) : (continueAt pc s).fwOp = s.fwOp := rfl
@[simp] theorem continueAt_fwRun (pc : Word) (s : State) : (continueAt pc s).fwRun = s.fwRun := rfl
@[simp] theorem continueAt_fwaddr (pc : Word) (s : State) : (continueAt pc s).fwaddr = s.fwaddr := rfl
@[simp] theorem continueAt_fwBusy (pc : Word) (s : State) : (continueAt pc s).fwBusy = s.fwBusy := rfl
@[simp] theorem continueAt_fwResult (pc : Word) (s : State) : (continueAt pc s).fwResult = s.fwResult := rfl
@[simp] theorem continueAt_fwRecovery (pc : Word) (s : State) : (continueAt pc s).fwRecovery = s.fwRecovery := rfl
@[simp] theorem continueAt_bar2off (pc : Word) (s : State) : (continueAt pc s).bar2off = s.bar2off := rfl
@[simp] theorem continueAt_bar2size (pc : Word) (s : State) : (continueAt pc s).bar2size = s.bar2size := rfl
@[simp] theorem continueAt_fabid (pc : Word) (s : State) : (continueAt pc s).fabid = s.fabid := rfl
@[simp] theorem continueAt_recov (pc : Word) (s : State) : (continueAt pc s).recov = s.recov := rfl
@[simp] theorem continueAt_enrol (pc : Word) (s : State) : (continueAt pc s).enrol = s.enrol := rfl
@[simp] theorem continueAt_flash (pc : Word) (s : State) : (continueAt pc s).flash = s.flash := rfl
@[simp] theorem continueAt_ports (pc : Word) (s : State) : (continueAt pc s).ports = s.ports := rfl
@[simp] theorem continueAt_remotes (pc : Word) (s : State) : (continueAt pc s).remotes = s.remotes := rfl
@[simp] theorem continueAt_nextRemote (pc : Word) (s : State) : (continueAt pc s).nextRemote = s.nextRemote := rfl
@[simp] theorem continueAt_bridge (pc : Word) (s : State) : (continueAt pc s).bridge = s.bridge := rfl
@[simp] theorem continueAt_posted (pc : Word) (s : State) : (continueAt pc s).posted = s.posted := rfl
@[simp] theorem continueAt_backInv (pc : Word) (s : State) : (continueAt pc s).backInv = s.backInv := rfl
@[simp] theorem continueAt_cxl (pc : Word) (s : State) : (continueAt pc s).cxl = s.cxl := rfl
@[simp] theorem continueAt_hostReply (pc : Word) (s : State) : (continueAt pc s).hostReply = s.hostReply := rfl
@[simp] theorem continueAt_msix (pc : Word) (s : State) : (continueAt pc s).msix = s.msix := rfl
@[simp] theorem continueAt_regions (pc : Word) (s : State) : (continueAt pc s).regions = s.regions := rfl
@[simp] theorem continueAt_tenantTargets (pc : Word) (s : State) : (continueAt pc s).tenantTargets = s.tenantTargets := rfl
@[simp] theorem continueAt_hotRows (pc : Word) (s : State) : (continueAt pc s).hotRows = s.hotRows := rfl
@[simp] theorem continueAt_retiredRows (pc : Word) (s : State) : (continueAt pc s).retiredRows = s.retiredRows := rfl
@[simp] theorem continueAt_powerStacks (pc : Word) (s : State) : (continueAt pc s).powerStacks = s.powerStacks := rfl
@[simp] theorem continueAt_powerCompute (pc : Word) (s : State) : (continueAt pc s).powerCompute = s.powerCompute := rfl
@[simp] theorem continueAt_powerIo (pc : Word) (s : State) : (continueAt pc s).powerIo = s.powerIo := rfl
@[simp] theorem continueAt_cycles (pc : Word) (s : State) : (continueAt pc s).cycles = s.cycles := rfl
@[simp] theorem continueAt_owed (pc : Word) (s : State) : (continueAt pc s).owed = s.owed := rfl
@[simp] theorem continueAt_tick (pc : Word) (s : State) : (continueAt pc s).tick = s.tick := rfl

@[simp] theorem writeS_h_run (r : SReg) (v : Word) (s : State) : (writeS r v s).h.run = s.h.run := by unfold writeS; split <;> rfl
@[simp] theorem writeS_h_logical (r : SReg) (v : Word) (s : State) : (writeS r v s).h.logical = s.h.logical := by unfold writeS; split <;> rfl
@[simp] theorem writeS_h_pc (r : SReg) (v : Word) (s : State) : (writeS r v s).h.pc = s.h.pc := by unfold writeS; split <;> rfl
@[simp] theorem writeS_h_status (r : SReg) (v : Word) (s : State) : (writeS r v s).h.status = s.h.status := by unfold writeS; split <;> rfl
@[simp] theorem writeS_h_trapvec (r : SReg) (v : Word) (s : State) : (writeS r v s).h.trapvec = s.h.trapvec := by unfold writeS; split <;> rfl
@[simp] theorem writeS_h_epc (r : SReg) (v : Word) (s : State) : (writeS r v s).h.epc = s.h.epc := by unfold writeS; split <;> rfl
@[simp] theorem writeS_h_trapcause (r : SReg) (v : Word) (s : State) : (writeS r v s).h.trapcause = s.h.trapcause := by unfold writeS; split <;> rfl
@[simp] theorem writeS_h_trapval (r : SReg) (v : Word) (s : State) : (writeS r v s).h.trapval = s.h.trapval := by unfold writeS; split <;> rfl
@[simp] theorem writeS_h_trapqpos (r : SReg) (v : Word) (s : State) : (writeS r v s).h.trapqpos = s.h.trapqpos := by unfold writeS; split <;> rfl
@[simp] theorem writeS_h_scratch (r : SReg) (v : Word) (s : State) : (writeS r v s).h.scratch = s.h.scratch := by unfold writeS; split <;> rfl
@[simp] theorem writeS_h_asid (r : SReg) (v : Word) (s : State) : (writeS r v s).h.asid = s.h.asid := by unfold writeS; split <;> rfl
@[simp] theorem writeS_h_ptbase (r : SReg) (v : Word) (s : State) : (writeS r v s).h.ptbase = s.h.ptbase := by unfold writeS; split <;> rfl
@[simp] theorem writeS_h_conf (r : SReg) (v : Word) (s : State) : (writeS r v s).h.conf = s.h.conf := by unfold writeS; split <;> rfl
@[simp] theorem writeS_h_vstart (r : SReg) (v : Word) (s : State) : (writeS r v s).h.vstart = s.h.vstart := by unfold writeS; split <;> rfl
@[simp] theorem writeS_h_vdirty (r : SReg) (v : Word) (s : State) : (writeS r v s).h.vdirty = s.h.vdirty := by unfold writeS; split <;> rfl
@[simp] theorem writeS_h_marks (r : SReg) (v : Word) (s : State) : (writeS r v s).h.marks = s.h.marks := by unfold writeS; split <;> rfl
@[simp] theorem writeS_h_vhwsel (r : SReg) (v : Word) (s : State) : (writeS r v s).h.vhwsel = s.h.vhwsel := by unfold writeS; split <;> rfl
@[simp] theorem writeS_h_fflags (r : SReg) (v : Word) (s : State) : (writeS r v s).h.fflags = s.h.fflags := by unfold writeS; split <;> rfl
@[simp] theorem writeS_h_frm (r : SReg) (v : Word) (s : State) : (writeS r v s).h.frm = s.h.frm := by unfold writeS; split <;> rfl
@[simp] theorem writeS_h_smflags (r : SReg) (v : Word) (s : State) : (writeS r v s).h.smflags = s.h.smflags := by unfold writeS; split <;> rfl
@[simp] theorem writeS_h_mxflags (r : SReg) (v : Word) (s : State) : (writeS r v s).h.mxflags = s.h.mxflags := by unfold writeS; split <;> rfl
@[simp] theorem writeS_h_errctl (r : SReg) (v : Word) (s : State) : (writeS r v s).h.errctl = s.h.errctl := by unfold writeS; split <;> rfl
@[simp] theorem writeS_h_waityield (r : SReg) (v : Word) (s : State) : (writeS r v s).h.waityield = s.h.waityield := by unfold writeS; split <;> rfl
@[simp] theorem writeS_h_waitlim (r : SReg) (v : Word) (s : State) : (writeS r v s).h.waitlim = s.h.waitlim := by unfold writeS; split <;> rfl
@[simp] theorem writeS_h_v (r : SReg) (v : Word) (s : State) : (writeS r v s).h.v = s.h.v := by unfold writeS; split <;> rfl
@[simp] theorem writeS_h_m (r : SReg) (v : Word) (s : State) : (writeS r v s).h.m = s.h.m := by unfold writeS; split <;> rfl
@[simp] theorem writeS_h_md (r : SReg) (v : Word) (s : State) : (writeS r v s).h.md = s.h.md := by unfold writeS; split <;> rfl
@[simp] theorem writeS_h_g (r : SReg) (v : Word) (s : State) : (writeS r v s).h.g = s.h.g := by unfold writeS; split <;> rfl
@[simp] theorem writeS_h_queue (r : SReg) (v : Word) (s : State) : (writeS r v s).h.queue = s.h.queue := by unfold writeS; split <;> rfl
@[simp] theorem writeS_h_arrived (r : SReg) (v : Word) (s : State) : (writeS r v s).h.arrived = s.h.arrived := by unfold writeS; split <;> rfl
@[simp] theorem writeS_h_performing (r : SReg) (v : Word) (s : State) : (writeS r v s).h.performing = s.h.performing := by unfold writeS; split <;> rfl
@[simp] theorem writeS_h_qhead (r : SReg) (v : Word) (s : State) : (writeS r v s).h.qhead = s.h.qhead := by unfold writeS; split <;> rfl
@[simp] theorem writeS_h_frozen (r : SReg) (v : Word) (s : State) : (writeS r v s).h.frozen = s.h.frozen := by unfold writeS; split <;> rfl
@[simp] theorem writeS_h_headConf (r : SReg) (v : Word) (s : State) : (writeS r v s).h.headConf = s.h.headConf := by unfold writeS; split <;> rfl
@[simp] theorem writeS_h_readback (r : SReg) (v : Word) (s : State) : (writeS r v s).h.readback = s.h.readback := by unfold writeS; split <;> rfl
@[simp] theorem writeS_h_loadData (r : SReg) (v : Word) (s : State) : (writeS r v s).h.loadData = s.h.loadData := by unfold writeS; split <;> rfl
@[simp] theorem writeS_h_loadFirst (r : SReg) (v : Word) (s : State) : (writeS r v s).h.loadFirst = s.h.loadFirst := by unfold writeS; split <;> rfl
@[simp] theorem writeS_h_ipFifo (r : SReg) (v : Word) (s : State) : (writeS r v s).h.ipFifo = s.h.ipFifo := by unfold writeS; split <;> rfl
@[simp] theorem writeS_h_ipNext (r : SReg) (v : Word) (s : State) : (writeS r v s).h.ipNext = s.h.ipNext := by unfold writeS; split <;> rfl
@[simp] theorem writeS_h_ipMark (r : SReg) (v : Word) (s : State) : (writeS r v s).h.ipMark = s.h.ipMark := by unfold writeS; split <;> rfl
@[simp] theorem writeS_h_ipErrors (r : SReg) (v : Word) (s : State) : (writeS r v s).h.ipErrors = s.h.ipErrors := by unfold writeS; split <;> rfl
@[simp] theorem writeS_h_remoteWrites (r : SReg) (v : Word) (s : State) : (writeS r v s).h.remoteWrites = s.h.remoteWrites := by unfold writeS; split <;> rfl
@[simp] theorem writeS_h_irqs (r : SReg) (v : Word) (s : State) : (writeS r v s).h.irqs = s.h.irqs := by unfold writeS; split <;> rfl
@[simp] theorem writeS_h_preempt (r : SReg) (v : Word) (s : State) : (writeS r v s).h.preempt = s.h.preempt := by unfold writeS; split <;> rfl
@[simp] theorem writeS_h_perf (r : SReg) (v : Word) (s : State) : (writeS r v s).h.perf = s.h.perf := by unfold writeS; split <;> rfl
@[simp] theorem writeS_h_waitT0 (r : SReg) (v : Word) (s : State) : (writeS r v s).h.waitT0 = s.h.waitT0 := by unfold writeS; split <;> rfl
@[simp] theorem writeS_h_waitOn (r : SReg) (v : Word) (s : State) : (writeS r v s).h.waitOn = s.h.waitOn := by unfold writeS; split <;> rfl
@[simp] theorem writeS_h_stalled (r : SReg) (v : Word) (s : State) : (writeS r v s).h.stalled = s.h.stalled := by unfold writeS; split <;> rfl
@[simp] theorem writeS_h_full (r : SReg) (v : Word) (s : State) : (writeS r v s).h.full = s.h.full := by unfold writeS; split <;> rfl
@[simp] theorem writeS_h_wfaWait (r : SReg) (v : Word) (s : State) : (writeS r v s).h.wfaWait = s.h.wfaWait := by unfold writeS; split <;> rfl
@[simp] theorem writeS_h_saveBlock (r : SReg) (v : Word) (s : State) : (writeS r v s).h.saveBlock = s.h.saveBlock := by unfold writeS; split <;> rfl
@[simp] theorem writeS_h_replay (r : SReg) (v : Word) (s : State) : (writeS r v s).h.replay = s.h.replay := by unfold writeS; split <;> rfl
@[simp] theorem writeS_h_pass (r : SReg) (v : Word) (s : State) : (writeS r v s).h.pass = s.h.pass := by unfold writeS; split <;> rfl
@[simp] theorem writeS_h_front (r : SReg) (v : Word) (s : State) : (writeS r v s).h.front = s.h.front := by unfold writeS; split <;> rfl
@[simp] theorem writeS_h_memberPass (r : SReg) (v : Word) (s : State) : (writeS r v s).h.memberPass = s.h.memberPass := by unfold writeS; split <;> rfl
@[simp] theorem writeS_h_lastUse (r : SReg) (v : Word) (s : State) : (writeS r v s).h.lastUse = s.h.lastUse := by unfold writeS; split <;> rfl
@[simp] theorem writeS_h_owesTrap (r : SReg) (v : Word) (s : State) : (writeS r v s).h.owesTrap = s.h.owesTrap := by unfold writeS; split <;> rfl
@[simp] theorem writeS_h_arrayTrap (r : SReg) (v : Word) (s : State) : (writeS r v s).h.arrayTrap = s.h.arrayTrap := by unfold writeS; split <;> rfl

@[simp] theorem continueAt_h_run (pc : Word) (s : State) : (continueAt pc s).h.run = s.h.run := rfl
@[simp] theorem continueAt_h_logical (pc : Word) (s : State) : (continueAt pc s).h.logical = s.h.logical := rfl
@[simp] theorem continueAt_h_x (pc : Word) (s : State) : (continueAt pc s).h.x = s.h.x := rfl
@[simp] theorem continueAt_h_status (pc : Word) (s : State) : (continueAt pc s).h.status = s.h.status := rfl
@[simp] theorem continueAt_h_trapvec (pc : Word) (s : State) : (continueAt pc s).h.trapvec = s.h.trapvec := rfl
@[simp] theorem continueAt_h_epc (pc : Word) (s : State) : (continueAt pc s).h.epc = s.h.epc := rfl
@[simp] theorem continueAt_h_trapcause (pc : Word) (s : State) : (continueAt pc s).h.trapcause = s.h.trapcause := rfl
@[simp] theorem continueAt_h_trapval (pc : Word) (s : State) : (continueAt pc s).h.trapval = s.h.trapval := rfl
@[simp] theorem continueAt_h_trapqpos (pc : Word) (s : State) : (continueAt pc s).h.trapqpos = s.h.trapqpos := rfl
@[simp] theorem continueAt_h_scratch (pc : Word) (s : State) : (continueAt pc s).h.scratch = s.h.scratch := rfl
@[simp] theorem continueAt_h_asid (pc : Word) (s : State) : (continueAt pc s).h.asid = s.h.asid := rfl
@[simp] theorem continueAt_h_ptbase (pc : Word) (s : State) : (continueAt pc s).h.ptbase = s.h.ptbase := rfl
@[simp] theorem continueAt_h_conf (pc : Word) (s : State) : (continueAt pc s).h.conf = s.h.conf := rfl
@[simp] theorem continueAt_h_vstart (pc : Word) (s : State) : (continueAt pc s).h.vstart = s.h.vstart := rfl
@[simp] theorem continueAt_h_vdirty (pc : Word) (s : State) : (continueAt pc s).h.vdirty = s.h.vdirty := rfl
@[simp] theorem continueAt_h_marks (pc : Word) (s : State) : (continueAt pc s).h.marks = s.h.marks := rfl
@[simp] theorem continueAt_h_vhwsel (pc : Word) (s : State) : (continueAt pc s).h.vhwsel = s.h.vhwsel := rfl
@[simp] theorem continueAt_h_fflags (pc : Word) (s : State) : (continueAt pc s).h.fflags = s.h.fflags := rfl
@[simp] theorem continueAt_h_frm (pc : Word) (s : State) : (continueAt pc s).h.frm = s.h.frm := rfl
@[simp] theorem continueAt_h_smflags (pc : Word) (s : State) : (continueAt pc s).h.smflags = s.h.smflags := rfl
@[simp] theorem continueAt_h_mxflags (pc : Word) (s : State) : (continueAt pc s).h.mxflags = s.h.mxflags := rfl
@[simp] theorem continueAt_h_errctl (pc : Word) (s : State) : (continueAt pc s).h.errctl = s.h.errctl := rfl
@[simp] theorem continueAt_h_waityield (pc : Word) (s : State) : (continueAt pc s).h.waityield = s.h.waityield := rfl
@[simp] theorem continueAt_h_waitlim (pc : Word) (s : State) : (continueAt pc s).h.waitlim = s.h.waitlim := rfl
@[simp] theorem continueAt_h_v (pc : Word) (s : State) : (continueAt pc s).h.v = s.h.v := rfl
@[simp] theorem continueAt_h_m (pc : Word) (s : State) : (continueAt pc s).h.m = s.h.m := rfl
@[simp] theorem continueAt_h_md (pc : Word) (s : State) : (continueAt pc s).h.md = s.h.md := rfl
@[simp] theorem continueAt_h_g (pc : Word) (s : State) : (continueAt pc s).h.g = s.h.g := rfl
@[simp] theorem continueAt_h_queue (pc : Word) (s : State) : (continueAt pc s).h.queue = s.h.queue := rfl
@[simp] theorem continueAt_h_arrived (pc : Word) (s : State) : (continueAt pc s).h.arrived = s.h.arrived := rfl
@[simp] theorem continueAt_h_performing (pc : Word) (s : State) : (continueAt pc s).h.performing = s.h.performing := rfl
@[simp] theorem continueAt_h_qhead (pc : Word) (s : State) : (continueAt pc s).h.qhead = s.h.qhead := rfl
@[simp] theorem continueAt_h_frozen (pc : Word) (s : State) : (continueAt pc s).h.frozen = s.h.frozen := rfl
@[simp] theorem continueAt_h_headConf (pc : Word) (s : State) : (continueAt pc s).h.headConf = s.h.headConf := rfl
@[simp] theorem continueAt_h_readback (pc : Word) (s : State) : (continueAt pc s).h.readback = s.h.readback := rfl
@[simp] theorem continueAt_h_loadData (pc : Word) (s : State) : (continueAt pc s).h.loadData = s.h.loadData := rfl
@[simp] theorem continueAt_h_loadFirst (pc : Word) (s : State) : (continueAt pc s).h.loadFirst = s.h.loadFirst := rfl
@[simp] theorem continueAt_h_ipFifo (pc : Word) (s : State) : (continueAt pc s).h.ipFifo = s.h.ipFifo := rfl
@[simp] theorem continueAt_h_ipNext (pc : Word) (s : State) : (continueAt pc s).h.ipNext = s.h.ipNext := rfl
@[simp] theorem continueAt_h_ipMark (pc : Word) (s : State) : (continueAt pc s).h.ipMark = s.h.ipMark := rfl
@[simp] theorem continueAt_h_ipErrors (pc : Word) (s : State) : (continueAt pc s).h.ipErrors = s.h.ipErrors := rfl
@[simp] theorem continueAt_h_remoteWrites (pc : Word) (s : State) : (continueAt pc s).h.remoteWrites = s.h.remoteWrites := rfl
@[simp] theorem continueAt_h_irqs (pc : Word) (s : State) : (continueAt pc s).h.irqs = s.h.irqs := rfl
@[simp] theorem continueAt_h_preempt (pc : Word) (s : State) : (continueAt pc s).h.preempt = s.h.preempt := rfl
@[simp] theorem continueAt_h_waitOn (pc : Word) (s : State) : (continueAt pc s).h.waitOn = s.h.waitOn := rfl
@[simp] theorem continueAt_h_saveBlock (pc : Word) (s : State) : (continueAt pc s).h.saveBlock = s.h.saveBlock := rfl
@[simp] theorem continueAt_h_replay (pc : Word) (s : State) : (continueAt pc s).h.replay = s.h.replay := rfl
@[simp] theorem continueAt_h_pass (pc : Word) (s : State) : (continueAt pc s).h.pass = s.h.pass := rfl
@[simp] theorem continueAt_h_front (pc : Word) (s : State) : (continueAt pc s).h.front = s.h.front := rfl
@[simp] theorem continueAt_h_memberPass (pc : Word) (s : State) : (continueAt pc s).h.memberPass = s.h.memberPass := rfl
@[simp] theorem continueAt_h_lastUse (pc : Word) (s : State) : (continueAt pc s).h.lastUse = s.h.lastUse := rfl
@[simp] theorem continueAt_h_owesTrap (pc : Word) (s : State) : (continueAt pc s).h.owesTrap = s.h.owesTrap := rfl
@[simp] theorem continueAt_h_arrayTrap (pc : Word) (s : State) : (continueAt pc s).h.arrayTrap = s.h.arrayTrap := rfl
@[simp] theorem continueAt_h_pc (pc : Word) (s : State) : (continueAt pc s).h.pc = pc := rfl
@[simp] theorem continueAt_h_stalled (pc : Word) (s : State) : (continueAt pc s).h.stalled = false := rfl
@[simp] theorem continueAt_h_waitT0 (pc : Word) (s : State) : (continueAt pc s).h.waitT0 = none := rfl
@[simp] theorem continueAt_h_full (pc : Word) (s : State) : (continueAt pc s).h.full = false := rfl
@[simp] theorem continueAt_h_wfaWait (pc : Word) (s : State) : (continueAt pc s).h.wfaWait = false := rfl

/-! ## Records, counters and signals -/

@[simp] theorem countErr_agenda (i : Nat) (s : State) : (countErr i s).agenda = s.agenda := rfl
@[simp] theorem countErr_args (i : Nat) (s : State) : (countErr i s).args = s.args := rfl
@[simp] theorem countErr_cur (i : Nat) (s : State) : (countErr i s).cur = s.cur := rfl
@[simp] theorem countErr_h (i : Nat) (s : State) : (countErr i s).h = s.h := rfl
@[simp] theorem countErr_others (i : Nat) (s : State) : (countErr i s).others = s.others := rfl
@[simp] theorem countErr_cores (i : Nat) (s : State) : (countErr i s).cores = s.cores := rfl
@[simp] theorem countErr_dies (i : Nat) (s : State) : (countErr i s).dies = s.dies := rfl
@[simp] theorem countErr_mem (i : Nat) (s : State) : (countErr i s).mem = s.mem := rfl
@[simp] theorem countErr_poison (i : Nat) (s : State) : (countErr i s).poison = s.poison := rfl
@[simp] theorem countErr_correctable (i : Nat) (s : State) : (countErr i s).correctable = s.correctable := rfl
@[simp] theorem countErr_detected (i : Nat) (s : State) : (countErr i s).detected = s.detected := rfl
@[simp] theorem countErr_l1 (i : Nat) (s : State) : (countErr i s).l1 = s.l1 := rfl
@[simp] theorem countErr_l2 (i : Nat) (s : State) : (countErr i s).l2 = s.l2 := rfl
@[simp] theorem countErr_dir (i : Nat) (s : State) : (countErr i s).dir = s.dir := rfl
@[simp] theorem countErr_fills (i : Nat) (s : State) : (countErr i s).fills = s.fills := rfl
@[simp] theorem countErr_net (i : Nat) (s : State) : (countErr i s).net = s.net := rfl
@[simp] theorem countErr_settles (i : Nat) (s : State) : (countErr i s).settles = s.settles := rfl
@[simp] theorem countErr_discards (i : Nat) (s : State) : (countErr i s).discards = s.discards := rfl
@[simp] theorem countErr_tlbInvs (i : Nat) (s : State) : (countErr i s).tlbInvs = s.tlbInvs := rfl
@[simp] theorem countErr_regionTable (i : Nat) (s : State) : (countErr i s).regionTable = s.regionTable := rfl
@[simp] theorem countErr_ipRunning (i : Nat) (s : State) : (countErr i s).ipRunning = s.ipRunning := rfl
@[simp] theorem countErr_tickets (i : Nat) (s : State) : (countErr i s).tickets = s.tickets := rfl
@[simp] theorem countErr_barriers (i : Nat) (s : State) : (countErr i s).barriers = s.barriers := rfl
@[simp] theorem countErr_snapId (i : Nat) (s : State) : (countErr i s).snapId = s.snapId := rfl
@[simp] theorem countErr_snapSel (i : Nat) (s : State) : (countErr i s).snapSel = s.snapSel := rfl
@[simp] theorem countErr_snapPending (i : Nat) (s : State) : (countErr i s).snapPending = s.snapPending := rfl
@[simp] theorem countErr_snapLow (i : Nat) (s : State) : (countErr i s).snapLow = s.snapLow := rfl
@[simp] theorem countErr_snapData (i : Nat) (s : State) : (countErr i s).snapData = s.snapData := rfl
@[simp] theorem countErr_hosterr (i : Nat) (s : State) : (countErr i s).hosterr = s.hosterr := rfl
@[simp] theorem countErr_pwrlim (i : Nat) (s : State) : (countErr i s).pwrlim = s.pwrlim := rfl
@[simp] theorem countErr_pwrDies (i : Nat) (s : State) : (countErr i s).pwrDies = s.pwrDies := rfl
@[simp] theorem countErr_pwrStacks (i : Nat) (s : State) : (countErr i s).pwrStacks = s.pwrStacks := rfl
@[simp] theorem countErr_pwrIo (i : Nat) (s : State) : (countErr i s).pwrIo = s.pwrIo := rfl
@[simp] theorem countErr_clock (i : Nat) (s : State) : (countErr i s).clock = s.clock := rfl
@[simp] theorem countErr_bootPhase (i : Nat) (s : State) : (countErr i s).bootPhase = s.bootPhase := rfl
@[simp] theorem countErr_bootReason (i : Nat) (s : State) : (countErr i s).bootReason = s.bootReason := rfl
@[simp] theorem countErr_bootUnit (i : Nat) (s : State) : (countErr i s).bootUnit = s.bootUnit := rfl
@[simp] theorem countErr_bootFails (i : Nat) (s : State) : (countErr i s).bootFails = s.bootFails := rfl
@[simp] theorem countErr_fwOp (i : Nat) (s : State) : (countErr i s).fwOp = s.fwOp := rfl
@[simp] theorem countErr_fwRun (i : Nat) (s : State) : (countErr i s).fwRun = s.fwRun := rfl
@[simp] theorem countErr_fwaddr (i : Nat) (s : State) : (countErr i s).fwaddr = s.fwaddr := rfl
@[simp] theorem countErr_fwBusy (i : Nat) (s : State) : (countErr i s).fwBusy = s.fwBusy := rfl
@[simp] theorem countErr_fwResult (i : Nat) (s : State) : (countErr i s).fwResult = s.fwResult := rfl
@[simp] theorem countErr_fwRecovery (i : Nat) (s : State) : (countErr i s).fwRecovery = s.fwRecovery := rfl
@[simp] theorem countErr_bar2off (i : Nat) (s : State) : (countErr i s).bar2off = s.bar2off := rfl
@[simp] theorem countErr_bar2size (i : Nat) (s : State) : (countErr i s).bar2size = s.bar2size := rfl
@[simp] theorem countErr_fabid (i : Nat) (s : State) : (countErr i s).fabid = s.fabid := rfl
@[simp] theorem countErr_recov (i : Nat) (s : State) : (countErr i s).recov = s.recov := rfl
@[simp] theorem countErr_enrol (i : Nat) (s : State) : (countErr i s).enrol = s.enrol := rfl
@[simp] theorem countErr_flash (i : Nat) (s : State) : (countErr i s).flash = s.flash := rfl
@[simp] theorem countErr_ports (i : Nat) (s : State) : (countErr i s).ports = s.ports := rfl
@[simp] theorem countErr_remotes (i : Nat) (s : State) : (countErr i s).remotes = s.remotes := rfl
@[simp] theorem countErr_nextRemote (i : Nat) (s : State) : (countErr i s).nextRemote = s.nextRemote := rfl
@[simp] theorem countErr_bridge (i : Nat) (s : State) : (countErr i s).bridge = s.bridge := rfl
@[simp] theorem countErr_posted (i : Nat) (s : State) : (countErr i s).posted = s.posted := rfl
@[simp] theorem countErr_backInv (i : Nat) (s : State) : (countErr i s).backInv = s.backInv := rfl
@[simp] theorem countErr_cxl (i : Nat) (s : State) : (countErr i s).cxl = s.cxl := rfl
@[simp] theorem countErr_hostReply (i : Nat) (s : State) : (countErr i s).hostReply = s.hostReply := rfl
@[simp] theorem countErr_msix (i : Nat) (s : State) : (countErr i s).msix = s.msix := rfl
@[simp] theorem countErr_regions (i : Nat) (s : State) : (countErr i s).regions = s.regions := rfl
@[simp] theorem countErr_tenantTargets (i : Nat) (s : State) : (countErr i s).tenantTargets = s.tenantTargets := rfl
@[simp] theorem countErr_hotRows (i : Nat) (s : State) : (countErr i s).hotRows = s.hotRows := rfl
@[simp] theorem countErr_retiredRows (i : Nat) (s : State) : (countErr i s).retiredRows = s.retiredRows := rfl
@[simp] theorem countErr_powerStacks (i : Nat) (s : State) : (countErr i s).powerStacks = s.powerStacks := rfl
@[simp] theorem countErr_powerCompute (i : Nat) (s : State) : (countErr i s).powerCompute = s.powerCompute := rfl
@[simp] theorem countErr_powerIo (i : Nat) (s : State) : (countErr i s).powerIo = s.powerIo := rfl
@[simp] theorem countErr_cycles (i : Nat) (s : State) : (countErr i s).cycles = s.cycles := rfl
@[simp] theorem countErr_owed (i : Nat) (s : State) : (countErr i s).owed = s.owed := rfl
@[simp] theorem countErr_tick (i : Nat) (s : State) : (countErr i s).tick = s.tick := rfl

@[simp] theorem signalMsix_agenda (n : Nat) (s : State) : (signalMsix n s).agenda = s.agenda := rfl
@[simp] theorem signalMsix_args (n : Nat) (s : State) : (signalMsix n s).args = s.args := rfl
@[simp] theorem signalMsix_cur (n : Nat) (s : State) : (signalMsix n s).cur = s.cur := rfl
@[simp] theorem signalMsix_h (n : Nat) (s : State) : (signalMsix n s).h = s.h := rfl
@[simp] theorem signalMsix_others (n : Nat) (s : State) : (signalMsix n s).others = s.others := rfl
@[simp] theorem signalMsix_cores (n : Nat) (s : State) : (signalMsix n s).cores = s.cores := rfl
@[simp] theorem signalMsix_dies (n : Nat) (s : State) : (signalMsix n s).dies = s.dies := rfl
@[simp] theorem signalMsix_mem (n : Nat) (s : State) : (signalMsix n s).mem = s.mem := rfl
@[simp] theorem signalMsix_poison (n : Nat) (s : State) : (signalMsix n s).poison = s.poison := rfl
@[simp] theorem signalMsix_correctable (n : Nat) (s : State) : (signalMsix n s).correctable = s.correctable := rfl
@[simp] theorem signalMsix_detected (n : Nat) (s : State) : (signalMsix n s).detected = s.detected := rfl
@[simp] theorem signalMsix_l1 (n : Nat) (s : State) : (signalMsix n s).l1 = s.l1 := rfl
@[simp] theorem signalMsix_l2 (n : Nat) (s : State) : (signalMsix n s).l2 = s.l2 := rfl
@[simp] theorem signalMsix_dir (n : Nat) (s : State) : (signalMsix n s).dir = s.dir := rfl
@[simp] theorem signalMsix_fills (n : Nat) (s : State) : (signalMsix n s).fills = s.fills := rfl
@[simp] theorem signalMsix_net (n : Nat) (s : State) : (signalMsix n s).net = s.net := rfl
@[simp] theorem signalMsix_settles (n : Nat) (s : State) : (signalMsix n s).settles = s.settles := rfl
@[simp] theorem signalMsix_discards (n : Nat) (s : State) : (signalMsix n s).discards = s.discards := rfl
@[simp] theorem signalMsix_tlbInvs (n : Nat) (s : State) : (signalMsix n s).tlbInvs = s.tlbInvs := rfl
@[simp] theorem signalMsix_regionTable (n : Nat) (s : State) : (signalMsix n s).regionTable = s.regionTable := rfl
@[simp] theorem signalMsix_ipRunning (n : Nat) (s : State) : (signalMsix n s).ipRunning = s.ipRunning := rfl
@[simp] theorem signalMsix_tickets (n : Nat) (s : State) : (signalMsix n s).tickets = s.tickets := rfl
@[simp] theorem signalMsix_barriers (n : Nat) (s : State) : (signalMsix n s).barriers = s.barriers := rfl
@[simp] theorem signalMsix_errCounters (n : Nat) (s : State) : (signalMsix n s).errCounters = s.errCounters := rfl
@[simp] theorem signalMsix_snapId (n : Nat) (s : State) : (signalMsix n s).snapId = s.snapId := rfl
@[simp] theorem signalMsix_snapSel (n : Nat) (s : State) : (signalMsix n s).snapSel = s.snapSel := rfl
@[simp] theorem signalMsix_snapPending (n : Nat) (s : State) : (signalMsix n s).snapPending = s.snapPending := rfl
@[simp] theorem signalMsix_snapLow (n : Nat) (s : State) : (signalMsix n s).snapLow = s.snapLow := rfl
@[simp] theorem signalMsix_snapData (n : Nat) (s : State) : (signalMsix n s).snapData = s.snapData := rfl
@[simp] theorem signalMsix_hosterr (n : Nat) (s : State) : (signalMsix n s).hosterr = s.hosterr := rfl
@[simp] theorem signalMsix_pwrlim (n : Nat) (s : State) : (signalMsix n s).pwrlim = s.pwrlim := rfl
@[simp] theorem signalMsix_pwrDies (n : Nat) (s : State) : (signalMsix n s).pwrDies = s.pwrDies := rfl
@[simp] theorem signalMsix_pwrStacks (n : Nat) (s : State) : (signalMsix n s).pwrStacks = s.pwrStacks := rfl
@[simp] theorem signalMsix_pwrIo (n : Nat) (s : State) : (signalMsix n s).pwrIo = s.pwrIo := rfl
@[simp] theorem signalMsix_clock (n : Nat) (s : State) : (signalMsix n s).clock = s.clock := rfl
@[simp] theorem signalMsix_bootPhase (n : Nat) (s : State) : (signalMsix n s).bootPhase = s.bootPhase := rfl
@[simp] theorem signalMsix_bootReason (n : Nat) (s : State) : (signalMsix n s).bootReason = s.bootReason := rfl
@[simp] theorem signalMsix_bootUnit (n : Nat) (s : State) : (signalMsix n s).bootUnit = s.bootUnit := rfl
@[simp] theorem signalMsix_bootFails (n : Nat) (s : State) : (signalMsix n s).bootFails = s.bootFails := rfl
@[simp] theorem signalMsix_fwOp (n : Nat) (s : State) : (signalMsix n s).fwOp = s.fwOp := rfl
@[simp] theorem signalMsix_fwRun (n : Nat) (s : State) : (signalMsix n s).fwRun = s.fwRun := rfl
@[simp] theorem signalMsix_fwaddr (n : Nat) (s : State) : (signalMsix n s).fwaddr = s.fwaddr := rfl
@[simp] theorem signalMsix_fwBusy (n : Nat) (s : State) : (signalMsix n s).fwBusy = s.fwBusy := rfl
@[simp] theorem signalMsix_fwResult (n : Nat) (s : State) : (signalMsix n s).fwResult = s.fwResult := rfl
@[simp] theorem signalMsix_fwRecovery (n : Nat) (s : State) : (signalMsix n s).fwRecovery = s.fwRecovery := rfl
@[simp] theorem signalMsix_bar2off (n : Nat) (s : State) : (signalMsix n s).bar2off = s.bar2off := rfl
@[simp] theorem signalMsix_bar2size (n : Nat) (s : State) : (signalMsix n s).bar2size = s.bar2size := rfl
@[simp] theorem signalMsix_fabid (n : Nat) (s : State) : (signalMsix n s).fabid = s.fabid := rfl
@[simp] theorem signalMsix_recov (n : Nat) (s : State) : (signalMsix n s).recov = s.recov := rfl
@[simp] theorem signalMsix_enrol (n : Nat) (s : State) : (signalMsix n s).enrol = s.enrol := rfl
@[simp] theorem signalMsix_flash (n : Nat) (s : State) : (signalMsix n s).flash = s.flash := rfl
@[simp] theorem signalMsix_ports (n : Nat) (s : State) : (signalMsix n s).ports = s.ports := rfl
@[simp] theorem signalMsix_remotes (n : Nat) (s : State) : (signalMsix n s).remotes = s.remotes := rfl
@[simp] theorem signalMsix_nextRemote (n : Nat) (s : State) : (signalMsix n s).nextRemote = s.nextRemote := rfl
@[simp] theorem signalMsix_bridge (n : Nat) (s : State) : (signalMsix n s).bridge = s.bridge := rfl
@[simp] theorem signalMsix_posted (n : Nat) (s : State) : (signalMsix n s).posted = s.posted := rfl
@[simp] theorem signalMsix_backInv (n : Nat) (s : State) : (signalMsix n s).backInv = s.backInv := rfl
@[simp] theorem signalMsix_cxl (n : Nat) (s : State) : (signalMsix n s).cxl = s.cxl := rfl
@[simp] theorem signalMsix_hostReply (n : Nat) (s : State) : (signalMsix n s).hostReply = s.hostReply := rfl
@[simp] theorem signalMsix_regions (n : Nat) (s : State) : (signalMsix n s).regions = s.regions := rfl
@[simp] theorem signalMsix_tenantTargets (n : Nat) (s : State) : (signalMsix n s).tenantTargets = s.tenantTargets := rfl
@[simp] theorem signalMsix_hotRows (n : Nat) (s : State) : (signalMsix n s).hotRows = s.hotRows := rfl
@[simp] theorem signalMsix_retiredRows (n : Nat) (s : State) : (signalMsix n s).retiredRows = s.retiredRows := rfl
@[simp] theorem signalMsix_powerStacks (n : Nat) (s : State) : (signalMsix n s).powerStacks = s.powerStacks := rfl
@[simp] theorem signalMsix_powerCompute (n : Nat) (s : State) : (signalMsix n s).powerCompute = s.powerCompute := rfl
@[simp] theorem signalMsix_powerIo (n : Nat) (s : State) : (signalMsix n s).powerIo = s.powerIo := rfl
@[simp] theorem signalMsix_cycles (n : Nat) (s : State) : (signalMsix n s).cycles = s.cycles := rfl
@[simp] theorem signalMsix_owed (n : Nat) (s : State) : (signalMsix n s).owed = s.owed := rfl
@[simp] theorem signalMsix_tick (n : Nat) (s : State) : (signalMsix n s).tick = s.tick := rfl

@[simp] theorem hostErr_agenda (s : State) : (hostErr s).agenda = s.agenda := rfl
@[simp] theorem hostErr_args (s : State) : (hostErr s).args = s.args := rfl
@[simp] theorem hostErr_cur (s : State) : (hostErr s).cur = s.cur := rfl
@[simp] theorem hostErr_h (s : State) : (hostErr s).h = s.h := rfl
@[simp] theorem hostErr_others (s : State) : (hostErr s).others = s.others := rfl
@[simp] theorem hostErr_cores (s : State) : (hostErr s).cores = s.cores := rfl
@[simp] theorem hostErr_dies (s : State) : (hostErr s).dies = s.dies := rfl
@[simp] theorem hostErr_mem (s : State) : (hostErr s).mem = s.mem := rfl
@[simp] theorem hostErr_poison (s : State) : (hostErr s).poison = s.poison := rfl
@[simp] theorem hostErr_correctable (s : State) : (hostErr s).correctable = s.correctable := rfl
@[simp] theorem hostErr_detected (s : State) : (hostErr s).detected = s.detected := rfl
@[simp] theorem hostErr_l1 (s : State) : (hostErr s).l1 = s.l1 := rfl
@[simp] theorem hostErr_l2 (s : State) : (hostErr s).l2 = s.l2 := rfl
@[simp] theorem hostErr_dir (s : State) : (hostErr s).dir = s.dir := rfl
@[simp] theorem hostErr_fills (s : State) : (hostErr s).fills = s.fills := rfl
@[simp] theorem hostErr_net (s : State) : (hostErr s).net = s.net := rfl
@[simp] theorem hostErr_settles (s : State) : (hostErr s).settles = s.settles := rfl
@[simp] theorem hostErr_discards (s : State) : (hostErr s).discards = s.discards := rfl
@[simp] theorem hostErr_tlbInvs (s : State) : (hostErr s).tlbInvs = s.tlbInvs := rfl
@[simp] theorem hostErr_regionTable (s : State) : (hostErr s).regionTable = s.regionTable := rfl
@[simp] theorem hostErr_ipRunning (s : State) : (hostErr s).ipRunning = s.ipRunning := rfl
@[simp] theorem hostErr_tickets (s : State) : (hostErr s).tickets = s.tickets := rfl
@[simp] theorem hostErr_barriers (s : State) : (hostErr s).barriers = s.barriers := rfl
@[simp] theorem hostErr_errCounters (s : State) : (hostErr s).errCounters = s.errCounters := rfl
@[simp] theorem hostErr_snapId (s : State) : (hostErr s).snapId = s.snapId := rfl
@[simp] theorem hostErr_snapSel (s : State) : (hostErr s).snapSel = s.snapSel := rfl
@[simp] theorem hostErr_snapPending (s : State) : (hostErr s).snapPending = s.snapPending := rfl
@[simp] theorem hostErr_snapLow (s : State) : (hostErr s).snapLow = s.snapLow := rfl
@[simp] theorem hostErr_snapData (s : State) : (hostErr s).snapData = s.snapData := rfl
@[simp] theorem hostErr_pwrlim (s : State) : (hostErr s).pwrlim = s.pwrlim := rfl
@[simp] theorem hostErr_pwrDies (s : State) : (hostErr s).pwrDies = s.pwrDies := rfl
@[simp] theorem hostErr_pwrStacks (s : State) : (hostErr s).pwrStacks = s.pwrStacks := rfl
@[simp] theorem hostErr_pwrIo (s : State) : (hostErr s).pwrIo = s.pwrIo := rfl
@[simp] theorem hostErr_clock (s : State) : (hostErr s).clock = s.clock := rfl
@[simp] theorem hostErr_bootPhase (s : State) : (hostErr s).bootPhase = s.bootPhase := rfl
@[simp] theorem hostErr_bootReason (s : State) : (hostErr s).bootReason = s.bootReason := rfl
@[simp] theorem hostErr_bootUnit (s : State) : (hostErr s).bootUnit = s.bootUnit := rfl
@[simp] theorem hostErr_bootFails (s : State) : (hostErr s).bootFails = s.bootFails := rfl
@[simp] theorem hostErr_fwOp (s : State) : (hostErr s).fwOp = s.fwOp := rfl
@[simp] theorem hostErr_fwRun (s : State) : (hostErr s).fwRun = s.fwRun := rfl
@[simp] theorem hostErr_fwaddr (s : State) : (hostErr s).fwaddr = s.fwaddr := rfl
@[simp] theorem hostErr_fwBusy (s : State) : (hostErr s).fwBusy = s.fwBusy := rfl
@[simp] theorem hostErr_fwResult (s : State) : (hostErr s).fwResult = s.fwResult := rfl
@[simp] theorem hostErr_fwRecovery (s : State) : (hostErr s).fwRecovery = s.fwRecovery := rfl
@[simp] theorem hostErr_bar2off (s : State) : (hostErr s).bar2off = s.bar2off := rfl
@[simp] theorem hostErr_bar2size (s : State) : (hostErr s).bar2size = s.bar2size := rfl
@[simp] theorem hostErr_fabid (s : State) : (hostErr s).fabid = s.fabid := rfl
@[simp] theorem hostErr_recov (s : State) : (hostErr s).recov = s.recov := rfl
@[simp] theorem hostErr_enrol (s : State) : (hostErr s).enrol = s.enrol := rfl
@[simp] theorem hostErr_flash (s : State) : (hostErr s).flash = s.flash := rfl
@[simp] theorem hostErr_ports (s : State) : (hostErr s).ports = s.ports := rfl
@[simp] theorem hostErr_remotes (s : State) : (hostErr s).remotes = s.remotes := rfl
@[simp] theorem hostErr_nextRemote (s : State) : (hostErr s).nextRemote = s.nextRemote := rfl
@[simp] theorem hostErr_bridge (s : State) : (hostErr s).bridge = s.bridge := rfl
@[simp] theorem hostErr_posted (s : State) : (hostErr s).posted = s.posted := rfl
@[simp] theorem hostErr_backInv (s : State) : (hostErr s).backInv = s.backInv := rfl
@[simp] theorem hostErr_cxl (s : State) : (hostErr s).cxl = s.cxl := rfl
@[simp] theorem hostErr_hostReply (s : State) : (hostErr s).hostReply = s.hostReply := rfl
@[simp] theorem hostErr_msix (s : State) : (hostErr s).msix = s.msix := rfl
@[simp] theorem hostErr_regions (s : State) : (hostErr s).regions = s.regions := rfl
@[simp] theorem hostErr_tenantTargets (s : State) : (hostErr s).tenantTargets = s.tenantTargets := rfl
@[simp] theorem hostErr_hotRows (s : State) : (hostErr s).hotRows = s.hotRows := rfl
@[simp] theorem hostErr_retiredRows (s : State) : (hostErr s).retiredRows = s.retiredRows := rfl
@[simp] theorem hostErr_powerStacks (s : State) : (hostErr s).powerStacks = s.powerStacks := rfl
@[simp] theorem hostErr_powerCompute (s : State) : (hostErr s).powerCompute = s.powerCompute := rfl
@[simp] theorem hostErr_powerIo (s : State) : (hostErr s).powerIo = s.powerIo := rfl
@[simp] theorem hostErr_cycles (s : State) : (hostErr s).cycles = s.cycles := rfl
@[simp] theorem hostErr_owed (s : State) : (hostErr s).owed = s.owed := rfl
@[simp] theorem hostErr_tick (s : State) : (hostErr s).tick = s.tick := rfl

@[simp] theorem tickUp_agenda (s : State) : (tickUp s).agenda = s.agenda := rfl
@[simp] theorem tickUp_args (s : State) : (tickUp s).args = s.args := rfl
@[simp] theorem tickUp_cur (s : State) : (tickUp s).cur = s.cur := rfl
@[simp] theorem tickUp_h (s : State) : (tickUp s).h = s.h := rfl
@[simp] theorem tickUp_others (s : State) : (tickUp s).others = s.others := rfl
@[simp] theorem tickUp_cores (s : State) : (tickUp s).cores = s.cores := rfl
@[simp] theorem tickUp_dies (s : State) : (tickUp s).dies = s.dies := rfl
@[simp] theorem tickUp_mem (s : State) : (tickUp s).mem = s.mem := rfl
@[simp] theorem tickUp_poison (s : State) : (tickUp s).poison = s.poison := rfl
@[simp] theorem tickUp_correctable (s : State) : (tickUp s).correctable = s.correctable := rfl
@[simp] theorem tickUp_detected (s : State) : (tickUp s).detected = s.detected := rfl
@[simp] theorem tickUp_l1 (s : State) : (tickUp s).l1 = s.l1 := rfl
@[simp] theorem tickUp_l2 (s : State) : (tickUp s).l2 = s.l2 := rfl
@[simp] theorem tickUp_dir (s : State) : (tickUp s).dir = s.dir := rfl
@[simp] theorem tickUp_fills (s : State) : (tickUp s).fills = s.fills := rfl
@[simp] theorem tickUp_net (s : State) : (tickUp s).net = s.net := rfl
@[simp] theorem tickUp_settles (s : State) : (tickUp s).settles = s.settles := rfl
@[simp] theorem tickUp_discards (s : State) : (tickUp s).discards = s.discards := rfl
@[simp] theorem tickUp_tlbInvs (s : State) : (tickUp s).tlbInvs = s.tlbInvs := rfl
@[simp] theorem tickUp_regionTable (s : State) : (tickUp s).regionTable = s.regionTable := rfl
@[simp] theorem tickUp_ipRunning (s : State) : (tickUp s).ipRunning = s.ipRunning := rfl
@[simp] theorem tickUp_tickets (s : State) : (tickUp s).tickets = s.tickets := rfl
@[simp] theorem tickUp_barriers (s : State) : (tickUp s).barriers = s.barriers := rfl
@[simp] theorem tickUp_errCounters (s : State) : (tickUp s).errCounters = s.errCounters := rfl
@[simp] theorem tickUp_snapId (s : State) : (tickUp s).snapId = s.snapId := rfl
@[simp] theorem tickUp_snapSel (s : State) : (tickUp s).snapSel = s.snapSel := rfl
@[simp] theorem tickUp_snapPending (s : State) : (tickUp s).snapPending = s.snapPending := rfl
@[simp] theorem tickUp_snapLow (s : State) : (tickUp s).snapLow = s.snapLow := rfl
@[simp] theorem tickUp_snapData (s : State) : (tickUp s).snapData = s.snapData := rfl
@[simp] theorem tickUp_hosterr (s : State) : (tickUp s).hosterr = s.hosterr := rfl
@[simp] theorem tickUp_pwrlim (s : State) : (tickUp s).pwrlim = s.pwrlim := rfl
@[simp] theorem tickUp_pwrDies (s : State) : (tickUp s).pwrDies = s.pwrDies := rfl
@[simp] theorem tickUp_pwrStacks (s : State) : (tickUp s).pwrStacks = s.pwrStacks := rfl
@[simp] theorem tickUp_pwrIo (s : State) : (tickUp s).pwrIo = s.pwrIo := rfl
@[simp] theorem tickUp_clock (s : State) : (tickUp s).clock = s.clock := rfl
@[simp] theorem tickUp_bootPhase (s : State) : (tickUp s).bootPhase = s.bootPhase := rfl
@[simp] theorem tickUp_bootReason (s : State) : (tickUp s).bootReason = s.bootReason := rfl
@[simp] theorem tickUp_bootUnit (s : State) : (tickUp s).bootUnit = s.bootUnit := rfl
@[simp] theorem tickUp_bootFails (s : State) : (tickUp s).bootFails = s.bootFails := rfl
@[simp] theorem tickUp_fwOp (s : State) : (tickUp s).fwOp = s.fwOp := rfl
@[simp] theorem tickUp_fwRun (s : State) : (tickUp s).fwRun = s.fwRun := rfl
@[simp] theorem tickUp_fwaddr (s : State) : (tickUp s).fwaddr = s.fwaddr := rfl
@[simp] theorem tickUp_fwBusy (s : State) : (tickUp s).fwBusy = s.fwBusy := rfl
@[simp] theorem tickUp_fwResult (s : State) : (tickUp s).fwResult = s.fwResult := rfl
@[simp] theorem tickUp_fwRecovery (s : State) : (tickUp s).fwRecovery = s.fwRecovery := rfl
@[simp] theorem tickUp_bar2off (s : State) : (tickUp s).bar2off = s.bar2off := rfl
@[simp] theorem tickUp_bar2size (s : State) : (tickUp s).bar2size = s.bar2size := rfl
@[simp] theorem tickUp_fabid (s : State) : (tickUp s).fabid = s.fabid := rfl
@[simp] theorem tickUp_recov (s : State) : (tickUp s).recov = s.recov := rfl
@[simp] theorem tickUp_enrol (s : State) : (tickUp s).enrol = s.enrol := rfl
@[simp] theorem tickUp_flash (s : State) : (tickUp s).flash = s.flash := rfl
@[simp] theorem tickUp_ports (s : State) : (tickUp s).ports = s.ports := rfl
@[simp] theorem tickUp_remotes (s : State) : (tickUp s).remotes = s.remotes := rfl
@[simp] theorem tickUp_nextRemote (s : State) : (tickUp s).nextRemote = s.nextRemote := rfl
@[simp] theorem tickUp_bridge (s : State) : (tickUp s).bridge = s.bridge := rfl
@[simp] theorem tickUp_posted (s : State) : (tickUp s).posted = s.posted := rfl
@[simp] theorem tickUp_backInv (s : State) : (tickUp s).backInv = s.backInv := rfl
@[simp] theorem tickUp_cxl (s : State) : (tickUp s).cxl = s.cxl := rfl
@[simp] theorem tickUp_hostReply (s : State) : (tickUp s).hostReply = s.hostReply := rfl
@[simp] theorem tickUp_msix (s : State) : (tickUp s).msix = s.msix := rfl
@[simp] theorem tickUp_regions (s : State) : (tickUp s).regions = s.regions := rfl
@[simp] theorem tickUp_tenantTargets (s : State) : (tickUp s).tenantTargets = s.tenantTargets := rfl
@[simp] theorem tickUp_hotRows (s : State) : (tickUp s).hotRows = s.hotRows := rfl
@[simp] theorem tickUp_retiredRows (s : State) : (tickUp s).retiredRows = s.retiredRows := rfl
@[simp] theorem tickUp_powerStacks (s : State) : (tickUp s).powerStacks = s.powerStacks := rfl
@[simp] theorem tickUp_powerCompute (s : State) : (tickUp s).powerCompute = s.powerCompute := rfl
@[simp] theorem tickUp_powerIo (s : State) : (tickUp s).powerIo = s.powerIo := rfl
@[simp] theorem tickUp_cycles (s : State) : (tickUp s).cycles = s.cycles := rfl
@[simp] theorem tickUp_owed (s : State) : (tickUp s).owed = s.owed := rfl

@[simp] theorem setPoison_agenda (g : Nat) (s : State) : (setPoison g s).agenda = s.agenda := rfl
@[simp] theorem setPoison_args (g : Nat) (s : State) : (setPoison g s).args = s.args := rfl
@[simp] theorem setPoison_cur (g : Nat) (s : State) : (setPoison g s).cur = s.cur := rfl
@[simp] theorem setPoison_h (g : Nat) (s : State) : (setPoison g s).h = s.h := rfl
@[simp] theorem setPoison_others (g : Nat) (s : State) : (setPoison g s).others = s.others := rfl
@[simp] theorem setPoison_cores (g : Nat) (s : State) : (setPoison g s).cores = s.cores := rfl
@[simp] theorem setPoison_dies (g : Nat) (s : State) : (setPoison g s).dies = s.dies := rfl
@[simp] theorem setPoison_mem (g : Nat) (s : State) : (setPoison g s).mem = s.mem := rfl
@[simp] theorem setPoison_l1 (g : Nat) (s : State) : (setPoison g s).l1 = s.l1 := rfl
@[simp] theorem setPoison_l2 (g : Nat) (s : State) : (setPoison g s).l2 = s.l2 := rfl
@[simp] theorem setPoison_dir (g : Nat) (s : State) : (setPoison g s).dir = s.dir := rfl
@[simp] theorem setPoison_fills (g : Nat) (s : State) : (setPoison g s).fills = s.fills := rfl
@[simp] theorem setPoison_net (g : Nat) (s : State) : (setPoison g s).net = s.net := rfl
@[simp] theorem setPoison_settles (g : Nat) (s : State) : (setPoison g s).settles = s.settles := rfl
@[simp] theorem setPoison_discards (g : Nat) (s : State) : (setPoison g s).discards = s.discards := rfl
@[simp] theorem setPoison_tlbInvs (g : Nat) (s : State) : (setPoison g s).tlbInvs = s.tlbInvs := rfl
@[simp] theorem setPoison_regionTable (g : Nat) (s : State) : (setPoison g s).regionTable = s.regionTable := rfl
@[simp] theorem setPoison_ipRunning (g : Nat) (s : State) : (setPoison g s).ipRunning = s.ipRunning := rfl
@[simp] theorem setPoison_tickets (g : Nat) (s : State) : (setPoison g s).tickets = s.tickets := rfl
@[simp] theorem setPoison_barriers (g : Nat) (s : State) : (setPoison g s).barriers = s.barriers := rfl
@[simp] theorem setPoison_errCounters (g : Nat) (s : State) : (setPoison g s).errCounters = s.errCounters := rfl
@[simp] theorem setPoison_snapId (g : Nat) (s : State) : (setPoison g s).snapId = s.snapId := rfl
@[simp] theorem setPoison_snapSel (g : Nat) (s : State) : (setPoison g s).snapSel = s.snapSel := rfl
@[simp] theorem setPoison_snapPending (g : Nat) (s : State) : (setPoison g s).snapPending = s.snapPending := rfl
@[simp] theorem setPoison_snapLow (g : Nat) (s : State) : (setPoison g s).snapLow = s.snapLow := rfl
@[simp] theorem setPoison_snapData (g : Nat) (s : State) : (setPoison g s).snapData = s.snapData := rfl
@[simp] theorem setPoison_hosterr (g : Nat) (s : State) : (setPoison g s).hosterr = s.hosterr := rfl
@[simp] theorem setPoison_pwrlim (g : Nat) (s : State) : (setPoison g s).pwrlim = s.pwrlim := rfl
@[simp] theorem setPoison_pwrDies (g : Nat) (s : State) : (setPoison g s).pwrDies = s.pwrDies := rfl
@[simp] theorem setPoison_pwrStacks (g : Nat) (s : State) : (setPoison g s).pwrStacks = s.pwrStacks := rfl
@[simp] theorem setPoison_pwrIo (g : Nat) (s : State) : (setPoison g s).pwrIo = s.pwrIo := rfl
@[simp] theorem setPoison_clock (g : Nat) (s : State) : (setPoison g s).clock = s.clock := rfl
@[simp] theorem setPoison_bootPhase (g : Nat) (s : State) : (setPoison g s).bootPhase = s.bootPhase := rfl
@[simp] theorem setPoison_bootReason (g : Nat) (s : State) : (setPoison g s).bootReason = s.bootReason := rfl
@[simp] theorem setPoison_bootUnit (g : Nat) (s : State) : (setPoison g s).bootUnit = s.bootUnit := rfl
@[simp] theorem setPoison_bootFails (g : Nat) (s : State) : (setPoison g s).bootFails = s.bootFails := rfl
@[simp] theorem setPoison_fwOp (g : Nat) (s : State) : (setPoison g s).fwOp = s.fwOp := rfl
@[simp] theorem setPoison_fwRun (g : Nat) (s : State) : (setPoison g s).fwRun = s.fwRun := rfl
@[simp] theorem setPoison_fwaddr (g : Nat) (s : State) : (setPoison g s).fwaddr = s.fwaddr := rfl
@[simp] theorem setPoison_fwBusy (g : Nat) (s : State) : (setPoison g s).fwBusy = s.fwBusy := rfl
@[simp] theorem setPoison_fwResult (g : Nat) (s : State) : (setPoison g s).fwResult = s.fwResult := rfl
@[simp] theorem setPoison_fwRecovery (g : Nat) (s : State) : (setPoison g s).fwRecovery = s.fwRecovery := rfl
@[simp] theorem setPoison_bar2off (g : Nat) (s : State) : (setPoison g s).bar2off = s.bar2off := rfl
@[simp] theorem setPoison_bar2size (g : Nat) (s : State) : (setPoison g s).bar2size = s.bar2size := rfl
@[simp] theorem setPoison_fabid (g : Nat) (s : State) : (setPoison g s).fabid = s.fabid := rfl
@[simp] theorem setPoison_recov (g : Nat) (s : State) : (setPoison g s).recov = s.recov := rfl
@[simp] theorem setPoison_enrol (g : Nat) (s : State) : (setPoison g s).enrol = s.enrol := rfl
@[simp] theorem setPoison_flash (g : Nat) (s : State) : (setPoison g s).flash = s.flash := rfl
@[simp] theorem setPoison_ports (g : Nat) (s : State) : (setPoison g s).ports = s.ports := rfl
@[simp] theorem setPoison_remotes (g : Nat) (s : State) : (setPoison g s).remotes = s.remotes := rfl
@[simp] theorem setPoison_nextRemote (g : Nat) (s : State) : (setPoison g s).nextRemote = s.nextRemote := rfl
@[simp] theorem setPoison_bridge (g : Nat) (s : State) : (setPoison g s).bridge = s.bridge := rfl
@[simp] theorem setPoison_posted (g : Nat) (s : State) : (setPoison g s).posted = s.posted := rfl
@[simp] theorem setPoison_backInv (g : Nat) (s : State) : (setPoison g s).backInv = s.backInv := rfl
@[simp] theorem setPoison_cxl (g : Nat) (s : State) : (setPoison g s).cxl = s.cxl := rfl
@[simp] theorem setPoison_hostReply (g : Nat) (s : State) : (setPoison g s).hostReply = s.hostReply := rfl
@[simp] theorem setPoison_msix (g : Nat) (s : State) : (setPoison g s).msix = s.msix := rfl
@[simp] theorem setPoison_regions (g : Nat) (s : State) : (setPoison g s).regions = s.regions := rfl
@[simp] theorem setPoison_tenantTargets (g : Nat) (s : State) : (setPoison g s).tenantTargets = s.tenantTargets := rfl
@[simp] theorem setPoison_hotRows (g : Nat) (s : State) : (setPoison g s).hotRows = s.hotRows := rfl
@[simp] theorem setPoison_retiredRows (g : Nat) (s : State) : (setPoison g s).retiredRows = s.retiredRows := rfl
@[simp] theorem setPoison_powerStacks (g : Nat) (s : State) : (setPoison g s).powerStacks = s.powerStacks := rfl
@[simp] theorem setPoison_powerCompute (g : Nat) (s : State) : (setPoison g s).powerCompute = s.powerCompute := rfl
@[simp] theorem setPoison_powerIo (g : Nat) (s : State) : (setPoison g s).powerIo = s.powerIo := rfl
@[simp] theorem setPoison_cycles (g : Nat) (s : State) : (setPoison g s).cycles = s.cycles := rfl
@[simp] theorem setPoison_owed (g : Nat) (s : State) : (setPoison g s).owed = s.owed := rfl
@[simp] theorem setPoison_tick (g : Nat) (s : State) : (setPoison g s).tick = s.tick := rfl

@[simp] theorem clearPoison_agenda (g : Nat) (s : State) : (clearPoison g s).agenda = s.agenda := rfl
@[simp] theorem clearPoison_args (g : Nat) (s : State) : (clearPoison g s).args = s.args := rfl
@[simp] theorem clearPoison_cur (g : Nat) (s : State) : (clearPoison g s).cur = s.cur := rfl
@[simp] theorem clearPoison_h (g : Nat) (s : State) : (clearPoison g s).h = s.h := rfl
@[simp] theorem clearPoison_others (g : Nat) (s : State) : (clearPoison g s).others = s.others := rfl
@[simp] theorem clearPoison_cores (g : Nat) (s : State) : (clearPoison g s).cores = s.cores := rfl
@[simp] theorem clearPoison_dies (g : Nat) (s : State) : (clearPoison g s).dies = s.dies := rfl
@[simp] theorem clearPoison_mem (g : Nat) (s : State) : (clearPoison g s).mem = s.mem := rfl
@[simp] theorem clearPoison_l1 (g : Nat) (s : State) : (clearPoison g s).l1 = s.l1 := rfl
@[simp] theorem clearPoison_l2 (g : Nat) (s : State) : (clearPoison g s).l2 = s.l2 := rfl
@[simp] theorem clearPoison_dir (g : Nat) (s : State) : (clearPoison g s).dir = s.dir := rfl
@[simp] theorem clearPoison_fills (g : Nat) (s : State) : (clearPoison g s).fills = s.fills := rfl
@[simp] theorem clearPoison_net (g : Nat) (s : State) : (clearPoison g s).net = s.net := rfl
@[simp] theorem clearPoison_settles (g : Nat) (s : State) : (clearPoison g s).settles = s.settles := rfl
@[simp] theorem clearPoison_discards (g : Nat) (s : State) : (clearPoison g s).discards = s.discards := rfl
@[simp] theorem clearPoison_tlbInvs (g : Nat) (s : State) : (clearPoison g s).tlbInvs = s.tlbInvs := rfl
@[simp] theorem clearPoison_regionTable (g : Nat) (s : State) : (clearPoison g s).regionTable = s.regionTable := rfl
@[simp] theorem clearPoison_ipRunning (g : Nat) (s : State) : (clearPoison g s).ipRunning = s.ipRunning := rfl
@[simp] theorem clearPoison_tickets (g : Nat) (s : State) : (clearPoison g s).tickets = s.tickets := rfl
@[simp] theorem clearPoison_barriers (g : Nat) (s : State) : (clearPoison g s).barriers = s.barriers := rfl
@[simp] theorem clearPoison_errCounters (g : Nat) (s : State) : (clearPoison g s).errCounters = s.errCounters := rfl
@[simp] theorem clearPoison_snapId (g : Nat) (s : State) : (clearPoison g s).snapId = s.snapId := rfl
@[simp] theorem clearPoison_snapSel (g : Nat) (s : State) : (clearPoison g s).snapSel = s.snapSel := rfl
@[simp] theorem clearPoison_snapPending (g : Nat) (s : State) : (clearPoison g s).snapPending = s.snapPending := rfl
@[simp] theorem clearPoison_snapLow (g : Nat) (s : State) : (clearPoison g s).snapLow = s.snapLow := rfl
@[simp] theorem clearPoison_snapData (g : Nat) (s : State) : (clearPoison g s).snapData = s.snapData := rfl
@[simp] theorem clearPoison_hosterr (g : Nat) (s : State) : (clearPoison g s).hosterr = s.hosterr := rfl
@[simp] theorem clearPoison_pwrlim (g : Nat) (s : State) : (clearPoison g s).pwrlim = s.pwrlim := rfl
@[simp] theorem clearPoison_pwrDies (g : Nat) (s : State) : (clearPoison g s).pwrDies = s.pwrDies := rfl
@[simp] theorem clearPoison_pwrStacks (g : Nat) (s : State) : (clearPoison g s).pwrStacks = s.pwrStacks := rfl
@[simp] theorem clearPoison_pwrIo (g : Nat) (s : State) : (clearPoison g s).pwrIo = s.pwrIo := rfl
@[simp] theorem clearPoison_clock (g : Nat) (s : State) : (clearPoison g s).clock = s.clock := rfl
@[simp] theorem clearPoison_bootPhase (g : Nat) (s : State) : (clearPoison g s).bootPhase = s.bootPhase := rfl
@[simp] theorem clearPoison_bootReason (g : Nat) (s : State) : (clearPoison g s).bootReason = s.bootReason := rfl
@[simp] theorem clearPoison_bootUnit (g : Nat) (s : State) : (clearPoison g s).bootUnit = s.bootUnit := rfl
@[simp] theorem clearPoison_bootFails (g : Nat) (s : State) : (clearPoison g s).bootFails = s.bootFails := rfl
@[simp] theorem clearPoison_fwOp (g : Nat) (s : State) : (clearPoison g s).fwOp = s.fwOp := rfl
@[simp] theorem clearPoison_fwRun (g : Nat) (s : State) : (clearPoison g s).fwRun = s.fwRun := rfl
@[simp] theorem clearPoison_fwaddr (g : Nat) (s : State) : (clearPoison g s).fwaddr = s.fwaddr := rfl
@[simp] theorem clearPoison_fwBusy (g : Nat) (s : State) : (clearPoison g s).fwBusy = s.fwBusy := rfl
@[simp] theorem clearPoison_fwResult (g : Nat) (s : State) : (clearPoison g s).fwResult = s.fwResult := rfl
@[simp] theorem clearPoison_fwRecovery (g : Nat) (s : State) : (clearPoison g s).fwRecovery = s.fwRecovery := rfl
@[simp] theorem clearPoison_bar2off (g : Nat) (s : State) : (clearPoison g s).bar2off = s.bar2off := rfl
@[simp] theorem clearPoison_bar2size (g : Nat) (s : State) : (clearPoison g s).bar2size = s.bar2size := rfl
@[simp] theorem clearPoison_fabid (g : Nat) (s : State) : (clearPoison g s).fabid = s.fabid := rfl
@[simp] theorem clearPoison_recov (g : Nat) (s : State) : (clearPoison g s).recov = s.recov := rfl
@[simp] theorem clearPoison_enrol (g : Nat) (s : State) : (clearPoison g s).enrol = s.enrol := rfl
@[simp] theorem clearPoison_flash (g : Nat) (s : State) : (clearPoison g s).flash = s.flash := rfl
@[simp] theorem clearPoison_ports (g : Nat) (s : State) : (clearPoison g s).ports = s.ports := rfl
@[simp] theorem clearPoison_remotes (g : Nat) (s : State) : (clearPoison g s).remotes = s.remotes := rfl
@[simp] theorem clearPoison_nextRemote (g : Nat) (s : State) : (clearPoison g s).nextRemote = s.nextRemote := rfl
@[simp] theorem clearPoison_bridge (g : Nat) (s : State) : (clearPoison g s).bridge = s.bridge := rfl
@[simp] theorem clearPoison_posted (g : Nat) (s : State) : (clearPoison g s).posted = s.posted := rfl
@[simp] theorem clearPoison_backInv (g : Nat) (s : State) : (clearPoison g s).backInv = s.backInv := rfl
@[simp] theorem clearPoison_cxl (g : Nat) (s : State) : (clearPoison g s).cxl = s.cxl := rfl
@[simp] theorem clearPoison_hostReply (g : Nat) (s : State) : (clearPoison g s).hostReply = s.hostReply := rfl
@[simp] theorem clearPoison_msix (g : Nat) (s : State) : (clearPoison g s).msix = s.msix := rfl
@[simp] theorem clearPoison_regions (g : Nat) (s : State) : (clearPoison g s).regions = s.regions := rfl
@[simp] theorem clearPoison_tenantTargets (g : Nat) (s : State) : (clearPoison g s).tenantTargets = s.tenantTargets := rfl
@[simp] theorem clearPoison_hotRows (g : Nat) (s : State) : (clearPoison g s).hotRows = s.hotRows := rfl
@[simp] theorem clearPoison_retiredRows (g : Nat) (s : State) : (clearPoison g s).retiredRows = s.retiredRows := rfl
@[simp] theorem clearPoison_powerStacks (g : Nat) (s : State) : (clearPoison g s).powerStacks = s.powerStacks := rfl
@[simp] theorem clearPoison_powerCompute (g : Nat) (s : State) : (clearPoison g s).powerCompute = s.powerCompute := rfl
@[simp] theorem clearPoison_powerIo (g : Nat) (s : State) : (clearPoison g s).powerIo = s.powerIo := rfl
@[simp] theorem clearPoison_cycles (g : Nat) (s : State) : (clearPoison g s).cycles = s.cycles := rfl
@[simp] theorem clearPoison_owed (g : Nat) (s : State) : (clearPoison g s).owed = s.owed := rfl
@[simp] theorem clearPoison_tick (g : Nat) (s : State) : (clearPoison g s).tick = s.tick := rfl

end Sys2Proof.Machine
end

