-- ==== Sys2Proof/Laws/Ops.lean ====
section
/-! SUPPORT. What each shared operation can do, once: reads after writes of the numbered units and registers, waiting
for pending registers, the shapes of the scalar instructions, traps. -/

namespace Sys2Proof.Machine

/-! ## Units by number -/

@[simp] theorem getCore_setCore (c : Nat) (k : Core) (s : State) : getCore (setCore c k s) c = k := tgetD_tset_self _ _ _ _

theorem getCore_setCore_of_ne (c j : Nat) (k : Core) (s : State) (h : j ≠ c) : getCore (setCore c k s) j = getCore s j :=
  tgetD_tset_of_ne _ _ _ _ _ h

@[simp] theorem getDie_setDie (d : Nat) (k : Die) (s : State) : getDie (setDie d k s) d = k := tgetD_tset_self _ _ _ _

theorem getDie_setDie_of_ne (d j : Nat) (k : Die) (s : State) (h : j ≠ d) : getDie (setDie d k s) j = getDie s j :=
  tgetD_tset_of_ne _ _ _ _ _ h

@[simp] theorem getPort_setPort (p : Nat) (k : Port) (s : State) : getPort (setPort p k s) p = k := tgetD_tset_self _ _ _ _

theorem getPort_setPort_of_ne (p j : Nat) (k : Port) (s : State) (h : j ≠ p) : getPort (setPort p k s) j = getPort s j :=
  tgetD_tset_of_ne _ _ _ _ _ h

@[simp] theorem getRegion_setRegion (x : Nat) (r : Region) (s : State) : getRegion (setRegion x r s) x = r :=
  tgetD_tset_self _ _ _ _

theorem getRegion_setRegion_of_ne (x j : Nat) (r : Region) (s : State) (h : j ≠ x) :
    getRegion (setRegion x r s) j = getRegion s j :=
  tgetD_tset_of_ne _ _ _ _ _ h

@[simp] theorem getDir_setDir (lu : Nat) (e : DirEntry) (s : State) : getDir (setDir lu e s) lu = e := tgetD_tset_self _ _ _ _

theorem getDir_setDir_of_ne (lu j : Nat) (e : DirEntry) (s : State) (h : j ≠ lu) : getDir (setDir lu e s) j = getDir s j :=
  tgetD_tset_of_ne _ _ _ _ _ h

@[simp] theorem getCopy_setCopy (c lu : Nat) (k : L1Copy) (s : State) : getCopy (setCopy c lu k s) c lu = k :=
  tgetD_tset_self _ _ _ _

@[simp] theorem getLine_setLine (d lu : Nat) (l : L2Line) (s : State) : getLine (setLine d lu l s) d lu = l :=
  tgetD_tset_self _ _ _ _

@[simp] theorem getHart_setHart (n : Nat) (h : Hart) (s : State) : getHart (setHart n h s) n = h := by
  unfold setHart getHart
  split
  · simp
  · simp

theorem getHart_setHart_of_ne (n j : Nat) (h : Hart) (s : State) (hj : j ≠ n) : getHart (setHart n h s) j = getHart s j := by
  unfold setHart getHart
  split
  · rename_i e; subst e; simp [hj]
  · dsimp only; split
    · rfl
    · exact tgetD_tset_of_ne _ _ _ _ _ hj

/-! ## Scalar registers -/

/-- A register read after a write: s0 stays zero, the register written holds the value, the others what they held. -/
theorem readS_writeS (d r : SReg) (v : Word) (s : State) :
    readS (writeS d v s) r = if r = d ∧ d ≠ 0 then v else readS s r := by
  unfold readS writeS
  rcases eq_or_ne d 0 with hd | hd
  · rw [if_pos hd]; simp [hd]
  · rw [if_neg hd]
    rcases eq_or_ne r 0 with hr | hr
    · rw [if_pos hr, if_pos hr, if_neg]; rintro ⟨h, -⟩; exact hd (h ▸ hr)
    · rw [if_neg hr, if_neg hr]
      rcases eq_or_ne r d with e | e
      · subst e; rw [if_pos ⟨rfl, hd⟩]; exact Vector.getElem_set_self _
      · rw [if_neg (fun h => e h.1)]
        exact Vector.getElem_set_ne d.isLt r.isLt (fun h => e (BitVec.eq_of_toNat_eq h.symm))

/-- A write of a register changes the register file and nothing else. -/
theorem writeS_frame (d : SReg) (v : Word) (s : State) :
    writeS d v s = { s with h := { s.h with x := (writeS d v s).h.x } } := by
  unfold writeS; split <;> rfl

@[simp] theorem readS_continueAt (pc : Word) (s : State) (r : SReg) : readS (continueAt pc s) r = readS s r := rfl

/-- An instruction whose registers hold no outstanding value runs. -/
theorem whenReady_ready (rs : List SReg) (s : State) (k : Result) (h : ∀ r ∈ rs, isPending s.h r = false) :
    whenReady rs s k = k := by
  have : rs.any (isPending s.h) = false := by
    rw [List.any_eq_false]; intro r hr; simp [h r hr]
  simp [whenReady, this]

/-- One that names an outstanding register waits. -/
theorem whenReady_waits (rs : List SReg) (s : State) (k : Result) (r : SReg) (hr : r ∈ rs) (h : isPending s.h r = true) :
    whenReady rs s k = stall s := by
  have : rs.any (isPending s.h) = true := List.any_eq_true.2 ⟨r, hr, h⟩
  simp [whenReady, this]

/-- What a scalar computation answers: it writes its result and goes on, or it waits. -/
theorem aluOp_cases (uses : List SReg) (d : SReg) (v : Word) (s : State) :
    aluOp uses d v s = .next (advance (writeS d v s)) ∨ aluOp uses d v s = stall s := by
  unfold aluOp whenReady
  split
  · exact .inr rfl
  · exact .inl rfl

/-- What a branch answers: it goes on at its target or after itself, or it waits. -/
theorem branchOp_cases (a b : SReg) (taken : Bool) (off : BitVec 15) (s : State) :
    branchOp a b taken off s = .next (continueAt (if taken then s.h.pc + off.signExtend 64 <<< 2 else s.h.pc + 4) s) ∨
    branchOp a b taken off s = stall s := by
  unfold branchOp whenReady
  split
  · exact .inr rfl
  · exact .inl rfl

/-! ## Traps -/

/-- What a synchronous trap answers: it waits for the queue, or it is taken at the PC with qpos 32. -/
theorem scalarTrap_cases (cause : Nat) (val : Word) (s : State) :
    scalarTrap cause val s = stall s ∨ scalarTrap cause val s = .next (takeTrap false cause val s.h.pc 32 s) := by
  unfold scalarTrap
  split
  · exact .inl rfl
  · exact .inr rfl

theorem leaveFifos_mem (c w : Nat) (s : State) : (leaveFifos c w s).mem = s.mem := by
  unfold leaveFifos; dsimp only; split <;> rfl

theorem leaveFifos_h (c w : Nat) (s : State) : (leaveFifos c w s).h = s.h := by
  unfold leaveFifos; dsimp only; split <;> rfl

theorem leaveHomes_mem (a : Nat) (s : State) : (leaveHomes a s).mem = s.mem := by unfold leaveHomes; split <;> rfl

theorem leaveHomes_h (a : Nat) (s : State) : (leaveHomes a s).h = s.h := by unfold leaveHomes; split <;> rfl

theorem dropLoads_h (s : State) : (dropLoads s).h = s.h := (leaveFifos_h _ _ _).trans (leaveHomes_h _ _)
theorem dropLoads_mem (s : State) : (dropLoads s).mem = s.mem := (leaveFifos_mem _ _ _).trans (leaveHomes_mem _ _)

/-- A trap changes the turn's hart as `trapEntry` says, and no byte of memory. -/
theorem takeTrap_h (intr : Bool) (cause : Nat) (val epc : Word) (qpos : BitVec 6) (s : State) :
    (takeTrap intr cause val epc qpos s).h = trapEntry intr cause val epc qpos s.h := by
  show trapEntry intr cause val epc qpos (dropLoads s).h = _
  rw [dropLoads_h]

theorem takeTrap_mem (intr : Bool) (cause : Nat) (val epc : Word) (qpos : BitVec 6) (s : State) :
    (takeTrap intr cause val epc qpos s).mem = s.mem := dropLoads_mem s

theorem schedulerEntry_mem (s : State) : (schedulerEntry s).mem = s.mem := dropLoads_mem s

/-- The bits of a status word made from its fields. -/
theorem mkStatus_bits (sched rpriv hnd part ppriv pie ie priv : Bool) :
    let w := mkStatus sched rpriv hnd part ppriv pie ie priv
    w.getLsbD 0 = priv ∧ w.getLsbD 1 = ie ∧ w.getLsbD 2 = pie ∧ w.getLsbD 3 = ppriv ∧ w.getLsbD 4 = part ∧
    w.getLsbD 5 = hnd ∧ w.getLsbD 6 = rpriv ∧ w.getLsbD 7 = sched := by
  cases sched <;> cases rpriv <;> cases hnd <;> cases part <;> cases ppriv <;> cases pie <;> cases ie <;> cases priv <;> decide

end Sys2Proof.Machine
end

