-- ==== Sys2Proof/Laws/PerInstr.lean ====
section
/-! SUPPORT. Facts about each instruction as syntax, one lemma for each constructor: its encoding fits its parcels and
bits [1:0] name its length (R52, R55, R57, R60). -/

set_option Elab.async false

namespace Sys2Proof

/-- An encoding is one parcel whose bits [1:0] are not 01, or two parcels whose bits [1:0] are. -/
def Laws.EncodingFits.Statement (i : Instr) : Prop :=
  ∀ w n, encodeBits i = some (w, n) → (n = 1 ∧ w < 2 ^ 32 ∧ w % 4 ≠ 1) ∨ (n = 2 ∧ w < 2 ^ 64 ∧ w % 4 = 1)

theorem Laws.fits_none {i : Instr} (h : encodeBits i = none) : Laws.EncodingFits.Statement i := by
  intro w n e; rw [h] at e; cases e

theorem Laws.fits_short {i : Instr} {fn b a d maj : Nat} (h : encodeBits i = some (join32 fn b a d maj, 1))
    (hf : fn < 1024) (hb : b < 32) (ha : a < 32) (hd : d < 32) (hm : maj < 64) : Laws.EncodingFits.Statement i := by
  intro w n e; rw [h] at e; cases e; unfold join32; exact .inl ⟨rfl, by omega, by omega⟩

theorem Laws.fits_long {i : Instr} {maj fn : Nat} {f : VF} (h : encodeBits i = some (join64 maj fn f, 2))
    (hf : fn < 1024) (hm : maj < 64) : Laws.EncodingFits.Statement i := by
  intro w n e; rw [h] at e; cases e; unfold join64
  have h1 := f.d.isLt; have h2 := f.a.isLt; have h3 := f.b.isLt; have h4 := f.c.isLt; have h5 := f.m.isLt
  have h6 := Bool.toNat_lt f.mz; have h7 := Bool.toNat_lt f.sa; have h8 := f.imm.isLt
  exact .inr ⟨rfl, by omega, by omega⟩

theorem Laws.amoFunct_lt (scope : BitVec 3) (aq rl wide : Bool) (op : Nat) (h : op < 8) :
    amoFunct scope aq rl wide op < 1024 := by
  unfold amoFunct
  have h1 := Bool.toNat_lt aq; have h2 := Bool.toNat_lt rl; have h3 := Bool.toNat_lt wide
  omega

theorem Laws.EncodingFits.add (d a b : SReg) :
    Laws.EncodingFits.Statement (.add d a b) := Laws.fits_short rfl (by omega) (by omega) (by omega) (by omega) (by omega)

theorem Laws.EncodingFits.sub (d a b : SReg) :
    Laws.EncodingFits.Statement (.sub d a b) := Laws.fits_short rfl (by omega) (by omega) (by omega) (by omega) (by omega)

theorem Laws.EncodingFits.and (d a b : SReg) :
    Laws.EncodingFits.Statement (.and d a b) := Laws.fits_short rfl (by omega) (by omega) (by omega) (by omega) (by omega)

theorem Laws.EncodingFits.or (d a b : SReg) :
    Laws.EncodingFits.Statement (.or d a b) := Laws.fits_short rfl (by omega) (by omega) (by omega) (by omega) (by omega)

theorem Laws.EncodingFits.xor (d a b : SReg) :
    Laws.EncodingFits.Statement (.xor d a b) := Laws.fits_short rfl (by omega) (by omega) (by omega) (by omega) (by omega)

theorem Laws.EncodingFits.sll (d a b : SReg) :
    Laws.EncodingFits.Statement (.sll d a b) := Laws.fits_short rfl (by omega) (by omega) (by omega) (by omega) (by omega)

theorem Laws.EncodingFits.srl (d a b : SReg) :
    Laws.EncodingFits.Statement (.srl d a b) := Laws.fits_short rfl (by omega) (by omega) (by omega) (by omega) (by omega)

theorem Laws.EncodingFits.sra (d a b : SReg) :
    Laws.EncodingFits.Statement (.sra d a b) := Laws.fits_short rfl (by omega) (by omega) (by omega) (by omega) (by omega)

theorem Laws.EncodingFits.slt (d a b : SReg) :
    Laws.EncodingFits.Statement (.slt d a b) := Laws.fits_short rfl (by omega) (by omega) (by omega) (by omega) (by omega)

theorem Laws.EncodingFits.sltu (d a b : SReg) :
    Laws.EncodingFits.Statement (.sltu d a b) := Laws.fits_short rfl (by omega) (by omega) (by omega) (by omega) (by omega)

theorem Laws.EncodingFits.min (d a b : SReg) :
    Laws.EncodingFits.Statement (.min d a b) := Laws.fits_short rfl (by omega) (by omega) (by omega) (by omega) (by omega)

theorem Laws.EncodingFits.max (d a b : SReg) :
    Laws.EncodingFits.Statement (.max d a b) := Laws.fits_short rfl (by omega) (by omega) (by omega) (by omega) (by omega)

theorem Laws.EncodingFits.minu (d a b : SReg) :
    Laws.EncodingFits.Statement (.minu d a b) := Laws.fits_short rfl (by omega) (by omega) (by omega) (by omega) (by omega)

theorem Laws.EncodingFits.maxu (d a b : SReg) :
    Laws.EncodingFits.Statement (.maxu d a b) := Laws.fits_short rfl (by omega) (by omega) (by omega) (by omega) (by omega)

theorem Laws.EncodingFits.mul (d a b : SReg) :
    Laws.EncodingFits.Statement (.mul d a b) := Laws.fits_short rfl (by omega) (by omega) (by omega) (by omega) (by omega)

theorem Laws.EncodingFits.mulh (d a b : SReg) :
    Laws.EncodingFits.Statement (.mulh d a b) := Laws.fits_short rfl (by omega) (by omega) (by omega) (by omega) (by omega)

theorem Laws.EncodingFits.mulhu (d a b : SReg) :
    Laws.EncodingFits.Statement (.mulhu d a b) := Laws.fits_short rfl (by omega) (by omega) (by omega) (by omega) (by omega)

theorem Laws.EncodingFits.div (d a b : SReg) :
    Laws.EncodingFits.Statement (.div d a b) := Laws.fits_short rfl (by omega) (by omega) (by omega) (by omega) (by omega)

theorem Laws.EncodingFits.divu (d a b : SReg) :
    Laws.EncodingFits.Statement (.divu d a b) := Laws.fits_short rfl (by omega) (by omega) (by omega) (by omega) (by omega)

theorem Laws.EncodingFits.rem (d a b : SReg) :
    Laws.EncodingFits.Statement (.rem d a b) := Laws.fits_short rfl (by omega) (by omega) (by omega) (by omega) (by omega)

theorem Laws.EncodingFits.remu (d a b : SReg) :
    Laws.EncodingFits.Statement (.remu d a b) := Laws.fits_short rfl (by omega) (by omega) (by omega) (by omega) (by omega)

theorem Laws.EncodingFits.clz (d a : SReg) :
    Laws.EncodingFits.Statement (.clz d a) := Laws.fits_short rfl (by omega) (by omega) (by omega) (by omega) (by omega)

theorem Laws.EncodingFits.ctz (d a : SReg) :
    Laws.EncodingFits.Statement (.ctz d a) := Laws.fits_short rfl (by omega) (by omega) (by omega) (by omega) (by omega)

theorem Laws.EncodingFits.popc (d a : SReg) :
    Laws.EncodingFits.Statement (.popc d a) := Laws.fits_short rfl (by omega) (by omega) (by omega) (by omega) (by omega)

theorem Laws.EncodingFits.addi (d a : SReg) (imm : BitVec 15) :
    Laws.EncodingFits.Statement (.addi d a imm) := Laws.fits_short rfl (by omega) (by omega) (by omega) (by omega) (by omega)

theorem Laws.EncodingFits.andi (d a : SReg) (imm : BitVec 15) :
    Laws.EncodingFits.Statement (.andi d a imm) := Laws.fits_short rfl (by omega) (by omega) (by omega) (by omega) (by omega)

theorem Laws.EncodingFits.ori (d a : SReg) (imm : BitVec 15) :
    Laws.EncodingFits.Statement (.ori d a imm) := Laws.fits_short rfl (by omega) (by omega) (by omega) (by omega) (by omega)

theorem Laws.EncodingFits.xori (d a : SReg) (imm : BitVec 15) :
    Laws.EncodingFits.Statement (.xori d a imm) := Laws.fits_short rfl (by omega) (by omega) (by omega) (by omega) (by omega)

theorem Laws.EncodingFits.slti (d a : SReg) (imm : BitVec 15) :
    Laws.EncodingFits.Statement (.slti d a imm) := Laws.fits_short rfl (by omega) (by omega) (by omega) (by omega) (by omega)

theorem Laws.EncodingFits.sltiu (d a : SReg) (imm : BitVec 15) :
    Laws.EncodingFits.Statement (.sltiu d a imm) := Laws.fits_short rfl (by omega) (by omega) (by omega) (by omega) (by omega)

theorem Laws.EncodingFits.slli (d a : SReg) (sh : BitVec 6) :
    Laws.EncodingFits.Statement (.slli d a sh) := Laws.fits_short rfl (by omega) (by omega) (by omega) (by omega) (by omega)

theorem Laws.EncodingFits.srli (d a : SReg) (sh : BitVec 6) :
    Laws.EncodingFits.Statement (.srli d a sh) := Laws.fits_short rfl (by omega) (by omega) (by omega) (by omega) (by omega)

theorem Laws.EncodingFits.srai (d a : SReg) (sh : BitVec 6) :
    Laws.EncodingFits.Statement (.srai d a sh) := Laws.fits_short rfl (by omega) (by omega) (by omega) (by omega) (by omega)

theorem Laws.EncodingFits.lihi (d : SReg) (imm : BitVec 20) :
    Laws.EncodingFits.Statement (.lihi d imm) := Laws.fits_short rfl (by omega) (by omega) (by omega) (by omega) (by omega)

theorem Laws.EncodingFits.pcadd (d : SReg) (imm : BitVec 20) :
    Laws.EncodingFits.Statement (.pcadd d imm) := Laws.fits_short rfl (by omega) (by omega) (by omega) (by omega) (by omega)

theorem Laws.EncodingFits.ldb (d a : SReg) (imm : BitVec 15) :
    Laws.EncodingFits.Statement (.ldb d a imm) := Laws.fits_short rfl (by omega) (by omega) (by omega) (by omega) (by omega)

theorem Laws.EncodingFits.ldbu (d a : SReg) (imm : BitVec 15) :
    Laws.EncodingFits.Statement (.ldbu d a imm) := Laws.fits_short rfl (by omega) (by omega) (by omega) (by omega) (by omega)

theorem Laws.EncodingFits.ldh (d a : SReg) (imm : BitVec 15) :
    Laws.EncodingFits.Statement (.ldh d a imm) := Laws.fits_short rfl (by omega) (by omega) (by omega) (by omega) (by omega)

theorem Laws.EncodingFits.ldhu (d a : SReg) (imm : BitVec 15) :
    Laws.EncodingFits.Statement (.ldhu d a imm) := Laws.fits_short rfl (by omega) (by omega) (by omega) (by omega) (by omega)

theorem Laws.EncodingFits.ldw (d a : SReg) (imm : BitVec 15) :
    Laws.EncodingFits.Statement (.ldw d a imm) := Laws.fits_short rfl (by omega) (by omega) (by omega) (by omega) (by omega)

theorem Laws.EncodingFits.ldwu (d a : SReg) (imm : BitVec 15) :
    Laws.EncodingFits.Statement (.ldwu d a imm) := Laws.fits_short rfl (by omega) (by omega) (by omega) (by omega) (by omega)

theorem Laws.EncodingFits.ldd (d a : SReg) (imm : BitVec 15) :
    Laws.EncodingFits.Statement (.ldd d a imm) := Laws.fits_short rfl (by omega) (by omega) (by omega) (by omega) (by omega)

theorem Laws.EncodingFits.stb (a b : SReg) (imm : BitVec 15) :
    Laws.EncodingFits.Statement (.stb a b imm) := Laws.fits_short rfl (by omega) (by omega) (by omega) (by omega) (by omega)

theorem Laws.EncodingFits.sth (a b : SReg) (imm : BitVec 15) :
    Laws.EncodingFits.Statement (.sth a b imm) := Laws.fits_short rfl (by omega) (by omega) (by omega) (by omega) (by omega)

theorem Laws.EncodingFits.stw (a b : SReg) (imm : BitVec 15) :
    Laws.EncodingFits.Statement (.stw a b imm) := Laws.fits_short rfl (by omega) (by omega) (by omega) (by omega) (by omega)

theorem Laws.EncodingFits.std (a b : SReg) (imm : BitVec 15) :
    Laws.EncodingFits.Statement (.std a b imm) := Laws.fits_short rfl (by omega) (by omega) (by omega) (by omega) (by omega)

theorem Laws.EncodingFits.beq (a b : SReg) (off : BitVec 15) :
    Laws.EncodingFits.Statement (.beq a b off) := Laws.fits_short rfl (by omega) (by omega) (by omega) (by omega) (by omega)

theorem Laws.EncodingFits.bne (a b : SReg) (off : BitVec 15) :
    Laws.EncodingFits.Statement (.bne a b off) := Laws.fits_short rfl (by omega) (by omega) (by omega) (by omega) (by omega)

theorem Laws.EncodingFits.blt (a b : SReg) (off : BitVec 15) :
    Laws.EncodingFits.Statement (.blt a b off) := Laws.fits_short rfl (by omega) (by omega) (by omega) (by omega) (by omega)

theorem Laws.EncodingFits.bge (a b : SReg) (off : BitVec 15) :
    Laws.EncodingFits.Statement (.bge a b off) := Laws.fits_short rfl (by omega) (by omega) (by omega) (by omega) (by omega)

theorem Laws.EncodingFits.bltu (a b : SReg) (off : BitVec 15) :
    Laws.EncodingFits.Statement (.bltu a b off) := Laws.fits_short rfl (by omega) (by omega) (by omega) (by omega) (by omega)

theorem Laws.EncodingFits.bgeu (a b : SReg) (off : BitVec 15) :
    Laws.EncodingFits.Statement (.bgeu a b off) := Laws.fits_short rfl (by omega) (by omega) (by omega) (by omega) (by omega)

theorem Laws.EncodingFits.call (d : SReg) (off : BitVec 20) :
    Laws.EncodingFits.Statement (.call d off) := Laws.fits_short rfl (by omega) (by omega) (by omega) (by omega) (by omega)

theorem Laws.EncodingFits.callr (d a : SReg) (imm : BitVec 15) :
    Laws.EncodingFits.Statement (.callr d a imm) := Laws.fits_short rfl (by omega) (by omega) (by omega) (by omega) (by omega)

theorem Laws.EncodingFits.amoAdd (scope : BitVec 3) (aq rl wide : Bool) (d a b : SReg) :
    Laws.EncodingFits.Statement (.amoAdd scope aq rl wide d a b) := Laws.fits_short rfl (Laws.amoFunct_lt _ _ _ _ _ (by omega)) (by omega) (by omega) (by omega) (by omega)

theorem Laws.EncodingFits.amoSwap (scope : BitVec 3) (aq rl wide : Bool) (d a b : SReg) :
    Laws.EncodingFits.Statement (.amoSwap scope aq rl wide d a b) := Laws.fits_short rfl (Laws.amoFunct_lt _ _ _ _ _ (by omega)) (by omega) (by omega) (by omega) (by omega)

theorem Laws.EncodingFits.amoCas (scope : BitVec 3) (aq rl wide : Bool) (d a b : SReg) :
    Laws.EncodingFits.Statement (.amoCas scope aq rl wide d a b) := Laws.fits_short rfl (Laws.amoFunct_lt _ _ _ _ _ (by omega)) (by omega) (by omega) (by omega) (by omega)

theorem Laws.EncodingFits.amoMin (scope : BitVec 3) (aq rl wide : Bool) (d a b : SReg) :
    Laws.EncodingFits.Statement (.amoMin scope aq rl wide d a b) := Laws.fits_short rfl (Laws.amoFunct_lt _ _ _ _ _ (by omega)) (by omega) (by omega) (by omega) (by omega)

theorem Laws.EncodingFits.amoMax (scope : BitVec 3) (aq rl wide : Bool) (d a b : SReg) :
    Laws.EncodingFits.Statement (.amoMax scope aq rl wide d a b) := Laws.fits_short rfl (Laws.amoFunct_lt _ _ _ _ _ (by omega)) (by omega) (by omega) (by omega) (by omega)

theorem Laws.EncodingFits.amoAnd (scope : BitVec 3) (aq rl wide : Bool) (d a b : SReg) :
    Laws.EncodingFits.Statement (.amoAnd scope aq rl wide d a b) := Laws.fits_short rfl (Laws.amoFunct_lt _ _ _ _ _ (by omega)) (by omega) (by omega) (by omega) (by omega)

theorem Laws.EncodingFits.amoOr (scope : BitVec 3) (aq rl wide : Bool) (d a b : SReg) :
    Laws.EncodingFits.Statement (.amoOr scope aq rl wide d a b) := Laws.fits_short rfl (Laws.amoFunct_lt _ _ _ _ _ (by omega)) (by omega) (by omega) (by omega) (by omega)

theorem Laws.EncodingFits.amoXor (scope : BitVec 3) (aq rl wide : Bool) (d a b : SReg) :
    Laws.EncodingFits.Statement (.amoXor scope aq rl wide d a b) := Laws.fits_short rfl (Laws.amoFunct_lt _ _ _ _ _ (by omega)) (by omega) (by omega) (by omega) (by omega)

theorem Laws.EncodingFits.trap (code : BitVec 10) :
    Laws.EncodingFits.Statement (.trap code) := Laws.fits_short rfl (by omega) (by omega) (by omega) (by omega) (by omega)

theorem Laws.EncodingFits.eret :
    Laws.EncodingFits.Statement (.eret) := Laws.fits_short rfl (by omega) (by omega) (by omega) (by omega) (by omega)

theorem Laws.EncodingFits.fence (kind scope : BitVec 5) :
    Laws.EncodingFits.Statement (.fence kind scope) := Laws.fits_short rfl (by omega) (by omega) (by omega) (by omega) (by omega)

theorem Laws.EncodingFits.wfa (a b : SReg) :
    Laws.EncodingFits.Statement (.wfa a b) := Laws.fits_short rfl (by omega) (by omega) (by omega) (by omega) (by omega)

theorem Laws.EncodingFits.snap :
    Laws.EncodingFits.Statement (.snap) := Laws.fits_short rfl (by omega) (by omega) (by omega) (by omega) (by omega)

theorem Laws.EncodingFits.cfgrd (d : SReg) (csr : BitVec 12) :
    Laws.EncodingFits.Statement (.cfgrd d csr) := Laws.fits_short rfl (by omega) (by omega) (by omega) (by omega) (by omega)

theorem Laws.EncodingFits.cfgwr (d a : SReg) (csr : BitVec 12) :
    Laws.EncodingFits.Statement (.cfgwr d a csr) := Laws.fits_short rfl (by omega) (by omega) (by omega) (by omega) (by omega)

theorem Laws.EncodingFits.cfgset (d a : SReg) (csr : BitVec 12) :
    Laws.EncodingFits.Statement (.cfgset d a csr) := Laws.fits_short rfl (by omega) (by omega) (by omega) (by omega) (by omega)

theorem Laws.EncodingFits.cfgclr (d a : SReg) (csr : BitVec 12) :
    Laws.EncodingFits.Statement (.cfgclr d a csr) := Laws.fits_short rfl (by omega) (by omega) (by omega) (by omega) (by omega)

theorem Laws.EncodingFits.settle (d a b : SReg) :
    Laws.EncodingFits.Statement (.settle d a b) := Laws.fits_short rfl (by omega) (by omega) (by omega) (by omega) (by omega)

theorem Laws.EncodingFits.renew (a b : SReg) :
    Laws.EncodingFits.Statement (.renew a b) := Laws.fits_short rfl (by omega) (by omega) (by omega) (by omega) (by omega)

theorem Laws.EncodingFits.discard (a b : SReg) :
    Laws.EncodingFits.Statement (.discard a b) := Laws.fits_short rfl (by omega) (by omega) (by omega) (by omega) (by omega)

theorem Laws.EncodingFits.pref (a b : SReg) :
    Laws.EncodingFits.Statement (.pref a b) := Laws.fits_short rfl (by omega) (by omega) (by omega) (by omega) (by omega)

theorem Laws.EncodingFits.regdef (d a b : SReg) :
    Laws.EncodingFits.Statement (.regdef d a b) := Laws.fits_short rfl (by omega) (by omega) (by omega) (by omega) (by omega)

theorem Laws.EncodingFits.tlbinv (d a b : SReg) :
    Laws.EncodingFits.Statement (.tlbinv d a b) := Laws.fits_short rfl (by omega) (by omega) (by omega) (by omega) (by omega)

theorem Laws.EncodingFits.tlbwait :
    Laws.EncodingFits.Statement (.tlbwait) := Laws.fits_short rfl (by omega) (by omega) (by omega) (by omega) (by omega)

theorem Laws.EncodingFits.bankcfg (d a b : SReg) :
    Laws.EncodingFits.Statement (.bankcfg d a b) := Laws.fits_short rfl (by omega) (by omega) (by omega) (by omega) (by omega)

theorem Laws.EncodingFits.cbld (a : SReg) :
    Laws.EncodingFits.Statement (.cbld a) := Laws.fits_short rfl (by omega) (by omega) (by omega) (by omega) (by omega)

theorem Laws.EncodingFits.rdcnt (space : BitVec 6) (d a : SReg) :
    Laws.EncodingFits.Statement (.rdcnt space d a) := Laws.fits_short rfl (by omega) (by omega) (by omega) (by omega) (by omega)

theorem Laws.EncodingFits.waitc (space : BitVec 6) (d a b : SReg) :
    Laws.EncodingFits.Statement (.waitc space d a b) := Laws.fits_short rfl (by omega) (by omega) (by omega) (by omega) (by omega)

theorem Laws.EncodingFits.bararv (d a b : SReg) :
    Laws.EncodingFits.Statement (.bararv d a b) := Laws.fits_short rfl (by omega) (by omega) (by omega) (by omega) (by omega)

theorem Laws.EncodingFits.barwait (d a b : SReg) :
    Laws.EncodingFits.Statement (.barwait d a b) := Laws.fits_short rfl (by omega) (by omega) (by omega) (by omega) (by omega)

theorem Laws.EncodingFits.rlaunch (d a : SReg) :
    Laws.EncodingFits.Statement (.rlaunch d a) := Laws.fits_short rfl (by omega) (by omega) (by omega) (by omega) (by omega)

theorem Laws.EncodingFits.rwait (d a : SReg) :
    Laws.EncodingFits.Statement (.rwait d a) := Laws.fits_short rfl (by omega) (by omega) (by omega) (by omega) (by omega)

theorem Laws.EncodingFits.ryield :
    Laws.EncodingFits.Statement (.ryield) := Laws.fits_short rfl (by omega) (by omega) (by omega) (by omega) (by omega)

theorem Laws.EncodingFits.rexit (a : SReg) :
    Laws.EncodingFits.Statement (.rexit a) := Laws.fits_short rfl (by omega) (by omega) (by omega) (by omega) (by omega)

theorem Laws.EncodingFits.nextit (d : SReg) :
    Laws.EncodingFits.Statement (.nextit d) := Laws.fits_short rfl (by omega) (by omega) (by omega) (by omega) (by omega)

theorem Laws.EncodingFits.cpgo (d a b : SReg) :
    Laws.EncodingFits.Statement (.cpgo d a b) := Laws.fits_short rfl (by omega) (by omega) (by omega) (by omega) (by omega)

theorem Laws.EncodingFits.ipgo (d a : SReg) :
    Laws.EncodingFits.Statement (.ipgo d a) := Laws.fits_short rfl (by omega) (by omega) (by omega) (by omega) (by omega)

theorem Laws.EncodingFits.epush (a b : SReg) :
    Laws.EncodingFits.Statement (.epush a b) := Laws.fits_short rfl (by omega) (by omega) (by omega) (by omega) (by omega)

theorem Laws.EncodingFits.epop (d a : SReg) :
    Laws.EncodingFits.Statement (.epop d a) := Laws.fits_short rfl (by omega) (by omega) (by omega) (by omega) (by omega)

theorem Laws.EncodingFits.convoyHeader (s6 s5 s4 s3 s2 s1 : BitVec 4) (k : BitVec 3) :
    Laws.EncodingFits.Statement (.convoyHeader s6 s5 s4 s3 s2 s1 k) := by intro w n h; cases h; exact .inl ⟨rfl, by omega, by omega⟩

theorem Laws.EncodingFits.vcfg (f : VF) :
    Laws.EncodingFits.Statement (.vcfg f) := Laws.fits_long rfl (by omega) (by omega)

theorem Laws.EncodingFits.setvl (f : VF) :
    Laws.EncodingFits.Statement (.setvl f) := Laws.fits_long rfl (by omega) (by omega)

theorem Laws.EncodingFits.vadd (f : VF) :
    Laws.EncodingFits.Statement (.vadd f) := Laws.fits_long rfl (by omega) (by omega)

theorem Laws.EncodingFits.vsub (f : VF) :
    Laws.EncodingFits.Statement (.vsub f) := Laws.fits_long rfl (by omega) (by omega)

theorem Laws.EncodingFits.vmul (f : VF) :
    Laws.EncodingFits.Statement (.vmul f) := Laws.fits_long rfl (by omega) (by omega)

theorem Laws.EncodingFits.vmulh (f : VF) :
    Laws.EncodingFits.Statement (.vmulh f) := Laws.fits_long rfl (by omega) (by omega)

theorem Laws.EncodingFits.vmulhu (f : VF) :
    Laws.EncodingFits.Statement (.vmulhu f) := Laws.fits_long rfl (by omega) (by omega)

theorem Laws.EncodingFits.vmin (f : VF) :
    Laws.EncodingFits.Statement (.vmin f) := Laws.fits_long rfl (by omega) (by omega)

theorem Laws.EncodingFits.vmax (f : VF) :
    Laws.EncodingFits.Statement (.vmax f) := Laws.fits_long rfl (by omega) (by omega)

theorem Laws.EncodingFits.vminu (f : VF) :
    Laws.EncodingFits.Statement (.vminu f) := Laws.fits_long rfl (by omega) (by omega)

theorem Laws.EncodingFits.vmaxu (f : VF) :
    Laws.EncodingFits.Statement (.vmaxu f) := Laws.fits_long rfl (by omega) (by omega)

theorem Laws.EncodingFits.vand (f : VF) :
    Laws.EncodingFits.Statement (.vand f) := Laws.fits_long rfl (by omega) (by omega)

theorem Laws.EncodingFits.vor (f : VF) :
    Laws.EncodingFits.Statement (.vor f) := Laws.fits_long rfl (by omega) (by omega)

theorem Laws.EncodingFits.vxor (f : VF) :
    Laws.EncodingFits.Statement (.vxor f) := Laws.fits_long rfl (by omega) (by omega)

theorem Laws.EncodingFits.vsll (f : VF) :
    Laws.EncodingFits.Statement (.vsll f) := Laws.fits_long rfl (by omega) (by omega)

theorem Laws.EncodingFits.vsrl (f : VF) :
    Laws.EncodingFits.Statement (.vsrl f) := Laws.fits_long rfl (by omega) (by omega)

theorem Laws.EncodingFits.vsra (f : VF) :
    Laws.EncodingFits.Statement (.vsra f) := Laws.fits_long rfl (by omega) (by omega)

theorem Laws.EncodingFits.vaddsat (f : VF) :
    Laws.EncodingFits.Statement (.vaddsat f) := Laws.fits_long rfl (by omega) (by omega)

theorem Laws.EncodingFits.vsubsat (f : VF) :
    Laws.EncodingFits.Statement (.vsubsat f) := Laws.fits_long rfl (by omega) (by omega)

theorem Laws.EncodingFits.vcmpeq (f : VF) :
    Laws.EncodingFits.Statement (.vcmpeq f) := Laws.fits_long rfl (by omega) (by omega)

theorem Laws.EncodingFits.vcmplt (f : VF) :
    Laws.EncodingFits.Statement (.vcmplt f) := Laws.fits_long rfl (by omega) (by omega)

theorem Laws.EncodingFits.vcmpltu (f : VF) :
    Laws.EncodingFits.Statement (.vcmpltu f) := Laws.fits_long rfl (by omega) (by omega)

theorem Laws.EncodingFits.vfadd (rm : BitVec 3) (f : VF) :
    Laws.EncodingFits.Statement (.vfadd rm f) := Laws.fits_long rfl (by omega) (by omega)

theorem Laws.EncodingFits.vfsub (rm : BitVec 3) (f : VF) :
    Laws.EncodingFits.Statement (.vfsub rm f) := Laws.fits_long rfl (by omega) (by omega)

theorem Laws.EncodingFits.vfmul (rm : BitVec 3) (f : VF) :
    Laws.EncodingFits.Statement (.vfmul rm f) := Laws.fits_long rfl (by omega) (by omega)

theorem Laws.EncodingFits.vfma (rm : BitVec 3) (f : VF) :
    Laws.EncodingFits.Statement (.vfma rm f) := Laws.fits_long rfl (by omega) (by omega)

theorem Laws.EncodingFits.vfms (rm : BitVec 3) (f : VF) :
    Laws.EncodingFits.Statement (.vfms rm f) := Laws.fits_long rfl (by omega) (by omega)

theorem Laws.EncodingFits.vfnma (rm : BitVec 3) (f : VF) :
    Laws.EncodingFits.Statement (.vfnma rm f) := Laws.fits_long rfl (by omega) (by omega)

theorem Laws.EncodingFits.vfmin (rm : BitVec 3) (f : VF) :
    Laws.EncodingFits.Statement (.vfmin rm f) := Laws.fits_long rfl (by omega) (by omega)

theorem Laws.EncodingFits.vfmax (rm : BitVec 3) (f : VF) :
    Laws.EncodingFits.Statement (.vfmax rm f) := Laws.fits_long rfl (by omega) (by omega)

theorem Laws.EncodingFits.vfabs (rm : BitVec 3) (f : VF) :
    Laws.EncodingFits.Statement (.vfabs rm f) := Laws.fits_long rfl (by omega) (by omega)

theorem Laws.EncodingFits.vfneg (rm : BitVec 3) (f : VF) :
    Laws.EncodingFits.Statement (.vfneg rm f) := Laws.fits_long rfl (by omega) (by omega)

theorem Laws.EncodingFits.vfcmpeq (rm : BitVec 3) (f : VF) :
    Laws.EncodingFits.Statement (.vfcmpeq rm f) := Laws.fits_long rfl (by omega) (by omega)

theorem Laws.EncodingFits.vfcmplt (rm : BitVec 3) (f : VF) :
    Laws.EncodingFits.Statement (.vfcmplt rm f) := Laws.fits_long rfl (by omega) (by omega)

theorem Laws.EncodingFits.vfcmple (rm : BitVec 3) (f : VF) :
    Laws.EncodingFits.Statement (.vfcmple rm f) := Laws.fits_long rfl (by omega) (by omega)

theorem Laws.EncodingFits.vfclass (rm : BitVec 3) (f : VF) :
    Laws.EncodingFits.Statement (.vfclass rm f) := Laws.fits_long rfl (by omega) (by omega)

theorem Laws.EncodingFits.vfrcp (f : VF) :
    Laws.EncodingFits.Statement (.vfrcp f) := Laws.fits_long rfl (by omega) (by omega)

theorem Laws.EncodingFits.vfrsq (f : VF) :
    Laws.EncodingFits.Statement (.vfrsq f) := Laws.fits_long rfl (by omega) (by omega)

theorem Laws.EncodingFits.vfrcps (f : VF) :
    Laws.EncodingFits.Statement (.vfrcps f) := Laws.fits_long rfl (by omega) (by omega)

theorem Laws.EncodingFits.vfrsqs (f : VF) :
    Laws.EncodingFits.Statement (.vfrsqs f) := Laws.fits_long rfl (by omega) (by omega)

theorem Laws.EncodingFits.vfexp2 (f : VF) :
    Laws.EncodingFits.Statement (.vfexp2 f) := Laws.fits_long rfl (by omega) (by omega)

theorem Laws.EncodingFits.vflog2 (f : VF) :
    Laws.EncodingFits.Statement (.vflog2 f) := Laws.fits_long rfl (by omega) (by omega)

theorem Laws.EncodingFits.vftanh (f : VF) :
    Laws.EncodingFits.Statement (.vftanh f) := Laws.fits_long rfl (by omega) (by omega)

theorem Laws.EncodingFits.vcvt (rm : BitVec 3) (sat : Bool) (f : VF) :
    Laws.EncodingFits.Statement (.vcvt rm sat f) := by
  have := Bool.toNat_lt sat
  exact Laws.fits_long rfl (by omega) (by omega)

theorem Laws.EncodingFits.vqnt (rm : BitVec 3) (sat : Bool) (f : VF) :
    Laws.EncodingFits.Statement (.vqnt rm sat f) := by
  have := Bool.toNat_lt sat
  exact Laws.fits_long rfl (by omega) (by omega)

theorem Laws.EncodingFits.vdqnt (rm : BitVec 3) (sat : Bool) (f : VF) :
    Laws.EncodingFits.Statement (.vdqnt rm sat f) := by
  have := Bool.toNat_lt sat
  exact Laws.fits_long rfl (by omega) (by omega)

theorem Laws.EncodingFits.vcbdec (rm : BitVec 3) (sat : Bool) (f : VF) :
    Laws.EncodingFits.Statement (.vcbdec rm sat f) := by
  have := Bool.toNat_lt sat
  exact Laws.fits_long rfl (by omega) (by omega)

theorem Laws.EncodingFits.vredsum (f : VF) :
    Laws.EncodingFits.Statement (.vredsum f) := Laws.fits_long rfl (by omega) (by omega)

theorem Laws.EncodingFits.vredmin (f : VF) :
    Laws.EncodingFits.Statement (.vredmin f) := Laws.fits_long rfl (by omega) (by omega)

theorem Laws.EncodingFits.vredmax (f : VF) :
    Laws.EncodingFits.Statement (.vredmax f) := Laws.fits_long rfl (by omega) (by omega)

theorem Laws.EncodingFits.vfredsum (f : VF) :
    Laws.EncodingFits.Statement (.vfredsum f) := Laws.fits_long rfl (by omega) (by omega)

theorem Laws.EncodingFits.vfredmin (f : VF) :
    Laws.EncodingFits.Statement (.vfredmin f) := Laws.fits_long rfl (by omega) (by omega)

theorem Laws.EncodingFits.vfredmax (f : VF) :
    Laws.EncodingFits.Statement (.vfredmax f) := Laws.fits_long rfl (by omega) (by omega)

theorem Laws.EncodingFits.vperm (f : VF) :
    Laws.EncodingFits.Statement (.vperm f) := Laws.fits_long rfl (by omega) (by omega)

theorem Laws.EncodingFits.vslideup (f : VF) :
    Laws.EncodingFits.Statement (.vslideup f) := Laws.fits_long rfl (by omega) (by omega)

theorem Laws.EncodingFits.vslidedn (f : VF) :
    Laws.EncodingFits.Statement (.vslidedn f) := Laws.fits_long rfl (by omega) (by omega)

theorem Laws.EncodingFits.vcompress (f : VF) :
    Laws.EncodingFits.Statement (.vcompress f) := Laws.fits_long rfl (by omega) (by omega)

theorem Laws.EncodingFits.vexpand (f : VF) :
    Laws.EncodingFits.Statement (.vexpand f) := Laws.fits_long rfl (by omega) (by omega)

theorem Laws.EncodingFits.vgtrn (f : VF) :
    Laws.EncodingFits.Statement (.vgtrn f) := Laws.fits_long rfl (by omega) (by omega)

theorem Laws.EncodingFits.vqtrn (f : VF) :
    Laws.EncodingFits.Statement (.vqtrn f) := Laws.fits_long rfl (by omega) (by omega)

theorem Laws.EncodingFits.vbsll (f : VF) :
    Laws.EncodingFits.Statement (.vbsll f) := Laws.fits_long rfl (by omega) (by omega)

theorem Laws.EncodingFits.vbsrl (f : VF) :
    Laws.EncodingFits.Statement (.vbsrl f) := Laws.fits_long rfl (by omega) (by omega)

theorem Laws.EncodingFits.vbfsl (f : VF) :
    Laws.EncodingFits.Statement (.vbfsl f) := Laws.fits_long rfl (by omega) (by omega)

theorem Laws.EncodingFits.vbfsr (f : VF) :
    Laws.EncodingFits.Statement (.vbfsr f) := Laws.fits_long rfl (by omega) (by omega)

theorem Laws.EncodingFits.mand (f : VF) :
    Laws.EncodingFits.Statement (.mand f) := Laws.fits_long rfl (by omega) (by omega)

theorem Laws.EncodingFits.mor (f : VF) :
    Laws.EncodingFits.Statement (.mor f) := Laws.fits_long rfl (by omega) (by omega)

theorem Laws.EncodingFits.mxor (f : VF) :
    Laws.EncodingFits.Statement (.mxor f) := Laws.fits_long rfl (by omega) (by omega)

theorem Laws.EncodingFits.mandn (f : VF) :
    Laws.EncodingFits.Statement (.mandn f) := Laws.fits_long rfl (by omega) (by omega)

theorem Laws.EncodingFits.mset (f : VF) :
    Laws.EncodingFits.Statement (.mset f) := Laws.fits_long rfl (by omega) (by omega)

theorem Laws.EncodingFits.mpopc (f : VF) :
    Laws.EncodingFits.Statement (.mpopc f) := Laws.fits_long rfl (by omega) (by omega)

theorem Laws.EncodingFits.mfirst (f : VF) :
    Laws.EncodingFits.Statement (.mfirst f) := Laws.fits_long rfl (by omega) (by omega)

theorem Laws.EncodingFits.vmv (f : VF) :
    Laws.EncodingFits.Statement (.vmv f) := Laws.fits_long rfl (by omega) (by omega)

theorem Laws.EncodingFits.vmvs (f : VF) :
    Laws.EncodingFits.Statement (.vmvs f) := Laws.fits_long rfl (by omega) (by omega)

theorem Laws.EncodingFits.vins (f : VF) :
    Laws.EncodingFits.Statement (.vins f) := Laws.fits_long rfl (by omega) (by omega)

theorem Laws.EncodingFits.vbcast (f : VF) :
    Laws.EncodingFits.Statement (.vbcast f) := Laws.fits_long rfl (by omega) (by omega)

theorem Laws.EncodingFits.viota (f : VF) :
    Laws.EncodingFits.Statement (.viota f) := Laws.fits_long rfl (by omega) (by omega)

theorem Laws.EncodingFits.vmerge (f : VF) :
    Laws.EncodingFits.Statement (.vmerge f) := Laws.fits_long rfl (by omega) (by omega)

theorem Laws.EncodingFits.vld (hint : BitVec 2) (f : VF) :
    Laws.EncodingFits.Statement (.vld hint f) := Laws.fits_long rfl (by omega) (by omega)

theorem Laws.EncodingFits.vlds (hint : BitVec 2) (f : VF) :
    Laws.EncodingFits.Statement (.vlds hint f) := Laws.fits_long rfl (by omega) (by omega)

theorem Laws.EncodingFits.vldx (hint : BitVec 2) (f : VF) :
    Laws.EncodingFits.Statement (.vldx hint f) := Laws.fits_long rfl (by omega) (by omega)

theorem Laws.EncodingFits.vst (f : VF) :
    Laws.EncodingFits.Statement (.vst f) := Laws.fits_long rfl (by omega) (by omega)

theorem Laws.EncodingFits.vsts (f : VF) :
    Laws.EncodingFits.Statement (.vsts f) := Laws.fits_long rfl (by omega) (by omega)

theorem Laws.EncodingFits.vstx (f : VF) :
    Laws.EncodingFits.Statement (.vstx f) := Laws.fits_long rfl (by omega) (by omega)

theorem Laws.EncodingFits.vamo (op : BitVec 4) (old : Bool) (f : VF) :
    Laws.EncodingFits.Statement (.vamo op old f) := by
  have := Bool.toNat_lt old
  exact Laws.fits_long rfl (by omega) (by omega)

theorem Laws.EncodingFits.vupd (tag : BitVec 4) (f : VF) :
    Laws.EncodingFits.Statement (.vupd tag f) := Laws.fits_long rfl (by omega) (by omega)

theorem Laws.EncodingFits.smld (f : VF) :
    Laws.EncodingFits.Statement (.smld f) := Laws.fits_long rfl (by omega) (by omega)

theorem Laws.EncodingFits.smst (f : VF) :
    Laws.EncodingFits.Statement (.smst f) := Laws.fits_long rfl (by omega) (by omega)

theorem Laws.EncodingFits.smget (f : VF) :
    Laws.EncodingFits.Statement (.smget f) := Laws.fits_long rfl (by omega) (by omega)

theorem Laws.EncodingFits.smput (f : VF) :
    Laws.EncodingFits.Statement (.smput f) := Laws.fits_long rfl (by omega) (by omega)

theorem Laws.EncodingFits.smid (f : VF) :
    Laws.EncodingFits.Statement (.smid f) := Laws.fits_long rfl (by omega) (by omega)

theorem Laws.EncodingFits.smadd (f : VF) :
    Laws.EncodingFits.Statement (.smadd f) := Laws.fits_long rfl (by omega) (by omega)

theorem Laws.EncodingFits.smscl (f : VF) :
    Laws.EncodingFits.Statement (.smscl f) := Laws.fits_long rfl (by omega) (by omega)

theorem Laws.EncodingFits.smmul (f : VF) :
    Laws.EncodingFits.Statement (.smmul f) := Laws.fits_long rfl (by omega) (by omega)

theorem Laws.EncodingFits.smma (f : VF) :
    Laws.EncodingFits.Statement (.smma f) := Laws.fits_long rfl (by omega) (by omega)

theorem Laws.EncodingFits.smtr (f : VF) :
    Laws.EncodingFits.Statement (.smtr f) := Laws.fits_long rfl (by omega) (by omega)

theorem Laws.EncodingFits.smmv (f : VF) :
    Laws.EncodingFits.Statement (.smmv f) := Laws.fits_long rfl (by omega) (by omega)

theorem Laws.EncodingFits.smchol (f : VF) :
    Laws.EncodingFits.Statement (.smchol f) := Laws.fits_long rfl (by omega) (by omega)

theorem Laws.EncodingFits.smlu (f : VF) :
    Laws.EncodingFits.Statement (.smlu f) := Laws.fits_long rfl (by omega) (by omega)

theorem Laws.EncodingFits.smsolv (f : VF) :
    Laws.EncodingFits.Statement (.smsolv f) := Laws.fits_long rfl (by omega) (by omega)

theorem Laws.EncodingFits.mcfg (f : VF) :
    Laws.EncodingFits.Statement (.mcfg f) := Laws.fits_long rfl (by omega) (by omega)

theorem Laws.EncodingFits.mldw (f : VF) :
    Laws.EncodingFits.Statement (.mldw f) := Laws.fits_long rfl (by omega) (by omega)

theorem Laws.EncodingFits.mswap (f : VF) :
    Laws.EncodingFits.Statement (.mswap f) := Laws.fits_long rfl (by omega) (by omega)

theorem Laws.EncodingFits.mstrm (f : VF) :
    Laws.EncodingFits.Statement (.mstrm f) := Laws.fits_long rfl (by omega) (by omega)

theorem Laws.EncodingFits.mdrn (f : VF) :
    Laws.EncodingFits.Statement (.mdrn f) := Laws.fits_long rfl (by omega) (by omega)

theorem Laws.EncodingFits.mzero (f : VF) :
    Laws.EncodingFits.Statement (.mzero f) := Laws.fits_long rfl (by omega) (by omega)

theorem Laws.EncodingFits.mspl (f : VF) :
    Laws.EncodingFits.Statement (.mspl f) := Laws.fits_long rfl (by omega) (by omega)

theorem Laws.EncodingFits.mfil (f : VF) :
    Laws.EncodingFits.Statement (.mfil f) := Laws.fits_long rfl (by omega) (by omega)

theorem Laws.EncodingFits.vproj (f : VF) :
    Laws.EncodingFits.Statement (.vproj f) := Laws.fits_long rfl (by omega) (by omega)

theorem Laws.EncodingFits.vpjadj (f : VF) :
    Laws.EncodingFits.Statement (.vpjadj f) := Laws.fits_long rfl (by omega) (by omega)

theorem Laws.EncodingFits.vsave (f : VF) :
    Laws.EncodingFits.Statement (.vsave f) := Laws.fits_long rfl (by omega) (by omega)

theorem Laws.EncodingFits.vrest (f : VF) :
    Laws.EncodingFits.Statement (.vrest f) := Laws.fits_long rfl (by omega) (by omega)

theorem Laws.EncodingFits.vqsave (f : VF) :
    Laws.EncodingFits.Statement (.vqsave f) := Laws.fits_long rfl (by omega) (by omega)

theorem Laws.EncodingFits.vqrest (f : VF) :
    Laws.EncodingFits.Statement (.vqrest f) := Laws.fits_long rfl (by omega) (by omega)

theorem Laws.EncodingFits.readBackDelivery :
    Laws.EncodingFits.Statement (.readBackDelivery) := Laws.fits_none rfl

theorem Laws.EncodingFits.takeInterrupt :
    Laws.EncodingFits.Statement (.takeInterrupt) := Laws.fits_none rfl

theorem Laws.EncodingFits.schedulerEntry :
    Laws.EncodingFits.Statement (.schedulerEntry) := Laws.fits_none rfl

theorem Laws.EncodingFits.regionBind :
    Laws.EncodingFits.Statement (.regionBind) := Laws.fits_none rfl

theorem Laws.EncodingFits.coreTakeover :
    Laws.EncodingFits.Statement (.coreTakeover) := Laws.fits_none rfl

theorem Laws.EncodingFits.budgetStop :
    Laws.EncodingFits.Statement (.budgetStop) := Laws.fits_none rfl

theorem Laws.EncodingFits.park :
    Laws.EncodingFits.Statement (.park) := Laws.fits_none rfl

theorem Laws.EncodingFits.parkedResume :
    Laws.EncodingFits.Statement (.parkedResume) := Laws.fits_none rfl

theorem Laws.EncodingFits.iterationDispatch :
    Laws.EncodingFits.Statement (.iterationDispatch) := Laws.fits_none rfl

theorem Laws.EncodingFits.regionComplete :
    Laws.EncodingFits.Statement (.regionComplete) := Laws.fits_none rfl

theorem Laws.EncodingFits.fillRequest :
    Laws.EncodingFits.Statement (.fillRequest) := Laws.fits_none rfl

theorem Laws.EncodingFits.getw :
    Laws.EncodingFits.Statement (.getw) := Laws.fits_none rfl

theorem Laws.EncodingFits.recall :
    Laws.EncodingFits.Statement (.recall) := Laws.fits_none rfl

theorem Laws.EncodingFits.dieGetu :
    Laws.EncodingFits.Statement (.dieGetu) := Laws.fits_none rfl

theorem Laws.EncodingFits.mergeRequest :
    Laws.EncodingFits.Statement (.mergeRequest) := Laws.fits_none rfl

theorem Laws.EncodingFits.uCopyEviction :
    Laws.EncodingFits.Statement (.uCopyEviction) := Laws.fits_none rfl

theorem Laws.EncodingFits.leaseRenewal :
    Laws.EncodingFits.Statement (.leaseRenewal) := Laws.fits_none rfl

theorem Laws.EncodingFits.leaseHolderTimeout :
    Laws.EncodingFits.Statement (.leaseHolderTimeout) := Laws.fits_none rfl

theorem Laws.EncodingFits.leaseExpiry :
    Laws.EncodingFits.Statement (.leaseExpiry) := Laws.fits_none rfl

theorem Laws.EncodingFits.timestampRollover :
    Laws.EncodingFits.Statement (.timestampRollover) := Laws.fits_none rfl

theorem Laws.EncodingFits.gets :
    Laws.EncodingFits.Statement (.gets) := Laws.fits_none rfl

theorem Laws.EncodingFits.getm :
    Laws.EncodingFits.Statement (.getm) := Laws.fits_none rfl

theorem Laws.EncodingFits.upg :
    Laws.EncodingFits.Statement (.upg) := Laws.fits_none rfl

theorem Laws.EncodingFits.putm :
    Laws.EncodingFits.Statement (.putm) := Laws.fits_none rfl

theorem Laws.EncodingFits.puto :
    Laws.EncodingFits.Statement (.puto) := Laws.fits_none rfl

theorem Laws.EncodingFits.pute :
    Laws.EncodingFits.Statement (.pute) := Laws.fits_none rfl

theorem Laws.EncodingFits.putu :
    Laws.EncodingFits.Statement (.putu) := Laws.fits_none rfl

theorem Laws.EncodingFits.fwdgets :
    Laws.EncodingFits.Statement (.fwdgets) := Laws.fits_none rfl

theorem Laws.EncodingFits.fwdgetm :
    Laws.EncodingFits.Statement (.fwdgetm) := Laws.fits_none rfl

theorem Laws.EncodingFits.inv :
    Laws.EncodingFits.Statement (.inv) := Laws.fits_none rfl

theorem Laws.EncodingFits.invack :
    Laws.EncodingFits.Statement (.invack) := Laws.fits_none rfl

theorem Laws.EncodingFits.data :
    Laws.EncodingFits.Statement (.data) := Laws.fits_none rfl

theorem Laws.EncodingFits.ackToDie :
    Laws.EncodingFits.Statement (.ackToDie) := Laws.fits_none rfl

theorem Laws.EncodingFits.ackToHome :
    Laws.EncodingFits.Statement (.ackToHome) := Laws.fits_none rfl

theorem Laws.EncodingFits.getu :
    Laws.EncodingFits.Statement (.getu) := Laws.fits_none rfl

theorem Laws.EncodingFits.mrgreq :
    Laws.EncodingFits.Statement (.mrgreq) := Laws.fits_none rfl

theorem Laws.EncodingFits.mrgdata :
    Laws.EncodingFits.Statement (.mrgdata) := Laws.fits_none rfl

theorem Laws.EncodingFits.hostMemrd :
    Laws.EncodingFits.Statement (.hostMemrd) := Laws.fits_none rfl

theorem Laws.EncodingFits.hostOwnershipRequest :
    Laws.EncodingFits.Statement (.hostOwnershipRequest) := Laws.fits_none rfl

theorem Laws.EncodingFits.hostMemwr :
    Laws.EncodingFits.Statement (.hostMemwr) := Laws.fits_none rfl

theorem Laws.EncodingFits.hostSnpdata :
    Laws.EncodingFits.Statement (.hostSnpdata) := Laws.fits_none rfl

theorem Laws.EncodingFits.hostSnpinv :
    Laws.EncodingFits.Statement (.hostSnpinv) := Laws.fits_none rfl

theorem Laws.EncodingFits.hostSnpcur :
    Laws.EncodingFits.Statement (.hostSnpcur) := Laws.fits_none rfl

theorem Laws.EncodingFits.hostBar2Read :
    Laws.EncodingFits.Statement (.hostBar2Read) := Laws.fits_none rfl

theorem Laws.EncodingFits.hostBar2Write :
    Laws.EncodingFits.Statement (.hostBar2Write) := Laws.fits_none rfl

theorem Laws.EncodingFits.peerRequest :
    Laws.EncodingFits.Statement (.peerRequest) := Laws.fits_none rfl

theorem Laws.EncodingFits.settleComplete :
    Laws.EncodingFits.Statement (.settleComplete) := Laws.fits_none rfl

theorem Laws.EncodingFits.ipcmdDispatch :
    Laws.EncodingFits.Statement (.ipcmdDispatch) := Laws.fits_none rfl

theorem Laws.EncodingFits.ipcmdComplete :
    Laws.EncodingFits.Statement (.ipcmdComplete) := Laws.fits_none rfl

theorem Laws.EncodingFits.copyChunk :
    Laws.EncodingFits.Statement (.copyChunk) := Laws.fits_none rfl

theorem Laws.EncodingFits.copyCommandComplete :
    Laws.EncodingFits.Statement (.copyCommandComplete) := Laws.fits_none rfl

theorem Laws.EncodingFits.cpctlAbort :
    Laws.EncodingFits.Statement (.cpctlAbort) := Laws.fits_none rfl

theorem Laws.EncodingFits.cpctlRetry :
    Laws.EncodingFits.Statement (.cpctlRetry) := Laws.fits_none rfl

theorem Laws.EncodingFits.tlbinvAcknowledge :
    Laws.EncodingFits.Statement (.tlbinvAcknowledge) := Laws.fits_none rfl

theorem Laws.EncodingFits.fifoBankWake :
    Laws.EncodingFits.Statement (.fifoBankWake) := Laws.fits_none rfl

theorem Laws.EncodingFits.scrubRow :
    Laws.EncodingFits.Statement (.scrubRow) := Laws.fits_none rfl

theorem Laws.EncodingFits.scoreHalving :
    Laws.EncodingFits.Statement (.scoreHalving) := Laws.fits_none rfl

theorem Laws.EncodingFits.launchWrite :
    Laws.EncodingFits.Statement (.launchWrite) := Laws.fits_none rfl

theorem Laws.EncodingFits.ltakeLoad :
    Laws.EncodingFits.Statement (.ltakeLoad) := Laws.fits_none rfl

theorem Laws.EncodingFits.lstatOverrunClear :
    Laws.EncodingFits.Statement (.lstatOverrunClear) := Laws.fits_none rfl

theorem Laws.EncodingFits.ldoneWrite :
    Laws.EncodingFits.Statement (.ldoneWrite) := Laws.fits_none rfl

theorem Laws.EncodingFits.errownWrite :
    Laws.EncodingFits.Statement (.errownWrite) := Laws.fits_none rfl

theorem Laws.EncodingFits.errpopWrite :
    Laws.EncodingFits.Statement (.errpopWrite) := Laws.fits_none rfl

theorem Laws.EncodingFits.hosterrWrite :
    Laws.EncodingFits.Statement (.hosterrWrite) := Laws.fits_none rfl

theorem Laws.EncodingFits.bistctlGo :
    Laws.EncodingFits.Statement (.bistctlGo) := Laws.fits_none rfl

theorem Laws.EncodingFits.bistComplete :
    Laws.EncodingFits.Statement (.bistComplete) := Laws.fits_none rfl

theorem Laws.EncodingFits.retreqLaneGroup :
    Laws.EncodingFits.Statement (.retreqLaneGroup) := Laws.fits_none rfl

theorem Laws.EncodingFits.retreqSliceWay :
    Laws.EncodingFits.Statement (.retreqSliceWay) := Laws.fits_none rfl

theorem Laws.EncodingFits.retreqLinkPort :
    Laws.EncodingFits.Statement (.retreqLinkPort) := Laws.fits_none rfl

theorem Laws.EncodingFits.retrowGo :
    Laws.EncodingFits.Statement (.retrowGo) := Laws.fits_none rfl

theorem Laws.EncodingFits.snaptrigWrite :
    Laws.EncodingFits.Statement (.snaptrigWrite) := Laws.fits_none rfl

theorem Laws.EncodingFits.snapinTrigger :
    Laws.EncodingFits.Statement (.snapinTrigger) := Laws.fits_none rfl

theorem Laws.EncodingFits.snapshotLatch :
    Laws.EncodingFits.Statement (.snapshotLatch) := Laws.fits_none rfl

theorem Laws.EncodingFits.portctlRetire :
    Laws.EncodingFits.Statement (.portctlRetire) := Laws.fits_none rfl

theorem Laws.EncodingFits.portctlTrain :
    Laws.EncodingFits.Statement (.portctlTrain) := Laws.fits_none rfl

theorem Laws.EncodingFits.portTrainingDone :
    Laws.EncodingFits.Statement (.portTrainingDone) := Laws.fits_none rfl

theorem Laws.EncodingFits.portDown :
    Laws.EncodingFits.Statement (.portDown) := Laws.fits_none rfl

theorem Laws.EncodingFits.flitCrcRetry :
    Laws.EncodingFits.Statement (.flitCrcRetry) := Laws.fits_none rfl

theorem Laws.EncodingFits.fwctlRestore :
    Laws.EncodingFits.Statement (.fwctlRestore) := Laws.fits_none rfl

theorem Laws.EncodingFits.fwctlProgram :
    Laws.EncodingFits.Statement (.fwctlProgram) := Laws.fits_none rfl

theorem Laws.EncodingFits.fwctlEnrol :
    Laws.EncodingFits.Statement (.fwctlEnrol) := Laws.fits_none rfl

theorem Laws.EncodingFits.fwctlRevoke :
    Laws.EncodingFits.Statement (.fwctlRevoke) := Laws.fits_none rfl

theorem Laws.EncodingFits.fwctlComplete :
    Laws.EncodingFits.Statement (.fwctlComplete) := Laws.fits_none rfl

theorem Laws.EncodingFits.registerWrite :
    Laws.EncodingFits.Statement (.registerWrite) := Laws.fits_none rfl

theorem Laws.EncodingFits.clockThrottleStep :
    Laws.EncodingFits.Statement (.clockThrottleStep) := Laws.fits_none rfl

theorem Laws.EncodingFits.powerOn :
    Laws.EncodingFits.Statement (.powerOn) := Laws.fits_none rfl

theorem Laws.EncodingFits.powerDomainLoss :
    Laws.EncodingFits.Statement (.powerDomainLoss) := Laws.fits_none rfl

theorem Laws.EncodingFits.thermalShutdown :
    Laws.EncodingFits.Statement (.thermalShutdown) := Laws.fits_none rfl

theorem Laws.EncodingFits.waitlimExpiry :
    Laws.EncodingFits.Statement (.waitlimExpiry) := Laws.fits_none rfl

theorem Laws.EncodingFits.peerResponse :
    Laws.EncodingFits.Statement (.peerResponse) := Laws.fits_none rfl

theorem Laws.EncodingFits.hostCacheResponse :
    Laws.EncodingFits.Statement (.hostCacheResponse) := Laws.fits_none rfl

theorem Laws.EncodingFits.backInvalidationResponse :
    Laws.EncodingFits.Statement (.backInvalidationResponse) := Laws.fits_none rfl

end Sys2Proof
end

