-- ==== Sys2Proof/Laws/Step.lean ====
section
/-! SUPPORT. What a step can do: the cases of the agenda and of a hart's turn, from which statements about every step
follow. -/

namespace Sys2Proof.Machine

/-- A step runs the next entry of the agenda, or a turn of the hart after which the rest of the machine goes on. -/
theorem step_cases (s : State) :
    (s.agenda = [] ∧ step s = afterTurn (hartTurn s)) ∨
    ∃ t l, s.agenda = t :: l ∧ step s = takeTurn t { s with agenda := l } := by
  unfold step
  cases h : s.agenda with
  | nil => exact .inl ⟨rfl, rfl⟩
  | cons t l => exact .inr ⟨t, l, rfl, rfl⟩

/-- What a turn does: nothing on a hart that does not run, a trap of class 4 that waited for a boundary, a scheduler
entry, an interrupt, or the head of the queue and then the scalar side. -/
theorem hartTurn_cases (s : State) :
    (s.h.run ≠ .running ∧ hartTurn s = .next s) ∨
    (s.h.run = .running ∧ let u := deliverTurn s
      (∃ val, u.h.arrayTrap = some val ∧ atBoundary u u.cur = true ∧ hartTurn s = .next (takeArrayTrap val u)) ∨
      (stopReady u u.cur = true ∧ hartTurn s = .next (acceptStop u)) ∨
      (stopReady u u.cur = false ∧ interruptReady u u.cur = true ∧ hartTurn s = .next (takeLowest u)) ∨
      (stopReady u u.cur = false ∧ interruptReady u u.cur = false ∧ hartTurn s = scalarTurn (runHead u))) := by
  unfold hartTurn boundaryEvent
  by_cases h : s.h.run = .running
  · refine .inr ⟨h, ?_⟩
    cases h0 : (deliverTurn s).h.arrayTrap <;> cases h3 : atBoundary (deliverTurn s) (deliverTurn s).cur <;>
      cases h1 : stopReady (deliverTurn s) (deliverTurn s).cur <;>
      cases h2 : interruptReady (deliverTurn s) (deliverTurn s).cur <;> simp [h, h0, h1, h2, h3]
  · exact .inl ⟨h, by simp [h]⟩

/-- What is left of an instruction's outcome once the poison that it was fetched from is delivered: the outcome itself
where there was none, or while the hart waits at it. -/
theorem deliverFetched_cases (gs : List Nat) (r : Result) :
    deliverFetched gs r = r ∨ ∃ s, r = .next s ∧ s.h.stalled = false ∧ deliverFetched gs r = .next (deliverPoison gs none none s) := by
  unfold deliverFetched
  split
  · exact .inl rfl
  · split
    · rename_i s
      cases h : s.h.stalled
      · exact .inr ⟨s, rfl, h, by simp⟩
      · exact .inl (by simp)
    · exact .inl rfl

@[simp] theorem deliverFetched_nil (r : Result) : deliverFetched [] r = r := rfl

/-- What the scalar side does in a turn: it waits for a replay, or it fetches. -/
theorem scalarTurn_cases (s : State) :
    (s.h.replay = true ∧ scalarTurn s = .next s) ∨ (s.h.replay = false ∧ scalarTurn s = fetchRun s) := by
  unfold scalarTurn
  cases s.h.replay <;> simp

/-- What a fetch does: it runs the instruction, takes a trap, waits, or halts the hart. -/
theorem fetchRun_cases (s : State) :
    (∃ w i gs u, runAcc (fetchInstr s.h.pc.toNat) s = (.ok (w, some i, gs), u) ∧
      fetchRun s = deliverFetched gs (exec i (dropFetch (some i) s.h.pc.toNat u))) ∨
    (∃ w gs u, runAcc (fetchInstr s.h.pc.toNat) s = (.ok (w, none, gs), u) ∧
      fetchRun s = deliverFetched gs (scalarTrap 0x01 (word w) (dropFetch none s.h.pc.toNat u))) ∨
    (∃ u, runAcc (fetchInstr s.h.pc.toNat) s = (.error .wait, u) ∧ fetchRun s = stall u) ∨
    ∃ cause va u, runAcc (fetchInstr s.h.pc.toNat) s = (.error (.fault cause va), u) ∧ fetchRun s = fetchFault cause va u := by
  unfold fetchRun
  dsimp only
  split
  · rename_i w i gs u h; exact .inl ⟨w, i, gs, u, h, rfl⟩
  · rename_i w gs u h; exact .inr (.inl ⟨w, gs, u, h, rfl⟩)
  · rename_i u h; exact .inr (.inr (.inl ⟨u, h, rfl⟩))
  · rename_i c va u h; exact .inr (.inr (.inr ⟨c, va, u, h, rfl⟩))

end Sys2Proof.Machine
end

