-- ==== Sys2Proof/Safety.lean ====
section
/-! DEFINITION. What a safe run is: one that never ends in a stop of the model. -/

namespace Sys2Proof

/-- The first n steps of a run from a state end in a state, not in a fault or a refusal. -/
def SafeFor (n : Nat) (s : Machine.State) : Prop := ∃ t, Host.Core.run core n s = .next t

/-- A run that is safe for every number of steps. -/
def Safe (s : Machine.State) : Prop := ∀ n, SafeFor n s

end Sys2Proof
end

