-- ==== Sys2Proof/Tests/Slice0.lean ====
section
/-! SUPPORT. Tests: for each statement a state and operands that meet what it assumes, single steps on small
states with results worked out from the spec, words written out from the encoding tables, and a term for each
check that the well-formedness check refuses. Whole states that two terms compute are compared by `same`, and in
what a step may change by `alike`. -/

set_option Elab.async false
namespace Sys2Proof.Tests
open Sys2Proof Sys2Proof.Machine Sys2Proof.Claim

/-! ### Small states -/

/-- Scalar registers: those listed hold the value given, the others 0. -/
def regs (l : List (Nat × Nat)) : Vector Word 32 :=
  l.foldl (fun v p => v.setIfInBounds p.1 (BitVec.ofNat 64 p.2)) (Vector.replicate 32 0)

/-- A running hart with those registers, at 0x1000. -/
def running (l : List (Nat × Nat)) : Hart := { run := .running, x := regs l, pc := 0x1000 }

/-- Hart 0 runs with those registers, the boot is over and nothing else is going on. -/
def ready (l : List (Nat × Nat)) : State := { State.reset with agenda := [], bootPhase := 6, h := running l }

/-- As `ready`, in user mode. -/
def userReady (l : List (Nat × Nat)) : State := { ready l with h := { running l with status := 0x40 } }

/-- The window's first byte. -/
def win : Nat := 0xFFFFF00000000000

/-- Byte offset of the first bank in scratchpad mode after reset (bank 8). -/
def pad : Nat := win + 0x10000

/-- An entry in the vector queue that waits. -/
def waitingLoad : Entry := .instr (.vld 0 { d := 1, a := 0, b := 0, c := 0, sa := true, m := 0, mz := false, imm := 0 }) 0 0

/-- The outcome is a next state with the property. -/
def goes (r : Result) (p : State → Bool) : Bool :=
  match r with
  | .next t => p t
  | _ => false

/-- The access completes with the property. -/
def completes {α : Type} (r : Except Stop α × State) (p : α → State → Bool) : Bool :=
  match r with
  | (.ok v, s) => p v s
  | _ => false

/-- The access completes, free of poison. -/
def clean (r : Except Stop Rd × State) : Bool :=
  match r with
  | (.ok v, _) => v.pois == []
  | _ => false

theorem clean_read (r : Except Stop Rd × State) (h : clean r = true) : ∃ x s, r = (.ok { val := x, pois := [] }, s) := by
  obtain ⟨v, s⟩ := r
  cases v with
  | error e => simp [clean] at h
  | ok v => exact ⟨v.val, s, by cases v; simp_all [clean]⟩
/-! ### Scalar instructions: what the statements assume, on states that meet it -/

theorem test_free : Free (ready [(1, 5), (2, 7)]) [3, 1, 2] ∧ Free (ready []) [0, 0, 0] := by
  unfold Free; decide +kernel

/-- A register with an outstanding read-back value. -/
def pendingFive : State := { ready [] with h := { running [] with readback := [(5, 77)] } }

theorem test_pending : isPending pendingFive.h 5 = true ∧ goes (exec (.add 1 5 2) pendingFive) (fun t => t.h.pc == 0x1000 && t.h.stalled) = true ∧
    goes (exec (.callr 5 1 0) pendingFive) (fun t => t.h.pc == 0x1000) = true := by
  decide +kernel

-- R102's corners: division by zero, and the most negative number by −1
theorem test_div_corners :
    goes (exec (.div 3 1 2) (ready [(1, 2 ^ 63), (2, 2 ^ 64 - 1)])) (fun t => readS t 3 == 0x8000000000000000#64) = true ∧
    goes (exec (.rem 3 1 2) (ready [(1, 2 ^ 63), (2, 2 ^ 64 - 1)])) (fun t => readS t 3 == 0) = true ∧
    goes (exec (.div 3 1 2) (ready [(1, 9)])) (fun t => readS t 3 == BitVec.allOnes 64) = true ∧
    goes (exec (.rem 3 1 2) (ready [(1, 2 ^ 64 - 7), (2, 2)])) (fun t => readS t 3 == BitVec.allOnes 64) = true := by
  decide +kernel

-- a source that is also the destination, and s0 as destination
theorem test_add_wraps :
    goes (exec (.add 1 1 1) (ready [(1, 2 ^ 63 + 1)])) (fun t => readS t 1 == 2 && t.h.pc == 0x1004) = true ∧
    goes (exec (.add 0 1 1) (ready [(1, 3)])) (fun t => readS t 0 == 0) = true := by
  decide +kernel

theorem test_lihi : goes (exec (.lihi 3 0x80000) (ready [])) (fun t => readS t 3 == 0xFFFFFFFE00000000#64) = true := by
  decide +kernel

-- the first row of "Worked encodings": bne s5, s0 back by 8 bytes
theorem test_branch_back :
    goes (exec (.bne 5 0 0x7FFE) (ready [(5, 1)])) (fun t => t.h.pc == 0xFF8) = true ∧
    goes (exec (.bne 5 0 0x7FFE) (ready [])) (fun t => t.h.pc == 0x1004) = true ∧
    goes (exec (.bltu 1 2 4) (ready [(1, 1), (2, 2 ^ 63)])) (fun t => t.h.pc == 0x1010) = true ∧
    goes (exec (.blt 1 2 4) (ready [(1, 1), (2, 2 ^ 63)])) (fun t => t.h.pc == 0x1004) = true := by
  decide +kernel

-- CALLR with d = a jumps to the old value
theorem test_callr_same : goes (exec (.callr 1 1 3) (ready [(1, 0x2000)]))
    (fun t => t.h.pc == 0x2000 && readS t 1 == 0x1004) = true := by
  decide +kernel

/-! ### Scalar memory access -/

theorem in_bank (s : State) (va n off k : Nat) (h1 : va = win + off) (h2 : 0 < n) (h3 : off + n ≤ 0xC0000)
    (h4 : off + n ≤ 8192 * (getCore s (curCore s)).budget) (h5 : off / 8192 = k) (h6 : (off + n - 1) / 8192 = k)
    (h7 : (getCore s (curCore s)).banks.getD k .cache = .scratch) : InScratch s va n off := by
  refine ⟨h1, h2, h3, h4, fun b h h' => ?_⟩
  have : b = k := by omega
  rw [this]; exact h7

theorem test_in_scratch_first : InScratch (ready []) pad 8 0x10000 := by
  apply in_bank (k := 8) <;> decide +kernel

theorem test_in_scratch_last : InScratch (ready []) (win + 0xBFFF8) 8 0xBFFF8 ∧ InScratch (ready []) (win + 0xBFFFF) 1 0xBFFFF ∧
    InScratch (ready []) (win + 0xBFFFE) 2 0xBFFFE ∧ InScratch (ready []) (win + 0xBFFFC) 4 0xBFFFC := by
  refine ⟨?_, ?_, ?_, ?_⟩ <;> (apply in_bank (k := 95) <;> decide +kernel)

/-- No bank of the core has left FIFO mode while an access waited there. -/
theorem not_ousted (s : State) (h : (getCore s (curCore s)).ousted = []) : NotOusted s := by
  intro side n; rw [h]; simp

/-- Nothing holds the access back, and no bank has left FIFO mode. -/
def unordered (s : State) (va n : Nat) (write : Bool) : Bool :=
  !queueBlocks s va n write && !copyConflict s (curCore s) va (va + n) write s.h.performing &&
  (getCore s (curCore s)).ousted == []

theorem is_unordered (s : State) (va n : Nat) (write : Bool) (h : unordered s va n write = true) : Unordered s va n write := by
  simp only [unordered, Bool.and_eq_true, Bool.not_eq_true', beq_iff_eq] at h
  exact ⟨h.1.1, h.1.2, not_ousted s h.2⟩

theorem test_unordered : Unordered (ready []) pad 8 true ∧ Unordered (ready []) (win + 0xBFFF8) 8 false :=
  ⟨is_unordered _ _ _ _ (by decide +kernel), is_unordered _ _ _ _ (by decide +kernel)⟩

-- an access that waited at bank 9 in a member of a convoy meets the change of its mode
theorem test_ousted : ¬ NotOusted (setCore 0 { getCore (ready []) 0 with ousted := [(3 * 2 ^ 13, 18)] } (ready [])) := by
  intro h; exact (h 18 2).2 (by decide +kernel)

-- the last doubleword of the window, stored and loaded back, little-endian
theorem test_store_load :
    goes (exec (.std 1 2 0) (ready [(1, win + 0xBFFF8), (2, 0x8877665544332211)])) (fun t =>
      memGet t.mem (sramBase 0 + 0xBFFF8) == 0x11 && memGet t.mem (sramBase 0 + 0xBFFFF) == 0x88 &&
      goes (exec (.ldb 3 1 7) t) (fun u => readS u 3 == 0xFFFFFFFFFFFFFF88#64) &&
      goes (exec (.ldhu 3 1 2) t) (fun u => readS u 3 == 0x4433)) = true := by
  decide +kernel

theorem test_released : released 0 (ready []) = true ∧ released 4 (ready []) = true := by
  decide +kernel

theorem test_amo_cas : goes (exec (.amoCas 4 true true true 3 1 2) (ready [(1, win + 0xBFFF8), (2, 9)])) (fun t =>
      readS t 3 == 0 && memGet t.mem (sramBase 0 + 0xBFFF8) == 9) = true ∧
    goes (exec (.amoCas 0 false false true 3 1 2) (ready [(1, win + 0xBFFF8), (2, 9), (3, 1)])) (fun t =>
      readS t 3 == 0 && t.mem == []) = true := by
  decide +kernel

theorem test_misaligned_premise : queueBusy (ready [(1, pad + 1)]).h = false ∧
    (readS (ready [(1, pad + 1)]) 1).toNat % 4 ≠ 0 ∧ (readS (ready [(1, pad + 4)]) 1).toNat % 8 ≠ 0 := by
  decide +kernel

theorem test_misaligned : goes (exec (.amoAdd 0 false false true 3 1 2) (ready [(1, pad + 4)])) (fun t =>
    t.h.trapcause == 0x0D && t.h.trapval == BitVec.ofNat 64 (pad + 4) && t.mem == []) = true := by
  decide +kernel

/-- A load that completes, and one that faults. -/
theorem test_load_completes : ∃ x s, runAcc (readMem (currentWho (ready [])) pad 8 0 0 .load) (ready []) =
    (.ok { val := x, pois := [] }, s) :=
  clean_read _ (by decide +kernel)

theorem test_load_faults : (match runAcc (readMem (currentWho (ready [])) (win + 0xC0000) 1 0 0 .load) (ready []) with
    | (.error (.fault 0x0B va), s) => va == win + 0xC0000 && !queueBusy s.h
    | _ => false) = true := by
  decide +kernel

theorem test_non_canonical : let va := readS (ready [(1, 2 ^ 47)]) 1
    va.extractLsb' 47 17 ≠ 0 ∧ va.extractLsb' 47 17 ≠ BitVec.allOnes 17 ∧ va.toNat % 4096 + 8 ≤ 4096 ∧
    let wa := readS (ready [(1, 0xFFFF7FFFFFFFFFF8)]) 1
    wa.extractLsb' 47 17 ≠ 0 ∧ wa.extractLsb' 47 17 ≠ BitVec.allOnes 17 ∧ wa.toNat % 4096 + 8 ≤ 4096 ∧ wa.toNat % 8 = 0 := by
  decide +kernel

theorem test_non_canonical_traps : goes (exec (.ldd 3 1 0) (ready [(1, 2 ^ 47)])) (fun t =>
      t.h.trapcause == 0x08 && t.h.trapval == 0x800000000000#64 && t.h.epc == 0x1000) = true ∧
    goes (exec (.amoMax 4 false true true 3 1 2) (ready [(1, 2 ^ 47)])) (fun t => t.h.trapcause == 0x09) = true ∧
    goes (exec (.sth 1 2 0) (ready [(1, 2 ^ 47)])) (fun t => t.h.trapcause == 0x09) = true := by
  decide +kernel

/-! Stores outside the window -/

/-- A page at virtual page 2, with a PTE's low bits. -/
def paged (frame bits : Nat) (l : List (Nat × Nat)) : State := setCore 0
  { getCore (ready l) 0 with mtb := [{ vpn := 2, level := 3, asid := 0, pte := frame * 4096 + bits }] } (ready l)

/-- The first pages of host memory and of MMIO. -/
def hostFrame : Nat := 0x800000000
def mmioFrame : Nat := 0xF00000000

/-- Hart 0 is about to store s2 at 0x2000. -/
def storing (frame bits : Nat) : State := paged frame bits [(1, 0x2000), (2, 0x8877665544332211)]

theorem test_store_ready : StoreReady (storing 3 0x23F) 0x2000 8 ∧ StoreReady (storing 3 0x23F) 0x203F 1 ∧
    ∀ frame ∈ [3, hostFrame, mmioFrame], let s := storing frame 0x23F
      let e : MtbEntry := { vpn := 2, level := 3, asid := 0, pte := frame * 4096 + 0x23F }
      virtualHit s (currentWho s) 0x2000 2 = none ∧ canonical 0x2000 = true ∧ (getCore s 0).mtb = [e] ∧
      mtbMatches e 0 0x2000 = true ∧ bitAt e.pte 5 = true ∧ leafRefuses (currentWho s) .store e.pte = false ∧
      placeOfPa (paOf e 0x2000) (bitAt e.pte 9) = (if frame = 3 then .home else if frame = mmioFrame then .mmio else .remote) := by
  unfold StoreReady; decide +kernel

theorem test_store_home : completes (runAcc (fetchHome (currentWho (storing 3 0x23F)) 96 true 1)
      (mtbInstall 0 { vpn := 2, level := 3, asid := 0, pte := 3 * 4096 + 0x23F } (storing 3 0x23F))) (fun _ _ => true) = true ∧
    goes (exec (.sth 1 2 2) (storing 3 0x23F)) (fun t => (homeCopy t 96).data == 0x22110000 && t.h.pc == 0x1004) = true := by
  decide +kernel

-- PWRLIM takes 2000; four bytes of it take nothing and count
/-- Hart 0 is about to store 2000 among the registers. -/
def storingMmio : State := paged mmioFrame 0x23F [(1, 0x2000), (2, 2000)]

theorem test_store_mmio : goes (exec (.std 1 2 0x100) storingMmio) (fun t => t.pwrlim == 2000 && t.hosterr == 0) = true ∧
    goes (exec (.stw 1 2 0x100) storingMmio) (fun t => t.pwrlim == 4200 && t.hosterr == 1) = true := by
  decide +kernel

theorem test_store_remote : routeOf (storing hostFrame 0x23F) 0x800000000000 = some none ∧
    goes (exec (.stw 1 2 0) (storing hostFrame 0x23F)) (fun t => t.h.remoteWrites == 1 && match t.remotes with
      | [r] => r.val == 0x44332211 && r.addr == 0x800000000000 && r.bytes == 4 && r.kind == 1
      | _ => false) = true := by
  decide +kernel

/-- As `storing`, with the line held in W at the L1. -/
def storingW : State := { storing 3 0x3F with
  l1 := [(copyKey 0 96, { st := .w, line := { data := 0xFF }, vtag := 1, perms := 7, rts := 8 })] }

theorem test_store_w : (match virtualHit storingW (currentWho storingW) 0x2000 2 with
      | some (96, k) => k == getCopy storingW 0 96 && k.line.pois == 0
      | _ => false) = true ∧ storeStamp storingW 0 96 ≤ tsLimit ∧
    goes (exec (.stb 1 2 1) storingW) (fun t => (getCopy t 0 96).line.data == 0x11FF && (getCopy t 0 96).st == .w &&
      (getCopy t 0 96).wts == storeStamp storingW 0 96 && t.dir == []) = true := by
  decide +kernel
/-! ### Traps, system instructions, configuration registers -/

theorem test_trap : queueBusy (ready []).h = false ∧ (ready []).h.readback = [] ∧
    goes (exec (.trap 1023) (ready [])) (fun t => t.h.trapcause == 0x10 && t.h.trapval == 1023 && t.h.epc == 0x1004 &&
      t.h.trapqpos == 32) = true := by
  decide +kernel

/-- A handler of a hart whose head entry has completed in part. -/
def inHandler : State := { ready [] with h := { running [] with
  status := 0x7D, queue := [waitingLoad], frozen := true, trapqpos := 0, epc := 0x2003 } }

theorem test_eret_may_return : inHandler.h.status.getLsbD 0 = true ∧ inHandler.h.status.getLsbD 4 = true ∧
    inHandler.h.trapqpos.toNat ∈ replaySlots inHandler.h := by
  decide +kernel

theorem test_eret : goes (exec .eret inHandler) (fun t => t.h.pc == 0x2000 && t.h.status.getLsbD 0 && t.h.status.getLsbD 1 &&
      !t.h.frozen && t.h.replay) = true ∧
    goes (exec .eret (userReady [])) (fun t => t.h.trapcause == 0x05 && t.h.epc == 0x1000) = true := by
  decide +kernel

theorem test_eret_refused : (userReady []).h.status.getLsbD 0 = false ∧ (userReady []).h.status.getLsbD 5 = false ∧
    queueBusy (userReady []).h = false := by
  decide +kernel

theorem test_return_premise : (ready []).h.status.getLsbD 5 = false ∧ (ready []).h.status.getLsbD 4 = false ∧
    (ready []).h.status.getLsbD 7 = false ∧ (ready []).h.pc &&& 3 = 0 ∧ (ready []).h.readback = [] := by
  decide +kernel

/-- A hart with a queued vector load. -/
def loadQueued : State := { ready [] with h := { running [] with queue := [waitingLoad] } }

theorem test_fence : queuedWork readsMemory (ready []).h = false ∧ queuedWork readsMemory loadQueued.h = true ∧
    released 4 loadQueued = false ∧
    goes (exec (.fence 3 4) (ready [])) (fun t => t.h.pc == 0x1004) = true ∧
    goes (exec (.fence 1 0) loadQueued) (fun t => t.h.pc == 0x1000 && t.h.stalled) = true := by
  decide +kernel

theorem test_snap : (getDie (ready []) 0).snapEn.getLsbD 0 = false ∧
    (getDie (setDie 0 { getDie (ready []) 0 with snapEn := 1 } (ready [])) 0).snapEn.getLsbD 0 = true ∧
    goes (exec .snap (setDie 0 { getDie (ready []) 0 with snapEn := 1 } (ready [])))
      (fun t => t.snapId == 1 && t.snapPending == [1000]) = true := by
  decide +kernel

theorem test_wfa : sramBits (ready []) 0x10000 8 ≠ readS (ready [(1, pad), (2, 1)]) 2 ∧
    sramBits (ready []) 0x10000 8 = readS (ready [(1, pad)]) 2 ∧ (ready []).h.preempt = false ∧ (ready []).h.irqs = [] ∧
    goes (exec (.wfa 1 2) { ready [(1, pad)] with h := { running [(1, pad)] with preempt := true } })
      (fun t => t.h.pc == 0x1004) = true ∧
    goes (exec (.wfa 1 2) { ready [(1, pad)] with h := { running [(1, pad)] with status := 0x43, irqs := [(0x20, 0)] } })
      (fun t => t.h.pc == 0x1004) = true ∧
    goes (exec (.wfa 1 2) { ready [(1, pad)] with h := { running [(1, pad)] with irqs := [(0x20, 0)] } })
      (fun t => t.h.pc == 0x1000) = true ∧
    goes (exec (.wfa 1 2) (ready [(1, pad), (2, 1)])) (fun t => t.h.pc == 0x1004) = true ∧
    goes (exec (.wfa 1 2) (ready [(1, pad)])) (fun t => t.h.pc == 0x1000 && t.h.stalled) = true := by
  decide +kernel

theorem test_csr_quiet : CsrQuiet (ready []) := by
  unfold CsrQuiet; decide +kernel

/-- Every number of R202. -/
def listed : List Nat :=
  [0x000, 0x001, 0x002, 0x010, 0x011, 0x012, 0x013, 0x014, 0x015, 0x016, 0x020, 0x021, 0x030, 0x031, 0x032, 0x033, 0x034,
   0x035, 0x036, 0x037, 0x040, 0x041, 0x050, 0x051, 0x060, 0x061, 0x070, 0x071, 0x072, 0x080, 0x090, 0x0A0, 0x0A1]

theorem test_csr_values : (∀ n ∈ listed, (registerValue n (ready [])).isSome) ∧ registerValue 0x003 (ready []) = none ∧
    registerValue 0xFFF (ready []) = none := by
  decide +kernel

-- fields at the ends of their ranges
theorem test_csr_written : written 0x015 32 0 = some 32 ∧ written 0x015 33 0 = none ∧ written 0x041 6 0 = some 6 ∧
    written 0x041 7 0 = none ∧ written 0x080 0x1000 0 = some 0x1000 ∧ written 0x080 0x1000000 0 = some 0x1000000 ∧
    written 0x080 0x800 0 = none ∧ written 0x071 4095 0 = some 4096 ∧ written 0x071 4096 0 = some 4096 := by
  decide +kernel

theorem test_cfgwr : goes (exec (.cfgwr 3 1 0x041) (ready [(1, 6)])) (fun t => t.h.frm == 6 && readS t 3 == 0) = true ∧
    goes (exec (.cfgset 3 1 0x010) (ready [(1, 2)])) (fun t => t.h.status == 0x43 && readS t 3 == 0x41) = true ∧
    goes (exec (.cfgclr 3 1 0x010) (ready [(1, 0x40)])) (fun t => t.h.status == 1) = true := by
  decide +kernel

theorem test_csr_guarded : goes (exec (.cfgrd 3 0x012) (userReady [])) (fun t => t.h.trapcause == 0x05) = true ∧
    goes (exec (.cfgwr 3 1 0x072) (userReady [(1, 9)])) (fun t => t.h.waitlim == 9) = true ∧
    goes (exec (.cfgwr 3 1 0x0A1) (ready [])) (fun t => t.h.trapcause == 0x01) = true := by
  decide +kernel

-- what the three guards assume, for a user-mode hart and for the first and last register each names
theorem test_guard_premise : (userReady []).h.status.getLsbD 0 = false ∧ (userReady []).h.status.getLsbD 5 = false ∧
    0x011 ∉ userReadable ∧ 0x0A1 ∉ userReadable ∧ (registerValue 0x011 (userReady [])).isSome ∧
    (registerValue 0x0A1 (userReady [])).isSome := by
  decide +kernel

theorem test_handler_reads : let s := { ready [] with h := { running [] with status := 0x20, epc := 7 } }
    s.h.status.getLsbD 0 = false ∧ s.h.status.getLsbD 5 = true ∧ 0x012 ∈ handlerRegisters ∧ 0x016 ∈ handlerRegisters ∧
    goes (exec (.cfgrd 3 0x012) s) (fun t => readS t 3 == 7) = true := by
  decide +kernel

-- a user-mode hart writes `frm` and, in a handler, `ie`, `pie` and `partial` alone of `status`
theorem test_user_writes : let s := userReady [(1, 6)]
    let u := { ready [(1, 2 ^ 64 - 1)] with h := { running [(1, 2 ^ 64 - 1)] with status := 0x20 } }
    s.h.status.getLsbD 0 = false ∧ 0x041 ∈ userWritable ∧ (registerValue 0x041 s).isSome ∧ userWritten 0x041 6 0 = some 6 ∧
    CsrQuiet s ∧ CsrQuiet u ∧ u.h.status.getLsbD 0 = false ∧ u.h.status.getLsbD 5 = true ∧ registerValue 0x010 u = some 0x20 ∧
    userWritten 0x010 (2 ^ 64 - 1) 0x20 = some 0x36 ∧
    goes (exec (.cfgwr 3 1 0x041) s) (fun t => t.h.frm == 6) = true ∧
    goes (exec (.cfgwr 3 1 0x010) u) (fun t => t.h.status == 0x36 && readS t 3 == 0x20) = true := by
  unfold CsrQuiet; decide +kernel

-- the least and the greatest values that a register refuses, and their neighbours
theorem test_refused_values : refusedValue 0x015 33 ∧ ¬ refusedValue 0x015 32 ∧ refusedValue 0x041 7 ∧ ¬ refusedValue 0x041 6 ∧
    refusedValue 0x080 0x800 ∧ ¬ refusedValue 0x080 0x1000 ∧ ¬ refusedValue 0x080 0x1000000 ∧ refusedValue 0x080 0x2000000 ∧
    refusedValue 0x080 0x1001 := by
  refine ⟨?_, ?_, ?_, ?_, ?_, ?_, ?_, ?_, ?_⟩ <;> unfold refusedValue <;> decide +kernel

theorem test_refused_values_trap : (registerValue 0x080 (ready [])).isSome ∧
    goes (exec (.cfgwr 3 1 0x041) (userReady [(1, 7)])) (fun t => t.h.trapcause == 0x04 && t.h.trapval == 7 && t.h.epc == 0x1000) = true ∧
    goes (exec (.cfgset 3 1 0x015) (ready [(1, 33)])) (fun t => t.h.trapcause == 0x04 && t.h.trapval == 33) = true ∧
    goes (exec (.cfgwr 3 1 0x080) (ready [(1, 0x2000000)])) (fun t => t.h.trapcause == 0x04) = true := by
  decide +kernel

/-! ### Ranges, regions, invalidation, banks, codebooks -/

/-- One page, with every permission, at a virtual and a physical page number. -/
def pageEntry (vpn frame : Nat) : MtbEntry := { vpn := vpn, level := 3, asid := 0, pte := frame * 4096 + 0x3F }

/-- As `ready`, with page 2 translated to page 3 of the interleaved memory. -/
def mapped (l : List (Nat × Nat)) : State := setCore 0 { getCore (ready l) 0 with mtb := [pageEntry 2 3] } (ready l)

-- 130 bytes from 0x2000: two lines
theorem test_range : released 3 (mapped []) = true ∧ widened 0x2000 130 = (0x2000, 256) ∧ widened 0x207F 1 = (0x2000, 128) ∧
    completes (runAcc (rangeUnits (currentWho (mapped [])) 0x2000 256 .store) (mapped [])) (fun l s =>
      l.length == 2 && (allUnits (settleFetch (tenantOf s (curCore s))) l s).2 && (renewAll (curCore s) l s).2.1 &&
      (l.foldl (fun u lu => sendDiscard s.cur lu u) s).discards == []) = true := by
  decide +kernel

theorem test_settle : goes (exec (.settle 3 1 2) (mapped [(1, 0x2000), (2, 130)])) (fun t => t.settles.length == 1 && t.h.pc == 0x1004) = true ∧
    goes (exec (.renew 1 2) (mapped [(1, 0x2000), (2, 130)])) (fun t => t.h.pc == 0x1004) = true ∧
    goes (exec (.discard 1 2) (mapped [(1, 0x2000), (2, 130)])) (fun t => t.h.pc == 0x1004) = true ∧
    goes (exec (.pref 1 2) (mapped [(1, 0x2000), (2, 130)])) (fun t => t.h.pc == 0x1004) = true := by
  decide +kernel

theorem test_regdef_premise : completes (runAcc (regionFrames (currentWho (mapped [])) 0x2000 4096) (mapped [])) (fun l s =>
      l == [3] && !regionRefused s 0 0x2000 4096) = true ∧ (currentWho (mapped [])).asid = 0 := by
  decide +kernel

/-- Region 5 of address space 0 is defined. -/
def withRegion (l : List (Nat × Nat)) : State :=
  { mapped l with regionTable := [(5, { asid := 0, base := 0x2000, length := 4096, frames := [3] })] }

theorem test_regdef_release : tget (withRegion []).regionTable 5 = some { asid := 0, base := 0x2000, length := 4096, frames := [3] } ∧
    regionBusy (withRegion []) 5 0 = false ∧ tget (withRegion []).regionTable 4095 = none ∧
    goes (exec (.regdef 3 1 2) (withRegion [(1, 5)])) (fun t => t.regionTable == [] && readS t 3 == 0) = true ∧
    goes (exec (.regdef 3 1 2) (withRegion [(1, 4095)])) (fun t => t.regionTable.length == 1 && readS t 3 == BitVec.allOnes 64) = true := by
  decide +kernel

theorem test_tlbinv : (ready []).h.status.getLsbD 0 = true ∧ nonCanonical 0x2000 1 = none ∧ (invsOf (ready []) 0).length < 4 ∧
    goes (exec (.tlbinv 3 1 2) (ready [(1, 0x2FFF), (2, 2), (3, 65535)])) (fun t => match t.tlbInvs with
      | [x] => x.asid == 65535 && x.first == 2 && x.count == 2 && x.waiting.length == 576
      | _ => false) = true := by
  decide +kernel

/-- An invalidation of one page by a hart that cores still have to acknowledge. -/
def invalidation (hart : Nat) (waiting : List Nat) : TlbInv := { hart := hart, logical := none, asid := 0, first := 2, count := 1, waiting := waiting }

-- an acquire, once nothing of the hart's own is outstanding
theorem test_tlbwait : invsOf { ready [] with tlbInvs := [invalidation 1 [3]] } 0 = [] ∧
    goes (exec .tlbwait { ready [] with tlbInvs := [invalidation 1 [3]], l1 := [(copyKey 0 96, { st := .s }), (copyKey 0 97, { st := .w })] })
      (fun t => t.h.pc == 0x1004 && t.l1.length == 1) = true ∧
    goes (exec .tlbwait { ready [] with tlbInvs := [invalidation 0 [1]] }) (fun t => t.h.pc == 0x1000 && t.h.stalled) = true ∧
    goes (exec .tlbwait (userReady [])) (fun t => t.h.trapcause == 0x05) = true := by
  decide +kernel

-- bank 8 becomes a FIFO; 4 ways may stay, 3 may not, 32 may be made, 33 may not
def waysOf (n : Nat) (l : List (Nat × Nat)) : State := setCore 0
  { getCore (ready l) 0 with banks := Vector.ofFn fun b => if b.val < n then .cache else .scratch } (ready l)

theorem test_bankcfg : bankBusy (ready []) 0 8 = false ∧ (8 : Nat) < (getCore (ready []) 0).budget ∧
    goes (exec (.bankcfg 3 1 2) (ready [(1, 95), (2, 2)])) (fun t => readS t 3 == 1 && (getCore t 0).banks.toArray.getD 95 .cache == .fifo) = true ∧
    goes (exec (.bankcfg 3 1 2) (waysOf 4 [(1, 0), (2, 1)])) (fun t => readS t 3 == BitVec.allOnes 64) = true ∧
    goes (exec (.bankcfg 3 1 2) (waysOf 32 [(1, 40), (2, 0)])) (fun t => readS t 3 == BitVec.allOnes 64) = true ∧
    goes (exec (.bankcfg 3 1 2) (waysOf 31 [(1, 40), (2, 0)])) (fun t => readS t 3 == 1) = true ∧
    goes (exec (.bankcfg 3 1 2) (ready [(1, 8), (2, 1)])) (fun t => readS t 3 == 1) = true := by
  decide +kernel

/-- Bank 0, a way of the L1, holds a dirty line in W, and becomes a scratchpad bank. -/
def leavingCache : State :=
  { ready [(1, 0), (2, 1)] with
    l1 := [(copyKey 0 96, { st := .w, line := { data := 0xAB, dirty := 1 }, way := 0 }), (copyKey 0 97, { st := .s, way := 1 })]
    l2 := [(copyKey 0 96, { st := .m, holder := .w ⟨0, 0, 144⟩, line := { data := 0xFF00 } })] }

theorem test_bankcfg_cache : let s := leavingCache
    (getCore s 0).banks.getD 0 .fifo = .cache ∧ bankBusy s 0 0 = false ∧ released 4 s = true ∧ copiesOf s 0 = [96, 97] ∧
    coreOfLogical s 0 0 = some 0 ∧ (getCore s 0).logical = 0 ∧
    goes (exec (.bankcfg 3 1 2) s) (fun t => readS t 3 == 0 && (getCore t 0).banks.getD 0 .fifo == .scratch &&
      (getLine t 0 96).line == absorb 128 { data := 0xFF00 } { data := 0xAB, dirty := 1 } && (getLine t 0 96).line.data == 0xFFAB &&
      tget t.l1 (copyKey 0 96) == none && tget t.l1 (copyKey 0 97) == tget s.l1 (copyKey 0 97)) = true := by
  decide +kernel

theorem test_bankcfg_refuses : let few := setCore 0 { getCore (ready []) 0 with budget := 50 } (ready [(1, 50), (2, 1)])
    goes (exec (.bankcfg 3 1 2) (ready [(1, 96), (2, 1)])) (fun t => t.h.trapcause == 0x04 && t.h.trapval == 96) = true ∧
    goes (exec (.bankcfg 3 1 2) (ready [(1, 95), (2, 3)])) (fun t => t.h.trapcause == 0x04 && t.h.trapval == 3) = true ∧
    goes (exec (.bankcfg 3 1 2) few) (fun t => t.h.trapcause == 0x0B && t.h.trapval == BitVec.ofNat 64 (win + 8192 * 50)) = true ∧
    (let busy : State := { ready [(1, 8), (2, 2)] with h := { running [(1, 8), (2, 2)] with remoteWrites := 1 } }
     released 4 busy = false ∧ goes (exec (.bankcfg 3 1 2) busy) (fun t => t.h.pc == 0x1000 && t.h.stalled) = true) := by
  decide +kernel

theorem test_cbld_premise : (readS (ready [(1, pad)]) 1).toNat % 1024 = 0 ∧ queuedWork decodesCb2 (ready []).h = false ∧
    queueBlocks (ready []) pad 1024 false = false ∧
    (∀ k, k < 32 → copyConflict (ready []) 0 (pad + 32 * k) (pad + 32 * k + 32) false none = false) ∧
    (getCore (ready []) 0).ousted = [] := by
  decide +kernel

theorem test_cbld_range : InScratch (ready []) pad 1024 0x10000 := by
  apply in_bank (k := 8) <;> decide +kernel

theorem test_cbld : goes (exec (.cbld 1) { ready [(1, pad)] with mem := [(sramBase 0 + 0x10000 + 1020, 0x21), (sramBase 0 + 0x10000 + 1023, 0x43)] })
    (fun t => (getCore t 0).codebook.toArray.getD 255 0 == 0x43000021) = true := by
  decide +kernel
/-! ### Counters, barriers, regions, pushes -/

theorem test_counters : (∀ sp ∈ List.range 9, sp = 1 ∨ indexIllegal (ready []) sp 0 = false) ∧
    indexIllegal (withRegion []) 1 5 = false ∧ indexIllegal (ready []) 6 1023 = false ∧ indexIllegal (ready []) 6 1024 = true ∧
    indexIllegal (ready []) 8 7 = false ∧ (ready []).h.waitlim = 0 ∧
    goes (exec (.rdcnt 8 3 1) { ready [] with h := { running [(1, 2)] with perf := #v[0, 0, 9, 0, 0, 0, 0, 0] } })
      (fun t => readS t 3 == 9) = true ∧
    goes (exec (.waitc 4 3 1 2) { ready [(2, 7)] with tickets := 7 }) (fun t => readS t 3 == 7 && t.h.pc == 0x1004) = true ∧
    goes (exec (.waitc 4 3 1 2) { ready [(2, 8)] with tickets := 7 }) (fun t => t.h.pc == 0x1000 && t.h.stalled) = true := by
  decide +kernel

/-- A WAITC with a limit of 9 cycles, 5 ns, that began at 0, after so many nanoseconds. -/
def limited (t : Nat) : State := setDie 0 { getDie (ready []) 0 with timer := t }
  { ready [(2, 8)] with h := { running [(2, 8)] with waitlim := 9, waitT0 := some 0 }, tickets := 7 }

theorem test_wait_limit : (limited 5).h.waitlim.toNat * 5 ≤ (timerOf (limited 5) 0 - 0) * 9 ∧
    (timerOf (limited 4) 0 - 0) * 9 < (limited 4).h.waitlim.toNat * 5 ∧
    goes (exec (.waitc 4 3 1 2) (limited 5)) (fun t => readS t 3 == 7 && t.h.pc == 0x1004) = true ∧
    goes (exec (.waitc 4 3 1 2) (limited 4)) (fun t => t.h.pc == 0x1000 && t.h.waitT0 == some 0) = true := by
  decide +kernel

-- the last of 65536 arrivals at barrier 1023 closes the round; another count traps
theorem test_barrier :
    goes (exec (.bararv 3 1 2) { ready [(1, 1023), (2, 65536)] with barriers := [(1023, { generation := 2 ^ 64 - 1, arrived := 65535, expected := 65536 })] })
      (fun t => readS t 3 == BitVec.allOnes 64 && decide (tgetD t.barriers 1023 {} = { generation := 0, arrived := 0, expected := 0 })) = true ∧
    goes (exec (.bararv 3 1 2) (ready [(2, 2)])) (fun t => readS t 3 == 0 && decide (tgetD t.barriers 0 {} = { generation := 0, arrived := 1, expected := 2 })) = true ∧
    goes (exec (.bararv 3 1 2) { ready [(2, 3)] with barriers := [(0, { generation := 0, arrived := 1, expected := 2 })] })
      (fun t => t.h.trapcause == 0x19 && t.barriers.length == 1) = true ∧
    goes (exec (.bararv 3 1 2) (ready [])) (fun t => t.h.trapcause == 0x04 && t.barriers == []) = true ∧
    goes (exec (.bararv 3 1 2) (ready [(2, 65537)])) (fun t => t.h.trapcause == 0x04 && t.h.trapval == 65537) = true ∧
    goes (exec (.barwait 3 1 2) { ready [] with barriers := [(0, { generation := 1, arrived := 0, expected := 0 })] }) (fun t => readS t 3 == 1) = true ∧
    goes (exec (.barwait 3 1 2) (ready [])) (fun t => t.h.pc == 0x1000 && t.h.stalled) = true := by
  decide +kernel

theorem test_rlaunch : pad % 256 = 0 ∧ fifoBankAt (ready []) pad = false ∧
    completes (runAcc (launch pad) (ready [])) (fun x _ => x == 4) = true ∧
    goes (exec (.rlaunch 3 1) (ready [(1, pad)])) (fun t => readS t 3 == 4 && t.h.pc == 0x1004) = true := by
  decide +kernel

theorem test_rwait_range : InScratch (ready []) (pad + 64) 8 0x10040 := by
  apply in_bank (k := 8) <;> decide +kernel

/-- As `ready`, with one byte of the scratchpad set. -/
def withByte (l : List (Nat × Nat)) (off x : Nat) : State := { ready l with mem := [(sramBase 0 + off, BitVec.ofNat 8 x)] }

theorem test_rwait_unordered : Unordered (ready [(1, pad)]) (pad + 64) 8 false := is_unordered _ _ _ _ (by decide +kernel)

-- states 6 and 7 wait as 1 and 5 do
theorem test_rwait : (sramBits (withByte [] 0x10040 4) 0x10040 8).toNat % 8 = 4 ∧
    (sramBits (withByte [] 0x10040 7) 0x10040 8).toNat % 8 = 7 ∧
    goes (exec (.rwait 3 1) (withByte [(1, pad)] 0x10040 6)) (fun t => t.h.pc == 0x1000) = true ∧
    (sramBits (withByte [] 0x10040 5) 0x10040 8).toNat % 8 = 5 ∧ (sramBits (withByte [] 0x10040 1) 0x10040 8).toNat % 8 = 1 ∧
    goes (exec (.rwait 3 1) (withByte [(1, pad)] 0x10040 4)) (fun t => readS t 3 == 4) = true ∧
    goes (exec (.rwait 3 1) (withByte [(1, pad)] 0x10040 5)) (fun t => t.h.pc == 0x1000) = true := by
  decide +kernel

/-- A one-dimensional loop-nest record of n points. -/
def nest (n : Nat) : Nat := 1 + 0xFFFFF0 * 2 ^ 32 + n * 2 ^ 96

/-- A region at 0x8000 with a loop nest of n points, running on hart 0; k of them are handed out. -/
def inRegion (n k : Nat) : State := { ready [] with
  h := { running [] with logical := some (0x8000, 0) }
  regions := [(0x8000, { record := some (nest n), nextIter := k, harts := [{ place := .placed 0 }] })] }

theorem test_nextit : (getRegion (inRegion 3 2) 0x8000).record.isSome ∧ nextIteration (getRegion (inRegion 3 2) 0x8000) = some 2 ∧
    nextIteration (getRegion (inRegion 3 3) 0x8000) = none ∧
    goes (exec (.nextit 3) (inRegion 3 2)) (fun t => readS t 3 == 1 && readS t 4 == 2 && (getRegion t 0x8000).nextIter == 3) = true ∧
    goes (exec (.nextit 3) (inRegion 3 3)) (fun t => readS t 3 == 0) = true := by
  decide +kernel

-- iteration 2 of three points
theorem test_nextit_indices : IterationIndices (nest 3) 2 (fun j => if j = 0 then 2 else 0) ∧ lnOrderOk (nest 3) = true ∧
    goes (exec (.nextit 3) (inRegion 3 2)) (fun t => readS t 4 == 2 && readS t 5 == 0 && readS t 9 == 0) = true := by
  refine ⟨⟨?_, ?_, ?_⟩, ?_, ?_⟩
  · intro j h
    obtain rfl : j = 0 := by have : lnDims (nest 3) = 1 := by decide +kernel
                             omega
    decide +kernel
  · intro j h
    have : lnDims (nest 3) = 1 := by decide +kernel
    show (if j = 0 then 2 else 0) = 0
    rw [if_neg (by omega)]
  all_goals decide +kernel

/-- The state with those regions in the run queue of die 0. -/
def queued (l : List Nat) (s : State) : State := setDie 0 { getDie s 0 with runQueue := l } s

/-- As `inRegion`, with a second region that waits for a core. -/
def wanted : State := queued [0x8000, 0x9000]
  { inRegion 3 1 with regions := (inRegion 3 1).regions ++ [(0x9000, { harts := [{ place := .waiting }] })] }

theorem test_ryield : (inRegion 3 1).h.logical = some (0x8000, 0) ∧
    wantsCore (inRegion 3 1) 0x8000 (getRegion (inRegion 3 1) 0x8000).priority = none ∧
    wantsCore wanted 0x8000 (getRegion wanted 0x8000).priority = some 0x9000 ∧ mayStop wanted wanted.cur = true ∧
    mayStop (inRegion 3 1) 0 = true ∧ (inRegion 3 1).h.pass.first = none ∧ (inRegion 3 1).h.memberPass = [] ∧
    goes (exec .ryield { inRegion 3 1 with l1 := [(copyKey 0 96, { st := .s })] }) (fun t => t.h.pc == 0x1004 && t.l1 == []) = true ∧
    goes (exec .ryield wanted) (fun t => (getDie t 0).runQueue == [0x9000, 0x8000] && (getHart t 0).run == .idle && (getCore t 0).taken && (getCore t 0).taker == some 0x9000 &&
      (getLogical (getRegion t 0x8000) 0).place == .waiting) = true := by
  decide +kernel

-- RYIELD keeps the trap CSRs beside the context (R403)
theorem test_ryield_keeps : let s : State := { wanted with h := { wanted.h with epc := 0x500, trapcause := 0x21, status := 0x61 } }
    s.h.status.getLsbD 7 = false ∧ (0 : Nat) < (getRegion s 0x8000).harts.length ∧
    goes (exec .ryield s) (fun t => (getLogical (getRegion t 0x8000) 0).kept == some { epc := 0x500, trapcause := 0x21, trapqpos := 32, status := 0x61 }) = true := by
  decide +kernel

theorem test_rexit : queueBusy (inRegion 3 1).h = false ∧ (inRegion 3 1).h.readback = [] ∧ released 3 (inRegion 3 1) = true ∧
    (readS (ready [(1, 2 ^ 63)]) 1).getLsbD 63 = true ∧ queueBusy loadQueued.h = true ∧ (inRegion 3 1).h.status.getLsbD 0 = true ∧
    goes (exec (.rexit 1) loadQueued) (fun t => t.h.pc == 0x1000 && t.h.stalled) = true ∧
    goes (exec (.rexit 0) (inRegion 3 3)) (fun t => (getLogical (getRegion t 0x8000) 0).place == .free) = true := by
  decide +kernel

/-- A copy record of one dimension, four chunks of 64 bytes from 0x20000 to 0x40000 of the window. -/
def copyRecord : Nat := nest 4 + 64 * 2 ^ 64 + (win + 0x20000) * 2 ^ 192 + (win + 0x40000) * 2 ^ 256 + 64 * 2 ^ 320 + 64 * 2 ^ 512

/-- As `ready`, with the record at the first scratchpad bank. -/
def withRecord (l : List (Nat × Nat)) : State := { ready l with mem := memWrite [] (sramBase 0 + 0x10000) 128 copyRecord }

theorem test_cpgo_premise : fifoBankAt (withRecord []) pad = false ∧ released 3 (withRecord []) = true ∧
    completes (runAcc (readRecord pad 4) (withRecord [])) (fun r s => r.pois == [] && r.val == copyRecord && lnCopyOk r.val &&
      decide ((getChannel s 0 3).queue.length < 9) && decide (tableUsed s 0 + min 1 (lnWindow r.val).length ≤ 32)) = true := by
  decide +kernel

theorem test_cpgo : goes (exec (.cpgo 3 1 2) (withRecord [(1, pad), (2, 3)])) (fun t =>
    readS t 3 == 1 && (getChannel t 0 3).queue.length == 1) = true := by
  decide +kernel

theorem test_ipgo : completes (runAcc (readInPlace pad) (withRecord [])) (fun r s => r.pois == [] && decide (s.h.ipFifo.length < 16)) = true ∧
    goes (exec (.ipgo 3 1) (withRecord [(1, pad)])) (fun t => readS t 3 == 1 && t.h.ipFifo.length == 1) = true := by
  decide +kernel

/-- As `ready`, with banks 94 and 95 in FIFO mode, the entries given in 95 and fault records queued. -/
def fifoState (l : List (Nat × Nat)) (q : List Word) (f : List Rec4) (cursor : Nat) : State := setCore 0
  { getCore (ready l) 0 with
    banks := Vector.ofFn fun b => if b.val < 8 then .cache else if b.val < 94 then .scratch else .fifo
    fifos := [(95, q)], faults := f, faultCursor := cursor } (ready l)

theorem test_fifo : (getCore (fifoState [] [] [] 0) 0).banks.getD 95 .cache = .fifo ∧
    tgetD (getCore (fifoState [] [] [] 0) 0).waiters 190 [] = [] ∧ tgetD (getCore (fifoState [] [] [] 0) 0).waiters 191 [] = [] ∧
    goes (exec (.epush 1 2) (fifoState [(1, 95), (2, 9)] (List.replicate 1023 1) [] 0)) (fun t =>
      (tgetD (getCore t 0).fifos 95 []).length == 1024 && (tgetD (getCore t 0).fifos 95 []).getLast? == some 9) = true ∧
    goes (exec (.epop 3 1) (fifoState [(1, 95)] [7, 8] [] 0)) (fun t => readS t 3 == 7 && tgetD (getCore t 0).fifos 95 [] == [8]) = true := by
  decide +kernel

-- a full bank and an empty one: the hart joins the line of writers, or of readers
theorem test_fifo_waits : (getCore (fifoState [] [] [] 0) 0).ousted = [] ∧
    goes (exec (.epush 1 2) (fifoState [(1, 95), (2, 9)] (List.replicate 1024 1) [] 0)) (fun t =>
      t.h.pc == 0x1000 && t.h.stalled && tgetD (getCore t 0).waiters 191 [] == [0] && (tgetD (getCore t 0).fifos 95 []).length == 1024) = true ∧
    goes (exec (.epop 3 1) (fifoState [(1, 95)] [] [] 0)) (fun t =>
      t.h.pc == 0x1000 && t.h.stalled && tgetD (getCore t 0).waiters 190 [] == [0]) = true := by
  decide +kernel

/-- As `ready`, with error records queued at the die. -/
def errorState (owned : Bool) (f : List Rec4) (cursor : Nat) : State :=
  setDie 0 { getDie (ready []) 0 with errOwn := owned, errs := f, errCursor := cursor } (ready [(1, 113)])

theorem test_error_queue : (errorState false [] 0).h.status.getLsbD 0 = true ∧
    goes (exec (.epop 3 1) (errorState true [⟨1, 2, 3, 4⟩] 2)) (fun t => readS t 3 == 0 && (getDie t 0).errCursor == 2) = true ∧
    goes (exec (.epop 3 1) (errorState false [⟨1, 2, 3, 4⟩] 3)) (fun t =>
      readS t 3 == 4 && (getDie t 0).errCursor == 0 && (getDie t 0).errs == []) = true ∧
    goes (exec (.epop 3 1) (errorState false [⟨1, 2, 3, 4⟩] 0)) (fun t =>
      readS t 3 == 1 && (getDie t 0).errCursor == 1 && (getDie t 0).errs.length == 1) = true := by
  decide +kernel

theorem test_fault_queue : (fifoState [] [] [] 0).h.status.getLsbD 0 = true ∧
    goes (exec (.epop 3 1) (fifoState [(1, 112)] [] [] 0)) (fun t => readS t 3 == 0) = true ∧
    goes (exec (.epop 3 1) (fifoState [(1, 112)] [] [⟨1, 2, 3, 4⟩, ⟨5, 6, 7, 8⟩] 3)) (fun t =>
      readS t 3 == 4 && (getCore t 0).faultCursor == 0 && (getCore t 0).faults == [⟨5, 6, 7, 8⟩]) = true ∧
    goes (exec (.epop 3 1) (fifoState [(1, 112)] [] [⟨1, 2, 3, 4⟩] 0)) (fun t =>
      readS t 3 == 1 && (getCore t 0).faultCursor == 1 && (getCore t 0).faults.length == 1) = true := by
  decide +kernel
/-! ### The vector side -/

/-- Operand fields. -/
def vf (d a b c : BitVec 6) (sa : Bool) (m : BitVec 4) (mz : Bool) (imm : BitVec 16) : VF :=
  { d := d, a := a, b := b, c := c, sa := sa, m := m, mz := mz, imm := imm }

/-- Operands d, a and b, unmasked. -/
def dab (d a b : BitVec 6) : VF := vf d a b 0 false 0 false 0

/-- A vector configuration: 32 registers, the format and block-length codes, `mo` 1 at core scope, vl and vlpad. -/
def conf (fmt blk vl vlpad : Nat) : VConf :=
  { vcfg := BitVec.ofNat 16 (2 + 4 * fmt + 64 * blk + 4096), vl := vl, vlpad := vlpad, lanes := 32 }

/-- The state with that configuration committed and at the head, and those vector registers. -/
def vec (s : State) (c : VConf) (v : List (Nat × Nat)) : State :=
  { s with h := { s.h with conf := c, headConf := c, v := v.foldl (fun x p => x.setIfInBounds p.1 p.2) s.h.v } }

/-- What `AtOnce` asks, as a Bool. -/
def atOnce (i : Instr) (s : State) : Bool :=
  wellFormed i && !s.h.frozen && s.h.queue.isEmpty && decide (s.h.headConf = s.h.conf) && !s.h.replay && decide (s.h.pass = {}) &&
    s.h.front == 16384 && s.h.lastUse == [] && s.h.owesTrap == none && decide (∀ q ∈ s.h.loadData.toList, q = []) && ((capturesOf i).all fun r => !isPending s.h r) && decide (s.h.readback.length < 8)

theorem at_once (i : Instr) (s : State) (h : atOnce i s = true) : AtOnce i s := by
  simpa [atOnce, AtOnce, Free, and_assoc] using h

theorem test_committed : (vectorOf (.vadd (dab 3 1 2))).isSome ∧
    (match vectorOf (.vadd (dab 3 1 2)) with
     | some v => v.1 (conf 6 0 4 0) == 0 && v.1 (conf 0 0 4 0) == 4
     | none => false) = true ∧
    readbackUsed (ready []).h < 8 ∧ touchRange (ready []) 0 (.vadd (dab 3 1 2)) (conf 6 0 4 0) 0 0 = none ∧
    (rangeTable (ready []) (curCore (ready []))).length < 32 := by
  decide +kernel

theorem test_vadd : goes (exec (.vadd (dab 3 1 2)) (vec (ready []) (conf 6 0 2 0) [(1, 2 ^ 32 - 1 + 5 * 2 ^ 32), (2, 1 + 7 * 2 ^ 32)]))
    (fun t => vreg t.h 3 == 12 * 2 ^ 32 && t.h.pc == 0x1008 && t.h.queue == []) = true := by
  decide +kernel

theorem test_vector_queues : goes (exec (.vadd (dab 3 1 2)) (vec loadQueued (conf 6 0 2 0) []))
    (fun t => t.h.queue.length == 2 && t.h.pc == 0x1008) = true := by
  decide +kernel

-- a hart resumed under fewer lanes waits behind what it captured under more (R18)
theorem test_vector_behind : let s := vec loadQueued { conf 6 0 2 0 with lanes := 16 } []
    let u : State := { s with h := { s.h with headConf := conf 6 0 2 0 } }
    tailConf u.h ≠ u.h.conf ∧ tailConf s.h = s.h.conf ∧ u.h.queue ≠ [] ∧ readbackUsed u.h < 8 ∧
    goes (exec (.vadd (dab 3 1 2)) u) (fun t => t.h.queue.length == 1 && t.h.pc == 0x1000 && t.h.stalled) = true ∧
    goes (exec (.vadd (dab 3 1 2)) { s with h := { s.h with headConf := conf 6 0 2 0, queue := [] } }) (fun t => decide (t.h.headConf = s.h.conf)) = true := by
  decide +kernel

theorem test_vector_traps : goes (exec (.vadd (dab 3 1 2)) (vec (ready []) (conf 0 0 2 0) []))
      (fun t => t.h.trapcause == 0x04 && t.h.epc == 0x1000) = true ∧
    goes (exec (.vadd (dab 63 1 2)) (vec (ready []) { conf 6 0 2 0 with vcfg := 0x1019 } [])) (fun t => t.h.trapcause == 0x03) = true ∧
    goes (exec (.vadd (dab 3 1 2)) (vec inHandler (conf 6 0 2 0) [])) (fun t => t.h.trapcause == 0x04) = true := by
  decide +kernel

theorem test_vector_traps_premise : isInt (fmtOf (vec (ready []) (conf 0 0 2 0) [])) = false ∧
    isInt (fmtOf (vec (ready []) { conf 6 0 2 0 with vcfg := 0x1019 } [])) = true ∧
    confN { conf 6 0 2 0 with vcfg := 0x1019 } ≤ 63 ∧ inHandler.h.frozen = true := by
  decide +kernel

-- R210's example: L = 32 and N = 32 give VLmax 2048 for BF16; 1000 is granted 1024, 5000 is granted 2048
theorem test_setvl_grant : let s (n : Nat) : State := vec (ready [(4, n)]) { conf 0 0 0 0 with vcfg := 2 } []
    goes (exec (.setvl (vf 5 4 0 0 true 0 false 0x31)) (s 1000)) (fun t => readS t 5 == 1024 && t.h.conf.vl == 1024 && t.h.conf.vlpad == 24) = true ∧
    goes (exec (.setvl (vf 5 4 0 0 true 0 false 0x31)) (s 5000)) (fun t => readS t 5 == 2048 && t.h.conf.vlpad == 0) = true ∧
    setvlIllegal 0x31 = false ∧ (s 0).h.headConf.lanes = lanesOf (s 0) (s 0).cur := by
  decide +kernel

theorem test_vcfg : vcfgIllegal 0x1019 = false ∧
    goes (exec (.vcfg (vf 0 0 0 0 false 0 false 0x1019)) (vec (ready []) (conf 6 0 4 0) [(1, 9)])) (fun t =>
      t.h.conf.vcfg == 0x1019 && t.h.conf.vl == 0 && vreg t.h 1 == 0) = true ∧
    goes (exec (.vcfg (vf 0 0 0 0 false 0 false 0xFFFF)) (ready [])) (fun t => t.h.trapcause == 0x04) = true := by
  decide +kernel

/-- The committed configuration has half the lanes that the hart has, and register 1 is marked to 4 KiB. -/
def halved : State :=
  let s := vec (ready [(4, 40)]) { conf 6 0 4 0 with lanes := 16 } [(1, 9 + 2 ^ 20000)]
  { s with h := { s.h with marks := s.h.marks.set 1 32768, vdirty := 2 } }

-- one that changes N to 8 clears the marks; a new L keeps what its lanes hold (R113)
theorem test_adopted : lanesOf halved halved.cur = 32 ∧ halved.h.headConf.lanes = 16 ∧ vcfgIllegal 0x1018 = false ∧ vcfgIllegal 0x101A = false ∧
    (0x1018 % 4 ≠ halved.h.headConf.vcfg.toNat % 4 ∧ 0x101A % 4 = halved.h.headConf.vcfg.toNat % 4) ∧
    goes (exec (.vcfg (vf 0 0 0 0 false 0 false 0x1018)) halved) (fun t => vreg t.h 1 == 0 && t.h.marks[1] == 0 && t.h.vdirty == 0 && t.h.conf.lanes == 32) = true ∧
    goes (exec (.vcfg (vf 0 0 0 0 false 0 false 0x101A)) halved) (fun t => vreg t.h 1 == 9 + 2 ^ 20000 && t.h.marks[1] == 32768 && t.h.vdirty == 2) = true ∧
    goes (exec (.setvl (vf 5 4 0 0 true 0 false 6)) halved) (fun t => readS t 5 == 40 && vreg t.h 1 == 9 + 2 ^ 20000 && t.h.conf.lanes == 32) = true := by
  decide +kernel

-- fewer lanes than before: the bits above them and the mark's excess go
theorem test_adopted_fewer : let s := { halved with h := { halved.h with headConf := { halved.h.headConf with lanes := 64 }, marks := halved.h.marks.set 1 65536, v := halved.h.v.set 1 (9 + 2 ^ 40000) } }
    goes (exec (.vcfg (vf 0 0 0 0 false 0 false 0x101A)) s) (fun t => vreg t.h 1 == 9 && t.h.marks[1] == 32768) = true := by
  decide +kernel

/-- Masked operands with a scalar a. -/
def msk (d a b : BitVec 6) : VF := vf d a b 0 true 5 true 0

theorem test_elements_premise : let s := vec (ready [(1, 7)]) (conf 6 0 4 1) []
    AtOnce (.vadd (dab 3 1 2)) s ∧ AtOnce (.vadd (msk 3 1 2)) s ∧ isInt (fmtOf s) = true ∧ indexBad (.vadd (msk 3 1 2)) s.h.conf = false ∧
    Fits s ∧ AtOnce (.vcmpeq (msk 3 1 2)) s ∧ indexBad (.vcmpeq (msk 3 1 2)) s.h.conf = false := by
  refine ⟨at_once _ _ ?_, at_once _ _ ?_, ?_, ?_, ?_, at_once _ _ ?_, ?_⟩ <;> (try unfold Fits) <;> decide +kernel

-- VLmax elements, the longest vector that fits
theorem test_fits_longest : Fits (vec (ready []) (conf 6 0 1024 0) []) ∧ ¬ Fits (vec (ready []) (conf 6 0 1025 0) []) := by
  unfold Fits; decide +kernel

theorem test_float_premise : let s := vec (ready [(1, 7)]) (conf 1 0 4 1) []
    isFloat16Up (fmtOf s) = true ∧ AtOnce (.vfadd 6 (vf 3 1 2 9 false 1 true 0)) s ∧ AtOnce (.vfadd 0 (dab 3 1 2)) s ∧
    BiasReadable s 6 9 3 1 ∧ BiasReadable s 0 0 3 1 ∧ AtOnce (.vfma 6 (vf 3 1 2 9 false 1 true 0)) s ∧
    AtOnce (.vfabs 6 (vf 3 1 0 9 false 1 true 0)) s ∧ AtOnce (.vfrcp (vf 3 1 0 0 false 1 true 0)) s ∧
    AtOnce (.vfrcps (vf 3 1 2 0 false 1 true 0)) s ∧ AtOnce (.vfcmpeq 0 (msk 3 1 2)) s ∧
    indexBad (.vfma 6 (vf 3 1 2 9 false 1 true 0)) s.h.conf = false := by
  refine ⟨?_, at_once _ _ ?_, at_once _ _ ?_, ?_, ?_, at_once _ _ ?_, at_once _ _ ?_, at_once _ _ ?_, at_once _ _ ?_, at_once _ _ ?_, ?_⟩ <;>
    (try unfold BiasReadable) <;> decide +kernel

-- 1.5 + 1.25 in FP16, and a division of the signed zero's sign by VFNEG
theorem test_vfadd : goes (exec (.vfadd 0 (dab 3 1 2)) (vec (ready []) (conf 2 0 1 0) [(1, 0x3E00), (2, 0x3D00)]))
      (fun t => vreg t.h 3 == 0x4180) = true ∧
    goes (exec (.vfneg 0 (dab 3 1 0)) (vec (ready []) (conf 0 0 1 0) [(1, 0)])) (fun t => vreg t.h 3 == 0x80000000) = true := by
  decide +kernel

theorem test_convert_premise : let s := vec (ready []) (conf 0 0 4 0) []
    let q := vec (ready []) (conf 0 1 8 0) []
    let z := vec (ready []) (conf 3 1 8 0) []
    let y := vec (ready []) (conf 12 1 8 0) []
    AtOnce (.vcvt 0 true (vf 8 1 0 0 false 1 true 2)) s ∧ VcvtLegal s 0 true (vf 8 1 0 0 false 1 true 2) ∧
    AtOnce (.vqnt 0 true (vf 4 1 0 8 false 0 false 3)) q ∧ VqntLegal q 0 true (vf 4 1 0 8 false 0 false 3) ∧
    AtOnce (.vdqnt 0 false (vf 4 1 0 8 false 0 false 1)) z ∧ VdqntLegal z 0 false (vf 4 1 0 8 false 0 false 1) ∧
    AtOnce (.vcbdec 0 false (vf 8 1 0 0 false 0 false 0)) y ∧ VcbdecLegal y 0 false (vf 8 1 0 0 false 0 false 0) ∧
    BiasReadable s 0 0 8 (toGroup s (vf 8 1 0 0 false 1 true 2)) ∧ BiasReadable z 0 9 4 (toGroup z (vf 4 1 0 8 false 0 false 1)) ∧
    Apart 4 (toGroup z (vf 4 1 0 8 false 0 false 1)) 8 2 ∧ BiasLegal s 6 31 ∧ BiasLegal z 0 9 ∧ BiasLegal q 0 9 ∧
    q.h.vstart % blockOf q = 0 ∧ Fits s ∧ Fits q ∧ Fits z ∧ Fits y := by
  refine ⟨at_once _ _ ?_, ?_, at_once _ _ ?_, ?_, at_once _ _ ?_, ?_, at_once _ _ ?_, ?_, ?_, ?_, ?_, ?_, ?_, ?_, ?_, ?_, ?_, ?_, ?_⟩ <;>
    (try unfold BiasReadable) <;> (try unfold Fits) <;> decide +kernel

-- stochastic rounding with the bias register also the destination: the last clauses of the conversions
theorem test_convert_overlap : let s := vec (ready []) (conf 0 0 4 0) []
    AtOnce (.vcvt 6 false (vf 8 1 0 8 false 0 false 1)) s ∧ VcvtLegal s 6 false (vf 8 1 0 8 false 0 false 1) ∧ BiasLegal s 6 8 ∧
    ¬ BiasReadable s 6 8 8 1 ∧ goes (exec (.vcvt 6 false (vf 8 1 0 8 false 0 false 1)) s) (fun t => t.h.pc == 0x1008) = true := by
  refine ⟨at_once _ _ ?_, ?_, ?_, ?_, ?_⟩ <;> (try unfold BiasReadable) <;> decide +kernel

-- a block of −1, 3 and six zeros to OB8: the range 4 has scale 2^−5, so the zero point is 32 and the codes 0, 128, 32, … (R125)
theorem test_vqnt : let s := vec (ready []) (conf 0 1 8 0) [(1, 0xBF800000 + 0x40400000 * 2 ^ 32)]
    let f := vf 4 1 0 8 false 0 false 10
    VqntLegal s 0 true f ∧ QuantRegistersApart s 0 f ∧ scaleIndex s.h.conf 8 4 0 = 2048 ∧
    goes (exec (.vqnt 0 true f) s) (fun t => bitsGet (vreg t.h 4) 0 64 == 0x2020202020208000 &&
      bitsGet (vreg t.h 8) (8 * 2048) 8 == 122 && bitsGet (vreg t.h 9) (8 * 2048) 8 == 32) = true := by
  refine ⟨?_, ?_, ?_, ?_⟩ <;> (try unfold QuantRegistersApart) <;> decide +kernel

-- a NaN among its values: scale 0xFF, codes and zero point 0
theorem test_vqnt_nan : goes (exec (.vqnt 0 true (vf 4 1 0 8 false 0 false 10)) (vec (ready []) (conf 0 1 8 0) [(1, 0x7FC00000 + 0x40400000 * 2 ^ 32)]))
    (fun t => bitsGet (vreg t.h 4) 0 64 == 0 && bitsGet (vreg t.h 8) (8 * 2048) 8 == 0xFF && bitsGet (vreg t.h 9) (8 * 2048) 8 == 0) = true := by
  decide +kernel

theorem test_vcvt : goes (exec (.vcvt 0 false (vf 8 1 0 0 false 0 false 1)) (vec (ready []) (conf 0 0 1 0) [(1, 0x3F808000)]))
    (fun t => vreg t.h 8 == 0x3F80) = true := by
  decide +kernel

theorem test_reduction_premise : let s := vec (ready []) (conf 6 0 4 1) []
    let t := vec (ready []) (conf 0 0 4 1) []
    AtOnce (.vredsum (vf 3 1 0 0 false 2 false 2)) s ∧ isInt (fmtOf s) = true ∧ indexBad (.vredsum (vf 3 1 0 0 false 2 false 2)) s.h.conf = false ∧
    AtOnce (.vredsum (vf 3 1 0 0 false 2 false 2)) t ∧ isFloat16Up (fmtOf t) = true ∧ s.h.vstart = 0 ∧ Fits s ∧ Fits t := by
  refine ⟨at_once _ _ ?_, ?_, ?_, at_once _ _ ?_, ?_, ?_, ?_, ?_⟩ <;> (try unfold Fits) <;> decide +kernel

theorem test_vredsum : goes (exec (.vredsum (vf 3 1 0 0 false 0 false 2)) (vec (ready []) (conf 6 0 4 0) [(1, 1 + 2 * 2 ^ 32 + 3 * 2 ^ 64 + 4 * 2 ^ 96)]))
    (fun t => vreg t.h 3 == 3 + 7 * 2 ^ 32) = true := by
  decide +kernel

theorem test_permute_premise : let s := vec (ready [(5, 1)]) (conf 6 0 4 1) []
    AtOnce (.vperm (vf 3 1 2 0 false 1 true 0)) s ∧ ByteWide (.vperm (vf 3 1 2 0 false 1 true 0)) s ∧
    AtOnce (.vslideup (vf 3 1 5 0 false 1 true 0)) s ∧ IndicesLegal (.vslideup (vf 3 1 5 0 false 1 true 0)) s ∧
    AtOnce (.vcompress (vf 3 1 0 0 false 1 true 0)) s ∧ ByteWide (.vcompress (vf 3 1 0 0 false 1 true 0)) s := by
  refine ⟨at_once _ _ ?_, ?_, at_once _ _ ?_, ?_, at_once _ _ ?_, ?_⟩ <;> decide +kernel

theorem test_transpose_premise : let s := vec (ready []) (conf 6 0 4 1) []
    let q := vec (ready []) (conf 3 1 8 0) []
    AtOnce (.vgtrn (vf 8 0 0 0 false 0 false 4)) s ∧ VgtrnLegal s (vf 8 0 0 0 false 0 false 4) ∧
    AtOnce (.vqtrn (vf 16 0 0 30 false 0 false 8)) q ∧ VqtrnLegal q (vf 16 0 0 30 false 0 false 8) ∧ Fits q := by
  refine ⟨at_once _ _ ?_, ?_, at_once _ _ ?_, ?_, ?_⟩ <;> (try unfold Fits) <;> decide +kernel

-- rows 0 and 1 hold 1.0 at the scales 2^0 and 2^1: at the common scale 2^1 their codes are 0.5 and 1.0 (R147)
theorem test_vqtrn : let c := conf 3 1 8 0
    let scales : Nat := (List.range 8).foldl (fun x r => bitsSet x (8 * scaleIndex c 8 r 0) 8 (if r = 1 then 128 else 127)) 0
    let s := vec (ready []) c ((List.range 8).map (fun r => (r, if r < 2 then 0x38 else 0)) ++ [(30, scales)])
    goes (exec (.vqtrn (vf 16 0 0 30 false 0 false 8)) s) (fun t => bitsGet (vreg t.h 16) 0 64 == 0x3830 && bitsGet (vreg t.h 17) 0 64 == 0 &&
      bitsGet (vreg t.h 31) (8 * scaleIndex c 8 16 0) 8 == 128) = true := by
  decide +kernel

theorem test_vgtrn : goes (exec (.vgtrn (vf 8 0 0 0 false 0 false 2)) (vec (ready []) (conf 6 0 2 0) [(0, 1 + 2 * 2 ^ 32), (1, 3 + 4 * 2 ^ 32)]))
    (fun t => vreg t.h 8 == 1 + 3 * 2 ^ 32 && vreg t.h 9 == 2 + 4 * 2 ^ 32) = true := by
  decide +kernel

theorem test_bits_premise : let s := vec (ready [(5, 9)]) (conf 9 0 4 0) []
    AtOnce (.vbfsl (vf 3 1 5 2 false 0 false 0)) s ∧ indexBad (.vbfsl (vf 3 1 5 2 false 0 false 0)) s.h.conf = false ∧
    AtOnce (.mand (vf 3 1 2 0 false 0 false 0)) s ∧ AtOnce (.mset (vf 3 5 0 0 true 0 false 0)) s ∧
    AtOnce (.mpopc (vf 3 1 0 0 false 2 false 0)) s ∧ s.h.vstart = 0 ∧ s.h.conf.vl ≤ 16384 := by
  refine ⟨at_once _ _ ?_, ?_, at_once _ _ ?_, at_once _ _ ?_, at_once _ _ ?_, ?_, ?_⟩ <;> decide +kernel

theorem test_vbsll : goes (exec (.vbsll (vf 3 1 5 0 false 0 false 0)) (vec (ready [(5, 9)]) (conf 9 0 4 0) [(1, 0xFF800001)]))
    (fun t => vreg t.h 3 == 0x00000200) = true := by
  decide +kernel

theorem test_move_premise : let s := vec (ready [(5, 9)]) (conf 6 0 4 1) []
    AtOnce (.vmv (vf 3 1 0 0 false 1 true 0)) s ∧ AtOnce (.vbcast (vf 3 1 0 0 false 1 true 2)) s ∧
    2 < vlMost s ∧ IndicesLegal (.vbcast (vf 3 1 0 0 false 1 true 2)) s ∧ AtOnce (.viota (vf 3 1 0 0 false 1 true 0)) s ∧
    AtOnce (.vmerge (vf 3 1 2 0 false 1 false 0)) s ∧ AtOnce (.vins (vf 3 5 0 0 true 0 false 1023)) s ∧
    1023 < vlMost s ∧ ¬ 1024 < vlMost s ∧ IndicesLegal (.vins (vf 3 5 0 0 true 0 false 1023)) s ∧ AtOnce (.vmvs (vf 3 1 0 0 false 0 false 1023)) s ∧
    IndicesLegal (.vmvs (vf 3 1 0 0 false 0 false 1023)) s := by
  refine ⟨at_once _ _ ?_, at_once _ _ ?_, ?_, ?_, at_once _ _ ?_, at_once _ _ ?_, at_once _ _ ?_, ?_, ?_, ?_, at_once _ _ ?_, ?_⟩ <;> decide +kernel

theorem test_vmvs : goes (exec (.vmvs (vf 5 1 0 0 false 0 false 1)) (vec (ready []) (conf 6 0 2 0) [(1, 0x80000000 * 2 ^ 32)]))
      (fun t => t.h.readback == [(5, 0xFFFFFFFF80000000#64)]) = true ∧
    goes (exec (.vins (vf 3 5 0 0 true 0 false 16384)) (vec (ready []) (conf 6 0 2 0) [])) (fun t => t.h.trapcause == 0x04) = true := by
  decide +kernel

-- the first index at VLmax (R139 to R142)
theorem test_index_traps : let s := vec (ready []) (conf 6 0 4 1) []
    vlMost s = 1024 ∧ s.h.frozen = false ∧ s.h.queue = [] ∧ ∀ i ∈ [Instr.vbcast (vf 3 1 0 0 false 1 true 1024), .vins (vf 3 5 0 0 true 0 false 1024), .vmvs (vf 3 1 0 0 false 0 false 1024)],
      goes (exec i s) (fun t => t.h.trapcause == 0x04 && t.h.epc == 0x1000 && t.h.queue == []) = true := by
  decide +kernel

/-! ### Words written out from the encoding tables -/

theorem test_words_opr_1 :
    decodeTableWord 32 0b0000000000_00010_00001_00011_000001_0 = some (.add 3 1 2) ∧
    decodeTableWord 32 0b0000000001_00010_00001_00011_000001_0 = some (.sub 3 1 2) ∧
    decodeTableWord 32 0b0000000010_00010_00001_00011_000001_0 = some (.and 3 1 2) ∧
    decodeTableWord 32 0b0000000011_00010_00001_00011_000001_0 = some (.or 3 1 2) ∧
    decodeTableWord 32 0b0000000100_00010_00001_00011_000001_0 = some (.xor 3 1 2) ∧
    decodeTableWord 32 0b0000000101_00010_00001_00011_000001_0 = some (.sll 3 1 2) ∧
    decodeTableWord 32 0b0000000110_00010_00001_00011_000001_0 = some (.srl 3 1 2) ∧
    decodeTableWord 32 0b0000000111_00010_00001_00011_000001_0 = some (.sra 3 1 2) ∧
    decodeTableWord 32 0b0000001000_00010_00001_00011_000001_0 = some (.slt 3 1 2) ∧
    decodeTableWord 32 0b0000001001_00010_00001_00011_000001_0 = some (.sltu 3 1 2) ∧
    decodeTableWord 32 0b0000001010_00010_00001_00011_000001_0 = some (.min 3 1 2) ∧
    decodeTableWord 32 0b0000001011_00010_00001_00011_000001_0 = some (.max 3 1 2) := by
  decide +kernel

theorem test_words_opr_2 :
    decodeTableWord 32 0b0000001100_00010_00001_00011_000001_0 = some (.minu 3 1 2) ∧
    decodeTableWord 32 0b0000001101_00010_00001_00011_000001_0 = some (.maxu 3 1 2) ∧
    decodeTableWord 32 0b0000001110_00010_00001_00011_000001_0 = some (.mul 3 1 2) ∧
    decodeTableWord 32 0b0000001111_00010_00001_00011_000001_0 = some (.mulh 3 1 2) ∧
    decodeTableWord 32 0b0000010000_00010_00001_00011_000001_0 = some (.mulhu 3 1 2) ∧
    decodeTableWord 32 0b0000010001_00010_00001_00011_000001_0 = some (.div 3 1 2) ∧
    decodeTableWord 32 0b0000010010_00010_00001_00011_000001_0 = some (.divu 3 1 2) ∧
    decodeTableWord 32 0b0000010011_00010_00001_00011_000001_0 = some (.rem 3 1 2) ∧
    decodeTableWord 32 0b0000010100_00010_00001_00011_000001_0 = some (.remu 3 1 2) ∧
    decodeTableWord 32 0b0000010101_00000_00001_11111_000001_0 = some (.clz 31 1) ∧
    decodeTableWord 32 0b0000010110_00000_00001_11111_000001_0 = some (.ctz 31 1) ∧
    decodeTableWord 32 0b0000010111_00000_00001_11111_000001_0 = some (.popc 31 1) := by
  decide +kernel

theorem test_words_immediate :
    decodeTableWord 32 0b100000000000001_00001_00011_000010_0 = some (.addi 3 1 0x4001) ∧
    decodeTableWord 32 0b100000000000010_00001_00011_000011_0 = some (.andi 3 1 0x4002) ∧
    decodeTableWord 32 0b100000000000011_00001_00011_000100_0 = some (.ori 3 1 0x4003) ∧
    decodeTableWord 32 0b100000000000100_00001_00011_000101_0 = some (.xori 3 1 0x4004) ∧
    decodeTableWord 32 0b100000000000101_00001_00011_000110_0 = some (.slti 3 1 0x4005) ∧
    decodeTableWord 32 0b100000000000110_00001_00011_000111_0 = some (.sltiu 3 1 0x4006) ∧
    decodeTableWord 32 0b000000000100001_00001_00011_001000_0 = some (.slli 3 1 33) ∧
    decodeTableWord 32 0b010000000100010_00001_00011_001000_0 = some (.srli 3 1 34) ∧
    decodeTableWord 32 0b100000000100011_00001_00011_001000_0 = some (.srai 3 1 35) ∧
    decodeTableWord 32 0b10000000000000000001_00011_001001_0 = some (.lihi 3 0x80001) ∧
    decodeTableWord 32 0b01111111111111111110_00011_001010_0 = some (.pcadd 3 0x7fffe) := by
  decide +kernel

theorem test_words_loadStore :
    decodeTableWord 32 0b100000000010000_00001_00011_010000_0 = some (.ldb 3 1 0x4010) ∧
    decodeTableWord 32 0b100000000010001_00001_00011_010001_0 = some (.ldbu 3 1 0x4011) ∧
    decodeTableWord 32 0b100000000010010_00001_00011_010010_0 = some (.ldh 3 1 0x4012) ∧
    decodeTableWord 32 0b100000000010011_00001_00011_010011_0 = some (.ldhu 3 1 0x4013) ∧
    decodeTableWord 32 0b100000000010100_00001_00011_010100_0 = some (.ldw 3 1 0x4014) ∧
    decodeTableWord 32 0b100000000010101_00001_00011_010101_0 = some (.ldwu 3 1 0x4015) ∧
    decodeTableWord 32 0b100000000010110_00001_00011_010110_0 = some (.ldd 3 1 0x4016) ∧
    decodeTableWord 32 0b0101010001_00010_00001_10001_011000_0 = some (.stb 1 2 0x2a31) ∧
    decodeTableWord 32 0b0101010001_00010_00001_10010_011001_0 = some (.sth 1 2 0x2a32) ∧
    decodeTableWord 32 0b0101010001_00010_00001_10011_011010_0 = some (.stw 1 2 0x2a33) ∧
    decodeTableWord 32 0b0101010001_00010_00001_10100_011011_0 = some (.std 1 2 0x2a34) := by
  decide +kernel

theorem test_words_branch :
    decodeTableWord 32 0b1111111111_00010_00001_00000_100000_0 = some (.beq 1 2 0x7fe0) ∧
    decodeTableWord 32 0b1111111111_00010_00001_00001_100001_0 = some (.bne 1 2 0x7fe1) ∧
    decodeTableWord 32 0b1111111111_00010_00001_00010_100010_0 = some (.blt 1 2 0x7fe2) ∧
    decodeTableWord 32 0b1111111111_00010_00001_00011_100011_0 = some (.bge 1 2 0x7fe3) ∧
    decodeTableWord 32 0b1111111111_00010_00001_00100_100100_0 = some (.bltu 1 2 0x7fe4) ∧
    decodeTableWord 32 0b1111111111_00010_00001_00101_100101_0 = some (.bgeu 1 2 0x7fe5) ∧
    decodeTableWord 32 0b10000000000000000011_00001_100110_0 = some (.call 1 0x80003) ∧
    decodeTableWord 32 0b111111111110100_00101_00001_100111_0 = some (.callr 1 5 0x7ff4) := by
  decide +kernel

theorem test_words_amo :
    decodeTableWord 32 0b0000000000_00111_00110_00101_101000_0 = some (.amoAdd 0 false false false 5 6 7) ∧
    decodeTableWord 32 0b0011000001_00111_00110_00101_101000_0 = some (.amoSwap 1 true false false 5 6 7) ∧
    decodeTableWord 32 0b0100100010_00111_00110_00101_101000_0 = some (.amoCas 2 false true false 5 6 7) ∧
    decodeTableWord 32 0b0111100011_00111_00110_00101_101000_0 = some (.amoMin 3 true true false 5 6 7) ∧
    decodeTableWord 32 0b1000010100_00111_00110_00101_101000_0 = some (.amoMax 4 false false true 5 6 7) ∧
    decodeTableWord 32 0b0001010101_00111_00110_00101_101000_0 = some (.amoAnd 0 true false true 5 6 7) ∧
    decodeTableWord 32 0b0010110110_00111_00110_00101_101000_0 = some (.amoOr 1 false true true 5 6 7) ∧
    decodeTableWord 32 0b0101110111_00111_00110_00101_101000_0 = some (.amoXor 2 true true true 5 6 7) := by
  decide +kernel

theorem test_words_system :
    decodeTableWord 32 0b0000000000_11111_00001_00000_101100_0 = some (.trap 993) ∧
    decodeTableWord 32 0b0000000001_00000_00000_00000_101100_0 = some (.eret) ∧
    decodeTableWord 32 0b0000000010_00000_00100_00011_101100_0 = some (.fence 3 4) ∧
    decodeTableWord 32 0b0000000011_00111_00110_00000_101100_0 = some (.wfa 6 7) ∧
    decodeTableWord 32 0b0000000100_00000_00000_00000_101100_0 = some (.snap) ∧
    decodeTableWord 32 0b000000010100001_00000_00101_101101_0 = some (.cfgrd 5 0x0a1) ∧
    decodeTableWord 32 0b001000000010000_00110_00101_101101_0 = some (.cfgwr 5 6 0x10) ∧
    decodeTableWord 32 0b010000000010001_00110_00101_101101_0 = some (.cfgset 5 6 0x11) ∧
    decodeTableWord 32 0b011000000010010_00110_00101_101101_0 = some (.cfgclr 5 6 0x12) := by
  decide +kernel

theorem test_words_memory_1 :
    decodeTableWord 32 0b0000000000_00111_00110_00101_110000_0 = some (.settle 5 6 7) ∧
    decodeTableWord 32 0b0000000001_00111_00110_00000_110000_0 = some (.renew 6 7) ∧
    decodeTableWord 32 0b0000000010_00111_00110_00000_110000_0 = some (.discard 6 7) ∧
    decodeTableWord 32 0b0000000011_00111_00110_00000_110000_0 = some (.pref 6 7) ∧
    decodeTableWord 32 0b0000000100_00111_00110_00101_110000_0 = some (.regdef 5 6 7) ∧
    decodeTableWord 32 0b0000000101_00111_00110_00101_110000_0 = some (.tlbinv 5 6 7) ∧
    decodeTableWord 32 0b0000000110_00000_00000_00000_110000_0 = some (.tlbwait) ∧
    decodeTableWord 32 0b0000000111_00111_00110_00101_110000_0 = some (.bankcfg 5 6 7) ∧
    decodeTableWord 32 0b0000001000_00000_00110_00000_110000_0 = some (.cbld 6) ∧
    decodeTableWord 32 0b0010000000_00000_00110_00101_110001_0 = some (.rdcnt 8 5 6) ∧
    decodeTableWord 32 0b0000110001_00111_00110_00101_110001_0 = some (.waitc 3 5 6 7) ∧
    decodeTableWord 32 0b0001100010_00111_00110_00101_110001_0 = some (.bararv 5 6 7) := by
  decide +kernel

theorem test_words_memory_2 :
    decodeTableWord 32 0b0001100011_00111_00110_00101_110001_0 = some (.barwait 5 6 7) ∧
    decodeTableWord 32 0b0000000000_00000_00110_00101_110010_0 = some (.rlaunch 5 6) ∧
    decodeTableWord 32 0b0000000001_00000_00110_00101_110010_0 = some (.rwait 5 6) ∧
    decodeTableWord 32 0b0000000010_00000_00000_00000_110010_0 = some (.ryield) ∧
    decodeTableWord 32 0b0000000011_00000_00110_00000_110010_0 = some (.rexit 6) ∧
    decodeTableWord 32 0b0000000100_00000_00000_00101_110010_0 = some (.nextit 5) ∧
    decodeTableWord 32 0b0000000000_00111_00110_00101_110101_0 = some (.cpgo 5 6 7) ∧
    decodeTableWord 32 0b0000000001_00000_00110_00101_110101_0 = some (.ipgo 5 6) ∧
    decodeTableWord 32 0b0000000010_00111_00110_00000_110101_0 = some (.epush 6 7) ∧
    decodeTableWord 32 0b0000000011_00000_00110_00101_110101_0 = some (.epop 5 6) ∧
    decodeTableWord 32 0b1111_1111_1111_0011_0000_0010_000_011_11 = some (.convoyHeader 15 15 15 3 0 2 3) := by
  decide +kernel

theorem test_words_configuration :
    decodeTableWord 64 0b1001101001011101_0000000000_0_0_0000_000000_000000_000000_000000_000001_01 = some (.vcfg (vf 0 0 0 0 false 0 false 0x9a5d)) ∧
    decodeTableWord 64 0b0000000000110001_0000000001_1_0_0000_000000_000000_000100_000101_000001_01 = some (.setvl (vf 5 4 0 0 true 0 false 0x31)) := by
  decide +kernel

theorem test_words_vint_1 :
    decodeTableWord 64 0b0000000000000000_0000000000_1_0_1001_000000_100010_010001_111111_000010_01 = some (.vadd (vf 63 17 34 0 true 9 false 0x0)) ∧
    decodeTableWord 64 0b0000000000000000_0000000001_0_1_1001_000000_100010_100001_111111_000010_01 = some (.vsub (vf 63 33 34 0 false 9 true 0x0)) ∧
    decodeTableWord 64 0b0000000000000000_0000000010_1_0_1001_000000_100010_010001_111111_000010_01 = some (.vmul (vf 63 17 34 0 true 9 false 0x0)) ∧
    decodeTableWord 64 0b0000000000000000_0000000011_0_1_1001_000000_100010_100001_111111_000010_01 = some (.vmulh (vf 63 33 34 0 false 9 true 0x0)) ∧
    decodeTableWord 64 0b0000000000000000_0000000100_1_0_1001_000000_100010_010001_111111_000010_01 = some (.vmulhu (vf 63 17 34 0 true 9 false 0x0)) ∧
    decodeTableWord 64 0b0000000000000000_0000000101_0_1_1001_000000_100010_100001_111111_000010_01 = some (.vmin (vf 63 33 34 0 false 9 true 0x0)) ∧
    decodeTableWord 64 0b0000000000000000_0000000110_1_0_1001_000000_100010_010001_111111_000010_01 = some (.vmax (vf 63 17 34 0 true 9 false 0x0)) ∧
    decodeTableWord 64 0b0000000000000000_0000000111_0_1_1001_000000_100010_100001_111111_000010_01 = some (.vminu (vf 63 33 34 0 false 9 true 0x0)) ∧
    decodeTableWord 64 0b0000000000000000_0000001000_1_0_1001_000000_100010_010001_111111_000010_01 = some (.vmaxu (vf 63 17 34 0 true 9 false 0x0)) ∧
    decodeTableWord 64 0b0000000000000000_0000001001_0_1_1001_000000_100010_100001_111111_000010_01 = some (.vand (vf 63 33 34 0 false 9 true 0x0)) ∧
    decodeTableWord 64 0b0000000000000000_0000001010_1_0_1001_000000_100010_010001_111111_000010_01 = some (.vor (vf 63 17 34 0 true 9 false 0x0)) ∧
    decodeTableWord 64 0b0000000000000000_0000001011_0_1_1001_000000_100010_100001_111111_000010_01 = some (.vxor (vf 63 33 34 0 false 9 true 0x0)) := by
  decide +kernel

theorem test_words_vint_2 :
    decodeTableWord 64 0b0000000000000000_0000001100_1_0_1001_000000_100010_010001_111111_000010_01 = some (.vsll (vf 63 17 34 0 true 9 false 0x0)) ∧
    decodeTableWord 64 0b0000000000000000_0000001101_0_1_1001_000000_100010_100001_111111_000010_01 = some (.vsrl (vf 63 33 34 0 false 9 true 0x0)) ∧
    decodeTableWord 64 0b0000000000000000_0000001110_1_0_1001_000000_100010_010001_111111_000010_01 = some (.vsra (vf 63 17 34 0 true 9 false 0x0)) ∧
    decodeTableWord 64 0b0000000000000000_0000001111_0_1_1001_000000_100010_100001_111111_000010_01 = some (.vaddsat (vf 63 33 34 0 false 9 true 0x0)) ∧
    decodeTableWord 64 0b0000000000000000_0000010000_1_0_1001_000000_100010_010001_111111_000010_01 = some (.vsubsat (vf 63 17 34 0 true 9 false 0x0)) ∧
    decodeTableWord 64 0b0000000000000000_0000010001_0_0_0001_000000_100010_100001_001111_000010_01 = some (.vcmpeq (vf 15 33 34 0 false 1 false 0x0)) ∧
    decodeTableWord 64 0b0000000000000000_0000010010_0_1_0001_000000_100010_100001_001111_000010_01 = some (.vcmplt (vf 15 33 34 0 false 1 true 0x0)) ∧
    decodeTableWord 64 0b0000000000000000_0000010011_0_0_0001_000000_100010_100001_001111_000010_01 = some (.vcmpltu (vf 15 33 34 0 false 1 false 0x0)) := by
  decide +kernel

theorem test_words_vfp_1 :
    decodeTableWord 64 0b0000000000000000_0000000110_0_1_0010_101000_100010_100001_000011_000011_01 = some (.vfadd 6 (vf 3 33 34 40 false 2 true 0x0)) ∧
    decodeTableWord 64 0b0000000000000000_0000001110_0_1_0010_101000_100010_100001_000011_000011_01 = some (.vfsub 6 (vf 3 33 34 40 false 2 true 0x0)) ∧
    decodeTableWord 64 0b0000000000000000_0000010110_0_1_0010_101000_100010_100001_000011_000011_01 = some (.vfmul 6 (vf 3 33 34 40 false 2 true 0x0)) ∧
    decodeTableWord 64 0b0000000000000000_0000011000_1_1_0010_101000_100010_010100_000011_000011_01 = some (.vfma 0 (vf 3 20 34 40 true 2 true 0x0)) ∧
    decodeTableWord 64 0b0000000000000000_0000100001_1_1_0010_101000_100010_010100_000011_000011_01 = some (.vfms 1 (vf 3 20 34 40 true 2 true 0x0)) ∧
    decodeTableWord 64 0b0000000000000000_0000101010_1_1_0010_101000_100010_010100_000011_000011_01 = some (.vfnma 2 (vf 3 20 34 40 true 2 true 0x0)) ∧
    decodeTableWord 64 0b0000000000000000_0000110101_0_0_0000_000000_100010_100001_000011_000011_01 = some (.vfmin 5 (vf 3 33 34 0 false 0 false 0x0)) ∧
    decodeTableWord 64 0b0000000000000000_0000111101_0_0_0000_000000_100010_100001_000011_000011_01 = some (.vfmax 5 (vf 3 33 34 0 false 0 false 0x0)) ∧
    decodeTableWord 64 0b0000000000000000_0001000111_0_0_0000_001001_000000_100001_000011_000011_01 = some (.vfabs 7 (vf 3 33 0 9 false 0 false 0x0)) ∧
    decodeTableWord 64 0b0000000000000000_0001001111_0_0_0000_001001_000000_100001_000011_000011_01 = some (.vfneg 7 (vf 3 33 0 9 false 0 false 0x0)) ∧
    decodeTableWord 64 0b0000000000000000_0001010000_0_0_0111_000000_001000_100001_000100_000011_01 = some (.vfcmpeq 0 (vf 4 33 8 0 false 7 false 0x0)) ∧
    decodeTableWord 64 0b0000000000000000_0001011001_0_0_0111_000000_001000_100001_000100_000011_01 = some (.vfcmplt 1 (vf 4 33 8 0 false 7 false 0x0)) := by
  decide +kernel

theorem test_words_vfp_2 :
    decodeTableWord 64 0b0000000000000000_0001100010_0_0_0111_000000_001000_100001_000100_000011_01 = some (.vfcmple 2 (vf 4 33 8 0 false 7 false 0x0)) ∧
    decodeTableWord 64 0b0000000000000000_0001101000_0_0_0000_000000_000000_100001_000011_000011_01 = some (.vfclass 0 (vf 3 33 0 0 false 0 false 0x0)) ∧
    decodeTableWord 64 0b0000000000000000_0000000000_0_0_0011_000000_000000_100001_000011_000100_01 = some (.vfrcp (vf 3 33 0 0 false 3 false 0x0)) ∧
    decodeTableWord 64 0b0000000000000000_0000000001_0_0_0011_000000_000000_100001_000011_000100_01 = some (.vfrsq (vf 3 33 0 0 false 3 false 0x0)) ∧
    decodeTableWord 64 0b0000000000000000_0000000010_0_0_0011_000000_110010_100001_000011_000100_01 = some (.vfrcps (vf 3 33 50 0 false 3 false 0x0)) ∧
    decodeTableWord 64 0b0000000000000000_0000000011_0_0_0011_000000_110010_100001_000011_000100_01 = some (.vfrsqs (vf 3 33 50 0 false 3 false 0x0)) ∧
    decodeTableWord 64 0b0000000000000000_0000000100_0_1_0011_000000_000000_100001_000011_000100_01 = some (.vfexp2 (vf 3 33 0 0 false 3 true 0x0)) ∧
    decodeTableWord 64 0b0000000000000000_0000000101_0_1_0011_000000_000000_100001_000011_000100_01 = some (.vflog2 (vf 3 33 0 0 false 3 true 0x0)) ∧
    decodeTableWord 64 0b0000000000000000_0000000110_0_1_0011_000000_000000_100001_000011_000100_01 = some (.vftanh (vf 3 33 0 0 false 3 true 0x0)) := by
  decide +kernel

theorem test_words_convert :
    decodeTableWord 64 0b0000000000000010_0000110100_0_1_0001_001100_000000_000001_001000_000101_01 = some (.vcvt 6 true (vf 8 1 0 12 false 1 true 0x2)) ∧
    decodeTableWord 64 0b0000000000000011_0001000100_0_0_0000_001000_000000_000001_000100_000101_01 = some (.vqnt 0 true (vf 4 1 0 8 false 0 false 0x3)) ∧
    decodeTableWord 64 0b0000000000000001_0010010000_0_0_0010_001000_000000_000001_000100_000101_01 = some (.vdqnt 2 false (vf 4 1 0 8 false 2 false 0x1)) ∧
    decodeTableWord 64 0b0000000000000000_0011000000_0_0_0010_000000_000000_000001_000100_000101_01 = some (.vcbdec 0 false (vf 4 1 0 0 false 2 false 0x0)) := by
  decide +kernel

theorem test_words_move_1 :
    decodeTableWord 64 0b1000000000000001_0000000000_0_0_0110_000000_000000_000101_000100_000110_01 = some (.vredsum (vf 4 5 0 0 false 6 false 0x8001)) ∧
    decodeTableWord 64 0b1000000000000001_0000000001_0_0_0110_000000_000000_000101_000100_000110_01 = some (.vredmin (vf 4 5 0 0 false 6 false 0x8001)) ∧
    decodeTableWord 64 0b1000000000000001_0000000010_0_0_0110_000000_000000_000101_000100_000110_01 = some (.vredmax (vf 4 5 0 0 false 6 false 0x8001)) ∧
    decodeTableWord 64 0b1000000000000001_0000000011_0_0_0110_000000_000000_000101_000100_000110_01 = some (.vfredsum (vf 4 5 0 0 false 6 false 0x8001)) ∧
    decodeTableWord 64 0b1000000000000001_0000000100_0_0_0110_000000_000000_000101_000100_000110_01 = some (.vfredmin (vf 4 5 0 0 false 6 false 0x8001)) ∧
    decodeTableWord 64 0b1000000000000001_0000000101_0_0_0110_000000_000000_000101_000100_000110_01 = some (.vfredmax (vf 4 5 0 0 false 6 false 0x8001)) ∧
    decodeTableWord 64 0b0000000000000000_0000000000_0_1_0001_000000_000101_000100_000011_000111_01 = some (.vperm (vf 3 4 5 0 false 1 true 0x0)) ∧
    decodeTableWord 64 0b0000000000000000_0000000001_0_0_0010_000000_000101_000100_000011_000111_01 = some (.vslideup (vf 3 4 5 0 false 2 false 0x0)) ∧
    decodeTableWord 64 0b0000000000000000_0000000010_0_0_0010_000000_000101_000100_000011_000111_01 = some (.vslidedn (vf 3 4 5 0 false 2 false 0x0)) ∧
    decodeTableWord 64 0b0000000000000000_0000000011_0_1_0010_000000_000000_000100_000011_000111_01 = some (.vcompress (vf 3 4 0 0 false 2 true 0x0)) ∧
    decodeTableWord 64 0b0000000000000000_0000000100_0_1_0010_000000_000000_000100_000011_000111_01 = some (.vexpand (vf 3 4 0 0 false 2 true 0x0)) ∧
    decodeTableWord 64 0b0000000000000100_0000000101_0_0_0000_000000_000000_000000_001000_000111_01 = some (.vgtrn (vf 8 0 0 0 false 0 false 0x4)) := by
  decide +kernel

theorem test_words_move_2 :
    decodeTableWord 64 0b0000000000001000_0000000110_0_0_0000_011110_000000_000000_001000_000111_01 = some (.vqtrn (vf 8 0 0 30 false 0 false 0x8)) ∧
    decodeTableWord 64 0b0000000000000000_0000000000_0_0_0000_000000_000101_000100_000011_001000_01 = some (.vbsll (vf 3 4 5 0 false 0 false 0x0)) ∧
    decodeTableWord 64 0b0000000000000000_0000000001_0_0_0000_000000_000101_000100_000011_001000_01 = some (.vbsrl (vf 3 4 5 0 false 0 false 0x0)) ∧
    decodeTableWord 64 0b0000000000000000_0000000010_0_0_0000_000110_000101_000100_000011_001000_01 = some (.vbfsl (vf 3 4 5 6 false 0 false 0x0)) ∧
    decodeTableWord 64 0b0000000000000000_0000000011_0_0_0000_000110_000101_000100_000011_001000_01 = some (.vbfsr (vf 3 4 5 6 false 0 false 0x0)) ∧
    decodeTableWord 64 0b0000000000000000_0000000000_0_0_0000_000000_000010_000001_000011_001001_01 = some (.mand (vf 3 1 2 0 false 0 false 0x0)) ∧
    decodeTableWord 64 0b0000000000000000_0000000001_0_0_0000_000000_000010_000001_000011_001001_01 = some (.mor (vf 3 1 2 0 false 0 false 0x0)) ∧
    decodeTableWord 64 0b0000000000000000_0000000010_0_0_0000_000000_000010_000001_000011_001001_01 = some (.mxor (vf 3 1 2 0 false 0 false 0x0)) ∧
    decodeTableWord 64 0b0000000000000000_0000000011_0_0_0000_000000_000010_000001_000011_001001_01 = some (.mandn (vf 3 1 2 0 false 0 false 0x0)) ∧
    decodeTableWord 64 0b0000000000000000_0000000100_1_0_0000_000000_000000_000101_000011_001001_01 = some (.mset (vf 3 5 0 0 true 0 false 0x0)) ∧
    decodeTableWord 64 0b0000000000000000_0000000101_0_0_0010_000000_000000_000001_000101_001001_01 = some (.mpopc (vf 5 1 0 0 false 2 false 0x0)) ∧
    decodeTableWord 64 0b0000000000000000_0000000110_0_0_0010_000000_000000_000001_000101_001001_01 = some (.mfirst (vf 5 1 0 0 false 2 false 0x0)) := by
  decide +kernel

theorem test_words_move_3 :
    decodeTableWord 64 0b0000000000000000_0000000000_0_0_0001_000000_000000_000100_000011_001010_01 = some (.vmv (vf 3 4 0 0 false 1 false 0x0)) ∧
    decodeTableWord 64 0b0000000000000111_0000000001_0_0_0000_000000_000000_000100_000101_001010_01 = some (.vmvs (vf 5 4 0 0 false 0 false 0x7)) ∧
    decodeTableWord 64 0b0000000000000111_0000000010_1_0_0000_000000_000000_000101_000011_001010_01 = some (.vins (vf 3 5 0 0 true 0 false 0x7)) ∧
    decodeTableWord 64 0b0000000000001001_0000000011_0_1_0001_000000_000000_000100_000011_001010_01 = some (.vbcast (vf 3 4 0 0 false 1 true 0x9)) ∧
    decodeTableWord 64 0b0000000000000000_0000000100_0_0_0000_000000_000000_000001_000011_001010_01 = some (.viota (vf 3 1 0 0 false 0 false 0x0)) ∧
    decodeTableWord 64 0b0000000000000000_0000000101_0_0_0001_000000_000101_000100_000011_001010_01 = some (.vmerge (vf 3 4 5 0 false 1 false 0x0)) := by
  decide +kernel

theorem test_words_vmemory :
    decodeTableWord 64 0b0000000000000000_0100000000_1_0_0000_000000_000000_000110_000010_001011_01 = some (.vld 1 (vf 2 6 0 0 true 0 false 0x0)) ∧
    decodeTableWord 64 0b0000000000000000_1000000001_1_1_0001_000000_000111_000110_000010_001011_01 = some (.vlds 2 (vf 2 6 7 0 true 1 true 0x0)) ∧
    decodeTableWord 64 0b0000000000000000_0100000010_1_0_0000_000000_000011_000110_000010_001011_01 = some (.vldx 1 (vf 2 6 3 0 true 0 false 0x0)) ∧
    decodeTableWord 64 0b0000000000000000_0000000000_1_0_0101_000010_000000_000110_000000_001100_01 = some (.vst (vf 0 6 0 2 true 5 false 0x0)) ∧
    decodeTableWord 64 0b0000000000000000_0000000001_1_0_0000_000010_000111_000110_000000_001100_01 = some (.vsts (vf 0 6 7 2 true 0 false 0x0)) ∧
    decodeTableWord 64 0b0000000000000000_0000000010_1_0_0000_000010_000011_000110_000000_001100_01 = some (.vstx (vf 0 6 3 2 true 0 false 0x0)) ∧
    decodeTableWord 64 0b0000000000000000_0101010000_1_1_0001_000101_000100_000110_000111_001101_01 = some (.vamo 10 true (vf 7 6 4 5 true 1 true 0x0)) ∧
    decodeTableWord 64 0b0000000000000000_1101100000_1_0_0001_000101_000100_000110_000000_001101_01 = some (.vupd 11 (vf 0 6 4 5 true 1 false 0x0)) := by
  decide +kernel

theorem test_words_matrix_1 :
    decodeTableWord 64 0b0000000101100011_0000000000_1_0_0000_000000_000111_000110_000001_010000_01 = some (.smld (vf 1 6 7 0 true 0 false 0x163)) ∧
    decodeTableWord 64 0b0000000101100011_0000010000_1_0_0001_000001_000111_000110_000000_010000_01 = some (.smst (vf 0 6 7 1 true 1 false 0x163)) ∧
    decodeTableWord 64 0b0000000101100011_0000100000_0_1_0001_000000_000101_000111_101100_010000_01 = some (.smget (vf 44 7 5 0 false 1 true 0x163)) ∧
    decodeTableWord 64 0b0000000101100011_0000110000_0_0_0000_000000_000101_101100_000111_010000_01 = some (.smput (vf 7 44 5 0 false 0 false 0x163)) ∧
    decodeTableWord 64 0b0000000101100011_0001000000_0_0_0000_000000_000000_000000_000001_010000_01 = some (.smid (vf 1 0 0 0 false 0 false 0x163)) ∧
    decodeTableWord 64 0b0000000101100011_0001010000_0_0_0000_000000_000001_000000_000010_010000_01 = some (.smadd (vf 2 0 1 0 false 0 false 0x163)) ∧
    decodeTableWord 64 0b0000000101100011_0001100000_0_0_0000_000000_000101_000001_000010_010000_01 = some (.smscl (vf 2 1 5 0 false 0 false 0x163)) ∧
    decodeTableWord 64 0b0000000011011011_0001110000_0_0_0000_000000_000001_000011_000010_010000_01 = some (.smmul (vf 2 3 1 0 false 0 false 0xdb)) ∧
    decodeTableWord 64 0b0000000011011011_0010000000_0_0_0000_000000_000001_000011_000010_010000_01 = some (.smma (vf 2 3 1 0 false 0 false 0xdb)) ∧
    decodeTableWord 64 0b0000000101100011_0010010000_0_0_0000_000000_000000_000011_000010_010000_01 = some (.smtr (vf 2 3 0 0 false 0 false 0x163)) ∧
    decodeTableWord 64 0b0000000101100011_0010100000_0_0_0000_000000_101100_000000_101101_010000_01 = some (.smmv (vf 45 0 44 0 false 0 false 0x163)) ∧
    decodeTableWord 64 0b0000000000011011_0010110000_0_0_0010_000011_000000_000010_000001_010000_01 = some (.smchol (vf 1 2 0 3 false 2 false 0x1b)) := by
  decide +kernel

theorem test_words_matrix_2 :
    decodeTableWord 64 0b0000000000011011_0011000000_0_0_0000_000011_101111_000010_000001_010000_01 = some (.smlu (vf 1 2 47 3 false 0 false 0x1b)) ∧
    decodeTableWord 64 0b0000000010000011_0011010000_0_0_0000_000011_101100_000001_101101_010000_01 = some (.smsolv (vf 45 1 44 3 false 0 false 0x83)) := by
  decide +kernel

theorem test_words_engine_1 :
    decodeTableWord 64 0b0000000000110001_0000000000_0_0_0000_000000_000000_000000_000000_010001_01 = some (.mcfg (vf 0 0 0 0 false 0 false 0x31)) ∧
    decodeTableWord 64 0b0000000000000001_0000000001_0_0_0000_011110_000000_010000_000000_010001_01 = some (.mldw (vf 0 16 0 30 false 0 false 0x1)) ∧
    decodeTableWord 64 0b0000000000000000_0000000010_0_0_0000_000000_000000_000000_000000_010001_01 = some (.mswap (vf 0 0 0 0 false 0 false 0x0)) ∧
    decodeTableWord 64 0b0000000000000001_0000000011_0_0_0000_000000_000000_000000_000001_010001_01 = some (.mstrm (vf 1 0 0 0 false 0 false 0x1)) ∧
    decodeTableWord 64 0b0000000010000010_0000000100_0_0_0000_011110_000101_000001_001000_010001_01 = some (.mdrn (vf 8 1 5 30 false 0 false 0x82)) ∧
    decodeTableWord 64 0b0000000000000000_0000000101_0_0_0000_000000_000000_000000_000010_010001_01 = some (.mzero (vf 2 0 0 0 false 0 false 0x0)) ∧
    decodeTableWord 64 0b0000000000000010_0000000110_1_0_0000_000000_000000_000110_000000_010001_01 = some (.mspl (vf 0 6 0 0 true 0 false 0x2)) ∧
    decodeTableWord 64 0b0000000000000100_0000000111_1_0_0000_000000_000000_000110_000000_010001_01 = some (.mfil (vf 0 6 0 0 true 0 false 0x4)) ∧
    decodeTableWord 64 0b0000000001000001_0000000000_0_0_0000_011110_000101_000000_001000_010010_01 = some (.vproj (vf 8 0 5 30 false 0 false 0x41)) ∧
    decodeTableWord 64 0b0000000001000001_0000000001_0_0_0000_011110_001000_000100_001100_010010_01 = some (.vpjadj (vf 12 4 8 30 false 0 false 0x41)) ∧
    decodeTableWord 64 0b0000000000000000_0000000000_1_0_0000_000000_000000_000110_000000_010101_01 = some (.vsave (vf 0 6 0 0 true 0 false 0x0)) ∧
    decodeTableWord 64 0b0000000000000000_0000000001_1_0_0000_000000_000000_000110_000000_010101_01 = some (.vrest (vf 0 6 0 0 true 0 false 0x0)) := by
  decide +kernel

theorem test_words_engine_2 :
    decodeTableWord 64 0b0000000000000000_0000000010_1_0_0000_000000_000000_000110_000000_010101_01 = some (.vqsave (vf 0 6 0 0 true 0 false 0x0)) ∧
    decodeTableWord 64 0b0000000000000000_0000000011_1_0_0000_000000_000000_000110_000000_010101_01 = some (.vqrest (vf 0 6 0 0 true 0 false 0x0)) := by
  decide +kernel

/-! ### Vector memory on the scratchpad, small matrices -/

theorem in_pad (s : State) (n : Nat) (off : Nat) (h1 : off < 8192) (h2 : 0 < n) (h3 : off + n ≤ 8192)
    (h4 : 9 ≤ (getCore s (curCore s)).budget) (h7 : (getCore s (curCore s)).banks.getD 8 .cache = .scratch) :
    Scratch s (pad + off) n := by
  have e : scratchOff (pad + off) = 0x10000 + off := by unfold scratchOff pad win; omega
  unfold Scratch
  rw [e]
  exact in_bank s _ n _ 8 (by unfold pad win; omega) h2 (by omega) (by omega) (by omega) (by omega) h7

/-- Registers 6 (base), 7 (stride 4) and vector register 3 (indices 0, 1, 2, …) for accesses to the scratchpad. -/
def memReady : State := vec (ready [(6, pad), (7, 4)]) (conf 6 0 4 1) [(3, 0 + 1 * 2 ^ 32 + 2 * 2 ^ 64)]

theorem test_vector_memory_premise : let s := memReady
    Fits s ∧ OrderReady s ∧ AtOnce (.vld 2 (vf 2 6 0 0 true 1 true 0)) s ∧ UnitLegal (.vld 2 (vf 2 6 0 0 true 1 true 0)) s (vf 2 6 0 0 true 1 true 0) ∧
    AtOnce (.vlds 0 (vf 2 6 7 0 true 1 true 0)) s ∧ IndicesLegal (.vlds 0 (vf 2 6 7 0 true 1 true 0)) s ∧
    AtOnce (.vldx 1 (vf 2 6 3 0 true 1 true 0)) s ∧ IndicesLegal (.vldx 1 (vf 2 6 3 0 true 1 true 0)) s ∧
    AtOnce (.vst (vf 0 6 0 2 true 1 false 0)) s ∧ IndicesLegal (.vst (vf 0 6 0 2 true 1 false 0)) s ∧
    AtOnce (.vsts (vf 0 6 7 2 true 1 false 0)) s ∧ IndicesLegal (.vsts (vf 0 6 7 2 true 1 false 0)) s ∧
    AtOnce (.vstx (vf 0 6 3 2 true 1 false 0)) s ∧ IndicesLegal (.vstx (vf 0 6 3 2 true 1 false 0)) s ∧ 8 ≤ widthOf s := by
  refine ⟨?_, ?_, at_once _ _ ?_, ?_, at_once _ _ ?_, ?_, at_once _ _ ?_, ?_, at_once _ _ ?_, ?_, at_once _ _ ?_, ?_, at_once _ _ ?_, ?_, ?_⟩ <;>
    (try unfold Fits) <;> (try unfold OrderReady) <;> decide +kernel

theorem no_copies (s : State) (h : s.others = []) (h1 : ∀ ch ∈ (getCore s (curCore s)).channels.toList, ch.queue = [])
    (h2 : (getCore s (curCore s)).ousted = []) : NoCopies s :=
  ⟨h1, fun n _ hn => .inr (by simp [getHart, h, hn, tgetD, tget]), not_ousted s h2⟩

theorem test_no_copies : NoCopies memReady :=
  no_copies _ (by decide +kernel) (by decide +kernel) (by decide +kernel)

theorem reach (ea : Nat → Nat) (h : ∀ i, i < 3 → ea i = pad + 4 * i) : InReach memReady ea := by
  intro i hi
  have h3 : memReady.h.conf.vl - memReady.h.conf.vlpad = 3 := by decide +kernel
  have hw : max 1 (widthOf memReady / 8) = 4 := by decide +kernel
  rw [h3] at hi
  rw [h i hi, hw]
  exact in_pad memReady 4 (4 * i) (by omega) (by omega) (by omega) (by decide +kernel) (by decide +kernel)

theorem test_in_reach : InReach memReady (unitEa memReady (vf 2 6 0 0 true 1 true 0)) ∧
    InReach memReady (strideEa memReady (vf 2 6 7 0 true 1 true 0)) ∧ InReach memReady (indexEa memReady (vf 2 6 3 0 true 1 true 0)) := by
  refine ⟨reach _ ?_, reach _ ?_, reach _ ?_⟩ <;> decide +kernel

-- elements 0 and 2 are selected
theorem test_vst_vld : goes (exec (.vst (vf 0 6 0 2 true 1 false 0))
      { memReady with h := { memReady.h with v := memReady.h.v.set 2 (7 + 8 * 2 ^ 32 + 9 * 2 ^ 64), m := memReady.h.m.set 1 5 } }) (fun t =>
    t.mem == [(sramBase 0 + 0x10000, 7), (sramBase 0 + 0x10008, 9)] &&
    goes (exec (.vldx 0 (vf 4 6 3 0 true 0 false 0)) t) (fun u => vreg u.h 4 == 7 + 9 * 2 ^ 64)) = true := by
  decide +kernel

/-- 4-bit elements: four of them fill one 16-bit unit. -/
def nibbles : State := vec (ready [(6, pad)]) { conf 5 0 8 4 with vlpad := 4 } [(2, 0x4321)]

theorem test_narrow_store_premise : AtOnce (.vst (vf 0 6 0 2 true 0 false 0)) nibbles ∧ UnitLegal (.vst (vf 0 6 0 2 true 0 false 0)) nibbles (vf 0 6 0 2 true 0 false 0) ∧
    widthOf nibbles = 4 ∧ nibbles.h.vstart = 0 ∧ (nibbles.h.conf.vl - nibbles.h.conf.vlpad) * widthOf nibbles = 16 := by
  refine ⟨at_once _ _ ?_, ?_, ?_, ?_, ?_⟩ <;> decide +kernel

theorem test_narrow_store : Scratch nibbles (pad + 0) 2 ∧ goes (exec (.vst (vf 0 6 0 2 true 0 false 0)) nibbles) (fun t =>
    t.mem == [(sramBase 0 + 0x10000, 0x21), (sramBase 0 + 0x10001, 0x43)]) = true :=
  ⟨in_pad nibbles 2 0 (by omega) (by omega) (by omega) (by decide +kernel) (by decide +kernel), by decide +kernel⟩

theorem test_vamo_premise : AtOnce (.vamo 7 true (vf 5 6 3 2 true 0 false 0)) memReady ∧
    VamoLegal memReady 7 true (vf 5 6 3 2 true 0 false 0) ∧
    (∀ i, i < 3 → indexEa memReady (vf 5 6 3 2 true 0 false 0) i % 4 = 0) ∧
    (∀ i, i < 3 → ∀ j, j < 3 → i ≠ j → indexEa memReady (vf 5 6 3 2 true 0 false 0) i ≠ indexEa memReady (vf 5 6 3 2 true 0 false 0) j) := by
  refine ⟨at_once _ _ ?_, ?_, ?_, ?_⟩ <;> decide +kernel

theorem test_vamo : goes (exec (.vamo 7 true (vf 5 6 3 2 true 0 false 0)) { memReady with mem := [(sramBase 0 + 0x10004, 6)] }) (fun t =>
    vreg t.h 5 == 6 * 2 ^ 32 && t.mem == []) = true := by
  decide +kernel

-- elements 0 and 1 add to one location: the second returns the first's sum (R260)
theorem test_vamo_repeats : goes (exec (.vamo 0 true (vf 5 6 3 2 true 0 false 0))
      (vec (ready [(6, pad)]) (conf 6 0 3 0) [(3, 2 * 2 ^ 64), (2, 5 + 6 * 2 ^ 32 + 7 * 2 ^ 64)])) (fun t =>
    vreg t.h 5 == 5 * 2 ^ 32 && t.mem == [(sramBase 0 + 0x10000, 11), (sramBase 0 + 0x10008, 7)]) = true := by
  decide +kernel

/-- As `conf` with INT32 elements, but for `mo` and the scope. -/
def ordered (mo scope : Nat) : State := vec (ready [(6, pad)]) { conf 6 0 3 0 with vcfg := BitVec.ofNat 16 (2 + 24 + 512 * scope + 4096 * mo) } []

-- an ordered load acquires unless it is read-only; every element of one under mo = 2 does, at whatever scope (R321, R326, R328)
theorem test_acquires : acquiring (ordered 1 2) = true ∧ acquiring (ordered 1 1) = false ∧ EachAcquires (ordered 2 0) (vf 2 6 0 0 true 0 false 0) ∧
    LoadAcquires (ordered 2 0) 0 (vf 2 6 0 0 true 0 false 0) ∧ ¬ LoadAcquires (ordered 2 4) 1 (vf 2 6 0 0 true 0 false 0) ∧
    goes (exec (.vld 0 (vf 2 6 0 0 true 0 false 0)) { ordered 1 2 with l1 := [(copyKey 0 96, { st := .s })] }) (fun t => t.l1 == []) = true ∧
    goes (exec (.vld 1 (vf 2 6 0 0 true 0 false 0)) { ordered 1 2 with l1 := [(copyKey 0 96, { st := .s })] }) (fun t => t.l1.length == 1) = true := by
  have h : EachAcquires (ordered 2 0) (vf 2 6 0 0 true 0 false 0) := ⟨by decide +kernel, 0, by decide +kernel⟩
  exact ⟨by decide +kernel, by decide +kernel, h, ⟨by decide +kernel, .inr h⟩, fun x => absurd x.1 (by decide +kernel), by decide +kernel, by decide +kernel⟩

-- another hart's discard holds no release of this one back (R329)
theorem test_order_ready : OrderReady { ordered 1 4 with discards := [(96, 1)] } ∧ ¬ OrderReady { ordered 1 4 with discards := [(96, 0)] } := by
  unfold OrderReady; decide +kernel

/-- A VUPD on a page of the interleaved memory. -/
def updReady : State := vec (mapped [(6, 0x2000)]) (conf 6 0 1 0) [(2, 5)]

theorem test_vupd_premise : AtOnce (.vupd 1 (vf 0 6 3 2 true 0 false 0)) updReady ∧ VupdLegal updReady 1 (vf 0 6 3 2 true 0 false 0) ∧
    Fits updReady ∧ OrderReady updReady ∧
    (let s1 := performAs (updReady.h.arrived ++ [updReady.tick]).head? (pushEntry (.instr (.vupd 1 (vf 0 6 3 2 true 0 false 0)) 0x2000 0) updReady)
     let live := liveElem updReady.h.conf (vf 0 6 3 2 true 0 false 0) s1.h
     let r := runParts .inOrder live (fun p => vupdUnit updReady.h.conf (vf 0 6 3 2 true 0 false 0) 1 0x2000 p.first)
       (partsTodo live (singles updReady.h.conf.vl) s1) s1
     r.2 = true ∧ r.1.h.pass.faults = [] ∧ r.1.h.pass.first = none ∧ r.1.h.lastUse = [] ∧ r.1.h.owesTrap = none ∧
     updReady.h.conf.vl ≤ r.1.h.front ∧ r.1.cur = updReady.cur) := by
  refine ⟨at_once _ _ ?_, ?_, ?_, ?_, ?_⟩ <;> (try unfold Fits) <;> (try unfold OrderReady) <;> decide +kernel

theorem test_vupd_no_copies : NoCopies updReady :=
  no_copies _ (by decide +kernel) (by decide +kernel) (by decide +kernel)

/-- Two elements of index 3 and a pad; the line at 0x2000 is held in U, its element 3 at 7. -/
def updHeld : State :=
  let s := vec (mapped [(6, 0x2000)]) { conf 6 0 3 1 with vcfg := 26 } [(2, 5 + 9 * 2 ^ 32), (3, 3 + 3 * 2 ^ 32)]
  { s with l1 := [(copyKey 0 96, { st := .u, tag := 1, vtag := 1, perms := 7, window := 65536, upd := { data := 7 * 2 ^ 96, touched := 8 } })] }

-- 7 + 5 + 9
theorem test_vupd_partials : let f := vf 0 6 3 2 true 0 false 0
    AtOnce (.vupd 1 f) updHeld ∧ VupdLegal updHeld 1 f ∧ confMo updHeld.h.conf = 0 ∧ Fits updHeld ∧ updHeld.discards = [] ∧ indexEa updHeld f 0 = 0x200C ∧
    (match virtualHit updHeld (currentWho updHeld) 0x200C 2 with
     | some (96, k) => k == getCopy updHeld 0 96 && k.st == .u && k.tag == 1
     | _ => false) = true ∧
    touchesWindow 0x200C 4 = false ∧ isHostLu 96 = false ∧
    goes (exec (.vupd 1 f) updHeld) (fun t => partialElem 1 (getCopy t 0 96).upd 3 == some 21 &&
      partialElem 1 (getCopy t 0 96).upd 2 == none && t.h.pc == 0x1008) = true ∧ NoCopies updHeld := by
  refine ⟨at_once _ _ ?_, ?_, ?_, ?_, ?_, ?_, ?_, ?_, ?_, ?_, no_copies _ ?_ ?_ ?_⟩ <;> (try unfold Fits) <;> decide +kernel

-- VUPD with every element masked off
theorem test_vupd_masked : let s := updReady
    (∀ i, i < 1 → maskBit s.h 1 i = false) ∧ s.h.conf.vl = 1 ∧ AtOnce (.vupd 1 (vf 0 6 3 2 true 1 false 0)) s ∧
    VupdLegal s 1 (vf 0 6 3 2 true 1 false 0) := by
  refine ⟨?_, ?_, at_once _ _ ?_, ?_⟩ <;> decide +kernel

-- R244, R378: one line from a base that is a multiple of 1 KiB, and one in a strided load
theorem test_paths :
    goes (exec (.vld 0 (vf 1 6 0 0 true 0 false 0)) updReady) (fun t => t.h.perf[5] == 1 && t.h.perf[6] == 0) = true ∧
    goes (exec (.vlds 0 (vf 1 6 0 0 true 0 false 0)) updReady) (fun t => t.h.perf[5] == 0 && t.h.perf[6] == 1) = true := by
  refine ⟨?_, ?_⟩ <;> decide +kernel

/-- One 3 by 2 instance, of two, masked. -/
def shaped (imm : BitVec 16) (d a b c : BitVec 6) (sa : Bool) : VF := vf d a b c sa 1 true imm
def matReady : State := vec (ready [(5, 5), (6, pad), (7, 128)]) (conf 0 0 2 0) []

theorem test_matrix_premise : let s := matReady
    s.h.vstart = 0 ∧ Fits s ∧ AtOnce (.smid (shaped 275 1 0 0 0 false)) s ∧ AtOnce (.smadd (shaped 275 1 2 3 0 false)) s ∧
    AtOnce (.smscl (shaped 275 1 2 5 0 false)) s ∧ AtOnce (.smtr (shaped 275 1 2 0 0 false)) s ∧ AtOnce (.smput (shaped 275 1 2 5 0 false)) s ∧
    AtOnce (.smget (shaped 275 1 2 5 0 false)) s ∧ AtOnce (.smmul (shaped 275 1 2 3 0 false)) s ∧ AtOnce (.smma (shaped 275 1 2 3 0 false)) s ∧
    AtOnce (.smmv (shaped 275 1 2 3 0 false)) s ∧ ShapeLegal (.smid (shaped 275 1 0 0 0 false)) s (shaped 275 1 0 0 0 false) ∧
    ShapeLegal (.smscl (shaped 275 1 2 5 0 false)) s (shaped 275 1 2 5 0 false) ∧ ShapeLegal (.smtr (shaped 275 1 2 0 0 false)) s (shaped 275 1 2 0 0 false) ∧
    ShapeLegal (.smmul (shaped 275 1 2 3 0 false)) s (shaped 275 1 2 3 0 false) ∧
    ShapeLegal (.smmv (shaped 275 1 2 3 0 false)) s (shaped 275 1 2 3 0 false) ∧ (readS s 5).toNat < 6 ∧ fmtOf s = 0 := by
  refine ⟨?_, ?_, at_once _ _ ?_, at_once _ _ ?_, at_once _ _ ?_, at_once _ _ ?_, at_once _ _ ?_, at_once _ _ ?_, at_once _ _ ?_,
    at_once _ _ ?_, at_once _ _ ?_, ?_, ?_, ?_, ?_, ?_, ?_, ?_⟩ <;> (try unfold Fits) <;> decide +kernel

theorem test_smid : goes (exec (.smid (vf 1 0 0 0 false 0 false 82)) matReady) (fun t =>
    entry t 1 1 0 0 == 0x3F800000 && entry t 1 1 1 1 == 0x3F800000 && entry t 1 0 0 1 == 0) = true := by
  decide +kernel

theorem test_factor_premise : let s := matReady
    AtOnce (.smchol (vf 1 2 0 3 false 0 false 82)) s ∧ ShapeLegal (.smchol (vf 1 2 0 3 false 0 false 82)) s (vf 1 2 0 3 false 0 false 82) ∧
    AtOnce (.smlu (vf 1 2 4 3 false 0 false 82)) s ∧ ShapeLegal (.smlu (vf 1 2 4 3 false 0 false 82)) s (vf 1 2 4 3 false 0 false 82) ∧
    AtOnce (.smsolv (vf 5 1 4 3 false 0 false 82)) s ∧ ShapeLegal (.smsolv (vf 5 1 4 3 false 0 false 82)) s (vf 5 1 4 3 false 0 false 82) ∧
    ShapeLegal (.smget (vf 5 1 6 0 false 0 false 82)) s (vf 5 1 6 0 false 0 false 82) ∧ smCols (vf 1 2 0 3 false 0 false 82) = smRows (vf 1 2 0 3 false 0 false 82) ∧
    smInner (vf 5 1 4 3 false 0 false 82) ≤ 4 ∧ fmtOf s = 0 ∧ 6 ≤ (readS s 6).toNat ∧
    goes (exec (.smput (vf 5 1 6 0 false 0 false 82)) s) (fun t => t.h.trapcause == 0x04 && t.h.queue.length == 1) = true ∧
    goes (exec (.smget (vf 5 1 6 0 false 0 false 82)) s) (fun t => t.h.trapcause == 0x04 && t.h.queue.length == 1) = true := by
  refine ⟨at_once _ _ ?_, ?_, at_once _ _ ?_, ?_, at_once _ _ ?_, ?_, ?_, ?_, ?_, ?_, ?_, ?_, ?_⟩ <;> decide +kernel

/-- A two by two matrix, by rows. -/
def mat2 (a b c d : Nat) : Nat := a + b * 2 ^ 32 + c * 2 ^ 192 + d * 2 ^ 224

/-- One instance, whose matrix and right-hand side are given. -/
def factorReady (g v : Nat) : State :=
  let s := vec (ready []) (conf 0 0 1 0) [(4, v)]
  { s with h := { s.h with g := s.h.g.set 2 g } }

-- (4 2; 2 5) has the factor (2 0; 1 2); (4 2; 2 1) stops at column 1
theorem test_smchol : let f := vf 1 2 0 3 false 0 false 82
    goes (exec (.smchol f) (factorReady (mat2 0x40800000 0x40000000 0x40000000 0x40A00000) 0)) (fun t =>
      entry t 1 0 0 0 == 0x40000000 && entry t 1 0 0 1 == 0 && entry t 1 0 1 0 == 0x3F800000 && entry t 1 0 1 1 == 0x40000000 &&
      !maskBit t.h 3 0) = true ∧
    goes (exec (.smchol f) (factorReady (mat2 0x40800000 0x40000000 0x40000000 0x3F800000) 0)) (fun t =>
      entry t 1 0 1 0 == 0x3F800000 && entry t 1 0 1 1 == 0x7FC00000 && maskBit t.h 3 0 && t.h.smflags.getLsbD 8) = true ∧
    isPositive 0x40800000 ∧ ¬ isPositive 0 ∧ ¬ isPositive 0x7FC00000 ∧ rootOf 0x40800000 = 0x40000000 ∧
    lessProducts [(0x3F800000, 0x3F800000)] 0x40A00000 = 0x40800000 := by
  unfold isPositive; decide +kernel

-- (1 2; 2 6) exchanges its rows: U is (2 6; 0.5 −1), the order 1, 0; a zero column is singular
theorem test_smlu : let f := vf 1 2 4 3 false 0 false 82
    goes (exec (.smlu f) (factorReady (mat2 0x3F800000 0x40000000 0x40000000 0x40C00000) 0)) (fun t =>
      entry t 1 0 0 0 == 0x40000000 && entry t 1 0 0 1 == 0x40C00000 && entry t 1 0 1 0 == 0x3F000000 && entry t 1 0 1 1 == 0xBF800000 &&
      comp t 4 0 0 == 1 && comp t 4 0 1 == 0 && comp t 4 0 7 == 7 && !maskBit t.h 3 0) = true ∧
    goes (exec (.smlu f) (factorReady (mat2 0 0x40000000 0 0x40C00000) 0)) (fun t =>
      entry t 1 0 1 0 == 0 && entry t 1 0 1 1 == 0x40C00000 && maskBit t.h 3 0 && t.h.smflags.getLsbD 7) = true ∧
    ranksAbove 0x7FC00000 0x7F800000 = true ∧ ranksAbove 0xC0000000 0x3F800000 = true ∧ ranksAbove 0x3F800000 0xBF800000 = false := by
  decide +kernel

-- the lower system of (2 0; 1 4) and (2, 9): 1 and 2; a zero on the diagonal
theorem test_smsolv : let f := vf 5 2 4 3 false 0 false (64 * 2 + 18)
    goes (exec (.smsolv f) (factorReady (mat2 0x40000000 0 0x3F800000 0x40800000) (0x40000000 + 0x41100000 * 2 ^ 32))) (fun t =>
      comp t 5 0 0 == 0x3F800000 && comp t 5 0 1 == 0x40000000 && comp t 5 0 2 == 0 && !maskBit t.h 3 0) = true ∧
    goes (exec (.smsolv f) (factorReady (mat2 0x40000000 0 0x3F800000 0) (0x40000000 + 0x41100000 * 2 ^ 32))) (fun t =>
      comp t 5 0 1 == 0x7F800000 && maskBit t.h 3 0 && t.h.smflags.getLsbD 7) = true := by
  decide +kernel

theorem test_matrix_memory_premise : let s := matReady
    NoCopies s ∧ OrderReady s ∧ AtOnce (.smld (vf 1 6 7 0 true 0 false 82)) s ∧ AtOnce (.smst (vf 0 6 7 1 true 0 false 82)) s ∧
    ShapeLegal (.smld (vf 1 6 7 0 true 0 false 82)) s (vf 1 6 7 0 true 0 false 82) ∧
    ShapeLegal (.smst (vf 0 6 7 1 true 0 false 82)) s (vf 0 6 7 1 true 0 false 82) := by
  refine ⟨no_copies _ ?_ ?_ ?_, ?_, at_once _ _ ?_, at_once _ _ ?_, ?_, ?_⟩ <;> (try unfold OrderReady) <;> decide +kernel

theorem test_matrix_memory_range : ∀ i p q, i < 2 → p < 2 → q < 2 →
    Scratch matReady (((readS matReady 6).toNat + i * (readS matReady 7).toNat + 4 * (p * 2 + q)) % 2 ^ 64) 4 := by
  intro i p q hi hp hq
  have h6 : (readS matReady 6).toNat = pad := by decide +kernel
  have h7 : (readS matReady 7).toNat = 128 := by decide +kernel
  have e : (pad + i * 128 + 4 * (p * 2 + q)) % 2 ^ 64 = pad + (i * 128 + 4 * (p * 2 + q)) := by unfold pad win; omega
  rw [h6, h7, e]
  exact in_pad matReady 4 _ (by omega) (by omega) (by omega) (by decide +kernel) (by decide +kernel)

theorem test_smst : goes (exec (.smst (vf 0 6 7 1 true 0 false 73)) { matReady with h := { matReady.h with g := matReady.h.g.set 1 0x55 } }) (fun t =>
    t.mem == [(sramBase 0 + 0x10000, 0x55)]) = true := by
  decide +kernel

/-! ### Engines, context blocks, convoys -/

/-- Hart 0 owns the engine of its core, configured for BF16 rows and a loaded BF16 plane, with those rows of vectors. -/
def engine (c : VConf) (l : List (Nat × Nat)) : State :=
  let s := vec (ready l) c []
  setCore 0 { getCore s 0 with owner := some 0, engConf := 0x11, wpa := { loaded := true, fmt := 1, codes := 0x3F80 }, acc := #v[1, 2, 3, 4] } s

theorem test_engine_premise : let s := engine (conf 1 0 64 3) [(6, pad)]
    Owns s ∧ ¬ Owns (ready []) ∧ s.h.vstart = 0 ∧ AtOnce (.mcfg (vf 0 0 0 0 false 0 false 0x11)) s ∧ McfgLegal (vf 0 0 0 0 false 0 false 0x11) ∧
    AtOnce (.mswap (dab 0 0 0)) s ∧ AtOnce (.mzero (dab 2 0 0)) s ∧ AtOnce (.mldw (vf 0 0 0 0 false 0 false 0)) s ∧
    MldwLegal s (vf 0 0 0 0 false 0 false 0) ∧ fmtOf s = bfOf (coreOf s) ∧
    AtOnce (.mstrm (vf 1 0 0 0 false 0 false 1)) s ∧ MstrmLegal s (vf 1 0 0 0 false 0 false 1) ∧
    fmtOf s = afOf (coreOf s) ∧ (coreOf s).wpa.loaded = true := by
  refine ⟨?_, ?_, ?_, at_once _ _ ?_, ?_, at_once _ _ ?_, at_once _ _ ?_, at_once _ _ ?_, ?_, ?_, at_once _ _ ?_, ?_, ?_, ?_⟩ <;>
    (try unfold Owns) <;> decide +kernel

theorem test_mldw_requantize : let s := engine (conf 3 1 64 0) []
    AtOnce (.mldw (vf 0 0 0 30 false 0 false 2)) s ∧ MldwLegal s (vf 0 0 0 30 false 0 false 2) := by
  refine ⟨at_once _ _ ?_, ?_⟩ <;> decide +kernel

theorem test_mzero : goes (exec (.mzero (dab 2 0 0)) (engine (conf 1 0 64 0) [])) (fun t => (coreOf t).acc == #v[1, 2, 0, 4]) = true ∧
    goes (exec (.mswap (dab 0 0 0)) (engine (conf 1 0 64 0) [])) (fun t => (coreOf t).wps.loaded && !(coreOf t).wpa.loaded) = true ∧
    goes (exec (.mzero (dab 2 0 0)) (ready [])) (fun t => t.h.trapcause == 0x18 && t.h.queue.length == 1) = true := by
  decide +kernel

theorem test_facet_premise : let s := engine (conf 1 0 64 3) []
    s.h.frm ≠ 6 ∧ Fits s ∧ AtOnce (.mdrn (vf 8 1 0 0 false 0 false 1)) s ∧ MdrnLegal s (vf 8 1 0 0 false 0 false 1) ∧
    drainSet (vf 8 1 0 0 false 0 false 1) = 0 ∧ AtOnce (.mdrn (vf 8 1 5 30 false 0 false 0x82)) s ∧
    MdrnLegal s (vf 8 1 5 30 false 0 false 0x82) ∧ drainSet (vf 8 1 5 30 false 0 false 0x82) ≠ 0 ∧
    AtOnce (.vproj (vf 8 0 5 30 false 0 false 0x41)) s ∧ VprojLegal s (vf 8 0 5 30 false 0 false 0x41) := by
  refine ⟨?_, ?_, at_once _ _ ?_, ?_, ?_, at_once _ _ ?_, ?_, ?_, at_once _ _ ?_, ?_⟩ <;> (try unfold Fits) <;> decide +kernel

/-- The record of one row of the set-1 projection with n = 8. -/
def oneRecord : State := let s := engine (conf 1 0 64 3) []
  { s with h := { s.h with v := s.h.v.set 30 (0x100 + 8 * 2 ^ 11) } }

theorem test_vpjadj_premise : AtOnce (.vpjadj (vf 12 4 8 30 false 0 false 0x41)) oneRecord ∧
    VpjadjLegal oneRecord (vf 12 4 8 30 false 0 false 0x41) ∧
    (∀ m, m < 1 → recordBad (vf 12 4 8 30 false 0 false 0x41) (getRecord oneRecord.h.conf 30 m oneRecord.h) = false) ∧
    registersFor oneRecord 64 = 1 ∧ recordRegisters oneRecord = 1 := by
  refine ⟨at_once _ _ ?_, ?_, ?_, ?_, ?_⟩ <;> decide +kernel

/-- A row of FP32 values and zeros. -/
def rowOf (l : List Nat) : List XVal := (l ++ List.replicate (64 - l.length) 0).map (decodeX 0)

-- (1, 0.5) on the simplex of 1 is (0.75, 0.25); the box from 0 to 1; a NaN; no column
theorem test_projections : let row := rowOf [0x3F800000, 0x3F000000]
    let values (set : Nat) (p : Word) (l : List Nat) : List Nat := ((projectRow set p [0, 1] (rowOf l)).out.map fun q => (roundX q.2 0 0 0 false).1)
    Projectable 1 0x3F800000 [0, 1] row ∧ Projectable 4 0x3F80000000000000 [0, 1] (rowOf [0x7F800000, 0xBF800000]) ∧
    ¬ Projectable 1 0x3F800000 [0, 1] (rowOf [0x7F800000]) ∧
    values 1 0x3F800000 [0x3F800000, 0x3F000000] = [0x3F400000, 0x3E800000] ∧
    values 4 0x3F80000000000000 [0x7F800000, 0xBF800000] = [0x3F800000, 0] ∧
    values 5 0 [0x40000000, 0x3F800000] = [0x3FC00000, 0x3FC00000] ∧ values 6 0 [0x40000000, 0x3F800000] = [0x40000000, 0x3F800000] ∧
    values 1 0xBF800000 [0x3F800000, 0] = [0x7FC00000, 0x7FC00000] ∧ (projectRow 1 0x3F800000 [] row).out = [] := by
  unfold Projectable; decide +kernel

-- the gradient (3, 1) of a simplex row with both columns in S is (1, −1); with an empty S, +0
theorem test_gradients : let values (set r : Nat) : List Nat :=
      (adjointRow set [0, 1] (rowOf [0x40400000, 0x3F800000]) (rowOf [0x3F800000, 0]) r).1.map fun q => (roundX q.2 0 0 0 false).1
    values 1 (3 * 2 ^ 128) = [0x3F800000, 0xBF800000] ∧ values 1 0 = [0, 0] ∧ values 2 0 = [0x40400000, 0x3F800000] ∧
    values 4 (2 * 2 ^ 128) = [0, 0x3F800000] ∧ values 5 (2 ^ 128) = [0x40000000, 0x40000000] ∧
    values 1 (2 ^ 19) = [0x7FC00000, 0x7FC00000] := by
  decide +kernel

-- a record of another set is refused before its row (R198)
theorem test_record_refused : let f := vf 12 4 8 30 false 0 false 0x41
    let s : State := { oneRecord with h := { oneRecord.h with v := oneRecord.h.v.set 30 (0x200 + 8 * 2 ^ 11) } }
    AtOnce (.vpjadj f) s ∧ VpjadjLegal s f ∧ recordBad f (getRecord s.h.conf 30 0 s.h) = true ∧
    goes (exec (.vpjadj f) s) (fun t => t.h.trapcause == 0x04 && t.h.vstart == 0 && t.h.frozen && t.h.v == s.h.v) = true := by
  refine ⟨at_once _ _ ?_, ?_, ?_, ?_⟩ <;> decide +kernel

-- a BF16 row (1, 0.5) projected on the simplex of 1, with its record
theorem test_vproj : let s := engine (conf 1 0 64 3) [(5, 0x3F800000)]
    goes (exec (.vproj (vf 8 0 5 30 false 0 false 0x11)) { s with h := { s.h with v := s.h.v.set 0 0x3F003F80 } }) (fun t =>
      vreg t.h 8 == 0x3E803F40 && bitsGet (vreg t.h 30) 128 64 == 3 && bitAt (vreg t.h 30) 18) = true := by
  decide +kernel

theorem test_spill_premise : let s := engine (conf 1 0 64 0) [(6, pad)]
    AtOnce (.mspl (vf 0 6 0 0 true 0 false 6)) s ∧ AtOnce (.mfil (vf 0 6 0 0 true 0 false 6)) s ∧ spillObj (vf 0 6 0 0 true 0 false 6) < 7 ∧
    FillLegal 6 0x11 ∧ ¬ FillLegal 6 0x16 ∧ FillLegal 4 0xFF ∧ ¬ FillLegal 4 (2 ^ 73735) ∧ NoCopies s ∧ OrderReady s ∧ pad % 256 = 0 := by
  refine ⟨at_once _ _ ?_, at_once _ _ ?_, ?_, ?_, ?_, ?_, ?_, no_copies _ ?_ ?_ ?_, ?_, ?_⟩ <;> (try unfold OrderReady) <;> decide +kernel

theorem test_spill : goes (exec (.mspl (vf 0 6 0 0 true 0 false 6)) (engine (conf 1 0 64 0) [(6, pad)])) (fun t =>
      t.mem == [(sramBase 0 + 0x10000, 0x11)] &&
      goes (exec (.mfil (vf 0 6 0 0 true 0 false 6)) (setCore 0 { getCore t 0 with engConf := 0 } t)) (fun u => (coreOf u).engConf == 0x11)) = true := by
  decide +kernel

/-- Whatever the hart holds, a save area at the first scratchpad bank lies in scratchpad banks. -/
theorem area_range (s : State) (h : (getCore s (curCore s)).banks = (getCore (ready []) 0).banks) (h1 : (getCore s (curCore s)).budget = 96) :
    Scratch s pad 0x31800 := by
  have hb : ∀ b, b < 96 → 8 ≤ b → (getCore (ready []) 0).banks.getD b .cache = .scratch := by decide +kernel
  have e : scratchOff pad = 0x10000 := by decide +kernel
  unfold Scratch; rw [e]
  refine ⟨by decide +kernel, by omega, by omega, by rw [h1]; omega, fun b h2 h3 => ?_⟩
  rw [h]; exact hb b (by omega) (by omega)

/-- A hart whose register 6 names the save area. -/
def saving (h : Hart) : State := { ready [] with h := h }

theorem saving_core (h : Hart) : getCore (saving h) (curCore (saving h)) = getCore (ready []) 0 := by
  have hc : curCore (saving h) = 0 := by simp [curCore, saving, ready, State.reset, coreOfHart]
  rw [hc]; simp only [getCore, saving, ready]

theorem area_ready (h : Hart) (h1 : (h.status.getLsbD 0 && (h.x[6] == word pad) && !isPending h 6 &&
    decide (confMo h.conf = 0) && decide (h.pass = {}) && !h.replay) = true) : AreaReady (saving h) (vf 0 6 0 0 true 0 false 0) := by
  simp only [Bool.and_eq_true, beq_iff_eq, decide_eq_true_eq, Bool.not_eq_true'] at h1
  obtain ⟨⟨⟨⟨⟨a, b⟩, c⟩, d⟩, e⟩, f⟩ := h1
  have hx : (readS (saving h) (sregOf 6)).toNat = pad := by
    show (h.x[6]).toNat = pad
    rw [b]; decide +kernel
  refine ⟨a, ?_, ?_, no_copies _ rfl (by rw [saving_core]; decide +kernel) (by rw [saving_core]; decide +kernel), fun x => absurd d x, e, f, ?_⟩
  · intro r hr
    obtain rfl : r = 6 := by simpa [sregOf, vf] using hr
    exact c
  · show (readS (saving h) (sregOf 6)).toNat % 256 = 0; rw [hx]; decide +kernel
  · show Scratch (saving h) (readS (saving h) (sregOf 6)).toNat 0x31800
    rw [hx]; exact area_range _ (by rw [saving_core]) (by rw [saving_core]; decide +kernel)

/-- A hart with one dirty vector register, a matrix and a mask. -/
def filled : Hart :=
  let h := running [(6, pad)]
  { h with v := h.v.set 1 0x77, vdirty := 2, marks := h.marks.set 1 8, g := h.g.set 2 0x55, m := h.m.set 1 3, vstart := 7 }

/-- A hart whose queue stands frozen with an entry in it. -/
def oneFrozen : Hart :=
  { running [(6, pad)] with queue := [waitingLoad], frozen := true, qhead := 31, headConf := conf 6 0 4 0 }

theorem test_context_premise : AreaReady (saving filled) (vf 0 6 0 0 true 0 false 0) ∧ filled.queue = [] ∧ filled.frozen = false ∧
    filled.conf.lanes ≤ 32 ∧ groupsBefore filled 64 = 1 ∧ savedGroups filled 1 = 1 ∧ (userReady []).h.status.getLsbD 0 = false ∧
    AreaReady (saving oneFrozen) (vf 0 6 0 0 true 0 false 0) ∧ queueBusy oneFrozen = false ∧ oneFrozen.queue[0]? = some waitingLoad := by
  refine ⟨area_ready _ ?_, ?_, ?_, ?_, ?_, ?_, ?_, area_ready _ ?_, ?_, ?_⟩ <;> decide +kernel

theorem test_queue_holds : QueueHolds oneFrozen := by
  refine ⟨by decide +kernel, by decide +kernel, fun e h => ?_, by decide +kernel, by decide +kernel, by decide +kernel⟩
  obtain rfl : e = waitingLoad := by simpa [oneFrozen] using h
  exact ⟨by decide +kernel, by decide +kernel⟩

-- what VSAVE writes of it, block by block (R217)
theorem test_save_blocks : bitsGet (saveHeader filled) (8 * 0x18) 64 = 7 ∧ bitsGet (saveHeader filled) (8 * 0x20) 64 = 2 ∧
    bitsGet (saveHeader filled) (8 * 0x40) 64 = 32 ∧ bitsGet (saveHeader filled) (8 * 0x84) 32 = 8 ∧
    bitsGet (saveLanes filled) (8 * 144 * 2) 1152 = 0x55 ∧ bitsGet (saveLanes filled) 0 (8 * 144 * 2) = 0 ∧ saveVectors filled = [0x77] := by
  decide +kernel

/-- As `ready`, with an area whose lane count is 32 and whose queue image is empty. -/
def savedArea : State := { ready [(6, pad)] with mem := [(sramBase 0 + 0x1050E, 32), (sramBase 0 + 0x10640, 32)] }

theorem test_restore_premise : memRead savedArea.mem (sramBase 0 + 0x10640) 8 = lanesOf savedArea savedArea.cur ∧
    lanesOf savedArea savedArea.cur ≤ 32 ∧ memRead savedArea.mem (sramBase 0 + 0x10620) 8 = 0 ∧
    (readImage (slotCap savedArea savedArea.cur) (memRead savedArea.mem (sramBase 0 + 0x10200) 1024)).isSome := by
  decide +kernel

theorem test_vqsave : goes (exec (.vqsave (vf 0 6 0 0 true 0 false 0)) (saving oneFrozen)) (fun t =>
      memRead t.mem (sramBase 0 + 0x10200) 4 == 1 && memRead t.mem (sramBase 0 + 0x10204) 4 == 31 &&
      memRead t.mem (sramBase 0 + 0x10208) 8 == (parcelsOf (.vld 0 (vf 1 0 0 0 true 0 false 0))).toNat && t.h.queue == [] && !t.h.frozen &&
      goes (exec (.vqrest (vf 0 6 0 0 true 0 false 0)) { saving (running [(6, pad)]) with mem := t.mem }) (fun u =>
        decide (u.h.queue = [waitingLoad]) && u.h.qhead == 31 && decide (u.h.headConf = conf 6 0 4 0) && u.h.frozen)) = true ∧
    goes (exec (.vsave (vf 0 6 0 0 true 0 false 0)) (saving oneFrozen)) (fun t => t.h.trapcause == 0x04 && t.mem == []) = true ∧
    goes (exec (.vqrest (vf 0 6 0 0 true 0 false 0)) (saving oneFrozen)) (fun t => t.h.trapcause == 0x04 && t.h.queue.length == 1) = true ∧
    goes (exec (.vqsave (vf 0 6 0 0 true 0 false 0)) (userReady [])) (fun t => t.h.trapcause == 0x05) = true := by
  decide +kernel

-- VSAVE while entries run: at once at a boundary, and later inside a part (log 59)
theorem test_context_waits : let busy : Hart := { filled with queue := [waitingLoad], qhead := 31 }
    let inside : Hart := { busy with pass := { mid := true } }
    atBoundary (saving busy) 0 = true ∧ busy.pass = {} ∧ busy.memberPass = [] ∧
    goes (exec (.vsave (vf 0 6 0 0 true 0 false 0)) (saving busy)) (fun t => t.h.trapcause == 0x04 && t.h.queue.length == 1) = true ∧
    atBoundary (saving inside) 0 = false ∧
    goes (exec (.vrest (vf 0 6 0 0 true 0 false 0)) (saving inside)) (fun t => t.h.pc == 0x1000 && t.h.stalled && t.h.queue.length == 1) = true := by
  decide +kernel

/-- At 0x2000 a header of two slots, VADD v3, v1, v2 for unit 0 and VSUB v4, v1, v2 for unit 1. -/
def convoyCode : State :=
  let s := vec (mapped []) (conf 6 0 4 0) [(1, 7), (2, 5)]
  { s with
    h := { s.h with pc := 0x2000 }
    mem := memWrite [] 0x3000 20 (0xFFFF100B + (9 + 3 * 2 ^ 8 + 2 ^ 14 + 2 * 2 ^ 20) * 2 ^ 32 +
      (9 + 4 * 2 ^ 8 + 2 ^ 14 + 2 * 2 ^ 20 + 2 ^ 38) * 2 ^ 96) }

theorem test_convoy_premise : (match checkMembers (.convoyHeader 15 15 15 15 1 0 2) 0x2000 [0, 1] 0x2004 convoyCode with
    | (t, gs, .ok l) => gs == [] && decide (l = [.vadd (dab 3 1 2), .vsub (dab 4 1 2)]) &&
        decide (t.h = { convoyCode.h with perf := t.h.perf })
    | _ => false) = true := by
  decide +kernel

theorem test_convoy : goes (exec (.convoyHeader 15 15 15 15 1 0 2) convoyCode) (fun t =>
    vreg t.h 3 == 12 && vreg t.h 4 == 2 && t.h.pc == 0x2014 && t.h.queue == []) = true := by
  decide +kernel

-- behind an entry captured under more lanes the convoy waits (R18)
theorem test_convoy_behind : let s : State := { convoyCode with h := { convoyCode.h with queue := [waitingLoad], headConf := { convoyCode.h.conf with lanes := 64 } } }
    tailConf s.h ≠ s.h.conf ∧ goes (exec (.convoyHeader 15 15 15 15 1 0 2) s) (fun t => t.h.queue.length == 1 && t.h.pc == 0x2000 && t.h.stalled) = true := by
  decide +kernel

theorem test_convoy_header_illegal : goes (exec (.convoyHeader 15 15 15 15 15 1 1) (ready [])) (fun t => t.h.trapcause == 0x02 && t.h.epc == 0x1000) = true ∧
    goes (exec (.convoyHeader 15 15 15 15 9 1 2) (ready [])) (fun t => t.h.trapcause == 0x02) = true := by
  decide +kernel
/-! ### Steps of the scheduler and of harts -/

/-- The outcome is exactly this next state. -/
def same (r : Result) (t : State) : Bool :=
  match r with
  | .next u => decide (u = t)
  | _ => false

/-- The outcome agrees with a state in what these steps may change, registers apart. -/
def alike (r : Result) (t : State) : Bool :=
  match r with
  | .next u => decide (u.mem = t.mem ∧ u.cur = t.cur ∧ u.h.pc = t.h.pc ∧ u.h.run = t.h.run ∧ u.h.ipMark = t.h.ipMark ∧
      u.ipRunning = t.ipRunning ∧ u.net = t.net ∧ u.tickets = t.tickets ∧ u.regionTable = t.regionTable ∧
      (u.regions.map fun p => (p.1, p.2.held, p.2.harts.map fun l => l.place)) = (t.regions.map fun p => (p.1, p.2.held, p.2.harts.map fun l => l.place)) ∧
      (u.cores.map fun p => (p.1, p.2.region, p.2.pts)) = (t.cores.map fun p => (p.1, p.2.region, p.2.pts)) ∧
      (u.others.map fun p => (p.1, p.2.pc, p.2.run)) = (t.others.map fun p => (p.1, p.2.pc, p.2.run)))
  | _ => false

/-- The step of another agent with operands l at state s. -/
def at1 (s : State) (l : List Nat) : State := { s with args := l }

/-- Hart 1 (of core 0) as given; hart 0 has the turn. -/
def other (h : Hart) : State := { ready [] with others := [(1, h)] }

theorem test_read_back : let s := at1 (other { running [] with readback := [(31, 7), (2, 8)] }) [1]
    (getHart s 1).readback = [(31, 7), (2, 8)] ∧
    goes (exec .readBackDelivery s) (fun t => decide (getHart t 1 = { running [] with x := (running []).x.set 31 7, readback := [(2, 8)] }) &&
      decide (getHart t 0 = s.h)) = true := by
  decide +kernel

-- a value for s0 is delivered to no register (R335)
theorem test_read_back_zero : let s := at1 (other { running [] with readback := [(0, 7), (2, 8)] }) [1]
    (getHart s 1).readback = [(0, 7), (2, 8)] ∧
    goes (exec .readBackDelivery s) (fun t => decide (getHart t 1 = { running [] with readback := [(2, 8)] })) = true := by
  decide +kernel

theorem test_interrupt : let h : Hart := { running [] with status := 0x43, irqs := [(0x20, 5), (0x22, 6)] }
    let s := at1 (other h) [1]
    ieBit h = true ∧ h.preempt = false ∧ h.wfaWait = false ∧ atBoundary s 1 = true ∧
    same (exec .takeInterrupt s) (asHart 1 (fun u => takeTrap true 0x20 5 h.pc (headSlot h) { u with h := { h with irqs := [(0x22, 6)] } }) s) = true ∧
    ieBit (running []) = false ∧ same (exec .takeInterrupt (at1 (ready []) [0])) (at1 (ready []) [0]) = true := by
  decide +kernel

-- a trap of class 4 that waits for the boundary comes first (R368, R373)
theorem test_interrupt_waits : let h : Hart := { running [] with status := 0x43, irqs := [(0x22, 6)], arrayTrap := some 9 }
    let s := at1 (other h) [1]
    atBoundary s 1 = true ∧ goes (exec .takeInterrupt s) (fun t => (getHart t 1).trapcause == 0x20 && (getHart t 1).trapval == 9 &&
      (getHart t 1).irqs == [(0x22, 6)] && (getHart t 1).arrayTrap == none) = true := by
  decide +kernel

theorem test_pre_emption : let h : Hart := { running [] with status := 0x40, preempt := true, saveBlock := 0x7000 }
    let s := at1 (other h) [1]
    acceptsStop h = true ∧ h.wfaWait = false ∧ atBoundary s 1 = true ∧
    same (exec .schedulerEntry s) (afterStop 1 (asHart 1 schedulerEntry s)) = true ∧
    goes (exec .schedulerEntry s) (fun t => (getHart t 1).trapval == 0x7000 && (getHart t 1).trapcause == 0x8000000000000011#64) = true ∧
    acceptsStop (running []) = false := by
  decide +kernel

-- a trap of class 4 at the boundary of a pre-emption comes first (R368)
theorem test_pre_emption_waits : let h : Hart := { running [] with status := 0x40, preempt := true, saveBlock := 0x7000, arrayTrap := some 9 }
    let s := at1 (other h) [1]
    acceptsStop h = true ∧ h.wfaWait = false ∧ mayStop s 1 = true ∧ same (exec .schedulerEntry s) (asHart 1 (takeArrayTrap 9) s) = true ∧
    goes (exec .schedulerEntry s) (fun t => (getHart t 1).trapcause == 0x20 && (getHart t 1).preempt) = true := by
  decide +kernel

/-- Hart 1 waits in WAITC for a region at 0x8000; `parked` others of the region are parked; the timer reads t. -/
def waiting (parked t : Nat) : State :=
  let s := at1 (other { running [] with status := 0x40, stalled := true, waitT0 := some 0, logical := some (0x8000, 0), waitOn := some (4, 0, 9) }) [1]
  setDie 0 { getDie s 0 with timer := t }
    { s with regions := [(0x8000, { harts := { place := .placed 1 } :: List.replicate parked { place := .parked 0 } })] }

-- 0x100000 cycles at nine cycles in five nanoseconds: 582543 ns
theorem test_park : parkedCount (getRegion (waiting 63 582543) 0x8000) = 63 ∧ parkedCount (getRegion (waiting 64 582543) 0x8000) = 64 ∧
    (getHart (waiting 63 0) 1).waityield.toNat * 5 ≤ 582543 * 9 ∧ ¬ (getHart (waiting 63 0) 1).waityield.toNat * 5 ≤ 582542 * 9 ∧
    (let u := saveHart 1 (.parked 582543) (waiting 63 582543)
     same (exec .park (waiting 63 582543)) (updateRegion 0x8000 (getRegion u 0x8000) u) = true) ∧
    same (exec .park (waiting 64 582543)) (raiseIrq (supervisorHart (waiting 64 582543) 0) 0x22 0x8000
      (setRegion 0x8000 { getRegion (waiting 64 582543) 0x8000 with cause := 0x22 } (waiting 64 582543))) = true := by
  decide +kernel

/-- Core 0 of a region with a hart parked on a ticket count, and one that waits. -/
def resuming (tickets : Nat) : State :=
  let s := at1 { ready [] with h := { running [] with run := .idle } } [0]
  setCore 0 { getCore s 0 with region := some 0x8000 } { s with
    tickets := tickets
    regions := [(0x8000, { held := [0], harts := [{ place := .parked 3, ctx := some { running [] with waitOn := some (4, 0, 9) } }, { place := .waiting }] })] }

theorem test_resume : freeSlot (resuming 9) 0 = some 0 ∧ parkedNext (resuming 9) 0x8000 0 = some 0 ∧
    parkedNext (resuming 8) 0x8000 0 = none ∧ nextWaiting (resuming 8) 0x8000 0 = some 1 ∧
    (let u := placeHart 0x8000 0 0 (resuming 9)
     alike (exec .parkedResume (resuming 9)) (updateRegion 0x8000 (getRegion u 0x8000) u) = true) ∧
    alike (exec .parkedResume (resuming 8)) (placeHart 0x8000 1 0 (resuming 8)) = true := by
  decide +kernel

-- a hart that lost its lanes comes before one that was parked (R12, log 62)
theorem test_resume_moved : let s := resuming 9
    let u := setRegion 0x8000 (setLogical 1 { getLogical (getRegion s 0x8000) 1 with moved := true } (getRegion s 0x8000)) s
    movedNext u 0x8000 0 = some 1 ∧ movedNext s 0x8000 0 = none ∧ parkedNext u 0x8000 0 = some 0 ∧
    alike (exec .parkedResume u) (placeHart 0x8000 1 0 u) = true := by
  decide +kernel

/-- A WAITC of the ticket count stands at the PC, and its limit has passed. -/
def expiring : State :=
  let s := mapped [(2, 9)]
  setDie 0 { getDie s 0 with timer := 100 } { s with
    args := [0]
    h := { s.h with pc := 0x2000, waitT0 := some 0, waitlim := 180 }
    mem := memWrite [] 0x3000 4 0b0001000001_00010_00001_00011_110001_0 }

theorem test_wait_expires : waitOver expiring 0 = true ∧
    (match runAcc (fetchInstr 0x2000) expiring with
     | (.ok (_, some (.waitc 4 3 1 2), []), u) => decide (u.h = { expiring.h with perf := u.h.perf }) && decide (u.cur = 0) &&
         decide (u.dies = expiring.dies) && !indexIllegal u 4 0 && alike (exec .waitlimExpiry expiring) (advance (writeS 3 0 u))
     | _ => false) = true := by
  decide +kernel

/-- Hart 0 stands in the line of bank 95. -/
def bankWaiter (n : Nat) (q : List Entry) : State :=
  let s := fifoState [] [5] [] 0
  setCore 0 { getCore s 0 with waiters := [(190, [n])] } { s with args := [n], h := { s.h with queue := q } }

theorem test_bank_wake : waitsAtBank (bankWaiter 0 [waitingLoad]) 0 = true ∧ queueBusy (bankWaiter 0 [waitingLoad]).h = true ∧
    alike (exec .fifoBankWake (bankWaiter 0 [waitingLoad])) (switchTo 0 (runHead (bankWaiter 0 [waitingLoad]))) = true ∧
    waitsAtBank (bankWaiter 4608 []) 4608 = true ∧ alike (exec .fifoBankWake (bankWaiter 4608 [])) (copyStep 0 0 (bankWaiter 4608 [])) = true ∧
    waitsAtBank (bankWaiter 0 []) 1 = false := by
  decide +kernel

-- two invalidations of hart 1 and one of hart 9, of which core 3 has acknowledged none
theorem test_acknowledge : let inv (n first : Nat) (l : List Nat) : TlbInv := { hart := n, asid := 0, first := first, count := 1, waiting := l }
    let s : State := { at1 (ready []) [1, 3] with tlbInvs := [inv 1 2 [3, 5], inv 1 9 [3], inv 9 4 [3]] }
    coreInFlight s 3 = false ∧ invsOf s 1 = [inv 1 2 [3, 5], inv 1 9 [3]] ∧ copiesOf s 3 = [] ∧ (getCore s 3).mtb = [] ∧
    goes (exec .tlbinvAcknowledge s) (fun t => t.tlbInvs == [inv 1 2 [5], inv 9 4 [3]]) = true := by
  decide +kernel

/-- Core 3 has two translations and two lines, of which page 2 is invalidated; its line of page 2 is dirty. -/
def acknowledging : State :=
  let s : State := { at1 (ready []) [1, 3] with tlbInvs := [invalidation 1 [3]] }
  setCore 3 { getCore s 3 with mtb := [pageEntry 2 3, pageEntry 4 5] } { s with
    l1 := [(copyKey 3 96, { st := .w, line := { data := 0xAB, dirty := 1 }, vtag := 1, perms := 7 }), (copyKey 3 160, { st := .s, vtag := 2, perms := 7 })]
    l2 := [(copyKey 0 96, { st := .m, holder := .w ⟨3, 0, 144⟩, line := { data := 0xFF00 } })] }

-- the entry and the copy of the page go, the dirty byte to the slice first; the others stay (R392)
theorem test_acknowledge_drops : let s := acknowledging
    coreInFlight s 3 = false ∧ coreOfLogical s 0 3 = some 3 ∧ (getCore s 3).logical = 3 ∧ copyPage (getCopy s 3 96) = 2 ∧
    (∀ p ∈ s.l1, p.1 / 2 ^ 44 = 3 → holdsPartial p.2 = false) ∧
    goes (exec .tlbinvAcknowledge s) (fun t => t.tlbInvs == [] && (getCore t 3).mtb == [pageEntry 4 5] && (getCopy t 3 96).st == .i &&
      (getLine t 0 96).line.data == 0xFFAB && getCopy t 3 160 == getCopy s 3 160 && t.mem == s.mem) = true ∧
    (let busy : State := { s with h := { running [] with lastUse := [96] }, cur := 24 }
     coreInFlight busy 3 = true ∧ same (exec .tlbinvAcknowledge busy) busy = true) := by
  decide +kernel

/-- A region waits for a core. -/
def waitingRegion (l : List Nat) : State :=
  queued [0x8000] { at1 (ready []) l with regions := [(0x8000, { harts := [{ place := .waiting }], banks := 40, pmode := 1 })] }

theorem test_bind : (getCore (waitingRegion []) 1).taken = false ∧ bindReady (waitingRegion [1, 0x8000]) 1 0x8000 = true ∧
    alike (exec .regionBind (waitingRegion [1, 0x8000])) (bindCore 1 0x8000 (waitingRegion [1, 0x8000])) = true ∧
    goes (exec .regionBind (waitingRegion [1, 0x8000])) (fun t => (getHart t 8).run == .running && (getCore t 1).region == some 0x8000 &&
      (getRegion t 0x8000).held == [1] && (getCore t 1).budget == 40 && (getCore t 1).pmode == 1 &&
      (getCore t 1).banks.getD 7 .fifo == .cache && (getCore t 1).banks.getD 8 .fifo == .scratch) = true := by
  decide +kernel

theorem test_budget : let r (used : Nat) : Region := { budget := 5, used := used, harts := [{ place := .waiting }] }
    let s (used : Nat) : State := { at1 (ready []) [0x8000] with regions := [(0x8000, r used)] }
    same (exec .budgetStop (s 4)) (s 4) = true ∧
    goes (exec .budgetStop (s 5)) (fun t => (getRegion t 0x8000).final == 4 && (getRegion t 0x8000).state == 5 &&
      (getLogical (getRegion t 0x8000) 0).place == .free) = true := by
  decide +kernel

theorem test_iteration : let s : State := { at1 (inRegion 3 2) [0x8000, 0] with regions := [(0x8000, { record := some (nest 3), nextIter := 2, harts := [{ place := .free }] })] }
    nextIteration (getRegion s 0x8000) = some 2 ∧ (getLogical (getRegion s 0x8000) 0).place = .free ∧
    goes (exec .iterationDispatch s) (fun t => (getRegion t 0x8000).nextIter == 3 && (getLogical (getRegion t 0x8000) 0).iter == 2) = true := by
  decide +kernel

theorem test_region_completes : let s : State := { at1 (ready []) [0x8000] with regions := [(0x8000, { state := 5, final := 2, harts := [{ place := .free }] })] }
    parkingEnds s 0x8000 = false ∧ regionBlocked s 0x8000 = false ∧ same (exec .regionComplete s) (completeRegion 0x8000 s) = true ∧
    goes (exec .regionComplete s) (fun t => (getRegion t 0x8000).state == 2) = true := by
  decide +kernel
def heldCore (c : Nat) : Core := { logical := c % 72, region := some 0x8000, boundAt := if c = 1 then 0 else 1 }

/-- Every core held by a region of priority 0, and one of priority 1 waits. -/
def allHeld : State := queued [0x9000]
  { at1 (ready []) [1] with
    cores := (List.range' 0 576).map fun c => (c, heldCore c)
    regions := [(0x8000, { harts := [] }), (0x9000, { priority := 1, harts := [{ place := .waiting }] })] }

/-- A table with one entry for each number from k on. -/
theorem tget_range {α : Type} (f : Nat → α) (n k j : Nat) (h : j < n) :
    tget ((List.range' k n).map fun c => (c, f c)) (k + j) = some (f (k + j)) := by
  induction n generalizing k j with
  | zero => omega
  | succ n ih =>
    simp only [List.range'_succ, List.map_cons, tget]
    by_cases hj : j = 0
    · simp [hj]
    · have := ih (k + 1) (j - 1) (by omega)
      simp only [show k + 1 + (j - 1) = k + j by omega] at this
      rw [if_neg (by omega), if_neg (by omega), this]

theorem test_no_free_core : (upTo 576).any (coreFree allHeld) = false := by
  rw [List.any_eq_false]
  intro c hc
  have hc : c < 576 := by simpa [upTo] using hc
  have h := tget_range heldCore 576 0 c hc
  have hr : (getCore allHeld c).region = some 0x8000 := by
    unfold getCore tgetD
    rw [show allHeld.cores = (List.range' 0 576).map fun c => (c, heldCore c) from rfl, ← Nat.zero_add c, h]
    rfl
  simp [coreFree, hr]

theorem test_takeover_premise :
    takerOf allHeld 1 = some 0x9000 ∧ takerOf allHeld 2 = none ∧
    goes (exec .coreTakeover allHeld) (fun t => (getCore t 1).taken && (getCore t 1).taker == some 0x9000) = true := by
  have h (c : Nat) : takerOf allHeld c = firstOf allHeld ((allHeld.regions.filter fun p =>
      needsCore allHeld p.1 && !coreComing allHeld p.1 && coreToTake allHeld p.1 == some c).map fun p => p.1) := by
    unfold takerOf; rw [test_no_free_core]; exact if_neg Bool.false_ne_true
  have h1 : takerOf allHeld 1 = some 0x9000 := by rw [h]; decide +kernel
  refine ⟨h1, by rw [h]; decide +kernel, ?_⟩
  have h2 : arg allHeld 0 = 1 := by decide +kernel
  have h3 : exec .coreTakeover allHeld = execCoreTakeover allHeld := by simp only [exec]
  rw [h3, execCoreTakeover, h2, h1]
  decide +kernel

-- a hart of the core that is taken is asked to stop
theorem test_takeover_asks : let s := other (running [])
    (getHart (takeCore 0 0x9000 s) 1).preempt = true ∧ (getHart (takeCore 1 0x9000 s) 1).preempt = false := by
  decide +kernel

/-! ### Steps of coherence -/

/-- A slice line of die 0 for unit 96 and an L1 copy of core 0, with messages in flight. -/
def coh (l : L2Line) (k : L1Copy) (net : List Msg) (args : List Nat) : State :=
  setLine 0 96 l (setCopy 0 96 k { at1 (ready []) args with net := net })

theorem test_fill : let s := coh { st := .s, line := { data := 5 }, wts := 3, rts := 4 } {} [] [0, 96]
    (tget s.l1 (copyKey 0 96)).isSome ∧ (getCopy s 0 96).st ≠ .w ∧ (getLine s 0 96).holder = .none ∧ (getLine s 0 96).queue = [] ∧
    canRead .s = true ∧ NoRollover s 0 96 ∧
    goes (exec .fillRequest s) (fun t => (getCopy t 0 96).st == .s && (getCopy t 0 96).rts == 19 && (getCopy t 0 96).wts == 3 &&
      (getCopy t 0 96).line == { data := 5 } && (getLine t 0 96).rts == 19 && (getCopy t 0 96).window == 65536 && t.mem == []) = true := by
  unfold NoRollover; decide +kernel

-- the greatest timestamp that NoRollover admits
theorem test_no_rollover_edge : NoRollover (coh { st := .s, wts := 2 ^ 47 - 16, rts := 2 ^ 47 - 16 } {} [] [0, 96]) 0 96 ∧
    ¬ NoRollover (coh { st := .s, wts := 2 ^ 47 - 15 } {} [] [0, 96]) 0 96 ∧
    goes (exec .fillRequest (coh { st := .s, wts := 2 ^ 47 - 16, rts := 2 ^ 47 - 16 } {} [] [0, 96])) (fun t => (getCopy t 0 96).rts == 2 ^ 47) = true := by
  unfold NoRollover; decide +kernel

theorem test_getw : let s := coh { st := .m, line := { data := 5, dirty := 1 }, wts := 3, rts := 4 } { st := .s } [] [0, 96]
    NoRollover s 0 96 ∧
    goes (exec .getw s) (fun t => (getCopy t 0 96).st == .w && decide ((getLine t 0 96).holder = .w ⟨0, 0, 65536⟩) && (getCopy t 0 96).line == { data := 5 } &&
      (getCopy t 0 96).window == 65536) = true := by
  unfold NoRollover; decide +kernel

theorem test_recall : let s := coh { st := .m, holder := .w ⟨0, 0, 144⟩ } { st := .w, line := { data := 0xAB, dirty := 1 }, wts := 9 } [] [0, 96]
    coreOfLogical s 0 0 = some 0 ∧ (getCopy s 0 96).st = .w ∧
    goes (exec .recall s) (fun t => (getCopy t 0 96).st == .s && (getCopy t 0 96).line.dirty == 0 && decide ((getLine t 0 96).holder = .none) &&
      (getLine t 0 96).wts == 9 && decide ((getLine t 0 96).line = absorb (luSize 96) {} { data := 0xAB, dirty := 1 })) = true := by
  decide +kernel

theorem test_die_getu : let s (tag : Nat) : State := coh {} {} [] [0, 96, tag]
    (tget (s 1).l1 (copyKey 0 96)).isSome ∧ (getLine (s 1) 0 96).queue = [] ∧ isHostLu 96 = false ∧
    same (exec .dieGetu (s 1)) (keepPlace 0 96 (getUpdate 0 96 1) (s 1)).1 = true ∧
    same (exec .dieGetu (s 11)) (keepPlace 0 96 (getUpdate 0 96 11) (s 11)).1 = true ∧
    (let s := coh {} { way2 := some 9 } [] [0, 96, 4]
     (getCopy s 0 96).way2.isSome ∧ same (exec .dieGetu s) (keepPlace 0 96 (getUpdate 0 96 4) s).1 = true) := by
  decide +kernel

theorem test_merge_and_evict : let s := coh { st := .u, tag := 1, holder := .u [⟨0, 0, 144⟩] } { st := .u, tag := 1, upd := { data := 5, touched := 1 } } [] [0, 96]
    (getCopy s 0 96).st = .u ∧ alike (exec .mergeRequest s) (mergeDie 0 96 s) = true ∧ alike (exec .uCopyEviction s) (evictCopy 0 96 s) = true := by
  decide +kernel

/-- A W copy whose lease of 144 cycles was granted at 0; the timer reads t. -/
def leased (t : Nat) : State :=
  let s := coh { st := .m, holder := .w ⟨0, 0, 144⟩ } { st := .w, window := 144 } [] [0, 96]
  setDie 0 { getDie s 0 with timer := t } s

-- 40 ns are 72 cycles, half the window; 70 ns 126, seven eighths; 80 ns the whole
theorem test_leases : leaseCycles 0 40 = 72 ∧ leaseCycles 0 70 = 126 ∧ leaseCycles 0 80 = 144 ∧
    same (exec .leaseRenewal (leased 40)) (renewLease 0 96 (leased 40)) = true ∧ same (exec .leaseRenewal (leased 39)) (leased 39) = true ∧
    same (exec .leaseHolderTimeout (leased 70)) (dropCopy 0 96 (leased 70)) = true ∧ same (exec .leaseHolderTimeout (leased 69)) (leased 69) = true ∧
    same (exec .leaseExpiry (leased 80)) (expireHolder 0 96 0 (leased 80)) = true ∧ same (exec .leaseExpiry (leased 79)) (leased 79) = true := by
  decide +kernel

/-- A fill of core 0, whose timestamp is n, waits at the slice. -/
def filling (n : Nat) : State :=
  let s := coh { st := .s, queue := [0] } { st := .is } [] [0, 96]
  setCore 0 { getCore s 0 with pts := n } s

-- the fill would take pts + 16
theorem test_rollover : let s := filling
    canRead (getLine (s 0) 0 96).st = true ∧ (getCopy (s 0) 0 96).ro = false ∧ stampDue (s (2 ^ 47 - 15)) 0 = true ∧ same (exec .timestampRollover (s (2 ^ 47 - 15))) (rollover 0 (s (2 ^ 47 - 15))) = true ∧
    goes (exec .timestampRollover (s (2 ^ 47 - 15))) (fun t => (getCore t 0).pts == 0) = true ∧
    stampDue (s (2 ^ 47 - 16)) 0 = false ∧ same (exec .timestampRollover (s (2 ^ 47 - 16))) (s (2 ^ 47 - 16)) = true := by
  decide +kernel

/-- One message about unit 96 between die 1 and its home or another die. -/
def msg (k : MsgKind) (src dst : Agent) : Msg := { kind := k, lu := 96, src := src, dst := dst }

/-- Die 1 holds the line, and the message is first in flight. -/
def arriving (l : L2Line) (m : Msg) : State := setLine 1 96 l { at1 (ready []) [1, 96] with net := [m] }

/-- The state with nothing in flight. -/
def drained (s : State) : State := { s with net := [] }

theorem test_requests_arrive : ∀ x ∈ ([(.gets, .getS), (.getm, .getM), (.upg, .upg), (.putm, .putM), (.puto, .putO), (.pute, .putE)] : List (Instr × MsgKind)),
    FirstMessage (arriving {} (msg x.2 (.die 1) .home)) (msg x.2 (.die 1) .home) 96 [] ∧
    same (exec x.1 (arriving {} (msg x.2 (.die 1) .home))) (arriveHome (msg x.2 (.die 1) .home) (drained (arriving {} (msg x.2 (.die 1) .home)))) = true := by
  unfold FirstMessage; decide +kernel

theorem test_getu_arrives : let m : Msg := { msg .getU (.die 1) .home with tag := 3 }
    let s : State := { arriving {} m with args := [1, 96, 3] }
    same (exec .getu s) (arriveHome m (drained s)) = true := by
  decide +kernel

-- a PutU that crosses the home's MrgReq answers it
theorem test_putu_arrives : let m : Msg := { msg .putU (.die 1) .home with upd := { data := 5, touched := 1 } }
    let s (e : DirEntry) : State := setDir 96 e (arriving {} m)
    let asked : DirEntry := { st := .u, tag := 1, sharers := [1, 2], awaited := 2 }
    mergeAsks (s asked) 96 1 = true ∧ mergeAsks (s {}) 96 1 = false ∧
    same (exec .putu (s asked)) (mergeArrived m (drained (s asked))) = true ∧
    same (exec .putu (s {})) (arriveHome m (drained (s {}))) = true := by
  decide +kernel

theorem test_answers_arrive : let a := arriving {} (msg .ackHome (.die 1) .home)
    let u : Msg := { msg .mrgData (.die 1) .home with upd := { data := 5, touched := 1 } }
    let b := arriving {} u
    same (exec .ackToHome a) (serveWaiting 64 96 (setDir 96 { getDir a 96 with busy := false } (drained a))) = true ∧
    same (exec .mrgdata b) (arrived 96 (setDir 96 { getDir b 96 with merged := (getDir b 96).merged ++ [(1, u.upd)] } (drained b))) = true := by
  decide +kernel

theorem test_forwards : ∀ st ∈ [DieSt.e, .m, .o],
    let l : L2Line := { st := st, line := { data := 7, dirty := 1 } }
    let g : Msg := { msg .fwdGetS .home (.die 1) with req := .die 2, count := 1 }
    let h : Msg := { msg .fwdGetM .home (.die 1) with req := .die 2, count := 1 }
    goes (exec .fwdgets (arriving l g)) (fun t => (getLine t 1 96).st == .o && t.net == [{ msg .data (.die 1) (.die 2) with req := .die 2, count := 1, line := { data := 7 } }]) = true ∧
    goes (exec .fwdgetm (arriving l h)) (fun t => (getLine t 1 96).st == .i && t.net == [{ msg .data (.die 1) (.die 2) with req := .die 2, excl := true, count := 1, line := { data := 7, dirty := 1 } }]) = true := by
  decide +kernel

-- an EPUSH at the PC that stands in the line of bank 95 goes on once there is room (R347)
theorem test_push_goes_on : let s := mapped [(1, 95), (2, 9)]
    let s : State := setCore 0 { getCore s 0 with banks := (getCore (fifoState [] [] [] 0) 0).banks, waiters := [(191, [0])] }
      { s with args := [0], h := { s.h with pc := 0x2000 }, mem := memWrite [] 0x3000 4 0b0000000010_00010_00001_00000_110101_0 }
    waitsAtBank s 0 = true ∧ linesAtBanks s 0 (· == 0) = true ∧ goes (fetchDone s fun i t => .next { t with args := if i = .epush 1 2 then [1] else [] }) (fun t => t.args == [1]) = true ∧
    goes (exec .fifoBankWake s) (fun t => tgetD (getCore t 0).fifos 95 [] == [9] && t.h.pc == 0x2004) = true := by
  decide +kernel

theorem test_line_messages :
    mtsOf (arriving { st := .isD } (msg .data .home (.die 1))) 1 (sliceOf 96) < 2 ^ 47 ∧
    goes (exec .inv (arriving { st := .s } { msg (.inv 0) .home (.die 1) with req := .die 2 })) (fun t => (getLine t 1 96).st == .i && t.net == [msg (.invAck false) (.die 1) (.die 2)]) = true ∧
    goes (exec .data (arriving { st := .isD } (msg .data .home (.die 1)))) (fun t => (getLine t 1 96).st == .s && t.net == [msg .ackHome (.die 1) .home]) = true ∧
    goes (exec .data (arriving { st := .isD } { msg .data .home (.die 1) with excl := true })) (fun t => (getLine t 1 96).st == .e) = true ∧
    goes (exec .ackToDie (arriving { st := .oiA } (msg .ackDie .home (.die 1)))) (fun t => (getLine t 1 96).st == .i && t.net == []) = true ∧
    goes (exec .mrgreq (arriving { st := .u, tag := 1, upd := { data := 5, touched := 1 } } (msg .mrgReq .home (.die 1)))) (fun t => (getLine t 1 96).st == .i && t.net.length == 1) = true ∧
    requestInFlight (arriving { st := .u, tag := 1 } (msg .mrgReq .home (.die 1))) 1 96 = none := by
  decide +kernel

-- a RENEW Inv leaves the owner its copy, a DISCARD Inv does not (R304, R306)
theorem test_renew_inv : ∀ st ∈ [DieSt.o, .m],
    let l : L2Line := { st := st, line := { data := 7 } }
    let m (form : Nat) : Msg := { msg (.inv form) .home (.die 1) with req := .home }
    goes (exec .inv (arriving l (m 1))) (fun t => getLine t 1 96 == l && t.net == [msg (.invAck true) (.die 1) .home]) = true ∧
    goes (exec .inv (arriving l (m 2))) (fun t => (getLine t 1 96).st == .i && t.net == [msg (.invAck false) (.die 1) .home]) = true ∧
    goes (exec .inv (arriving { l with st := .e } (m 1))) (fun t => (getLine t 1 96).st == .i && t.net == [msg (.invAck false) (.die 1) .home]) = true := by
  decide +kernel

theorem test_invack : let s := { arriving { st := .imA, acks := 1 } (msg (.invAck false) (.die 2) (.die 1)) with args := [2, 96] }
    goes (exec .invack s) (fun t => (getLine t 1 96).st == .m && (getLine t 1 96).acks == 0 && t.net == [msg .ackHome (.die 1) .home]) = true ∧
    (let s := { arriving { st := .omA, acks := 2 } (msg (.invAck false) (.die 2) (.die 1)) with args := [2, 96] }
     goes (exec .invack s) (fun t => (getLine t 1 96).st == .omA && (getLine t 1 96).acks == 1 && t.net == []) = true) := by
  decide +kernel
/-! ### Steps of the host and of fabric peers -/

/-- The array byte at 0x40 is 7, so that half 1 reads 7; the part has booted. -/
def withHalf (args : List Nat) : State := { at1 (ready []) args with mem := [(0x40, 7)] }

/-- A device half's state at its home. -/
def halfIs (x : HostSt) (s : State) : State := setDir (halfUnit 1) { getDir s (halfUnit 1) with half1 := x } s

theorem test_host_reads : let s := withHalf [1]
    let f (kind : Nat) (write : Bool) : State × Bool := hostFetch (halfUnit 1) write { s with bridge := [{ kind := kind, half := 1, val := 0 }] }
    s.bootPhase = 6 ∧ isDevicePa 64 = true ∧ s.bridge = [] ∧ snoopsInFlight s (halfUnit 1) = false ∧ (f 0 false).2 = true ∧ (f 1 true).2 = true ∧
    goes (exec .hostMemrd s) (fun t => t.hostReply == some (1, 7) && halfOf (getDir t (halfUnit 1)) 1 == .shared && t.bridge == [] &&
      decide (t.hostReply = some (1, halfBytes (f 0 false).1 1)) && decide (t.mem = (f 0 false).1.mem)) = true ∧
    goes (exec .hostOwnershipRequest s) (fun t => t.hostReply == some (1, 7) && halfOf (getDir t (halfUnit 1)) 1 == .owned && t.bridge == [] &&
      decide (t.mem = (f 1 true).1.mem)) = true := by
  decide +kernel

theorem test_host_writes : let s := halfIs .owned (withHalf [1, 5])
    HasRoom s (halfUnit 1) ∧ halfOf (getDir s (halfUnit 1)) 1 = .owned ∧ halfOf (getDir (withHalf [1, 5]) (halfUnit 1)) 1 ≠ .owned ∧
    goes (exec .hostMemwr s) (fun t => halfBytes t 1 == 5 && halfOf (getDir t (halfUnit 1)) 1 == .none && t.bridge == [] && t.mem == s.mem) = true ∧
    same (exec .hostMemwr (withHalf [1, 5])) (withHalf [1, 5]) = true := by
  unfold HasRoom; decide +kernel

theorem test_host_before_boot : let s : State := { withHalf [1] with bootPhase := 5 }
    same (exec .hostMemrd s) (answer 1 0 s) = true ∧ same (exec .hostOwnershipRequest s) (answer 1 0 s) = true ∧
    same (exec .hostMemwr s) (hostErr s) = true ∧
    same (exec .hostBar2Read { s with args := [1, 4] }) (answer 1 0 { s with args := [1, 4] }) = true ∧
    same (exec .hostBar2Write { s with args := [1, 4, 9] }) (hostErr { s with args := [1, 4, 9] }) = true := by
  decide +kernel

-- the HDM window's halves: interleaved, then stack-local from 768 GiB on, none from 1.5 TiB on (R424)
theorem test_hdm_halves : hdmHalf (12 * 2 ^ 30 - 1) = some (12 * 2 ^ 30 - 1) ∧ hdmHalf (12 * 2 ^ 30) = some (2 ^ 34) ∧
    hdmHalf (24 * 2 ^ 30 - 1) = some (28 * 2 ^ 30 - 1) ∧ hdmHalf (24 * 2 ^ 30) = none ∧
    (let s := withHalf [24 * 2 ^ 30, 9]
     same (exec .hostMemrd s) (answer (24 * 2 ^ 30) 0 (hostErr s)) = true ∧ same (exec .hostMemwr s) (hostErr s) = true) ∧
    (let s : State := { at1 (ready []) [12 * 2 ^ 30] with mem := [(2 ^ 40, 7)] }
     goes (exec .hostMemrd s) (fun t => t.hostReply == some (12 * 2 ^ 30, 7) && (getDir t (luOf (2 ^ 40))).half0 == .shared)) = true := by
  decide +kernel

/-- The part holds host half 9 with a right and a dirty copy. -/
def holding (right : HostSt) : State :=
  setDir (hostHalf 9) { hostRight := right, copy := some { data := 77, dirty := 1 } } (at1 (ready []) [9])

theorem test_snoops_nothing : (getDir (at1 (ready []) [9]) (hostHalf 9)).hostRight = .none ∧
    same (exec .hostSnpdata (at1 (ready []) [9])) { at1 (ready []) [9] with hostReply := none } = true ∧
    same (exec .hostSnpinv (at1 (ready []) [9])) { at1 (ready []) [9] with hostReply := none } = true ∧
    same (exec .hostSnpcur (at1 (ready []) [9])) { at1 (ready []) [9] with hostReply := none } = true := by
  decide +kernel

theorem test_snoops : ∀ right ∈ [HostSt.owned, .shared],
    let s := holding right
    let u := (snoopFetch 9 false s).1
    let w := (snoopFetch 9 true s).1
    (snoopFetch 9 false s).2 = true ∧ (snoopFetch 9 true s).2 = true ∧
    goes (exec .hostSnpdata s) (fun t => t.hostReply == some (9, 77) && (getDir t (hostHalf 9)).hostRight == .shared &&
      decide (homeCopy t (hostHalf 9) = { homeCopy u (hostHalf 9) with dirty := 0 }) && decide (t.hostReply = some (9, (homeCopy u (hostHalf 9)).data))) = true ∧
    goes (exec .hostSnpcur s) (fun t => t.hostReply == some (9, 77) && decide (getDir t (hostHalf 9) = getDir u (hostHalf 9)) && decide (t.mem = u.mem)) = true ∧
    goes (exec .hostSnpinv s) (fun t => t.hostReply == some (9, 77) && decide (t.hostReply = some (9, (homeCopy w (hostHalf 9)).data)) &&
      (getDir t (hostHalf 9)).hostRight == .none && (getDir t (hostHalf 9)).copy == none) = true := by
  decide +kernel

theorem test_bar2 : let s : State := { withHalf [0x40, 4] with args := [0x40, 4] }
    let w : State := { s with args := [0x40, 4, 9] }
    let get := collectPieces (.outside .hostBar2Read [0x40, 4]) (linePieces 0x40 4) false s
    let put := collectPieces (.outside .hostBar2Write [0x40, 4, 9]) (linePieces 0x40 4) true w
    s.posted = [] ∧ bar2Address s 0x40 = some 0x40 ∧ inBar2 s 0x40 4 = true ∧ get.2 = true ∧ put.2 = true ∧
    (let u := get.1
     same (exec .hostBar2Read s) (answer 0x40 (homeBytes 0x40 4 u).val (deliverPoison (homeBytes 0x40 4 u).pois none none u)) = true) ∧
    same (exec .hostBar2Write w) (homePut 0x40 4 9 put.1) = true ∧
    hdmAddress (1536 * 2 ^ 30 - 1) = some 0x1BFFFFFFFFF ∧ hdmAddress (1536 * 2 ^ 30) = none := by
  decide +kernel

-- a read whose line the home is busy with waits, and keeps the address that it named (R424)
theorem test_bar2_waits : let s : State := setDir 0 { getDir (ready []) 0 with busy := true } (withHalf [0x40, 4])
    let get := collectPieces (.outside .hostBar2Read [0x40, 4]) (linePieces 0x40 4) false s
    get.2 = false ∧ same (exec .hostBar2Read s) { get.1 with agenda := get.1.agenda ++ [.event .hostBar2Read [0x40, 4, 0x41, 1]] } = true := by
  decide +kernel

-- BAR2 of 64 GiB moved to the end of device memory, and an access that reaches past it (R423)
theorem test_bar2_bounds : let far : State := { withHalf [2 ^ 30, 4] with bar2off := 1536 }
    let w : State := { far with args := [2 ^ 30, 4, 9] }
    let out := withHalf [64 * 2 ^ 30 - 3, 4]
    inBar2 far (2 ^ 30) 4 = true ∧ bar2Address far (2 ^ 30) = none ∧ bar2Address { far with bar2off := 1535 } 0 = some 0x1BFC0000000 ∧
    same (exec .hostBar2Read far) (answer (2 ^ 30) 0 (hostErr far)) = true ∧ same (exec .hostBar2Write w) (hostErr w) = true ∧
    inBar2 out (64 * 2 ^ 30 - 3) 4 = false ∧ inBar2 out (64 * 2 ^ 30 - 4) 4 = true ∧ same (exec .hostBar2Read out) out = true ∧
    same (exec .hostBar2Write { out with args := [64 * 2 ^ 30 - 3, 4, 9] }) { out with args := [64 * 2 ^ 30 - 3, 4, 9] } = true := by
  decide +kernel

/-- A peer's request of an operation on four bytes at 0x40. -/
def peer (op val expected : Nat) : State := { withHalf [] with args := [op, 0x40, 4, val, expected] }

theorem test_peers : isDevicePa 0x40 = true ∧
    (let get := collectPieces (.outside .peerRequest [0x40, 4]) (linePieces 0x40 4) false (peer 0 0 0)
     let u := get.1
     get.2 = true ∧
     same (exec .peerRequest (peer 0 0 0)) (answer 0x40 (homeBytes 0x40 4 u).val (deliverPoison (homeBytes 0x40 4 u).pois none none u)) = true) ∧
    same (exec .peerRequest (peer 1 6 0)) (answer 0x40 0 (homePut 0x40 4 6
      (collectPieces (.outside .peerRequest [0x40, 4, 6]) (linePieces 0x40 4) true (peer 1 6 0)).1)) = true ∧
    (∀ op ∈ [0, 2, 11, 13], let s := peer (op + 2) 6 7
      let get := collectPieces (.outside .peerRequest s.args) [(0x40, 4, 0)] true s
      let u := get.1
      let old := lineBytes (luOf 0x40) (homeCopy u (luOf 0x40)) (0x40 - luBase (luOf 0x40)) 4
      get.2 = true ∧ old.pois = [] ∧ old.val = 7 ∧
      same (exec .peerRequest s) (answer 0x40 old.val (homeWrite (luOf 0x40)
        (combine op 4 old.val 6 7 <<< (8 * (0x40 - luBase (luOf 0x40)))) (maskOf (0x40 - luBase (luOf 0x40)) 4) u)) = true) := by
  decide +kernel

/-- This device's access of a kind to a peer, number 3. -/
def toPeer (kind : Nat) : State := { at1 { ready [] with h := { running [] with remoteWrites := 1 } } [3, 8] with
  remotes := [{ id := 3, hart := 0, kind := kind, addr := 0, bytes := 8 }] }

theorem test_peer_answers :
    goes (exec .peerResponse (toPeer 1)) (fun t => t.h.remoteWrites == 0 && t.remotes == []) = true ∧
    goes (exec .peerResponse (toPeer 0)) (fun t => decide (t = { toPeer 0 with remotes := [{ id := 3, hart := 0, kind := 0, addr := 0, bytes := 8, reply := some 8 }] })) = true := by
  decide +kernel

-- an atomic of two elements, and its answer
theorem test_peer_answers_atomic : let r : Remote := { id := 3, hart := 0, kind := 2, addr := 0, bytes := 8, more := [(8, 1)] }
    let s : State := { at1 { ready [] with h := { running [] with remoteWrites := 3 } } [3, 8] with remotes := [r] }
    goes (exec .peerResponse s) (fun t => t.h.remoteWrites == 1 && t.remotes == [{ r with reply := some 8 }]) = true := by
  decide +kernel

-- the writer has moved to slot 1 of core 0, as logical hart 0 of a region
theorem test_peer_answers_mover : let r : Remote := { id := 3, hart := 0, kind := 1, addr := 0, bytes := 8, owner := some (0x8000, 0) }
    let s : State := { at1 (other { running [] with remoteWrites := 2 }) [3, 8] with
      remotes := [r], regions := [(0x8000, { harts := [{ place := .placed 1 }] })] }
    (getLogical (getRegion s 0x8000) 0).place = .placed 1 ∧
    goes (exec .peerResponse s) (fun t => (getHart t 1).remoteWrites == 1 && t.remotes == []) = true := by
  decide +kernel

theorem test_host_cache_answers : ∀ x ∈ [(0, HostSt.shared), (1, .owned)],
    let s : State := { at1 (ready []) [9, 77] with cxl := [(9, x.1)] }
    (getDir s (hostHalf 9)).waiting = [] ∧ (getDir s (hostHalf 9)).hostRight = .none ∧ (getDir s (hostHalf 9)).copy = none ∧
    HasRoom s (hostHalf 9) ∧
    goes (exec .hostCacheResponse s) (fun t => t.cxl == [] && t.mem == s.mem && (getDir t (hostHalf 9)).hostRight == x.2 &&
      decide ((getDir t (hostHalf 9)).copy = some { data := 77 }) && (getDir t (hostHalf 9)).tenant == 0) = true := by
  unfold HasRoom; decide +kernel

theorem test_back_invalidation : ∀ take ∈ [true, false],
    let s : State := { halfIs .owned (withHalf [1, 5]) with backInv := [(1, take)] }
    (getDir s (halfUnit 1)).waiting = [] ∧ HasRoom s (halfUnit 1) ∧
    goes (exec .backInvalidationResponse s) (fun t => t.backInv == [] && halfOf (getDir t (halfUnit 1)) 1 == (if take then .none else .shared) &&
      t.mem == s.mem && halfBytes t 1 == 5) = true := by
  unfold HasRoom; decide +kernel

/-! ### Steps of the engines -/

theorem test_settle_completes : let s : State := { at1 (ready []) [5, 1] with
      settles := [{ region := 5, num := 1, lines := [] }]
      regionTable := [(5, { asid := 0, base := 0x2000, length := 4096, frames := [3], issue := 1 })] }
    goes (exec .settleComplete s) (fun t => t.settles == [] && t.mem == s.mem &&
      decide (tget t.regionTable 5 = some { asid := 0, base := 0x2000, length := 4096, frames := [3], issue := 1, mark := 1 })) = true := by
  decide +kernel

-- the one dirty byte of the line reaches memory
theorem test_settle_writes : let z : Settle := { region := 5, num := 1, lines := [(96, { data := 0xABCD, dirty := 2 })] }
    let s : State := { at1 (ready []) [5, 1] with
      settles := [z, { region := 5, num := 2, lines := [(97, { data := 7, dirty := 1 })] }]
      regionTable := [(5, { asid := 0, base := 0x2000, length := 4096, frames := [3], issue := 2 })] }
    (z.lines.map (·.1)).Nodup ∧ (∀ w ∈ s.settles.tail, ∀ p ∈ w.lines, p.1 ∉ z.lines.map (·.1)) ∧
    goes (exec .settleComplete s) (fun t => t.mem == linesWritten z.lines s.mem && t.mem == [(0x3001, 0xAB)] && t.settles.length == 1) = true := by
  decide +kernel

/-- An in-place command of hart 0 at the head of its FIFO; the record names region 5 or is not legal. -/
def inPlace (record : Nat) : State := { withRegion [] with
  args := [0, 1], h := { running [] with ipFifo := [{ id := 1, record := record, hart := 0, asid := 0 }] } }

/-- The command in flight, taken and not begun, and begun. -/
def inPlaceTaken (s : State) : State := setHart 0 { getHart s 0 with ipFifo := [] } { s with ipRunning := s.ipRunning ++ s.h.ipFifo }
def inPlaceBegun (s : State) : State :=
  let u := inPlaceTaken s
  { u with ipRunning := u.ipRunning.map fun z => if [z] = s.h.ipFifo then { z with begun := true } else z }

theorem test_in_place_fails : ipEarlier 0 (inPlace 0) = none ∧
    (match ipCheck (inPlaceBegun (inPlace 0)) { id := 1, record := 0, hart := 0, asid := 0, begun := true } with
     | .error a => alike (exec .ipcmdDispatch (inPlace 0)) (ipFail { id := 1, record := 0, hart := 0, asid := 0, begun := true } a (inPlaceBegun (inPlace 0)))
     | .ok _ => false) = true := by
  decide +kernel

/-- The record of a fill (op 6) of no row of region 5, rows of four bytes. -/
def legalInPlace : Nat := 6 + 5 * 2 ^ 32 + 4 * 2 ^ 192

theorem test_in_place_runs : let r := legalInPlace
    (match ipCheck (inPlaceBegun (inPlace r)) { id := 1, record := r, hart := 0, asid := 0, begun := true } with
     | .ok (d, e) => alike (exec .ipcmdDispatch (inPlace r)) (ipPerform { id := 1, record := r, hart := 0, asid := 0, begun := true } d e (inPlaceBegun (inPlace r)))
     | .error _ => false) = true := by
  decide +kernel

/-- A record on region 5: op, format, count, destination, source, row length, alpha. -/
def rowRecord (op fmt count doff soff n alpha : Nat) : Nat :=
  op + fmt * 2 ^ 8 + count * 2 ^ 16 + 5 * 2 ^ 32 + 5 * 2 ^ 48 + doff * 2 ^ 64 + soff * 2 ^ 128 + n * 2 ^ 192 + alpha * 2 ^ 224

/-- Region 5 with the integer rows (1, 2), (3, 4) and (5, 6). -/
def threeRows : State := { withRegion [] with mem := memWrite [] 0x3000 24 (1 + 2 * 2 ^ 32 + 3 * 2 ^ 64 + 4 * 2 ^ 96 + 5 * 2 ^ 128 + 6 * 2 ^ 160) }

/-- The row at an offset after a command, as two elements. -/
def rowAfter (r off : Nat) (s : State) : Option (Nat × Nat) :=
  match ipCheck s { id := 1, record := r, hart := 0, asid := 0 } with
  | .ok (d, e) =>
    let t := ipPerform { id := 1, record := r, hart := 0, asid := 0 } d e s
    if [0, 1].all fun j => elemOf t.mem r d off j == elemAfter s r d e off j % 2 ^ 32 then
      some (elemOf t.mem r d off 0, elemOf t.mem r d off 1) else none
  | .error _ => none

-- SUM of the three rows, ADD and AXPY of the first to the second, ZERO, GATHER-SUM of rows 2 and 0, and a poisoned source
theorem test_in_place_rows : (tget threeRows.regionTable 5).map (fun d => decide (d.frames.Nodup ∧ d.length ≤ 4096 * d.frames.length ∧
      ∀ f ∈ d.frames, isDevicePa (f * 4096) = true)) = some true ∧
    rowAfter (rowRecord 7 6 3 64 0 8 0) 64 threeRows = some (9, 12) ∧ rowAfter (rowRecord 4 6 1 8 0 8 0) 8 threeRows = some (4, 6) ∧
    rowAfter (rowRecord 5 6 1 8 0 8 10) 8 threeRows = some (13, 24) ∧ rowAfter (rowRecord 6 6 3 0 0 8 0) 16 threeRows = some (0, 0) ∧
    rowAfter (rowRecord 1 6 2 64 0 8 0 + 2 * 2 ^ 256) 64 threeRows = some (6, 8) ∧
    rowAfter (rowRecord 7 6 3 64 0 8 0) 64 { threeRows with poison := [0x3000 / 32] } = some (0, 0) := by
  decide +kernel

theorem test_in_place_completes : let s : State := { at1 (ready []) [0, 1] with ipRunning := [{ id := 1, record := 0, hart := 0, asid := 0, begun := true }] }
    goes (exec .ipcmdComplete s) (fun t => decide (getHart t 0 = { s.h with ipMark := 1 }) && decide (t.mem = s.mem) && decide (t.cores = s.cores)) = true := by
  decide +kernel

/-- A copy command of core 0's channel 3 with its record, at chunk k, halted or not. -/
def copying (k : Nat) (halted : Bool) (args : List Nat) : State :=
  let s := { at1 (ready []) args with mem := [(sramBase 0 + 0x20000, 9)] }
  let ch : Channel := { queue := [{ id := 1, record := copyRecord, hart := 0, asid := 0, root := 0, priv := true, chunk := k }], halted := halted }
  setCore 0 { getCore s 0 with channels := (getCore s 0).channels.setIfInBounds 3 ch } s

theorem test_copy_chunk : lnPoints copyRecord = 4 ∧ (getChannel (copying 0 false [0, 3]) 0 3).queue.length = 1 ∧
    (match (getChannel (copying 0 false [0, 3]) 0 3).queue with
     | [q] => !copyWaits (copying 0 false [0, 3]) 0 3 q && completes (runAcc (chunkMove 0 3 q) (copying 0 false [0, 3])) (fun r u =>
         goes (exec .copyChunk (copying 0 false [0, 3])) (fun t => decide (getChannel t 0 3 = { getChannel u 0 3 with
           queue := [{ q with chunk := 1 }], bytesRead := r.1, bytesWritten := r.2 }) && decide (t.mem = u.mem)) &&
         r == (64, 64) && u.mem.length == 2)
     | _ => false) = true := by
  decide +kernel

theorem test_copy_completes : let s := copying 4 false [0, 3]
    writesPerformed s 0 3 = true ∧ goes (exec .copyCommandComplete s) (fun t => t.mem == s.mem &&
      decide (getChannel t 0 3 = { getChannel s 0 3 with queue := [], mark := 1, aborted := false })) = true := by
  decide +kernel

theorem test_copy_halted : let s := copying 1 true [0, 3]
    (getHart s 0).status.getLsbD 0 = true ∧
    goes (exec .cpctlAbort s) (fun t => decide (getChannel t 0 3 = { getChannel s 0 3 with queue := [], mark := 1, aborted := true, halted := false }) && t.mem == s.mem) = true ∧
    goes (exec .cpctlRetry s) (fun t => decide (getChannel t 0 3 = { getChannel s 0 3 with halted := false }) && t.mem == s.mem) = true := by
  decide +kernel

/-! ### Service -/

/-- Die 0 as given. -/
def withDie (k : Die) (args : List Nat) : State := setDie 0 k (at1 (ready []) args)

theorem test_scrub : let s := withDie { getDie (ready []) 0 with scrub1 := 0x101 } [1, 7]
    (getDie s (1 / 2)).scrub1 % 2 = 1 ∧ goes (exec .scrubRow s) (fun t => t.mem == s.mem && t.correctable == []) = true ∧
    same (exec .scrubRow { s with args := [0, 7] }) { s with args := [0, 7] } = true := by
  decide +kernel

-- a detected granule in the row that is scrubbed; which row it is stays open (log 13)
theorem test_scrub_granules : let s : State := { withDie { getDie (ready []) 0 with scrub0 := 0x101 } [0, rowKey (ready []) 0] with detected := [(0, 2)] }
    (getDie s (0 / 2)).scrub0 % 2 = 1 ∧ rowKey s 0 = 0 * 2 ^ 45 + rowKey (ready []) 0 % 2 ^ 45 := by
  refine ⟨by decide +kernel, ?_⟩
  have h : rowKey (ready []) 0 = 0 * 2 ^ 45 + Config.rowOf 0 % 2 ^ 45 := rfl
  show rowKey (ready []) 0 = _
  omega

-- a half-life of 7 days at reset: after 15 days the scores of the die's stacks have halved twice (R230, R394)
theorem test_scores_halve : let day : Nat := 86400000000000
    let s : State := { setDie 0 { getDie (ready []) 0 with timer := 15 * day } (at1 (ready []) [0]) with hotRows := [(5, 7, 0), (2 ^ 46, 9, 0)] }
    let u : State := { setDie 0 { getDie s 0 with halved := 14 * day } s with hotRows := [(5, 1, 0), (2 ^ 46, 9, 0)] }
    let early : State := setDie 0 { getDie s 0 with timer := 7 * day - 1 } s
    bitsGet (getDie s 0).retcfg 8 8 = 7 ∧ same (exec .scoreHalving s) u = true ∧ same (exec .scoreHalving early) early = true := by
  decide +kernel

-- no write of the host waits in the states of these tests (R222)
theorem test_nothing_posted : (ready []).posted = [] := by decide +kernel

-- the core in row 7, column 8 of die 0 (unit code 0x100078), retired or in service
theorem test_bist : let s := at1 (setCore 71 { getCore (ready []) 71 with retired := true } (ready [])) [0, 0x100078]
    unitExists 0x100078 = true ∧ unitRetired 0x100078 s = true ∧ unitRetired 0x100068 s = false ∧ unitExists 0x100079 = false ∧
    goes (exec .bistctlGo s) (fun t => (getDie t 0).bistRunning && (getDie t 0).bistResult == 0) = true ∧
    goes (exec .bistctlGo { s with args := [0, 0x100068] }) (fun t => !(getDie t 0).bistRunning && (getDie t 0).bistResult == 2) = true ∧
    goes (exec .bistctlGo (withDie { getDie s 0 with bistRunning := true } [0, 0x100078])) (fun t => t.hosterr == 1) = true ∧
    goes (exec .bistComplete (withDie { getDie s 0 with bistRunning := true } [0, 0x100077])) (fun t => !(getDie t 0).bistRunning &&
      (getDie t 0).bistResult == 1 && (getDie t 0).bistStatUnit == 0x100077 && t.msix == 0x400) = true := by
  decide +kernel

theorem test_retreq : let s := at1 (ready [])
    unitExists 0x2003F8 = true ∧ 0x2003F8 / 2 ^ 20 % 16 = 2 ∧ unitExists 0x30002F = true ∧ unitExists 0x700047 = true ∧ unitExists 0x700048 = false ∧
    goes (exec .retreqLaneGroup (s [0, 0x2003F8])) (fun t => (getCore t (7 * 9 + 8)).retiredGroups.getLsbD 7) = true ∧
    goes (exec .retreqLinkPort (s [0, 0x700047])) (fun t => (getPort t 71).state == 3) = true := by
  decide +kernel

theorem test_retreq_way : let s := at1 (ready []) [0, 0xF30002F]
    let k := getDie s 0
    same (exec .retreqSliceWay s) (retireWay 0 47 15 (setDie 0 { k with retreq := 0xF30002F } s)) = true := by
  decide +kernel

theorem test_retrow_premise : 23 * 2 ^ 40 / 2 ^ 40 % 32 ≤ 23 ∧ ¬ (24 * 2 ^ 40 / 2 ^ 40 % 32 ≤ 23) := by
  decide

theorem test_ports : let s := at1 (ready [])
    let p := getPort (ready []) 71
    goes (exec .portctlRetire (s [71])) (fun t => (getPort t 71).state == 3) = true ∧
    same (exec .portctlTrain (setPort 71 { p with state := 3 } (s [71]))) (setPort 71 { p with state := 1, enable := true } (s [71])) = true ∧
    same (exec .portctlTrain (setPort 71 { p with state := 2 } (s [71]))) (setPort 71 { p with state := 2 } (s [71])) = true ∧
    goes (exec .portTrainingDone (setPort 71 { p with state := 1 } (s [71, 1, 72, 5])))
      (fun t => (getPort t 71).state == 2 && (getPort t 71).peerDev == 72 && (getPort t 71).peerPort == 5) = true ∧
    goes (exec .portTrainingDone (setPort 71 { p with state := 1 } (s [71, 0, 72, 5]))) (fun t => (getPort t 71).state == 0) = true ∧
    goes (exec .portDown (setPort 71 { p with state := 2 } (s [71]))) (fun t => (getPort t 71).state == 0) = true ∧
    goes (exec .flitCrcRetry (setPort 71 { p with state := 2, retries := 2 ^ 32 - 1 } (s [71])))
      (fun t => (getPort t 71).retries == 0 && (getPort t 71).state == 2) = true := by
  decide +kernel

/-! ### Registers -/

theorem test_snapshot : let s := setDie 7 { getDie (ready []) 7 with snapEn := 2 } (ready [])
    (getDie s 7).snapEn.getLsbD 1 = true ∧ same (exec .snapinTrigger s) (fireSnapshot s) = true ∧
    same (exec .snapinTrigger (ready [])) (ready []) = true ∧ (∀ d, d < 8 → (getDie (ready []) d).snapEn.getLsbD 1 = false) ∧
    goes (exec .snapshotLatch { ready [] with snapPending := [0] }) (fun t => t.snapPending == []) = true ∧
    same (exec .snapshotLatch { ready [] with snapPending := [1] }) { ready [] with snapPending := [1] } = true := by
  decide +kernel

-- the last 256-byte block of device memory takes a launch, the next one does not
theorem test_launch : let s := at1 (ready [])
    isDevicePa 0x1BFFFFFFF00 = true ∧ isDevicePa 0x1C000000000 = false ∧ (getDie (ready []) 7).launch = 0 ∧
    goes (exec .launchWrite (s [7, 0x1BFFFFFFF00])) (fun t => (getDie t 7).launch == 0x1BFFFFFFF00 && (getDie t 7).accepted == 1) = true ∧
    goes (exec .launchWrite (s [7, 0x1C000000000])) (fun t => (getDie t 7).launch == 0 && (getDie t 7).code == 2) = true ∧
    goes (exec .launchWrite (setDie 7 { getDie (ready []) 7 with launch := 0x10000000000 } (s [7, 0x1BFFFFFFF00])))
      (fun t => (getDie t 7).overrun && (getDie t 7).launch == 0x10000000000) = true ∧
    goes (exec .ltakeLoad (setDie 7 { getDie (ready []) 7 with launch := 0x10000000000 } (s [0, 7, 31])))
      (fun t => (getDie t 7).launch == 0 && readS t 31 == 0x10000000000) = true ∧ isSuper (getHart (ready []) 0) = true := by
  decide +kernel

theorem test_die_registers : let s := at1 (ready [])
    let r : Rec4 := { w0 := 1, w1 := 2, w2 := 3, w3 := 4 }
    let k : Die := { getDie (ready []) 7 with errs := [r] }
    goes (exec .ldoneWrite (s [7, 9])) (fun t => (getDie t 7).ldone == 9 && t.msix == 0x80) = true ∧
    goes (exec .errownWrite (setDie 7 k (s [7, 1]))) (fun t => (getDie t 7).errOwn && t.msix == 0x100) = true ∧
    goes (exec .errpopWrite (setDie 7 { k with errOwn := true } (s [7]))) (fun t => (getDie t 7).errs == []) = true ∧
    goes (exec .errpopWrite (setDie 7 k (s [7]))) (fun t => t.hosterr == 1 && (getDie t 7).errs == [r]) = true := by
  decide +kernel

theorem test_register_write : let s := at1 (ready [])
    goes (exec .registerWrite (s [0x100, 8, 1500])) (fun t => t.pwrlim == 1500) = true ∧
    goes (exec .registerWrite (s [0x100, 8, 1499])) (fun t => t.pwrlim == 4200 && t.hosterr == 1) = true ∧
    goes (exec .registerWrite (s [0x100, 8, 4201])) (fun t => t.pwrlim == 4200 && t.hosterr == 1) = true ∧
    goes (exec .registerWrite (s [0x100, 4, 1500])) (fun t => t.pwrlim == 4200 && t.hosterr == 1) = true ∧
    goes (exec .registerWrite (s [0x210, 8, 2 ^ 24 + 5])) (fun t => t.snapSel == 5) = true := by
  decide +kernel

-- before the host's port trains nothing that it writes arrives (R426)
theorem test_no_link : let s : State := { at1 (ready []) [0x100, 8, 2000] with bootPhase := 0 }
    (∀ i ∈ [Instr.launchWrite, .lstatOverrunClear, .errpopWrite, .hosterrWrite, .snaptrigWrite, .registerWrite, .bistctlGo, .retrowGo,
      .portctlRetire, .portctlTrain, .fwctlEnrol], same (exec i s) s = true) ∧
    goes (exec .ldoneWrite s) (fun t => (getDie t (arg s 0)).ldone == 8) = true := by
  decide +kernel

/-! ### Power and firmware -/

theorem test_firmware : let s := ready []
    s.fwBusy = false ∧ goes (exec .fwctlRevoke s) (fun t => t.fwBusy && t.fwOp == 4 && t.fwResult == 5) = true ∧
    goes (exec .fwctlRestore { s with fwBusy := true }) (fun t => t.hosterr == 1 && t.fwOp == 0) = true ∧
    goes (exec .fwctlRestore { s with bootPhase := 15, bootReason := 3 }) (fun t => t.fwBusy && t.fwRun == 1 && t.fwResult == 2) = true ∧
    goes (exec .fwctlProgram { s with bootPhase := 15, bootReason := 3 }) (fun t => !t.fwBusy && t.hosterr == 1) = true ∧
    goes (exec .fwctlComplete { s with fwBusy := true, fwOp := 1, fwRun := 4, fwResult := 2 }) (fun t => !t.fwBusy && t.flash.vendorRevoked) = true ∧
    goes (exec .fwctlComplete { s with fwBusy := true, fwRun := 4, fwResult := 5 }) (fun t => !t.fwBusy && !t.flash.vendorRevoked) = true ∧
    goes (exec .fwctlComplete { s with fwBusy := true, fwRun := 1, fwResult := 2, flash := { s.flash with recovery := some 5 } })
      (fun t => t.flash.bankB == some 5 && t.flash.bankA == none && t.fwResult == 2) = true := by
  decide +kernel

-- a flash error in every operation that reaches the flash (R428)
theorem test_flash_error : ∀ op ∈ [1, 3, 4],
    goes (exec .fwctlComplete { at1 (ready []) [1] with fwBusy := true, fwRun := op, fwResult := 2, fwaddr := 0x2000 })
      (fun t => !t.fwBusy && t.fwResult == 6 && !t.flash.vendorRevoked && t.flash.ownerKeys == []) = true := by
  decide +kernel

-- a write of FWCTL without go while an operation runs: the field alone changes
theorem test_fwctl_field : let s : State := { at1 (ready []) [0x308, 8, 4] with fwBusy := true, fwOp := 1, fwRun := 1, fwResult := 2 }
    same (exec .registerWrite s) { s with fwOp := 4 } = true := by
  decide +kernel

-- the live image: 64 bytes of zeros at FWADDR make a key, and a program that does not verify ends with 3
theorem test_live_bytes : let s : State := { at1 (ready []) [] with fwBusy := true, fwRun := 3, fwResult := 2, fwaddr := 0x2000, mem := [(0x2000, 5)] }
    (match liveBytes s.fwaddr keyBytes s with
     | (some x, u) => x % 2 ^ 768 == 5 && goes (exec .fwctlComplete s) (fun t => t.flash.ownerKeys == u.flash.ownerKeys ++ [5] && t.fwResult == 2)
     | _ => false) = true := by
  decide +kernel

theorem test_throttle : let s := ready []
    goes (exec .clockThrottleStep { s with pwrDies := 4201 }) (fun t => t.clock == s.clock - 100) = true ∧
    goes (exec .clockThrottleStep { s with pwrDies := 4201, clock := 950 }) (fun t => t.clock == 900) = true ∧
    goes (exec .clockThrottleStep { s with pwrDies := 4199, clock := 1750 }) (fun t => t.clock == 1800 && t.msix == 0x200) = true ∧
    overLimit { s with pwrDies := 4200 } = false ∧ belowLimit { s with pwrDies := 4200 } = false ∧
    goes (exec .clockThrottleStep { s with pwrDies := 4200, clock := 1750 }) (fun t => t.clock == 1750 && t.msix == 0) = true := by
  decide +kernel

theorem test_power_on : let s : State := { at1 (ready []) [0, 1, 0x100078] with powerIo := false, bootReason := 2 }
    let half : State := { at1 (ready []) [0, 0, 9] with powerIo := true, powerCompute := true, powerStacks := false }
    let on : State := { ready [] with powerIo := true, powerCompute := true, powerStacks := true }
    goes (exec .powerOn s) (fun t => t.bootPhase == 0 && t.bootReason == 0 && t.enrol && !t.recov && (getPort t 71).state == 1 &&
      t.bootFails == [0x100078] && t.agenda == [.boot]) = true ∧
    goes (exec .powerOn half) (fun t => t.bootPhase == 1 && t.bootFails == [9] && t.powerStacks && t.ports == []) = true ∧
    same (exec .powerOn on) on = true := by
  decide +kernel

/-- The power-on sequence in a phase, with failures to meet. -/
def booting (phase : Nat) (fails : List Nat) : State := { ready [] with bootPhase := phase, bootFails := fails, agenda := [.boot, .hart 0] }

-- a failed core is retired in phase 3; a failed stack stops phase 2, a failed training phase 4 (R425, R426)
theorem test_boot_phases : let goesOn (p : Nat) (l : List Nat) : Bool := goes (step (booting p l)) (fun t => t.bootPhase == p + 1 && t.agenda == [.hart 0, .boot])
    goesOn 0 [0x100078] = true ∧ goesOn 1 [] = true ∧ goesOn 2 [0x100078, 0x10400003] = true ∧ goesOn 3 [0x100078] = true ∧ goesOn 4 [0x400003] = true ∧
    goes (step (setDie 7 { getDie (ready []) 7 with timer := 5 } (booting 1 []))) (fun t => (getDie t 7).timer == 0) = true ∧
    fatalTest [0x100078, 0x400003] = some 0x400003 ∧ failsTraining 0x10400003 = true ∧ unitExists 0x100078 = true ∧ unitKind 0x100078 = 1 ∧
    goes (step (booting 3 [0x100078])) (fun t => (getCore t (codeCore 0x100078)).retired && t.mem == []) = true ∧
    goes (step (booting 2 [0x100078, 0x400003])) (fun t => t.bootPhase == 15 && t.bootReason == 1 && t.bootUnit == 0x400003 && t.agenda == [.hart 0]) = true ∧
    goes (step (booting 4 [0x10400003])) (fun t => t.bootPhase == 15 && t.bootReason == 2 && t.bootUnit == 0x400003) = true ∧
    bootImage (booting 5 []).recov (booting 5 []).flash = none ∧
    goes (step (booting 5 [])) (fun t => t.bootPhase == 15 && t.bootReason == 3 && t.bootUnit == 0) = true := by
  decide +kernel

-- phase 5 ends with the last of the dies' SCHEDENT and SCHEDPT (R426)
theorem test_boot_ends : let put (f : Nat → Die → Die) : State := (List.range 8).foldl (fun s d => setDie d (f d { getDie s d with entSet := true, ptSet := true }) s) (booting 5 [])
    let s := put fun d k => if d = 7 then { k with entSet := false } else k
    let u := put fun d k => if d = 7 then { k with ptSet := false } else k
    (∀ e, e < 8 → e ≠ 7 → (getDie s e).entSet = true ∧ (getDie s e).ptSet = true) ∧ (getDie s 7).ptSet = true ∧ hasSupervisor s 7 = true ∧
    (mmioWrite (dieBlock 7 + 0x20) 8 0x4000 s).bootPhase = 6 ∧ (mmioWrite (dieBlock 7 + 0x28) 8 0x4000 s).bootPhase = 5 ∧
    (mmioWrite (dieBlock 7 + 0x28) 8 0x4000 u).bootPhase = 6 := by
  decide +kernel

/-- Flash whose recovery image matches its fused hash. -/
def recoverable : Flash := { recovery := some 5, recoveryHash := Config.sha384 5 }

theorem test_domain_premise : (at1 (ready []) [1]).args = 1 :: [] := by decide +kernel

theorem test_power_on_premise : bootImage true recoverable = some (5, none) := by
  simp [bootImage, recoverable, recoveryImage]

theorem test_domains : let s : State := at1 (ready []) [2]
    goes (exec .powerDomainLoss s) (fun t => !t.powerIo && t.cores == [] && t.regions == []) = true ∧
    goes (exec .powerDomainLoss { s with args := [2, 1, 0, 0x100078], agenda := [.boot, .hart 0] }) (fun t =>
      t.agenda == [.event .powerOn [1, 0, 0x100078], .hart 0]) = true ∧
    (let hot : State := withDie { getDie (ready []) 0 with tempd := 920 } [0]
     goes (exec .thermalShutdown hot) (fun t => !t.powerCompute && !t.powerStacks && t.powerIo == hot.powerIo) = true) ∧
    (let warm : State := withDie { getDie (ready []) 0 with tempd := 919 } [0]
     same (exec .thermalShutdown warm) warm = true) := by
  decide +kernel

/-! ### Steps -/

/-- As `mapped`, with a page of code at 0x1000 that holds the bits given. -/
def codeAt (w : Nat) : State := { (ready []).withFetchWord 64 w with agenda := [] }

/-- ADDI s3, s0, 5, and its parcel. -/
def addiWord : Nat := 0b000000000000101_00000_00011_000010_0

-- what the fetch clauses assume: nothing comes first, and the parcels of one, of two and of no instruction are read
theorem test_fetch_premise : ∀ w ∈ [addiWord, 0b111111_0],
    let s := codeAt w
    s.agenda = [] ∧ s.h.run = .running ∧ s.h.readback = [] ∧ queueBusy s.h = false ∧ stopReady s s.cur = false ∧
    interruptReady s s.cur = false ∧ s.h.arrayTrap = none ∧ s.h.replay = false ∧
    completes (runAcc (fetchParcel s.h.pc.toNat) s) (fun x u => x == (w, []) && parcelCount w == 1 && !queueBusy u.h) = true := by
  decide +kernel

theorem test_fetch_decodes : (match decodeParcels addiWord 0, decodeParcels 0b111111_0 0 with
    | .ok i, .error r => decide (i = .addi 3 0 5) && r == .majorReserved
    | _, _ => false) = true := by
  decide +kernel

-- VBCAST v3 from s1: function 2 of major 7, sa 1
theorem test_fetch_two_parcels : let w := 0b0000000000000000_0000000000_1_0_0000_000000_000000_000000_000011_000010_01
    let s := codeAt w
    completes (runAcc (fetchParcel s.h.pc.toNat) s) (fun x u => parcelCount x.1 == 2 && x.2 == [] &&
      completes (runAcc (fetchParcel ((s.h.pc.toNat + 4) % 2 ^ 64)) u) (fun y _ => x.1 + y.1 * 2 ^ 32 == w && y.2 == [])) = true := by
  decide +kernel

-- a poisoned parcel reads as the all-zero one, and its record is posted (R264)
theorem test_fetch_poisoned : let s : State := { codeAt addiWord with poison := [codePa / 32] }
    completes (runAcc (fetchParcel s.h.pc.toNat) s) (fun x u => x == (0, [codePa / 32]) && !queueBusy u.h) = true ∧
    goes (step s) (fun t => t.h.trapcause == 1 && t.h.trapval == 0 && t.h.epc == 0x1000 && (getDie t 0).errs.length == 1) = true := by
  decide +kernel

theorem test_step : goes (step (codeAt addiWord)) (fun t => readS t 3 == 5 && t.h.pc == 0x1004) = true ∧
    goes (step (codeAt 0b111111_0)) (fun t => t.h.trapcause == 1 && t.h.trapval == 0x7E && t.h.epc == 0x1000) = true := by
  decide +kernel

theorem test_step_agenda : let s : State := { codeAt addiWord with agenda := [.event .snapinTrigger [7]] }
    encodeBits .snapinTrigger = none ∧ goes (step s) (fun t => t.agenda == [] && t.args == [7] && t.h.pc == 0x1000) = true ∧
    goes (step { s with agenda := [.hart 0] }) (fun t => t.agenda == [] && readS t 3 == 5) = true := by
  decide +kernel

/-! ### Encodings, memory, well-formed terms -/

theorem test_encodes : encodeBits (.addi 3 0 5) = some (addiWord, 1) ∧ wellFormed (.addi 3 0 5) = true ∧
    encode (.addi 3 0 5) = [0x84, 0x01, 0x0A, 0x00] ∧ decode [0x84, 0x01, 0x0A, 0x00, 0xFF] = .ok (.addi 3 0 5, [0xFF]) := by
  decide +kernel

theorem test_memory_form : Memory.wf [(3, 1), (4, 2), (2 ^ 70, 255)] = true ∧ Memory.wf [(3, 0)] = false ∧
    Memory.wf [(4, 1), (3, 1)] = false ∧ Memory.wf [(3, 1), (3, 2)] = false := by
  decide +kernel

/-- A term of each operand check that the check refuses, beside one it takes. -/
theorem test_ill_formed_roles :
    -- an unused field; a scalar number above 31; mask numbers; a mask destination of 0
    wellFormed (.vadd (vf 1 2 3 1 false 0 false 0)) = false ∧ wellFormed (.vadd (vf 1 2 3 0 false 0 false 0)) = true ∧
    wellFormed (.vadd (vf 1 32 3 0 true 0 false 0)) = false ∧ wellFormed (.vadd (vf 1 31 3 0 true 0 false 0)) = true ∧
    wellFormed (.mpopc (vf 1 16 0 0 false 0 false 0)) = false ∧ wellFormed (.mpopc (vf 1 15 0 0 false 0 false 0)) = true ∧
    wellFormed (.vcmpeq (vf 0 1 2 0 false 0 false 0)) = false ∧ wellFormed (.vcmpeq (vf 15 1 2 0 false 0 false 0)) = true ∧
    wellFormed (.vcmpeq (vf 16 1 2 0 false 0 false 0)) = false ∧
    -- a small-matrix register above 7, an accumulator above 3
    wellFormed (.smid (vf 8 0 0 0 false 0 false 0)) = false ∧ wellFormed (.smid (vf 7 0 0 0 false 0 false 0)) = true ∧
    wellFormed (.mstrm (vf 4 1 0 1 false 0 false 0)) = false ∧ wellFormed (.mstrm (vf 3 1 0 1 false 0 false 0)) = true := by
  decide +kernel

theorem test_ill_formed_fields :
    -- sa where there is none, sa missing, m or mz where there is none, mz with mask 0, mz where only a mask may stand
    wellFormed (.smid (vf 1 0 0 0 true 0 false 0)) = false ∧ wellFormed (.vld 0 (vf 1 1 0 0 false 0 false 0)) = false ∧
    wellFormed (.vld 0 (vf 1 1 0 0 true 0 false 0)) = true ∧ wellFormed (.vgtrn (vf 1 2 0 0 false 1 false 0)) = false ∧
    wellFormed (.vgtrn (vf 1 2 0 0 false 0 true 0)) = false ∧ wellFormed (.vadd (vf 1 2 3 0 false 0 true 0)) = false ∧
    wellFormed (.vadd (vf 1 2 3 0 false 1 true 0)) = true ∧ wellFormed (.vst (vf 0 1 0 2 true 1 true 0)) = false ∧
    wellFormed (.vst (vf 0 1 0 2 true 1 false 0)) = true ∧
    -- an immediate bit without a meaning; a bias base where the rounding field is not 6 or 7
    wellFormed (.vadd (vf 1 2 3 0 false 0 false 1)) = false ∧ wellFormed (.smid (vf 1 0 0 0 false 0 false 0x200)) = false ∧
    wellFormed (.vfadd 5 (vf 1 2 3 4 false 0 false 0)) = false ∧ wellFormed (.vfadd 6 (vf 1 2 3 4 false 0 false 0)) = true := by
  decide +kernel

theorem test_ill_formed_values :
    -- an atomic's scope, a CSR that is not listed, a counter space, a hint, a VAMO operation, a tag
    wellFormed (.amoAdd 5 false false false 1 2 3) = false ∧ wellFormed (.amoAdd 4 false false false 1 2 3) = true ∧
    wellFormed (.cfgrd 1 0x003) = false ∧ wellFormed (.cfgwr 1 2 0x0A2) = false ∧ wellFormed (.cfgclr 1 2 0x0A1) = true ∧
    wellFormed (.rdcnt 9 1 2) = false ∧ wellFormed (.waitc 9 1 2 3) = false ∧ wellFormed (.waitc 8 1 2 3) = true ∧
    wellFormed (.vlds 3 (vf 1 1 2 0 true 0 false 0)) = false ∧ wellFormed (.vlds 2 (vf 1 1 2 0 true 0 false 0)) = true ∧
    wellFormed (.vamo 11 false (vf 0 1 2 3 true 0 false 0)) = false ∧ wellFormed (.vamo 10 false (vf 0 1 2 3 true 0 false 0)) = true ∧
    wellFormed (.vupd 0 (vf 0 1 2 3 true 0 false 0)) = false ∧ wellFormed (.vupd 12 (vf 0 1 2 3 true 0 false 0)) = false ∧
    wellFormed (.vupd 11 (vf 0 1 2 3 true 0 false 0)) = true := by
  decide +kernel

-- a shift of kind 3, and one with a one in bit 23
theorem test_shift_refused : ∀ w ∈ [3 * 2 ^ 30 + 0x10, 2 ^ 23 + 0x10, 2 ^ 29 + 0x10], w % 2 ^ 7 = 0x08 * 2 ∧
    (w / 2 ^ 30 = 3 ∨ w / 2 ^ 23 % 2 ^ 7 ≠ 0) ∧ (decodeParcels w 0).toOption = none := by
  decide +kernel

end Sys2Proof.Tests
end

section
/-! The encoder and the decoder agree (spec/03): what it is for a word to be written for an instruction, that the encoder
writes just those words, and that the decoder reads just those words back. -/

namespace Sys2Proof

/-! ## Fields -/

/-- A number is the field it is written in when it agrees with the field's value in the field's bits. -/
theorem ofNat_eq_of_mod_eq {n x : Nat} {y : BitVec n} (h : x % 2 ^ n = y.toNat) : BitVec.ofNat n x = y :=
  BitVec.eq_of_toNat_eq (by rw [BitVec.toNat_ofNat, h])

/-- The same for a field of one bit. -/
theorem beq_one_eq_of_mod_eq {x : Nat} {b : Bool} (h : x % 2 = b.toNat) : (x % 2 == 1) = b := by
  rw [h]; cases b <;> rfl

@[simp] theorem sreg_toNat (r : SReg) : sreg r.toNat = r := by simp [sreg]

theorem toNat_sreg {n : Nat} (h : n < 32) : (sreg n).toNat = n := by
  rw [sreg, BitVec.toNat_ofNat]; omega

/-- A bit of a number as a truth value and back. -/
theorem toNat_beq_one (x : Nat) : (x % 2 == 1).toNat = x % 2 := by
  rcases Nat.mod_two_eq_zero_or_one x with e | e <;> simp [e]

theorem whenZero_eq_ok {n : Nat} {i j : Instr} : whenZero n i = .ok j ↔ n = 0 ∧ i = j := by
  unfold whenZero; split <;> simp [*]

theorem whenWellFormed_eq_ok {i j : Instr} : whenWellFormed i = .ok j ↔ wellFormed i = true ∧ i = j := by
  unfold whenWellFormed; split <;> simp [*]

/-- The fields of the R form stand apart (R55). -/
theorem join32_fields {fn b a d maj : Nat} (hb : b < 32) (ha : a < 32) (hd : d < 32) (hm : maj < 64) (hfn : fn < 1024) :
    join32 fn b a d maj / 2 % 64 = maj ∧ join32 fn b a d maj / 4194304 % 1024 = fn ∧
    join32 fn b a d maj / 131072 % 32 = b ∧ join32 fn b a d maj / 4096 % 32 = a ∧ join32 fn b a d maj / 128 % 32 = d := by
  unfold join32; omega

/-- The fields of the 64-bit form stand apart (R57). -/
theorem join64_fields {maj fn : Nat} (f : VF) (hm : maj < 64) (hfn : fn < 1024) :
    join64 maj fn f / 4 % 64 = maj ∧ join64 maj fn f / 274877906944 % 1024 = fn ∧ fields64 (join64 maj fn f) = f := by
  obtain ⟨d, a, b, c, sa, m, mz, imm⟩ := f
  have hmz := Bool.toNat_lt mz
  have hsa := Bool.toNat_lt sa
  refine ⟨by simp only [join64]; omega, by simp only [join64]; omega, ?_⟩
  simp only [fields64, join64, VF.mk.injEq]
  exact ⟨ofNat_eq_of_mod_eq (by omega), ofNat_eq_of_mod_eq (by omega), ofNat_eq_of_mod_eq (by omega),
    ofNat_eq_of_mod_eq (by omega), beq_one_eq_of_mod_eq (by omega), ofNat_eq_of_mod_eq (by omega),
    beq_one_eq_of_mod_eq (by omega), ofNat_eq_of_mod_eq (by omega)⟩

/-- A word of the 64-bit kind is what its fields join to (R57). -/
theorem join64_of_fields {w : Nat} (h : w < 2 ^ 64) (h4 : w % 4 = 1) :
    join64 (w / 4 % 64) (w / 274877906944 % 1024) (fields64 w) = w := by
  simp only [join64, fields64, BitVec.toNat_ofNat, toNat_beq_one]
  omega

/-! ## Words of an instruction -/

/-- The word of a convoy header (R60). -/
def headerWord (s6 s5 s4 s3 s2 s1 : BitVec 4) (k : BitVec 3) : Nat :=
  3 + k.toNat * 4 + s1.toNat * 256 + s2.toNat * 4096 + s3.toNat * 65536 +
    s4.toNat * 1048576 + s5.toNat * 16777216 + s6.toNat * 268435456

/-- A word and its number of parcels stand for an instruction: the fields of one of the three forms that the maps of R64
and R65 list for it (R55, R57, R60). -/
inductive Written (i : Instr) : Nat → Nat → Prop
  | short {fn b a d maj : Nat} (hfn : fn < 1024) (hb : b < 32) (ha : a < 32) (hd : d < 32) (hm : maj < 64)
      (h : decodeMajor32 maj fn b a d = .ok i) : Written i (join32 fn b a d maj) 1
  | long {maj fn : Nat} {f : VF} (hm : maj < 64) (hfn : fn < 1024) (h : pick64 maj fn f = some (some i)) :
      Written i (join64 maj fn f) 2
  | header {w : Nat} {s6 s5 s4 s3 s2 s1 : BitVec 4} {k : BitVec 3} (h : i = .convoyHeader s6 s5 s4 s3 s2 s1 k)
      (hw : headerWord s6 s5 s4 s3 s2 s1 k = w) : Written i w 1

/-- The number that lies in three 5-bit fields and what stands above them. -/
theorem immediate_of_fields (n : Nat) : (n / 1024 * 32 + n / 32 % 32) * 32 + n % 32 = n := by omega

/-- A number above a field of m values is read back by division, the field by remainder. -/
theorem div_of_field {k m x : Nat} (hk : k % m = 0) (hx : x < m) : (k + x) / m = k / m := by
  rw [Nat.add_div_of_dvd_right (Nat.dvd_of_mod_eq_zero hk), Nat.div_eq_of_lt hx, Nat.add_zero]

theorem mod_of_field {k m x : Nat} (hk : k % m = 0) (hx : x < m) : (k + x) % m = x := by
  rw [Nat.add_mod, hk, Nat.zero_add, Nat.mod_mod, Nat.mod_eq_of_lt hx]

/-- The sub-fields of a conversion's function code stand apart (R65). -/
theorem cvtFunct_fields {k : Nat} (rm : BitVec 3) (sat : Bool) (hk : k % 64 = 0) :
    (k + rm.toNat * 8 + sat.toNat * 4) % 4 = 0 ∧ (k + rm.toNat * 8 + sat.toNat * 4) / 64 = k / 64 ∧
    BitVec.ofNat 3 ((k + rm.toNat * 8 + sat.toNat * 4) / 8 % 8) = rm ∧
    ((k + rm.toNat * 8 + sat.toNat * 4) / 4 % 2 == 1) = sat := by
  have h := Bool.toNat_lt sat
  exact ⟨by omega, by omega, ofNat_eq_of_mod_eq (by omega), beq_one_eq_of_mod_eq (by omega)⟩

/-- The sub-fields of VAMO's function code stand apart (R65). -/
theorem vamoFunct_fields (op : BitVec 4) (old : Bool) :
    (op.toNat * 32 + old.toNat * 16) % 16 = 0 ∧ (op.toNat * 32 + old.toNat * 16) / 512 = 0 ∧
    ((op.toNat * 32 + old.toNat * 16) / 16 % 2 == 1) = old ∧
    BitVec.ofNat 4 ((op.toNat * 32 + old.toNat * 16) / 32) = op := by
  have h := Bool.toNat_lt old
  exact ⟨by omega, by omega, beq_one_eq_of_mod_eq (by omega), ofNat_eq_of_mod_eq (by omega)⟩

/-- The sub-fields of VUPD's function code stand apart (R65). -/
theorem vupdFunct_fields (tag : BitVec 4) :
    (512 + tag.toNat * 32) % 16 = 0 ∧ (512 + tag.toNat * 32) / 512 = 1 ∧ (512 + tag.toNat * 32) / 16 % 2 = 0 ∧
    BitVec.ofNat 4 ((512 + tag.toNat * 32) / 32) = tag := by
  exact ⟨by omega, by omega, by omega, ofNat_eq_of_mod_eq (by omega)⟩

/-- The sub-fields of an AMO's funct10 stand apart (R64). -/
theorem amoFunct_fields (scope : BitVec 3) (aq rl wide : Bool) {op : Nat} (h : op < 16) :
    BitVec.ofNat 3 (amoFunct scope aq rl wide op / 128) = scope ∧ (amoFunct scope aq rl wide op / 64 % 2 == 1) = aq ∧
    (amoFunct scope aq rl wide op / 32 % 2 == 1) = rl ∧ (amoFunct scope aq rl wide op / 16 % 2 == 1) = wide ∧
    amoFunct scope aq rl wide op % 16 = op := by
  have h1 := Bool.toNat_lt aq
  have h2 := Bool.toNat_lt rl
  have h3 := Bool.toNat_lt wide
  unfold amoFunct
  exact ⟨ofNat_eq_of_mod_eq (by omega), beq_one_eq_of_mod_eq (by omega), beq_one_eq_of_mod_eq (by omega),
    beq_one_eq_of_mod_eq (by omega), by omega⟩

/-- What the encoder writes for each instruction, the decoder's maps list for it. -/
theorem written_of_encodeBits {i : Instr} {w n : Nat} (h : encodeBits i = some (w, n)) : Written i w n := by
  cases i with
  | add d a b | sub d a b | and d a b | or d a b | xor d a b | sll d a b | srl d a b | sra d a b | slt d a b
  | sltu d a b | min d a b | max d a b | minu d a b | maxu d a b | mul d a b | mulh d a b | mulhu d a b | div d a b
  | divu d a b | rem d a b | remu d a b | settle d a b | regdef d a b | tlbinv d a b | bankcfg d a b | cpgo d a b
  | bararv d a b | barwait d a b =>
    cases h
    exact .short (by omega) (by omega) (by omega) (by omega) (by omega)
      (by simp [decodeMajor32, decodeOpr, decodeMemsys, decodeEngine, decodeCount])
  | clz d a | ctz d a | popc d a | wfa d a | renew d a | discard d a | pref d a | rlaunch d a | rwait d a | ipgo d a
  | epush d a | epop d a | eret | snap | tlbwait | ryield | cbld a | rexit a | nextit d =>
    cases h
    exact .short (by omega) (by omega) (by omega) (by omega) (by omega)
      (by simp [decodeMajor32, decodeOpr, decodeSys, decodeMemsys, decodeSched, decodeEngine, whenZero])
  | fence kind scope | trap code =>
    cases h
    exact .short (by omega) (by omega) (by omega) (by omega) (by omega)
      (by simp [decodeMajor32, decodeSys, whenZero, Nat.div_add_mod'])
  | addi d a imm | andi d a imm | ori d a imm | xori d a imm | slti d a imm | sltiu d a imm | ldb d a imm | ldbu d a imm
  | ldh d a imm | ldhu d a imm | ldw d a imm | ldwu d a imm | ldd d a imm | stb d a imm | sth d a imm | stw d a imm
  | std d a imm | beq d a imm | bne d a imm | blt d a imm | bge d a imm | bltu d a imm | bgeu d a imm | callr d a imm =>
    cases h
    exact .short (by omega) (by omega) (by omega) (by omega) (by omega) (by simp [decodeMajor32, Nat.div_add_mod'])
  | lihi d imm | pcadd d imm | call d imm =>
    cases h
    exact .short (by omega) (by omega) (by omega) (by omega) (by omega)
      (by simp [decodeMajor32, immediate_of_fields])
  | slli d a sh | srli d a sh | srai d a sh =>
    cases h
    exact .short (by omega) (by omega) (by omega) (by omega) (by omega)
      (by simp (disch := omega) only [decodeMajor32, decodeShift, div_of_field, mod_of_field, Nat.div_eq_of_lt,
        Nat.div_add_mod', if_neg, sreg_toNat, BitVec.ofNat_toNat, BitVec.setWidth_eq])
  | amoAdd scope aq rl wide d a b | amoSwap scope aq rl wide d a b | amoCas scope aq rl wide d a b
  | amoMin scope aq rl wide d a b | amoMax scope aq rl wide d a b | amoAnd scope aq rl wide d a b
  | amoOr scope aq rl wide d a b | amoXor scope aq rl wide d a b =>
    cases h
    exact .short (Laws.amoFunct_lt _ _ _ _ _ (by omega)) (by omega) (by omega) (by omega) (by omega)
      (by simp [decodeMajor32, decodeAmo, amoFunct_fields])
  | cfgrd d csr | cfgwr d a csr | cfgset d a csr | cfgclr d a csr =>
    cases h
    exact .short (by omega) (by omega) (by omega) (by omega) (by omega)
      (by simp (disch := omega) only [decodeMajor32, decodeCfg, whenZero, div_of_field, mod_of_field, Nat.div_add_mod',
        ite_true, sreg_toNat, BitVec.ofNat_toNat, BitVec.setWidth_eq])
  | rdcnt space d a | waitc space d a b =>
    cases h
    exact .short (by omega) (by omega) (by omega) (by omega) (by omega)
      (by simp (disch := omega) [decodeMajor32, decodeCount, whenZero, div_of_field, mod_of_field])
  | convoyHeader s6 s5 s4 s3 s2 s1 k => cases h; exact .header rfl rfl
  | vcfg f | setvl f | vadd f | vsub f | vmul f | vmulh f | vmulhu f | vmin f | vmax f | vminu f | vmaxu f | vand f | vor f
  | vxor f | vsll f | vsrl f | vsra f | vaddsat f | vsubsat f | vcmpeq f | vcmplt f | vcmpltu f | vfrcp f | vfrsq f
  | vfrcps f | vfrsqs f | vfexp2 f | vflog2 f | vftanh f | vredsum f | vredmin f | vredmax f | vfredsum f | vfredmin f
  | vfredmax f | vperm f | vslideup f | vslidedn f | vcompress f | vexpand f | vgtrn f | vqtrn f | vbsll f | vbsrl f
  | vbfsl f | vbfsr f | mand f | mor f | mxor f | mandn f | mset f | mpopc f | mfirst f | vmv f | vmvs f | vins f
  | vbcast f | viota f | vmerge f | vst f | vsts f | vstx f | smld f | smst f | smget f | smput f | smid f | smadd f
  | smscl f | smmul f | smma f | smtr f | smmv f | smchol f | smlu f | smsolv f | mcfg f | mldw f | mswap f | mstrm f
  | mdrn f | mzero f | mspl f | mfil f | vproj f | vpjadj f | vsave f | vrest f | vqsave f | vqrest f =>
    cases h; exact .long (by omega) (by omega) rfl
  | vfadd rm f | vfsub rm f | vfmul rm f | vfma rm f | vfms rm f | vfnma rm f | vfmin rm f | vfmax rm f | vfabs rm f
  | vfneg rm f | vfcmpeq rm f | vfcmplt rm f | vfcmple rm f | vfclass rm f =>
    cases h
    exact .long (by omega) (by omega) (by simp (disch := omega) only [pick64, pickVfp, div_of_field, mod_of_field,
      BitVec.ofNat_toNat, BitVec.setWidth_eq])
  | vcvt rm sat f | vqnt rm sat f | vdqnt rm sat f | vcbdec rm sat f =>
    cases h
    have hsat := Bool.toNat_lt sat
    exact .long (by omega) (by omega) (by simp (disch := omega) only [pick64, pickVcvt, cvtFunct_fields, if_neg])
  | vld hint f | vlds hint f | vldx hint f =>
    cases h
    exact .long (by omega) (by omega) (by simp (disch := omega) [pick64, pickLoads, div_of_field, mod_of_field])
  | vamo op old f =>
    cases h
    have hold := Bool.toNat_lt old
    exact .long (by omega) (by omega) (by simp only [pick64, pickVatom, vamoFunct_fields, ne_eq, not_true, ite_false])
  | vupd tag f =>
    cases h
    exact .long (by omega) (by omega) (by simp [pick64, pickVatom, vupdFunct_fields])
  | _ => cases h

/-! ## What the decoder's maps list is what the encoder writes -/

section
variable {fn b a d : Nat} {i : Instr} (hfn : fn < 1024) (hb : b < 32) (ha : a < 32) (hd : d < 32)

include hb ha hd in
theorem encodeBits_of_decodeOpr (h : decodeOpr fn b a d = .ok i) : encodeBits i = some (join32 fn b a d 1, 1) := by
  unfold decodeOpr at h
  split at h <;> simp only [whenZero_eq_ok, Except.ok.injEq, reduceCtorEq] at h
  case h_22 | h_23 | h_24 => obtain ⟨rfl, rfl⟩ := h; simp [encodeBits, toNat_sreg, *]
  all_goals subst h; simp [encodeBits, toNat_sreg, *]

include hb ha hd in
theorem encodeBits_of_decodeShift (h : decodeShift fn b a d = .ok i) : encodeBits i = some (join32 fn b a d 8, 1) := by
  have hsh : (BitVec.ofNat 6 (fn % 2 * 32 + b)).toNat = fn % 2 * 32 + b := by simp only [BitVec.toNat_ofNat]; omega
  unfold decodeShift at h
  split at h
  · cases h
  split at h <;> simp only [Except.ok.injEq, reduceCtorEq] at h <;> subst h <;>
    simp only [encodeBits, hsh, toNat_sreg, ha, hd, join32, Option.some.injEq, Prod.mk.injEq, and_true] <;> omega

include hfn hb ha hd in
theorem encodeBits_of_decodeAmo (h : decodeAmo fn b a d = .ok i) : encodeBits i = some (join32 fn b a d 40, 1) := by
  have hfunct : ∀ op, fn % 16 = op →
      amoFunct (BitVec.ofNat 3 (fn / 128)) (fn / 64 % 2 == 1) (fn / 32 % 2 == 1) (fn / 16 % 2 == 1) op = fn := by
    rintro op rfl
    simp only [amoFunct, toNat_beq_one, BitVec.toNat_ofNat]
    omega
  unfold decodeAmo at h
  split at h <;> simp only [Except.ok.injEq, reduceCtorEq] at h <;> subst h <;> simp only [encodeBits, toNat_sreg, *]

include hb ha hd in
theorem encodeBits_of_decodeSys (h : decodeSys fn b a d = .ok i) : encodeBits i = some (join32 fn b a d 44, 1) := by
  have hcode : (BitVec.ofNat 10 (b * 32 + a)).toNat = b * 32 + a := by simp only [BitVec.toNat_ofNat]; omega
  unfold decodeSys at h
  split at h <;> simp only [whenZero_eq_ok, reduceCtorEq] at h <;> obtain ⟨h0, rfl⟩ := h <;>
    simp only [encodeBits, hcode, toNat_sreg, BitVec.toNat_ofNat, ha, hb, join32, Option.some.injEq, Prod.mk.injEq,
      and_true] <;> omega

include hb ha hd in
theorem encodeBits_of_decodeCfg (h : decodeCfg fn b a d = .ok i) : encodeBits i = some (join32 fn b a d 45, 1) := by
  have hcsr : (BitVec.ofNat 12 (fn % 128 * 32 + b)).toNat = fn % 128 * 32 + b := by simp only [BitVec.toNat_ofNat]; omega
  unfold decodeCfg at h
  split at h <;> simp only [whenZero_eq_ok, Except.ok.injEq, reduceCtorEq] at h
  case h_1 =>
    obtain ⟨h0, rfl⟩ := h
    simp only [encodeBits, hcsr, toNat_sreg, hd, join32, Option.some.injEq, Prod.mk.injEq, and_true]; omega
  all_goals
    subst h
    simp only [encodeBits, hcsr, toNat_sreg, ha, hd, join32, Option.some.injEq, Prod.mk.injEq, and_true]; omega

include hb ha hd in
theorem encodeBits_of_decodeMemsys (h : decodeMemsys fn b a d = .ok i) : encodeBits i = some (join32 fn b a d 48, 1) := by
  unfold decodeMemsys at h
  split at h <;> simp only [whenZero_eq_ok, Except.ok.injEq, reduceCtorEq] at h
  case h_2 | h_3 | h_4 | h_7 | h_9 =>
    obtain ⟨h0, rfl⟩ := h
    simp only [encodeBits, toNat_sreg, ha, hb, join32, Option.some.injEq, Prod.mk.injEq, and_true]; omega
  all_goals subst h; simp only [encodeBits, toNat_sreg, ha, hb, hd]

include hfn hb ha hd in
theorem encodeBits_of_decodeCount (h : decodeCount fn b a d = .ok i) : encodeBits i = some (join32 fn b a d 49, 1) := by
  have hsp : (BitVec.ofNat 6 (fn / 16)).toNat = fn / 16 := by simp only [BitVec.toNat_ofNat]; omega
  unfold decodeCount at h
  split at h
  case h_1 =>
    obtain ⟨h0, rfl⟩ := whenZero_eq_ok.mp h
    simp only [encodeBits, hsp, toNat_sreg, ha, hd, join32, Option.some.injEq, Prod.mk.injEq, and_true]; omega
  case h_2 =>
    cases h
    simp only [encodeBits, hsp, toNat_sreg, ha, hb, hd, join32, Option.some.injEq, Prod.mk.injEq, and_true]; omega
  case h_3 | h_4 =>
    split at h <;> cases h
    simp only [encodeBits, toNat_sreg, ha, hb, hd, join32, Option.some.injEq, Prod.mk.injEq, and_true]; omega
  case h_5 => cases h

include hb ha hd in
theorem encodeBits_of_decodeSched (h : decodeSched fn b a d = .ok i) : encodeBits i = some (join32 fn b a d 50, 1) := by
  unfold decodeSched at h
  split at h <;> simp only [whenZero_eq_ok, reduceCtorEq] at h <;> obtain ⟨h0, rfl⟩ := h <;>
    simp only [encodeBits, toNat_sreg, ha, hd, join32, Option.some.injEq, Prod.mk.injEq, and_true] <;> omega

include hb ha hd in
theorem encodeBits_of_decodeEngine (h : decodeEngine fn b a d = .ok i) : encodeBits i = some (join32 fn b a d 53, 1) := by
  unfold decodeEngine at h
  split at h <;> simp only [whenZero_eq_ok, Except.ok.injEq, reduceCtorEq] at h
  case h_1 => subst h; simp only [encodeBits, toNat_sreg, ha, hb, hd]
  all_goals
    obtain ⟨rfl, rfl⟩ := h
    simp only [encodeBits, toNat_sreg, ha, hb, hd]

include hfn hb ha hd in
theorem encodeBits_of_decodeMajor32 {maj : Nat} (h : decodeMajor32 maj fn b a d = .ok i) :
    encodeBits i = some (join32 fn b a d maj, 1) := by
  have immB : (BitVec.ofNat 15 (fn * 32 + b)).toNat = fn * 32 + b := by simp only [BitVec.toNat_ofNat]; omega
  have immD : (BitVec.ofNat 15 (fn * 32 + d)).toNat = fn * 32 + d := by simp only [BitVec.toNat_ofNat]; omega
  have immA : (BitVec.ofNat 20 ((fn * 32 + b) * 32 + a)).toNat = (fn * 32 + b) * 32 + a := by
    simp only [BitVec.toNat_ofNat]; omega
  unfold decodeMajor32 at h
  split at h
  case h_1 => exact encodeBits_of_decodeOpr hb ha hd h
  case h_8 => exact encodeBits_of_decodeShift hb ha hd h
  case h_30 => exact encodeBits_of_decodeAmo hfn hb ha hd h
  case h_31 => exact encodeBits_of_decodeSys hb ha hd h
  case h_32 => exact encodeBits_of_decodeCfg hb ha hd h
  case h_33 => exact encodeBits_of_decodeMemsys hb ha hd h
  case h_34 => exact encodeBits_of_decodeCount hfn hb ha hd h
  case h_35 => exact encodeBits_of_decodeSched hb ha hd h
  case h_36 => exact encodeBits_of_decodeEngine hb ha hd h
  case h_37 => cases h
  all_goals
    cases h
    simp only [encodeBits, immA, immB, immD, toNat_sreg, ha, hb, hd, join32, Option.some.injEq, Prod.mk.injEq, and_true]
    omega

end

section
variable {fn : Nat} {f : VF} {i : Instr}

theorem encodeBits_of_pickVfp (h : pickVfp fn f = some i) : encodeBits i = some (join64 3 fn f, 2) := by
  have hrm : (BitVec.ofNat 3 (fn % 8)).toNat = fn % 8 := by simp only [BitVec.toNat_ofNat]; omega
  unfold pickVfp at h
  split at h <;> simp only [Option.some.injEq, reduceCtorEq] at h <;> subst h <;>
    simp only [encodeBits, hrm, join64, Option.some.injEq, Prod.mk.injEq, and_true] <;> omega

theorem encodeBits_of_pickVcvt (h : pickVcvt fn f = some i) : encodeBits i = some (join64 5 fn f, 2) := by
  have hrm : (BitVec.ofNat 3 (fn / 8 % 8)).toNat = fn / 8 % 8 := by simp only [BitVec.toNat_ofNat]; omega
  unfold pickVcvt at h
  split at h
  · cases h
  split at h <;> simp only [Option.some.injEq, reduceCtorEq] at h <;> subst h <;>
    simp only [encodeBits, hrm, toNat_beq_one, join64, Option.some.injEq, Prod.mk.injEq, and_true] <;> omega

theorem encodeBits_of_pickLoads (hfn : fn < 1024) (h : pickLoads fn f = some i) :
    encodeBits i = some (join64 11 fn f, 2) := by
  have hhint : (BitVec.ofNat 2 (fn / 256)).toNat = fn / 256 := by simp only [BitVec.toNat_ofNat]; omega
  unfold pickLoads at h
  split at h <;> simp only [Option.some.injEq, reduceCtorEq] at h <;> subst h <;>
    simp only [encodeBits, hhint, join64, Option.some.injEq, Prod.mk.injEq, and_true] <;> omega

theorem encodeBits_of_pickVatom (hfn : fn < 1024) (h : pickVatom fn f = some i) :
    encodeBits i = some (join64 13 fn f, 2) := by
  have hop : (BitVec.ofNat 4 (fn / 32)).toNat = fn / 32 % 2 ^ 4 := BitVec.toNat_ofNat _ _
  unfold pickVatom at h
  split at h
  · cases h
  split at h
  · cases h
    simp only [encodeBits, hop, toNat_beq_one, join64, Option.some.injEq, Prod.mk.injEq, and_true]; omega
  · next hr hk =>
    cases h
    have hk : fn / 512 ≠ 0 := hk
    simp only [encodeBits, hop, join64, Option.some.injEq, Prod.mk.injEq, and_true]; omega
  · cases h

theorem encodeBits_of_pickSmat (h : pickSmat fn f = some i) : encodeBits i = some (join64 16 fn f, 2) := by
  unfold pickSmat at h
  split at h
  · cases h
  split at h <;> simp only [Option.some.injEq, reduceCtorEq] at h <;> subst h <;>
    simp only [encodeBits, join64, Option.some.injEq, Prod.mk.injEq, and_true] <;> omega

theorem encodeBits_of_pick64 {maj : Nat} (hfn : fn < 1024) (h : pick64 maj fn f = some (some i)) :
    encodeBits i = some (join64 maj fn f, 2) := by
  unfold pick64 at h
  split at h <;> simp only [Option.some.injEq, reduceCtorEq] at h
  case h_3 => exact encodeBits_of_pickVfp h
  case h_5 => exact encodeBits_of_pickVcvt h
  case h_11 => exact encodeBits_of_pickLoads hfn h
  case h_13 => exact encodeBits_of_pickVatom hfn h
  case h_14 => exact encodeBits_of_pickSmat h
  -- the groups whose function code is a number of the instruction alone
  all_goals
    simp only [pickVcfg, pickVint, pickVsfu, pickVred, pickVperm, pickVbit, pickVmask, pickVmov, pickStores, pickMatrix,
      pickProj, pickCtx] at h
    split at h <;> cases h <;> rfl

end

theorem encodeBits_of_written {i : Instr} {w n : Nat} (h : Written i w n) : encodeBits i = some (w, n) := by
  cases h with
  | short hfn hb ha hd hm h => exact encodeBits_of_decodeMajor32 hfn hb ha hd h
  | long hm hfn h => exact encodeBits_of_pick64 hfn h
  | header h hw => subst h hw; rfl

/-- The encoder writes just the words that stand for an instruction. -/
theorem encodeBits_eq_some_iff {i : Instr} {w n : Nat} : encodeBits i = some (w, n) ↔ Written i w n :=
  ⟨written_of_encodeBits, encodeBits_of_written⟩

/-! ## Parcels and bytes -/

/-- The low bytes of a word, put together again. -/
theorem parcelOf_leBytes (w : Nat) :
    parcelOf (BitVec.ofNat 8 w) (BitVec.ofNat 8 (w / 256)) (BitVec.ofNat 8 (w / 256 / 256))
      (BitVec.ofNat 8 (w / 256 / 256 / 256)) = w % 2 ^ 32 := by
  simp only [parcelOf, BitVec.toNat_ofNat]
  omega

theorem parcelOf_lt (b0 b1 b2 b3 : Byte) : parcelOf b0 b1 b2 b3 < 2 ^ 32 := by
  unfold parcelOf; omega

theorem leBytes_parcelOf (b0 b1 b2 b3 : Byte) (x : Nat) :
    leBytes 4 (parcelOf b0 b1 b2 b3 + x * 4294967296) = [b0, b1, b2, b3] := by
  simp only [leBytes, parcelOf, List.cons.injEq, and_true]
  exact ⟨ofNat_eq_of_mod_eq (by omega), ofNat_eq_of_mod_eq (by omega), ofNat_eq_of_mod_eq (by omega),
    ofNat_eq_of_mod_eq (by omega)⟩

theorem leBytes_add (n m w : Nat) : leBytes (n + m) w = leBytes n w ++ leBytes m (w / 256 ^ n) := by
  induction n generalizing w with
  | zero => simp [leBytes]
  | succ n ih => simp only [Nat.succ_add, leBytes, ih, List.cons_append, pow_succ', Nat.div_div_eq_div_mul]

/-- Bytes that begin with one parcel of the short kind decode as the parcel does (R52). -/
theorem decode_one_parcel {w : Nat} (rest : List Byte) (h : w < 2 ^ 32) (h4 : w % 4 ≠ 1) :
    decode (leBytes 4 w ++ rest) = (decodeParcels w 0).map fun i => (i, rest) := by
  have hw : w % 2 ^ 32 = w := Nat.mod_eq_of_lt h
  simp only [leBytes, List.cons_append, List.nil_append, decode, parcelOf_leBytes, hw, parcelCount, if_neg h4, if_true]

/-- Bytes that begin with two parcels of the long kind decode as the two do (R52). -/
theorem decode_two_parcels {w : Nat} (rest : List Byte) (h : w < 2 ^ 64) (h4 : w % 4 = 1) :
    decode (leBytes 8 w ++ rest) = (decode64 w).map fun i => (i, rest) := by
  have hlow : w % 2 ^ 32 % 4 = 1 := by omega
  have hodd : w % 2 ^ 32 % 2 ≠ 0 := by omega
  have hhigh : w / 256 / 256 / 256 / 256 % 2 ^ 32 = w / 2 ^ 32 := by omega
  have hjoin : w % 2 ^ 32 + w / 2 ^ 32 * 4294967296 = w := by omega
  simp only [leBytes, List.cons_append, List.nil_append, decode, parcelOf_leBytes, hhigh, parcelCount, if_pos hlow,
    decodeParcels, if_neg hodd, hjoin, Nat.reduceEqDiff, if_false]

theorem decode32_join32 {fn b a d maj : Nat} {i : Instr} (hfn : fn < 1024) (hb : b < 32) (ha : a < 32) (hd : d < 32)
    (hm : maj < 64) (h : decodeMajor32 maj fn b a d = .ok i) : decode32 (join32 fn b a d maj) = whenWellFormed i := by
  obtain ⟨e1, e2, e3, e4, e5⟩ := join32_fields hb ha hd hm hfn
  have h0 : join32 fn b a d maj ≠ 0 := by
    intro hz
    have hmaj : maj = 0 := by rw [← e1, hz]
    rw [hmaj] at h
    cases h
  simp only [decode32, if_neg h0, e1, e2, e3, e4, e5, h]

theorem decodeHeader_headerWord (s6 s5 s4 s3 s2 s1 : BitVec 4) (k : BitVec 3) :
    decodeHeader (headerWord s6 s5 s4 s3 s2 s1 k) = .ok (.convoyHeader s6 s5 s4 s3 s2 s1 k) := by
  have h0 : ¬ headerWord s6 s5 s4 s3 s2 s1 k / 32 % 8 ≠ 0 := by unfold headerWord; omega
  rw [decodeHeader, if_neg h0]
  simp only [headerWord, Except.ok.injEq, Instr.convoyHeader.injEq]
  exact ⟨ofNat_eq_of_mod_eq (by omega), ofNat_eq_of_mod_eq (by omega), ofNat_eq_of_mod_eq (by omega),
    ofNat_eq_of_mod_eq (by omega), ofNat_eq_of_mod_eq (by omega), ofNat_eq_of_mod_eq (by omega),
    ofNat_eq_of_mod_eq (by omega)⟩

/-- The word of a well-formed instruction decodes to it, whatever bytes follow. -/
theorem Written.decode_bytes {i : Instr} {w n : Nat} (h : Written i w n) (hwf : wellFormed i = true)
    (rest : List Byte) : decode (leBytes (4 * n) w ++ rest) = .ok (i, rest) := by
  have hok : whenWellFormed i = .ok i := by simp [whenWellFormed, hwf]
  cases h with
  | @short fn b a d maj hfn hb ha hd hm h =>
    have hlt : join32 fn b a d maj < 2 ^ 32 := by unfold join32; omega
    have heven : join32 fn b a d maj % 2 = 0 := by unfold join32; omega
    rw [decode_one_parcel rest hlt (by omega), decodeParcels, if_pos heven, decode32_join32 hfn hb ha hd hm h, hok]
    rfl
  | @long maj fn f hm hfn h =>
    obtain ⟨e1, e2, e3⟩ := join64_fields f hm hfn
    have hfits := (Laws.fits_long (encodeBits_of_pick64 hfn h) hfn hm) _ _ (encodeBits_of_pick64 hfn h)
    rw [decode_two_parcels rest (by omega) (by omega), decode64, e1, e2, e3, h]
    simp only [hok]; rfl
  | @header w s6 s5 s4 s3 s2 s1 k h hw =>
    subst hw
    have hlt : headerWord s6 s5 s4 s3 s2 s1 k < 2 ^ 32 := by unfold headerWord; omega
    have h3 : headerWord s6 s5 s4 s3 s2 s1 k % 4 = 3 := by unfold headerWord; omega
    rw [decode_one_parcel rest hlt (by omega), decodeParcels, if_neg (by omega), if_neg (by omega),
      decodeHeader_headerWord, h]
    rfl

/-- Settles O52: the encoder writes a word that stands for the instruction, and such a word decodes to it. -/
theorem encodingRoundTrips : Obligations.EncodingRoundTrips := by
  unfold Obligations.EncodingRoundTrips
  intro i w n rest henc hwf
  simp only [encode, henc]
  exact (encodeBits_eq_some_iff.mp henc).decode_bytes hwf rest

/-! ## Exactness -/

theorem written_of_decode32 {w : Nat} {i : Instr} (hlt : w < 2 ^ 32) (heven : w % 2 = 0) (h : decode32 w = .ok i) :
    Written i w 1 ∧ wellFormed i = true := by
  have hw : join32 (w / 4194304 % 1024) (w / 131072 % 32) (w / 4096 % 32) (w / 128 % 32) (w / 2 % 64) = w := by
    unfold join32; omega
  unfold decode32 at h
  split at h
  · cases h
  split at h
  · next j hj =>
    obtain ⟨hwf, rfl⟩ := whenWellFormed_eq_ok.mp h
    exact ⟨hw ▸ .short (by omega) (by omega) (by omega) (by omega) (by omega) hj, hwf⟩
  · cases h

theorem written_of_decode64 {w : Nat} {i : Instr} (hlt : w < 2 ^ 64) (h4 : w % 4 = 1) (h : decode64 w = .ok i) :
    Written i w 2 ∧ wellFormed i = true := by
  unfold decode64 at h
  split at h
  · cases h
  · cases h
  · next j hj =>
    obtain ⟨hwf, rfl⟩ := whenWellFormed_eq_ok.mp h
    exact ⟨join64_of_fields hlt h4 ▸ .long (by omega) (by omega) hj, hwf⟩

theorem written_of_decodeHeader {w : Nat} {i : Instr} (hlt : w < 2 ^ 32) (h4 : w % 4 = 3) (h : decodeHeader w = .ok i) :
    Written i w 1 ∧ wellFormed i = true := by
  unfold decodeHeader at h
  split at h
  · cases h
  · next h0 =>
    cases h
    have hw : headerWord (BitVec.ofNat 4 (w / 268435456)) (BitVec.ofNat 4 (w / 16777216)) (BitVec.ofNat 4 (w / 1048576))
        (BitVec.ofNat 4 (w / 65536)) (BitVec.ofNat 4 (w / 4096)) (BitVec.ofNat 4 (w / 256)) (BitVec.ofNat 3 (w / 4)) = w := by
      simp only [headerWord, BitVec.toNat_ofNat]; omega
    exact ⟨.header rfl hw, rfl⟩

theorem written_of_decodeParcels {w : Nat} {i : Instr} (hlt : w < 2 ^ 32) (h4 : w % 4 ≠ 1)
    (h : decodeParcels w 0 = .ok i) : Written i w 1 ∧ wellFormed i = true := by
  unfold decodeParcels at h
  split at h
  · next heven => exact written_of_decode32 hlt heven h
  · exact written_of_decodeHeader hlt (by omega) h

theorem map_pair_eq_ok {x : Except Reject Instr} {i : Instr} {r r' : List Byte} :
    (x.map fun j => (j, r)) = .ok (i, r') ↔ x = .ok i ∧ r = r' := by
  cases x <;> simp [Except.map]

/-- Whatever bytes decode, they are the word of the well-formed instruction they decode to, and the bytes after it. -/
theorem written_of_decode {bs rest : List Byte} {i : Instr} (h : decode bs = .ok (i, rest)) :
    ∃ w n, Written i w n ∧ wellFormed i = true ∧ bs = leBytes (4 * n) w ++ rest := by
  unfold decode at h
  split at h
  · next b0 b1 b2 b3 tail =>
    have hlt := parcelOf_lt b0 b1 b2 b3
    have hlow := leBytes_parcelOf b0 b1 b2 b3
    dsimp only at h
    split at h
    · next hone =>
      have h4 : parcelOf b0 b1 b2 b3 % 4 ≠ 1 := by intro h4; simp [parcelCount, h4] at hone
      obtain ⟨hd, rfl⟩ := map_pair_eq_ok.mp h
      obtain ⟨hw, hwf⟩ := written_of_decodeParcels hlt h4 hd
      have hbytes : leBytes 4 (parcelOf b0 b1 b2 b3) = [b0, b1, b2, b3] := by simpa using hlow 0
      exact ⟨_, 1, hw, hwf, by rw [hbytes]; rfl⟩
    · next htwo =>
      have h4 : parcelOf b0 b1 b2 b3 % 4 = 1 := by by_contra h4; simp [parcelCount, h4] at htwo
      split at h
      · next b4 b5 b6 b7 tail =>
        have hlt' := parcelOf_lt b4 b5 b6 b7
        obtain ⟨hd, rfl⟩ := map_pair_eq_ok.mp h
        rw [decodeParcels, if_neg (by omega), if_pos h4] at hd
        obtain ⟨hw, hwf⟩ := written_of_decode64 (by omega) (by omega) hd
        have hhigh : (parcelOf b0 b1 b2 b3 + parcelOf b4 b5 b6 b7 * 4294967296) / 256 ^ 4 = parcelOf b4 b5 b6 b7 := by
          omega
        have hbytes : leBytes 4 (parcelOf b4 b5 b6 b7) = [b4, b5, b6, b7] := by simpa using leBytes_parcelOf b4 b5 b6 b7 0
        exact ⟨_, 2, hw, hwf, by rw [leBytes_add 4 4, hhigh, hbytes, hlow]; rfl⟩
      · cases h
  · cases h

/-- Settles O53: what decodes is a word that stands for the instruction, and the encoder writes just such words. -/
theorem decodingIsExact : Obligations.DecodingIsExact := by
  unfold Obligations.DecodingIsExact
  intro bs rest i h
  obtain ⟨w, n, hw, hwf, rfl⟩ := written_of_decode h
  simp only [encode, encodeBits_eq_some_iff.mpr hw, hwf, true_and]

/-! ## Words of the opcode table -/

/-- The word that the encoder writes is read back from the bits as the opcode table numbers them. -/
theorem decodeTableWord_of_encodeBits {i : Instr} {w n nbits : Nat} (h : encodeBits i = some (w, n)) (hn : n ≤ 2)
    (hlt : w < 2 ^ nbits) (hwf : wellFormed i = true) : decodeTableWord nbits w = some i := by
  have hsplit : leBytes 8 w = leBytes (4 * n) w ++ leBytes (8 - 4 * n) (w / 256 ^ (4 * n)) := by
    rw [← leBytes_add]; congr 1; omega
  simp only [decodeTableWord, Nat.mod_eq_of_lt hlt, hsplit, (encodeBits_eq_some_iff.mp h).decode_bytes hwf]

/-- Settles O54: each word is what the encoder writes for the instruction; the three parcels are refused by the decoder. -/
theorem wordsDecode : Obligations.WordsDecode := by
  unfold Obligations.WordsDecode
  have short {i : Instr} {w : Nat} (h : encodeBits i = some (w, 1)) (hlt : w < 2 ^ 32) (hwf : wellFormed i = true) :
      decodeTableWord 32 w = some i := decodeTableWord_of_encodeBits h (by decide) hlt hwf
  have long {i : Instr} {w : Nat} (h : encodeBits i = some (w, 2)) (hlt : w < 2 ^ 64) (hwf : wellFormed i = true) :
      decodeTableWord 64 w = some i := decodeTableWord_of_encodeBits h (by decide) hlt hwf
  refine ⟨short rfl (by decide) rfl, short rfl (by decide) rfl, short rfl (by decide) rfl, short rfl (by decide) rfl,
    short rfl (by decide) rfl, short rfl (by decide) rfl, long rfl (by decide) rfl, long rfl (by decide) rfl,
    short rfl (by decide) rfl, rfl, rfl, rfl⟩

end Sys2Proof
end

section
/-! What a step runs (R52, R53, R68): a turn of a ready hart is the fetch and the instruction, and the fetch is one or two
parcels. -/

namespace Sys2Proof.Machine

/-! ## A turn of a hart that has nothing to take first -/

/-- Frozen entries and an empty queue leave nothing to run at the head. -/
theorem runHead_of_not_busy {s : State} (h : queueBusy s.h = false) : runHead s = s := by
  unfold runHead runHeadTo
  cases hf : s.h.frozen
  · have hq : s.h.queue = [] := by simpa [queueBusy, hf] using h
    simp [hq]
  · simp

theorem hartTurn_of_ready {s : State} (hrun : s.h.run = .running) (hrb : s.h.readback = []) (hq : queueBusy s.h = false)
    (hstop : stopReady s s.cur = false) (hirq : interruptReady s s.cur = false) (harr : s.h.arrayTrap = none)
    (hrep : s.h.replay = false) : hartTurn s = fetchRun s := by
  have hdel : deliverTurn s = s := by simp [deliverTurn, hrb]
  have hev : boundaryEvent s = none := by simp [boundaryEvent, harr, hstop, hirq]
  simp [hartTurn, hrun, hdel, hev, runHead_of_not_busy hq, scalarTurn, hrep]

/-! ## The fetch -/

theorem runAcc_fetchInstr_one {va w : Nat} {gs : List Nat} {s u : State} (h : runAcc (fetchParcel va) s = (.ok (w, gs), u))
    (h1 : parcelCount w = 1) : runAcc (fetchInstr va) s = (.ok (w, (decodeParcels w 0).toOption, gs), u) := by
  simp [fetchInstr, runAcc_bind, h, h1]

theorem runAcc_fetchInstr_two {va w w' : Nat} {gs gs' : List Nat} {s u v : State}
    (h : runAcc (fetchParcel va) s = (.ok (w, gs), u)) (h1 : parcelCount w ≠ 1)
    (h' : runAcc (fetchParcel ((va + 4) % 2 ^ 64)) u = (.ok (w', gs'), v)) :
    runAcc (fetchInstr va) s = (.ok (w + w' * 2 ^ 32, (decodeParcels w w').toOption, gs ++ gs'), v) := by
  simp only [fetchInstr, runAcc_bind, h, h1, if_false, h', runAcc_pure]

theorem fetchRun_of_decoded {s u : State} {w : Nat} {i : Instr} {gs : List Nat}
    (h : runAcc (fetchInstr s.h.pc.toNat) s = (.ok (w, some i, gs), u)) :
    fetchRun s = deliverFetched gs (exec i (dropFetch (some i) s.h.pc.toNat u)) := by
  simp only [fetchRun, h]

theorem fetchRun_of_undecoded {s u : State} {w : Nat} {gs : List Nat}
    (h : runAcc (fetchInstr s.h.pc.toNat) s = (.ok (w, none, gs), u)) :
    fetchRun s = deliverFetched gs (scalarTrap 0x01 (word w) (dropFetch none s.h.pc.toNat u)) := by
  simp only [fetchRun, h]

@[simp] theorem dropFetch_h (i : Option Instr) (va : Nat) (s : State) : (dropFetch i va s).h = s.h := rfl

/-- A trap with nothing to wait for is taken at the PC. -/
theorem scalarTrap_of_not_busy (cause : Nat) (val : Word) {s : State} (h : queueBusy s.h = false) :
    scalarTrap cause val s = .next (takeTrap false cause val s.h.pc 32 s) := by
  simp [scalarTrap, h]

end Sys2Proof.Machine

namespace Sys2Proof

open Machine Claim

/-- Settles O55: a ready hart's turn is `fetchRun`, whose parcels `fetchInstr` decodes. -/
theorem stepRunsTheDecodedInstruction : Obligations.StepRunsTheDecodedInstruction := by
  unfold Obligations.StepRunsTheDecodedInstruction
  intro s i w0 w1 u v ready
  have hstep (h : ready) : step s = afterTurn (fetchRun s) := by
    obtain ⟨hag, hrun, hrb, hq, hstop, hirq, harr, hrep⟩ := h
    rw [← hartTurn_of_ready hrun hrb hq hstop hirq harr hrep]
    simp [step, hag]
  refine ⟨fun hr hf => ⟨fun h1 hd => ?_, fun h1 hf' hd => ?_, fun r h1 hd hq => ?_⟩, fun gs hr hf hgs hq => ?_, ?_, ?_⟩
  · have hi := runAcc_fetchInstr_one hf h1
    rw [hd] at hi
    rw [hstep hr, fetchRun_of_decoded hi, deliverFetched_nil]
  · have hi := runAcc_fetchInstr_two hf h1 hf'
    rw [hd] at hi
    rw [hstep hr, fetchRun_of_decoded hi, List.nil_append, deliverFetched_nil]
  · have hi := runAcc_fetchInstr_one hf h1
    rw [hd] at hi
    rw [hstep hr, fetchRun_of_undecoded hi, deliverFetched_nil, scalarTrap_of_not_busy _ _ (by simpa using hq)]
    rfl
  · have hi := runAcc_fetchInstr_one hf rfl
    rw [hstep hr, fetchRun_of_undecoded hi, scalarTrap_of_not_busy _ _ (by simpa using hq), deliverFetched,
      if_neg (by simpa using hgs)]
    rfl
  · intro l r hag henc
    simp [step, hag, takeTurn, isStep, henc]
  · intro n r hag
    simp [step, hag, takeTurn]

end Sys2Proof
end

section
/-! The commit of a vector instruction (R68, R333): what each of its answers needs. -/

namespace Sys2Proof.Machine

/-! ## Every vector instruction is committed the same way -/

/-- An instruction that touches no memory needs no room in the range table (R361). -/
theorem commitMemory_of_no_range (i : Instr) (check : CheckFn) (perf : PerfFn) (s : State)
    (h : touchRange s (curCore s) i s.h.conf (captureA i s) (captureB i s) = none) :
    commitMemory i check perf s = commitVector i check perf s := by
  simp [commitMemory, h]

/-- A vector, mask, small-matrix, matrix or projection instruction is its commit, with room in the range table. -/
theorem exec_eq_commitMemory {i : Instr} {v : CheckFn × PerfFn} (hv : vectorOf i = some v) (s : State) :
    exec i s = commitMemory i v.1 v.2 s := by
  cases i with
  | vld hint f | vlds hint f | vldx hint f | vst f | vsts f | vstx f | vamo op old f | vupd tag f | smld f | smst f
  | mspl f | mfil f => cases hv; rfl
  | vadd f | vsub f | vmul f | vmulh f | vmulhu f | vmin f | vmax f | vminu f | vmaxu f | vand f | vor f | vxor f
  | vsll f | vsrl f | vsra f | vaddsat f | vsubsat f | vcmpeq f | vcmplt f | vcmpltu f | vfadd rm f | vfsub rm f
  | vfmul rm f | vfma rm f | vfms rm f | vfnma rm f | vfmin rm f | vfmax rm f | vfabs rm f | vfneg rm f
  | vfcmpeq rm f | vfcmplt rm f | vfcmple rm f | vfclass rm f | vfrcp f | vfrsq f | vfrcps f | vfrsqs f | vfexp2 f
  | vflog2 f | vftanh f | vcvt rm sat f | vqnt rm sat f | vdqnt rm sat f | vcbdec rm sat f | vredsum f | vredmin f
  | vredmax f | vfredsum f | vfredmin f | vfredmax f | vperm f | vslideup f | vslidedn f | vcompress f | vexpand f
  | vgtrn f | vqtrn f | vbsll f | vbsrl f | vbfsl f | vbfsr f | mand f | mor f | mxor f | mandn f | mset f | mpopc f
  | mfirst f | vmv f | vmvs f | vins f | vbcast f | viota f | vmerge f | smget f | smput f | smid f | smadd f
  | smscl f | smmul f | smma f | smtr f | smmv f | smchol f | smlu f | smsolv f | mcfg f | mldw f | mswap f | mstrm f
  | mdrn f | mzero f | vproj f | vpjadj f =>
    cases hv
    exact (commitMemory_of_no_range _ _ _ _ rfl).symm
  | _ => cases hv

/-! ## The answers of a commit -/

theorem commitMemory_of_room {i : Instr} {check : CheckFn} {perf : PerfFn} {s : State}
    (h : touchRange s (curCore s) i s.h.conf (captureA i s) (captureB i s) = none ∨ tableUsed s (curCore s) < 32) :
    commitMemory i check perf s = commitVector i check perf s := by
  rcases h with h | h
  · exact commitMemory_of_no_range _ _ _ _ h
  · have hroom : tableFull s (curCore s) 1 = false := decide_eq_false (by omega)
    simp [commitMemory, hroom]

/-- A commit while the queue stands frozen (R340). -/
theorem commitMemory_frozen (i : Instr) (check : CheckFn) (perf : PerfFn) {s : State} (h : s.h.frozen = true) :
    commitMemory i check perf s = commitTrap 0x04 i s := by
  simp [commitMemory, commitVector, h]

/-- A commit whose checks against the configuration fail (R68). -/
theorem commitMemory_refused (i : Instr) {check : CheckFn} (perf : PerfFn) {s : State} (hf : s.h.frozen = false)
    (hc : check s.h.conf ≠ 0) : commitMemory i check perf s = commitTrap (check s.h.conf) i s := by
  simp [commitMemory, commitVector, hf, hc]

/-- The entry that a commit queues. -/
abbrev capturedEntry (i : Instr) (s : State) : Entry := .instr i (captureA i s) (captureB i s)

/-- The state in which the entry of a commit on an empty queue begins to run. -/
def aloneAtHead (i : Instr) (s : State) : State :=
  performAs (s.h.arrived ++ [s.tick]).head?
    (pushEntry (capturedEntry i s) { s with h := { s.h with headConf := s.h.conf } })

section
variable {i : Instr} {check : CheckFn} (perf : PerfFn) {s : State} (hf : s.h.frozen = false) (hc : check s.h.conf = 0)
  (hfree : ∀ r ∈ capturesOf i, isPending s.h r = false) (hlen : s.h.queue.length < 32)

include hf hc hfree hlen in
/-- Behind entries captured under more lanes a commit waits (log 31). -/
theorem commitVector_behind_more_lanes (hq : s.h.queue ≠ []) (hconf : tailConf s.h ≠ s.h.conf) :
    commitVector i check perf s = stall s := by
  have hahead : confAhead s.h = true := by simp [confAhead, hq, hconf]
  unfold commitVector
  rw [if_neg (by simp [hf]), if_neg (by simp [hc]), whenReady_ready _ _ _ hfree, if_neg (by omega), if_pos hahead]

variable (hrb : readbackUsed s.h < 8)

include hf hc hfree hlen hrb in
/-- With room everywhere the entry takes the tail slot, and runs where that is the head (log 1). -/
theorem commitVector_with_room (hahead : confAhead s.h = false) :
    commitVector i check perf s =
      let s' := pushEntry (capturedEntry i s) (headAsCaptured s)
      .next (if s.h.queue.isEmpty then
          finishHead 1 s'.h.qhead s'.h.vstart (parcelsOf i)
            (perf s'.h.headConf (captureA i s) (captureB i s) (performAs s'.h.arrived.head? s'))
        else s') := by
  unfold commitVector
  rw [if_neg (by simp [hf]), if_neg (by simp [hc]), whenReady_ready _ _ _ hfree, if_neg (by omega),
    if_neg (by simp [hahead]), if_neg (by simp [Nat.not_le.2 hrb])]

include hf hc hfree hlen hrb in
/-- On an empty queue the entry is the head's and runs at once. -/
theorem commitVector_alone (hq : s.h.queue = []) :
    commitVector i check perf s =
      .next (finishHead 1 s.h.qhead s.h.vstart (parcelsOf i) (perf s.h.conf (captureA i s) (captureB i s)
        (aloneAtHead i s))) := by
  have hempty : s.h.queue.isEmpty = true := by simp [hq]
  rw [commitVector_with_room perf hf hc hfree hlen hrb (by simp [confAhead, hq]), headAsCaptured]
  simp only [if_pos hempty]
  rfl

include hf hc hfree hlen hrb in
/-- Behind other entries it takes the slot at the tail (R333). -/
theorem commitVector_behind (hq : s.h.queue ≠ []) (hconf : tailConf s.h = s.h.conf) :
    commitVector i check perf s = .next (pushEntry (capturedEntry i s) s) := by
  have hempty : ¬ s.h.queue.isEmpty = true := by simp [hq]
  rw [commitVector_with_room perf hf hc hfree hlen hrb (by simp [confAhead, hconf]), headAsCaptured]
  simp only [if_neg hempty]

end

end Sys2Proof.Machine

namespace Sys2Proof

open Machine Claim

/-- Settles O21: the three answers of a commit whose checks pass. -/
theorem vectorInstructionsAreCommitted : Obligations.VectorInstructionsAreCommitted := by
  unfold Obligations.VectorInstructionsAreCommitted
  intro i s v hv hf hc hfree hlen hrb hroom
  rw [exec_eq_commitMemory hv, commitMemory_of_room hroom]
  refine ⟨fun hq => commitVector_alone v.2 hf hc hfree hlen hrb hq,
    fun hq hconf => commitVector_behind_more_lanes v.2 hf hc hfree hlen hq hconf,
    fun hq hconf => ⟨_, commitVector_behind v.2 hf hc hfree hlen hrb hq hconf, ?_⟩⟩
  exact ⟨rfl, rfl, rfl, rfl, rfl, rfl, rfl, rfl⟩

end Sys2Proof
end

section
/-! The checks of a vector instruction (R68): what makes them fail at commit, what makes those of the engine's instructions
pass, and the ownership check at the head (R170). -/

namespace Sys2Proof.Machine

open Claim

/-! ## Checks against the configuration -/

theorem checks_eq_zero {bad04 bad03 : Bool} : checks bad04 bad03 = 0 ↔ bad04 = false ∧ bad03 = false := by
  cases bad04 <;> cases bad03 <;> decide

theorem indexBad_vadd {f : VF} {c : VConf} (h : confN c ≤ f.d.toNat) : indexBad (.vadd f) c = true := by
  simp [indexBad, rolesOf, vecBad, h]

theorem checkVadd_not_int {f : VF} {c : VConf} (h : isInt (confFmt c) = false) : checkVadd f c = 0x04 := by
  simp [checkVadd, checkInt, checks, intOnly, h]

theorem checkVadd_index {f : VF} {c : VConf} (hint : isInt (confFmt c) = true) (h : confN c ≤ f.d.toNat) :
    checkVadd f c = 0x03 := by
  simp [checkVadd, checkInt, checks, intOnly, hint, indexBad_vadd h]

theorem groupsMeet_eq_false {r n q k : Nat} (h : Apart r n q k) : groupsMeet r n q k = false := by
  rcases h with h | h
  · have : ¬ q < r + n := by omega
    simp [groupsMeet, this]
  · have : ¬ r < q + k := by omega
    simp [groupsMeet, this]

theorem groupBad_eq_false {s : State} {r n : Nat} (h : GroupFits s r n) : groupBad s.h.conf r n = false :=
  decide_eq_false (Nat.not_lt.2 h)

theorem rowsBad_eq_false {s : State} (h : RowsLegal s) : rowsBad s.h.conf = false := by
  obtain ⟨h64, h0, hmax⟩ := h
  simp [rowsBad, h64, h0, hmax]

theorem scaledBad04_eq_false {s : State} {f : VF} {n : Nat} (h : ScalesLegal s f n) :
    scaledBad04 s.h.conf f.a.toNat f.c.toNat n = false := by
  have hblk : planeBlk s.h.conf = 0 ↔ fmtOf s = 1 ∨ fmtOf s = 2 ∨ confBlk s.h.conf = 0 := by
    simp only [planeBlk, unscaledFormat, fmtOf]
    by_cases h1 : confFmt s.h.conf = 1 <;> by_cases h2 : confFmt s.h.conf = 2 <;> simp [h1, h2]
  unfold ScalesLegal at h
  unfold scaledBad04
  by_cases hz : planeBlk s.h.conf = 0
  · rw [if_pos (hblk.mp hz)] at h
    simp [hz, h]
  · rw [if_neg (fun hp => hz (hblk.mpr hp))] at h
    obtain ⟨hone, hapart⟩ := h
    have h1 : oneScaleGroup s.h.conf f.a.toNat n = true := beq_iff_eq.mpr hone
    rw [if_neg hz, h1]
    exact groupsMeet_eq_false hapart

theorem afFormat_iff {x : Nat} : afFormat x = true ↔ x ∈ rowFormats := by
  simp only [afFormat, rowFormats, Bool.and_eq_true, decide_eq_true_eq, List.mem_cons, List.not_mem_nil, or_false]
  omega

theorem bfFormat_iff {x : Nat} : bfFormat x = true ↔ x ∈ planeFormats := by
  simp only [bfFormat, afFormat, planeFormats, Bool.or_eq_true, Bool.and_eq_true, decide_eq_true_eq, beq_iff_eq,
    List.mem_cons, List.not_mem_nil, or_false]
  omega

theorem bitsGet_eq_div_mod (x pos len : Nat) : bitsGet x pos len = x / 2 ^ pos % 2 ^ len := by
  rw [bitsGet, Nat.shiftRight_eq_div_pow]

/-- The registers of a vector, and of the records of its rows, as the statements count them. -/
theorem spanOf_eq_registersFor (s : State) (n : Nat) : spanOf s.h.conf (confW s.h.conf) n = registersFor s n := rfl

theorem recordSpan_eq_recordRegisters (s : State) : recordSpan s.h.conf = recordRegisters s := rfl

/-! ## The checks of the engine's instructions -/

theorem checkMcfg_of_legal {f : VF} (c : VConf) (h : McfgLegal f) : checkMcfg f c = 0 := by
  obtain ⟨haf, hbf⟩ := h
  have h1 : afFormat (bitsGet f.imm.toNat 0 4) = true := afFormat_iff.mpr haf
  have h2 : bfFormat (bitsGet f.imm.toNat 4 4) = true := by
    rw [bfFormat_iff, bitsGet_eq_div_mod]; exact hbf
  simp [checkMcfg, checks, h1, h2]

theorem mldwMode_of_legal {s : State} {f : VF} (h : MldwLegal s f) : mldwMode f s.h.conf = true := by
  obtain ⟨⟨himm, hfmt, hblk⟩ | ⟨himm, hfmt, hblk⟩ | ⟨himm, hfmt, hblk⟩, -⟩ := h
  · have haf : afFormat (confFmt s.h.conf) = true := afFormat_iff.mpr hfmt
    simp [mldwMode, himm, hblk, haf]
  · have hbf : bfFormat (confFmt s.h.conf) = true := bfFormat_iff.mpr hfmt
    have hb : confBlk s.h.conf ≠ 0 ∨ afFormat (confFmt s.h.conf) = true := hblk.imp_right afFormat_iff.mpr
    simp [mldwMode, himm, hbf, hb]
  · have hf : confFmt s.h.conf = 3 ∨ confFmt s.h.conf = 4 ∨ confFmt s.h.conf = 5 := by simpa [fmtOf] using hfmt
    simp [mldwMode, himm, hblk, hf, or_assoc]

theorem checkMldw_of_legal {s : State} {f : VF} (h : MldwLegal s f) : checkMldw f s.h.conf = 0 := by
  have hmode := mldwMode_of_legal h
  obtain ⟨-, hscale, hgroup, hpair, hidx⟩ := h
  have hscales : (confFmt s.h.conf == 11 && decide (confN s.h.conf ≤ f.c.toNat + 1)) = false := by
    by_cases h11 : confFmt s.h.conf = 11
    · simp [h11, hpair h11]
    · simp [h11]
  simp [checkMldw, checks, spanOf_eq_registersFor, hmode, scaledBad04_eq_false hscale, hidx, groupBad_eq_false hgroup,
    hscales]

theorem checkMstrm_of_legal {s : State} {f : VF} (h : MstrmLegal s f) : checkMstrm f s.h.conf = 0 := by
  obtain ⟨hrows, hscale, hgroup, hidx⟩ := h
  simp [checkMstrm, checks, spanOf_eq_registersFor, rowsBad_eq_false hrows, scaledBad04_eq_false hscale, hidx,
    groupBad_eq_false hgroup]

theorem checkMdrn_of_legal {s : State} {f : VF} (h : MdrnLegal s f) : checkMdrn f s.h.conf = 0 := by
  obtain ⟨hrows, hfmt, hblk, hset, hplain, hproj, hgroup, hidx⟩ := h
  have hset' : drainSet f = f.imm.toNat / 2 % 8 := bitsGet_eq_div_mod _ 1 3
  have hcols : bitsGet f.imm.toNat 4 6 = f.imm.toNat / 16 % 64 := bitsGet_eq_div_mod _ 4 6
  have hformat : drainFormat s.h.conf = true := by simpa [drainFormat, hblk, fmtOf] using hfmt
  rw [← hset'] at hset hplain hproj
  rw [checkMdrn, checks_eq_zero, mdrnBad04, spanOf_eq_registersFor, recordSpan_eq_recordRegisters,
    rowsBad_eq_false hrows, hformat, hidx, groupBad_eq_false hgroup]
  by_cases h0 : drainSet f = 0
  · obtain ⟨hn, hc⟩ := hplain h0
    simp [h0, hcols, hn, hc]
  · obtain ⟨hc, hapart, hfits⟩ := hproj h0
    have hc : ¬ f.c = 0#6 := hc
    simp [h0, hset, hc, groupsMeet_eq_false hapart, groupBad_eq_false hfits]

/-- The conditions that VPROJ and VPJADJ share. -/
theorem projBad_of_legal {i : Instr} {s : State} {f : VF} (h : ProjLegal i s f) :
    projBad04 s.h.conf f = false ∧ projBad03 s.h.conf f = false ∧ indexBad i s.h.conf = false := by
  obtain ⟨hset, hset7, hn, hfmt, hblk, hrows, hrec, hsrc, hd, ha, hc, hidx⟩ := h
  have hclash : (f.d != f.a && groupsMeet f.d.toNat (registersFor s s.h.conf.vl) f.a.toNat
      (registersFor s s.h.conf.vl)) = false := by
    by_cases hda : f.d = f.a
    · simp [hda]
    · simp [groupsMeet_eq_false (hsrc hda)]
  have hfmt : confFmt s.h.conf ≤ 2 := hfmt
  refine ⟨?_, ?_, hidx⟩
  · simp [projBad04, spanOf_eq_registersFor, recordSpan_eq_recordRegisters, hset, hset7, hn, hfmt, hblk,
      rowsBad_eq_false hrows, groupsMeet_eq_false hrec, hclash]
  · simp [projBad03, spanOf_eq_registersFor, recordSpan_eq_recordRegisters, groupBad_eq_false hd, groupBad_eq_false ha,
      groupBad_eq_false hc]

theorem checkVproj_of_legal {s : State} {f : VF} (h : VprojLegal s f) : checkVproj f s.h.conf = 0 := by
  obtain ⟨hproj, hapart⟩ := h
  obtain ⟨h04, h03, hidx⟩ := projBad_of_legal hproj
  simp [checkVproj, checks, spanOf_eq_registersFor, recordSpan_eq_recordRegisters, h04, h03, hidx,
    groupsMeet_eq_false hapart]

theorem checkVpjadj_of_legal {s : State} {f : VF} (h : VpjadjLegal s f) : checkVpjadj f s.h.conf = 0 := by
  obtain ⟨hproj, hapart, hb⟩ := h
  obtain ⟨h04, h03, hidx⟩ := projBad_of_legal hproj
  simp [checkVpjadj, checks, spanOf_eq_registersFor, h04, h03, hidx, groupsMeet_eq_false hapart, groupBad_eq_false hb]

/-! ## A trap leaves the engine as it is -/

@[simp] theorem leaveFifos_cur (c w : Nat) (s : State) : (leaveFifos c w s).cur = s.cur := by
  unfold leaveFifos; dsimp only; split <;> rfl

@[simp] theorem leaveHomes_cur (a : Nat) (s : State) : (leaveHomes a s).cur = s.cur := by
  unfold leaveHomes; split <;> rfl

@[simp] theorem leaveHomes_cores (a : Nat) (s : State) : (leaveHomes a s).cores = s.cores := by
  unfold leaveHomes; split <;> rfl

@[simp] theorem takeTrap_cur (intr : Bool) (cause : Nat) (val epc : Word) (qpos : BitVec 6) (s : State) :
    (takeTrap intr cause val epc qpos s).cur = s.cur := by
  show (dropLoads s).cur = s.cur
  simp [dropLoads]

/-- Of a core a hart leaves the waiters of its FIFO-mode banks alone changed (R347). -/
theorem getCore_leaveFifos (c w j : Nat) (s : State) :
    ∃ ws os, getCore (leaveFifos c w s) j = { getCore s j with waiters := ws, ousted := os } := by
  unfold leaveFifos
  dsimp only
  split
  · exact ⟨_, _, rfl⟩
  · rcases eq_or_ne j c with rfl | hj
    · exact ⟨_, _, by rw [getCore_setCore]⟩
    · exact ⟨_, _, by rw [getCore_setCore_of_ne _ _ _ _ hj]⟩

/-- A trap changes of a core the waiters of its FIFO-mode banks alone. -/
theorem getCore_takeTrap (intr : Bool) (cause : Nat) (val epc : Word) (qpos : BitVec 6) (s : State) (j : Nat) :
    ∃ ws os, getCore (takeTrap intr cause val epc qpos s) j = { getCore s j with waiters := ws, ousted := os } := by
  obtain ⟨ws, os, h⟩ := getCore_leaveFifos (curCore s) s.cur j (leaveHomes s.cur
    { s with remotes := s.remotes.filter fun r => !(r.hart == s.cur && r.kind == 0) })
  have hcores : getCore (leaveHomes s.cur { s with
      remotes := s.remotes.filter fun r => !(r.hart == s.cur && r.kind == 0) }) j = getCore s j := by
    simp only [getCore, leaveHomes_cores]
  rw [hcores] at h
  exact ⟨ws, os, h⟩

/-- The trap of the entry at the head, which keeps its slot (R340, R367). -/
theorem finishHead_trap (n slot x : Nat) (parcels : Word) (cause : Nat) (s : State) :
    finishHead n slot x parcels (.trap cause none s) =
      takeTrap false cause parcels (performAs none s).h.pc (BitVec.ofNat 6 slot) (performAs none s) := rfl

/-- An engine instruction that does not own the engine traps at the head (R170). -/
theorem engineOwned_of_not_owns (p : PerfFn) (c : VConf) (a b : Word) {s : State} (h : ¬ Owns s) :
    engineOwned p c a b s = .trap 0x18 none s := by
  have hown : ownsEngine s = false := beq_eq_false_iff_ne.mpr h
  simp [engineOwned, hown]

/-- What an engine instruction leaves where it is refused at the head (R170, R340): its entry, the engine and the vector
registers as they were. -/
def RefusedAtHead (i : Instr) (s : State) : Prop :=
  ∃ t, exec i s = .next t ∧ t.h.trapcause = 0x18 ∧ t.h.trapval = parcelsOf i ∧
    t.h.trapqpos = BitVec.ofNat 6 s.h.qhead ∧ t.h.epc = s.h.pc + 8 ∧ t.h.pc = s.h.trapvec ∧ t.h.frozen = true ∧
    t.h.queue.length = 1 ∧ (coreOf t).acc = (coreOf s).acc ∧ (coreOf t).wpa = (coreOf s).wpa ∧
    (coreOf t).wps = (coreOf s).wps ∧ t.h.v = s.h.v ∧ t.mem = s.mem

/-- What a trap saves and where it goes on; entries stay queued, frozen, and the vector registers as they are (R206). -/
theorem trapEntry_fields (intr : Bool) (cause : Nat) (val epc : Word) (qpos : BitVec 6) (h : Hart) :
    (trapEntry intr cause val epc qpos h).trapcause = word (cause % 256 + if intr then 2 ^ 63 else 0) ∧
    (trapEntry intr cause val epc qpos h).trapval = val ∧ (trapEntry intr cause val epc qpos h).trapqpos = qpos ∧
    (trapEntry intr cause val epc qpos h).epc = epc ∧ (trapEntry intr cause val epc qpos h).pc = h.trapvec ∧
    (trapEntry intr cause val epc qpos h).frozen = !h.queue.isEmpty ∧
    (trapEntry intr cause val epc qpos h).queue = h.queue ∧ (trapEntry intr cause val epc qpos h).v = h.v :=
  ⟨rfl, rfl, rfl, rfl, rfl, rfl, rfl, rfl⟩

/-- What the head's entry finds when it begins to run right after its commit. -/
theorem aloneAtHead_fields (i : Instr) (s : State) :
    (performAs none (aloneAtHead i s)).h.queue = s.h.queue ++ [capturedEntry i s] ∧
    (performAs none (aloneAtHead i s)).h.pc = s.h.pc + 8 ∧
    (performAs none (aloneAtHead i s)).h.trapvec = s.h.trapvec ∧ (performAs none (aloneAtHead i s)).h.v = s.h.v ∧
    (performAs none (aloneAtHead i s)).mem = s.mem ∧ (performAs none (aloneAtHead i s)).cur = s.cur ∧
    ∀ j, getCore (performAs none (aloneAtHead i s)) j = getCore s j :=
  ⟨rfl, rfl, rfl, rfl, rfl, rfl, fun _ => rfl⟩

/-- An engine instruction that can run at once is refused at the head of a hart that does not own the engine. -/
theorem refusedAtHead {i : Instr} {check : CheckFn} {p : PerfFn} {s : State} (hown : ¬ Owns s)
    (hv : vectorOf i = some (check, engineOwned p))
    (hrange : touchRange s (curCore s) i s.h.conf (captureA i s) (captureB i s) = none)
    (hat : AtOnce i s) (hcheck : check s.h.conf = 0) : RefusedAtHead i s := by
  obtain ⟨-, hf, hq, -, -, -, -, -, -, -, hfree, hrb⟩ := hat
  have hlen : s.h.queue.length < 32 := by simp [hq]
  have hused : readbackUsed s.h < 8 := by simpa [readbackUsed, hq, deliveries] using hrb
  have hown' : ¬ Owns (aloneAtHead i s) := hown
  obtain ⟨hqueue, hpc, hvec, hregs, hmem, hcur, hcores⟩ := aloneAtHead_fields i s
  have hexec : exec i s = .next (takeTrap false 0x18 (parcelsOf i) (s.h.pc + 8) (BitVec.ofNat 6 s.h.qhead)
      (performAs none (aloneAtHead i s))) := by
    rw [exec_eq_commitMemory hv, commitMemory_of_no_range _ _ _ _ hrange]
    show commitVector i check (engineOwned p) s = _
    rw [commitVector_alone _ hf hcheck hfree hlen hused hq, engineOwned_of_not_owns _ _ _ _ hown', finishHead_trap, hpc]
  obtain ⟨ws, os, hcore⟩ := getCore_takeTrap false 0x18 (parcelsOf i) (s.h.pc + 8) (BitVec.ofNat 6 s.h.qhead)
    (performAs none (aloneAtHead i s)) (curCore s)
  obtain ⟨tcause, tval, tqpos, tepc, tpc, tfrozen, tqueue, tregs⟩ := trapEntry_fields false 0x18 (parcelsOf i)
    (s.h.pc + 8) (BitVec.ofNat 6 s.h.qhead) (performAs none (aloneAtHead i s)).h
  refine ⟨_, hexec, ?_⟩
  simp only [coreOf, curCore, takeTrap_cur, hcur] at hcore ⊢
  rw [takeTrap_h, takeTrap_mem, tcause, tval, tqpos, tepc, tpc, tfrozen, tqueue, tregs, hcore, hqueue, hvec, hregs, hmem,
    hcores, hq]
  exact ⟨rfl, rfl, rfl, rfl, rfl, rfl, rfl, rfl, rfl, rfl, rfl, rfl⟩

end Sys2Proof.Machine

namespace Sys2Proof

open Machine Claim

/-- A frozen queue and a check that fails each trap with nothing queued before (R68, R340). -/
theorem vectorChecksTrapAtCommit : VectorChecksTrapAtCommit := by
  have refused {i : Instr} {check : CheckFn} {perf : PerfFn} {s : State} (hv : vectorOf i = some (check, perf))
      (hf : s.h.frozen = false) (hc : check s.h.conf ≠ 0) (hq : s.h.queue = []) :
      exec i s = .next (takeTrap false (check s.h.conf) (parcelsOf i) s.h.pc 32 s) := by
    rw [exec_eq_commitMemory hv, commitMemory_refused _ _ hf hc, commitTrap,
      scalarTrap_of_not_busy _ _ (by simp [queueBusy, hq])]
  refine ⟨fun i s v hv => ⟨fun hf => ?_, fun hf hc hq => refused hv hf hc hq⟩, fun s f hf hq => ⟨fun hint => ?_,
    fun hint hidx => ?_⟩⟩
  · rw [exec_eq_commitMemory hv, commitMemory_frozen _ _ _ hf, commitTrap,
      scalarTrap_of_not_busy _ _ (by simp [queueBusy, hf])]
  · have h04 : checkVadd f s.h.conf = 0x04 := checkVadd_not_int hint
    rw [refused (check := checkVadd f) rfl hf (by rw [h04]; decide) hq, h04]
  · have h03 : checkVadd f s.h.conf = 0x03 := checkVadd_index hint hidx
    rw [refused (check := checkVadd f) rfl hf (by rw [h03]; decide) hq, h03]

/-- Each engine instruction passes its checks at commit, begins at the head and is refused there (R170). -/
theorem engineBelongsToItsOwner : EngineBelongsToItsOwner := by
  intro s f hown
  exact ⟨fun hat hl => refusedAtHead hown rfl rfl hat (checkMcfg_of_legal _ hl),
    fun hat => refusedAtHead hown rfl rfl hat rfl,
    fun hat => refusedAtHead hown rfl rfl hat rfl,
    fun hat hl => refusedAtHead hown rfl rfl hat (checkMldw_of_legal hl),
    fun hat hl => refusedAtHead hown rfl rfl hat (checkMstrm_of_legal hl),
    fun hat hl => refusedAtHead hown rfl rfl hat (checkMdrn_of_legal hl),
    fun hat hl => refusedAtHead hown rfl rfl hat (checkVproj_of_legal hl),
    fun hat hl => refusedAtHead hown rfl rfl hat (checkVpjadj_of_legal hl)⟩

/-- Settles O37: the checks at commit, and the ownership check at the head. -/
theorem vectorTraps : Obligations.VectorTraps := by
  unfold Obligations.VectorTraps
  exact ⟨vectorChecksTrapAtCommit, engineBelongsToItsOwner⟩

end Sys2Proof
end

section
/-! The convoy header (R60 to R62, R333): when its fields are legal, and what its commit answers. -/

namespace Sys2Proof.Machine

/-- The fields of a header that R61 takes. -/
theorem headerBad_eq_false_iff {units : List Nat} {k : Nat} :
    headerBad units k = false ↔ 2 ≤ k ∧ k ≤ 6 ∧ (∀ u ∈ units.take k, u < 9) ∧ ∀ u ∈ units.drop k, u = 15 := by
  have hlow : 1 < k ↔ 2 ≤ k := Iff.rfl
  simp [headerBad, and_assoc, hlow]

/-- A header of illegal fields traps at itself (R61). -/
theorem execConvoyHeader_bad {s6 s5 s4 s3 s2 s1 : BitVec 4} {k : BitVec 3} {s : State}
    (hbad : headerBad (headerUnits s6 s5 s4 s3 s2 s1) k.toNat = true) (hq : queueBusy s.h = false) :
    execConvoyHeader s6 s5 s4 s3 s2 s1 k s =
      .next (takeTrap false 0x02 (parcelsOf (.convoyHeader s6 s5 s4 s3 s2 s1 k)) s.h.pc 32 s) := by
  simp [execConvoyHeader, hbad, trapAt, hq, word]

/-- A header whose members pass their checks, with no poison among their parcels, is committed. -/
theorem execConvoyHeader_members {s6 s5 s4 s3 s2 s1 : BitVec 4} {k : BitVec 3} {s t : State} {l : List Instr}
    (hbad : headerBad (headerUnits s6 s5 s4 s3 s2 s1) k.toNat = false)
    (hmem : checkMembers (.convoyHeader s6 s5 s4 s3 s2 s1 k) s.h.pc.toNat ((headerUnits s6 s5 s4 s3 s2 s1).take k.toNat)
      ((s.h.pc.toNat + 4) % 2 ^ 64) s = (t, [], .ok l)) (hf : t.h.frozen = false) :
    execConvoyHeader s6 s5 s4 s3 s2 s1 k s = commitConvoy (.convoyHeader s6 s5 s4 s3 s2 s1 k) l t := by
  unfold execConvoyHeader
  dsimp only
  rw [if_neg (by simp [hbad]), hmem]
  simp [hf]

/-- The slots that a convoy takes: its header with the starts of its members, and the members. -/
def convoyEntries (hdr : Instr) (l : List Instr) (s : State) : List Entry :=
  .convoy hdr (List.replicate l.length 0 ++ List.replicate (6 - l.length) 0xFFFF) :: l.map fun i => capturedEntry i s

/-- The state in which a convoy stands committed at the tail of the queue. -/
def convoyQueued (hdr : Instr) (l : List Instr) (s : State) : State :=
  let es := convoyEntries hdr l s
  let s := dropFetch none s.h.pc.toNat s
  perfAdd 1 (l.length + 1) { s with
    tick := s.tick + es.length
    h := { s.h with
      queue := s.h.queue ++ es, arrived := s.h.arrived ++ numbersFrom s.tick es.length
      pc := s.h.pc + word (4 + 8 * l.length), stalled := false, full := false, waitT0 := none
      headConf := if s.h.queue.isEmpty then s.h.conf else s.h.headConf } }

theorem convoyQueued_fields (hdr : Instr) (l : List Instr) (s : State) :
    (convoyQueued hdr l s).h.queue = s.h.queue ++ convoyEntries hdr l s ∧
    (convoyQueued hdr l s).h.pc = s.h.pc + word (4 + 8 * l.length) ∧ (convoyQueued hdr l s).h.x = s.h.x ∧
    (convoyQueued hdr l s).h.v = s.h.v ∧ (convoyQueued hdr l s).mem = s.mem :=
  ⟨rfl, rfl, rfl, rfl, rfl⟩

section
variable {hdr : Instr} {l : List Instr} {s : State} (hfree : ∀ r ∈ l.flatMap capturesOf, isPending s.h r = false)
  (hlen : s.h.queue.length + l.length + 1 ≤ 32)

include hfree hlen in
/-- Behind entries captured under more lanes a convoy waits (log 31). -/
theorem commitConvoy_behind_more_lanes (hahead : confAhead s.h = true) : commitConvoy hdr l s = stall s := by
  rw [commitConvoy, whenReady_ready _ _ _ hfree]
  dsimp only
  rw [if_neg (by omega), if_pos (by simp [hahead])]

include hfree hlen in
/-- With room in the queue, the range table and the read-back queue a convoy takes its slots (R333, R361). -/
theorem commitConvoy_with_room (hahead : confAhead s.h = false) (hrb : readbackUsed s.h + l.length ≤ 8)
    (htable : tableUsed s (curCore s) + convoyRanges l s ≤ 32) :
    commitConvoy hdr l s =
      .next (if s.h.queue.isEmpty then runHead (convoyQueued hdr l s) else convoyQueued hdr l s) := by
  have hfull : tableFull s (curCore s) (convoyRanges l s) = false := decide_eq_false (by omega)
  have hdel : (l.filter fun i => (deliversTo i).isSome).length ≤ l.length := List.length_filter_le _ _
  have hroom : decide (8 < readbackUsed s.h + (l.filter fun i => (deliversTo i).isSome).length) = false :=
    decide_eq_false (by omega)
  rw [commitConvoy, whenReady_ready _ _ _ hfree]
  dsimp only
  rw [if_neg (by omega), if_neg (by simp [hahead, hfull]), if_neg (by simp [hroom])]
  rfl

end

end Sys2Proof.Machine

namespace Sys2Proof

open Machine Claim

/-- Settles O41: the header's fields decide between the trap and the check of its members, and the room between a wait and
the commit of all slots. -/
theorem convoysCommitTogether : Obligations.ConvoysCommitTogether := by
  unfold Obligations.ConvoysCommitTogether
  intro s s6 s5 s4 s3 s2 s1 k hdr units legal
  have hlegal : headerBad units k.toNat = false ↔ legal := headerBad_eq_false_iff
  refine ⟨fun hl hf t l hmem ht hk hfree hlen hrb htable => ?_, fun hl hq => ?_⟩
  · have hconf : confAhead t.h = confAhead s.h := by rw [ht]; rfl
    have hqueue : t.h.queue = s.h.queue := by rw [ht]
    have hused : readbackUsed t.h = readbackUsed s.h := by rw [ht]; rfl
    have hpend : ∀ r ∈ l.flatMap capturesOf, isPending t.h r = false := by
      intro r hr
      rw [ht]
      exact hfree r hr
    have hexec : exec hdr s = commitConvoy hdr l t :=
      execConvoyHeader_members (hlegal.mpr hl) hmem (by rw [ht]; exact hf)
    have hlen' : t.h.queue.length + l.length + 1 ≤ 32 := by rw [hqueue]; omega
    rw [hexec]
    refine ⟨fun hq hmore => ?_, fun hsame => ?_⟩
    · exact commitConvoy_behind_more_lanes hpend hlen' (hconf.trans (by simp [confAhead, hq, hmore]))
    · have hahead : confAhead t.h = false := by
        rw [hconf]
        rcases hsame with hq | hq <;> simp [confAhead, hq]
      obtain ⟨uqueue, upc, ux, uv, umem⟩ := convoyQueued_fields hdr l t
      refine ⟨convoyQueued hdr l t, ?_, ?_, ?_, ?_, ?_, umem⟩
      · rw [commitConvoy_with_room hpend hlen' hahead (by omega) htable, hqueue]
      · rw [uqueue, hqueue, convoyEntries, hk]
      · rw [upc, hk, ht]; rfl
      · rw [ux, ht]
      · rw [uv, ht]
  · exact execConvoyHeader_bad (Bool.not_eq_false _ ▸ mt hlegal.mp hl) hq

end Sys2Proof
end

section
/-! The scalar registers, s0 among them, and the two shapes of the scalar instructions (R97, R98, R109): what each leaves
when its registers are free, and what it leaves when one of them is outstanding. -/

namespace Sys2Proof.Machine

open Claim

/-! ## Registers -/

@[simp] theorem readS_zero (s : State) : readS s 0 = 0 := rfl

@[simp] theorem writeS_zero (v : Word) (s : State) : writeS 0 v s = s := rfl

/-- Registers among free ones are free. -/
theorem free_of_subset {s : State} {rs rs' : List SReg} (h : Free s rs) (hsub : rs' ⊆ rs) : Free s rs' :=
  fun r hr => h r (hsub hr)

/-! ## What a completed scalar instruction leaves -/

/-- A retiring scalar instruction counts in performance counter 0 alone (R378). -/
theorem continueAt_perf_of_ne (pc : Word) (s : State) {k : Nat} (hk : k ≠ 0) :
    (continueAt pc s).h.perf.toArray.getD k 0 = s.h.perf.toArray.getD k 0 := by
  have hset : (continueAt pc s).h.perf = s.h.perf.setIfInBounds 0 (s.h.perf.getD 0 0 + word 1) := rfl
  simp [hset, Array.getD_eq_getD_getElem?, Array.getElem?_setIfInBounds_ne (Ne.symm hk)]

theorem onlyScalar_continueAt_writeS (d : SReg) (v pc : Word) (s : State) :
    OnlyScalar s (continueAt pc (writeS d v s)) := by
  refine ⟨fun k hk => ?_, ?_⟩
  · rw [continueAt_perf_of_ne pc _ hk, writeS_frame]
  · rw [writeS_frame]; rfl

/-- Writing a register and going on at a PC is all that a scalar instruction does. -/
theorem wrote_continueAt_writeS (d : SReg) (v pc : Word) (s : State) : Wrote s (continueAt pc (writeS d v s)) d v pc := by
  refine ⟨?_, fun r hr => ?_, rfl, onlyScalar_continueAt_writeS d v pc s⟩
  · by_cases hd : d = 0
    · subst hd; rfl
    · rw [readS_continueAt, readS_writeS, if_pos ⟨rfl, hd⟩, if_neg hd]
  · rw [readS_continueAt, readS_writeS, if_neg fun h => hr h.1]

/-- A scalar computation whose registers are free gives its value. -/
theorem gives_of_aluOp {i : Instr} {uses : List SReg} {d : SReg} {v w : Word} {s : State}
    (hexec : exec i s = aluOp uses d w s) (hfree : Free s (d :: uses)) (hv : w = v) : Gives i s d v := by
  refine ⟨_, hexec.trans (whenReady_ready _ _ _ hfree), ?_⟩
  have hpc : (writeS d w s).h.pc = s.h.pc := by rw [writeS_frame]
  rw [advance, hpc, hv]
  exact wrote_continueAt_writeS d v _ s

/-- Four times a word is the word shifted left by two (R106). -/
theorem four_mul_eq_shiftLeft (x : Word) : (4 : Word) * x = x <<< 2 := by
  rw [BitVec.shiftLeft_eq_mul_twoPow, BitVec.mul_comm]; rfl

/-- A branch whose registers are free goes to its target or to the next instruction (R106). -/
theorem goesTo_of_branchOp {i : Instr} {a b : SReg} {p q : Bool} {off : BitVec 15} {s : State}
    (hexec : exec i s = branchOp a b p off s) (hfree : Free s [a, b]) (hp : p = q) :
    GoesTo i s (if q then s.h.pc + 4 * off.signExtend 64 else s.h.pc + 4) := by
  refine ⟨_, hexec.trans (whenReady_ready _ _ _ hfree), ?_⟩
  rw [hp, ← four_mul_eq_shiftLeft]
  exact wrote_continueAt_writeS 0 0 _ s

/-- A call whose registers are free writes its link and goes to its target (R107). -/
theorem links_of_whenReady {i : Instr} {rs : List SReg} {d : SReg} {target link : Word} {s : State}
    (hexec : exec i s = whenReady rs s (.next (continueAt target (writeS d link s)))) (hfree : Free s rs) :
    ∃ t, exec i s = .next t ∧ Wrote s t d link target :=
  ⟨_, hexec.trans (whenReady_ready _ _ _ hfree), wrote_continueAt_writeS d link target s⟩

/-- An instruction that names an outstanding register waits with nothing else changed (R109, log 6). -/
theorem waits_of_whenReady {i : Instr} {rs : List SReg} {s : State} {k : Result} (hexec : exec i s = whenReady rs s k)
    (hpend : ∃ r ∈ rs, isPending s.h r = true) : exec i s = .next (Waiting s) := by
  obtain ⟨r, hr, hp⟩ := hpend
  exact hexec.trans (whenReady_waits rs s k r hr hp)

end Sys2Proof.Machine

namespace Sys2Proof

open Machine Claim

/-- Settles O59: the two rules of s0. -/
theorem registerZeroReadsZero : Obligations.RegisterZeroReadsZero := by
  unfold Obligations.RegisterZeroReadsZero
  exact fun s v => ⟨readS_zero s, writeS_zero v s⟩

/-- Settles O5: each of the instructions is `whenReady` of the registers it names. -/
theorem pendingRegisterHoldsInstruction : Obligations.PendingRegisterHoldsInstruction := by
  unfold Obligations.PendingRegisterHoldsInstruction
  intro s d a b off hpend
  have hdab : ∃ r ∈ [d, a, b], isPending s.h r = true := by simpa using hpend
  refine ⟨waits_of_whenReady rfl hdab, waits_of_whenReady rfl hdab, waits_of_whenReady rfl hdab, fun h => ?_,
    fun h => ?_⟩
  · have hab : ∃ r ∈ [a, b], isPending s.h r = true := by simpa using h
    exact ⟨waits_of_whenReady rfl hab, waits_of_whenReady rfl hab⟩
  · exact waits_of_whenReady (rs := [d, a]) rfl (by simpa using h)

end Sys2Proof
end

section
/-! Division (R102): the quotient of the model is the truncating one of the library, in a word. -/

namespace Sys2Proof.Machine

/-! ## Over the integers -/

/-- Away from zero divisors and the overflow, the model's quotient truncates toward zero. -/
theorem truncQuot_eq_tdiv {x y : Int} (hy : y ≠ 0) (hover : ¬ (x = -(2 ^ 63) ∧ y = -1)) : truncQuot x y = x.tdiv y := by
  have hpos (k : Nat) : ¬ Int.ofNat k < 0 := Int.not_lt.mpr (Int.natCast_nonneg k)
  have hneg (k : Nat) : Int.negSucc k < 0 := Int.negSucc_lt_zero k
  rw [truncQuot, if_neg hy, if_neg hover]
  cases x with
  | ofNat m =>
    cases y with
    | ofNat n => exact if_neg (by simp only [hpos, ne_eq, not_true, not_false_iff])
    | negSucc n => exact if_pos (by simp only [hpos, hneg, ne_eq, false_ne_true, not_false_iff])
  | negSucc m =>
    cases y with
    | ofNat n => exact if_pos (by simp only [hpos, hneg, ne_eq, true_ne_false, not_false_iff])
    | negSucc n => exact if_neg (by simp only [hneg, ne_eq, not_true, not_false_iff])

/-- In a word the quotient is the truncating one, the overflow included. -/
theorem intWord_truncQuot {x y : Int} (hy : y ≠ 0) : intWord (truncQuot x y) = BitVec.ofInt 64 (x.tdiv y) := by
  by_cases hover : x = -(2 ^ 63) ∧ y = -1
  · obtain ⟨rfl, rfl⟩ := hover; decide
  · rw [intWord, truncQuot_eq_tdiv hy hover]

/-- In a word the remainder is that of the truncating quotient. -/
theorem intWord_truncRem {x y : Int} (hy : y ≠ 0) : intWord (x - y * truncQuot x y) = BitVec.ofInt 64 (x.tmod y) := by
  have hword := intWord_truncQuot (x := x) hy
  rw [intWord] at hword
  rw [intWord, Int.tmod_def, sub_eq_add_neg, sub_eq_add_neg, ← neg_mul, ← neg_mul, BitVec.ofInt_add, BitVec.ofInt_add,
    BitVec.ofInt_mul, BitVec.ofInt_mul, hword]

@[simp] theorem truncQuot_zero (x : Int) : truncQuot x 0 = -1 := rfl

/-! ## Over words -/

theorem intWord_toInt (x : Word) : intWord x.toInt = x := BitVec.ofInt_toInt

theorem intWord_toNat (x : Word) : intWord x.toNat = x := by simp [intWord, BitVec.ofInt_natCast]

/-- The quotient of DIV. -/
theorem intWord_signedQuot (x y : Word) :
    intWord (truncQuot x.toInt y.toInt) = if y = 0 then BitVec.allOnes 64 else x.sdiv y := by
  split
  case isTrue hy => subst hy; rfl
  case isFalse hy =>
    have hint : y.toInt ≠ 0 := fun h => hy (BitVec.eq_of_toInt_eq h)
    rw [intWord_truncQuot hint]
    exact BitVec.eq_of_toInt_eq (by rw [BitVec.toInt_ofInt, BitVec.toInt_sdiv])

/-- The quotient of DIVU. -/
theorem intWord_unsignedQuot (x y : Word) :
    intWord (truncQuot x.toNat y.toNat) = if y = 0 then BitVec.allOnes 64 else x / y := by
  split
  case isTrue hy => subst hy; rfl
  case isFalse hy =>
    have hint : (y.toNat : Int) ≠ 0 := fun h => hy (BitVec.eq_of_toNat_eq (by simpa using h))
    rw [intWord_truncQuot hint, ← Int.ofNat_tdiv, ← BitVec.toNat_udiv]
    exact intWord_toNat (x / y)

/-- The remainder of REM. -/
theorem intWord_signedRem (x y : Word) :
    intWord (x.toInt - y.toInt * truncQuot x.toInt y.toInt) = if y = 0 then x else x.srem y := by
  split
  case isTrue hy => subst hy; simpa using intWord_toInt x
  case isFalse hy =>
    have hint : y.toInt ≠ 0 := fun h => hy (BitVec.eq_of_toInt_eq h)
    rw [intWord_truncRem hint, ← BitVec.toInt_srem, BitVec.ofInt_toInt]

/-- The remainder of REMU. -/
theorem intWord_unsignedRem (x y : Word) :
    intWord ((x.toNat : Int) - (y.toNat : Int) * truncQuot x.toNat y.toNat) = if y = 0 then x else x % y := by
  split
  case isTrue hy => subst hy; simpa using intWord_toNat x
  case isFalse hy =>
    have hint : (y.toNat : Int) ≠ 0 := fun h => hy (BitVec.eq_of_toNat_eq (by simpa using h))
    rw [intWord_truncRem hint, ← Int.ofNat_tmod, ← BitVec.toNat_umod]
    exact intWord_toNat (x % y)

end Sys2Proof.Machine

namespace Sys2Proof

open Machine Claim

/-- Settles O2: each of the four is a scalar computation of the value that R102 gives. -/
theorem divisionTruncatesAndNeverTraps : Obligations.DivisionTruncatesAndNeverTraps := by
  unfold Obligations.DivisionTruncatesAndNeverTraps
  intro s d a b hfree A B
  exact ⟨gives_of_aluOp rfl hfree (intWord_signedQuot A B), gives_of_aluOp rfl hfree (intWord_unsignedQuot A B),
    gives_of_aluOp rfl hfree (intWord_signedRem A B), gives_of_aluOp rfl hfree (intWord_unsignedRem A B)⟩

end Sys2Proof
end

section
/-! The values of the register instructions (R101): selections, high words of products, bit counts. -/

namespace Sys2Proof.Machine

/-! ## Selections and products -/

theorem boolWord_decide (p : Prop) [Decidable p] : boolWord (decide p) = Claim.truth p := by
  simp only [boolWord, Claim.truth, decide_eq_true_eq]

/-- The choice of MIN and MAX, told by the opposite comparison. -/
theorem ite_le_eq_ite_lt {α β : Type} [LinearOrder α] (x y : α) (a b : β) :
    (if x ≤ y then a else b) = if y < x then b else a := by
  simp only [← not_lt, ite_not]

/-- MULH: the product of the sign extensions wraps to the exact product modulo 2^128. -/
theorem intWord_mul_div (x y : Word) :
    intWord (x.toInt * y.toInt / 2 ^ 64) = ((x.signExtend 128 * y.signExtend 128) >>> 64).truncate 64 := by
  rw [BitVec.signExtend, BitVec.signExtend, ← BitVec.ofInt_mul]
  apply BitVec.eq_of_toNat_eq
  simp only [intWord, BitVec.truncate_eq_setWidth, BitVec.toNat_setWidth, BitVec.toNat_ushiftRight, BitVec.toNat_ofInt,
    Nat.shiftRight_eq_div_pow]
  omega

/-- MULHU: the product of the zero extensions is exact. -/
theorem word_mul_div (x y : Word) :
    word (x.toNat * y.toNat / 2 ^ 64) = ((x.zeroExtend 128 * y.zeroExtend 128) >>> 64).truncate 64 := by
  have hprod : (x.zeroExtend 128 * y.zeroExtend 128).toNat = x.toNat * y.toNat := by
    rw [BitVec.toNat_mul, BitVec.toNat_setWidth_of_le (by decide), BitVec.toNat_setWidth_of_le (by decide)]
    exact Nat.mod_eq_of_lt (Nat.mul_lt_mul'' (c := 2 ^ 64) (d := 2 ^ 64) x.isLt y.isLt)
  apply BitVec.eq_of_toNat_eq
  rw [BitVec.truncate_eq_setWidth, BitVec.toNat_setWidth, BitVec.toNat_ushiftRight, hprod, Nat.shiftRight_eq_div_pow, word,
    BitVec.toNat_ofNat]

/-! ## Bit counts -/

/-- CLZ: the highest one stands right below the zeros that are counted. -/
theorem clzWord_spec (x : Word) :
    clzWord x ≤ 64 ∧ x.toNat < 2 ^ (64 - clzWord x) ∧ (clzWord x < 64 → 2 ^ (63 - clzWord x) ≤ x.toNat) := by
  by_cases hx : x.toNat = 0
  · simp [clzWord, hx]
  · have hlog : x.toNat.log2 ≤ 63 := Nat.le_of_lt_succ ((Nat.log2_lt hx).mpr x.isLt)
    have habove : 64 - (63 - x.toNat.log2) = x.toNat.log2 + 1 := by omega
    have hat : 63 - (63 - x.toNat.log2) = x.toNat.log2 := by omega
    rw [clzWord, if_neg hx, habove, hat]
    exact ⟨by omega, Nat.lt_log2_self, fun _ => Nat.log2_self_le hx⟩

/-- CTZ, from bit i on: every bit below the count is zero, and the bit at it is one unless the n bits are all zero. -/
theorem ctzFrom_spec (x n i : Nat) :
    i ≤ ctzFrom x n i ∧ ctzFrom x n i ≤ i + n ∧ (∀ k, i ≤ k → k < ctzFrom x n i → x.testBit k = false) ∧
    (ctzFrom x n i < i + n → x.testBit (ctzFrom x n i) = true) := by
  induction n generalizing i with
  | zero =>
    exact ⟨le_refl i, le_refl i, fun k hi hk => absurd (hi.trans_lt hk) (lt_irrefl i), fun h => absurd h (lt_irrefl i)⟩
  | succ n ih =>
    by_cases hbit : x.testBit i = true
    · have hself : ctzFrom x (n + 1) i = i := if_pos hbit
      rw [hself]
      exact ⟨le_refl i, by omega, fun k hi hk => absurd (hi.trans_lt hk) (lt_irrefl i), fun _ => hbit⟩
    · have hnext : ctzFrom x (n + 1) i = ctzFrom x n (i + 1) := if_neg hbit
      obtain ⟨hge, hle, hzeros, hone⟩ := ih (i + 1)
      rw [hnext]
      refine ⟨by omega, by omega, fun k hi hk => ?_, fun h => hone (by omega)⟩
      rcases Nat.eq_or_lt_of_le hi with rfl | hlt
      · exact Bool.not_eq_true _ ▸ hbit
      · exact hzeros k hlt hk

theorem foldl_count_eq_countP {α : Type} (p : α → Bool) (l : List α) (c : Nat) :
    l.foldl (fun c i => if p i then c + 1 else c) c = c + l.countP p := by
  induction l generalizing c with
  | nil => rfl
  | cons i l ih =>
    rw [List.foldl_cons, ih, List.countP_cons]
    split <;> omega

theorem popCount_eq_countP (n x : Nat) : popCount n x = (List.range n).countP (bitAt x) := by
  rw [popCount, foldl_count_eq_countP, Nat.zero_add, upTo]

end Sys2Proof.Machine

namespace Sys2Proof

open Machine Claim

/-- Seventeen scalar computations; those whose model and rule are written alike need no lemma. -/
theorem scalarRegisterArithmetic : ScalarRegisterArithmetic := by
  intro s d a b hfree A B n
  refine ⟨gives_of_aluOp rfl hfree rfl, gives_of_aluOp rfl hfree rfl, gives_of_aluOp rfl hfree rfl,
    gives_of_aluOp rfl hfree rfl, gives_of_aluOp rfl hfree rfl, gives_of_aluOp rfl hfree rfl,
    gives_of_aluOp rfl hfree rfl, gives_of_aluOp rfl hfree rfl, ?slt, ?sltu, ?min, ?max, ?minu, ?maxu,
    gives_of_aluOp rfl hfree rfl, ?mulh, ?mulhu⟩
  case slt => exact gives_of_aluOp rfl hfree (boolWord_decide (A.toInt < B.toInt))
  case sltu => exact gives_of_aluOp rfl hfree (boolWord_decide (A.toNat < B.toNat))
  case min => exact gives_of_aluOp rfl hfree (ite_le_eq_ite_lt A.toInt B.toInt A B)
  case max => exact gives_of_aluOp rfl hfree (ite_le_eq_ite_lt B.toInt A.toInt A B)
  case minu => exact gives_of_aluOp rfl hfree (ite_le_eq_ite_lt A.toNat B.toNat A B)
  case maxu => exact gives_of_aluOp rfl hfree (ite_le_eq_ite_lt B.toNat A.toNat A B)
  case mulh => exact gives_of_aluOp rfl hfree (intWord_mul_div A B)
  case mulhu => exact gives_of_aluOp rfl hfree (word_mul_div A B)

/-- The three counts of bits. -/
theorem scalarBitCounts : ScalarBitCounts := by
  intro s d a hfree A
  obtain ⟨hclz, habove, hat⟩ := clzWord_spec A
  obtain ⟨-, hctz, hzeros, hone⟩ := ctzFrom_spec A.toNat 64 0
  refine ⟨⟨clzWord A, hclz, habove, hat, gives_of_aluOp rfl hfree rfl⟩, ⟨ctzFrom A.toNat 64 0, by omega,
    fun k hk => hzeros k (Nat.zero_le k) hk, fun hlt => hone (by omega), gives_of_aluOp rfl hfree rfl⟩, ?_⟩
  exact gives_of_aluOp rfl hfree (congrArg word (popCount_eq_countP 64 A.toNat))

/-- Settles O1: the arithmetic and the bit counts. -/
theorem scalarRegisterInstructions : Obligations.ScalarRegisterInstructions := by
  unfold Obligations.ScalarRegisterInstructions
  exact ⟨scalarRegisterArithmetic, scalarBitCounts⟩

end Sys2Proof
end

section
/-! The parcels of immediates and jumps (R55, R103 to R107): the encoder's fields joined where the forms put them, and
the words of major 0x08 that no shift is written as. -/

namespace Sys2Proof

section
variable {i : Instr} {n a b d maj : Nat}

/-- The I form holds a 15-bit number above its registers (R55). -/
theorem encodeBits_immediate (h : encodeBits i = some (join32 (n / 32) (n % 32) a d maj, 1)) :
    encodeBits i = some (n * 2 ^ 17 + a * 2 ^ 12 + d * 2 ^ 7 + maj * 2, 1) := by
  have hjoin : join32 (n / 32) (n % 32) a d maj = n * 2 ^ 17 + a * 2 ^ 12 + d * 2 ^ 7 + maj * 2 := by unfold join32; omega
  rw [h, hjoin]

/-- A shift's number is its kind above its amount (R104). -/
theorem encodeBits_shift (kind : Nat) {sh : Nat}
    (h : encodeBits i = some (join32 (kind * 256 + sh / 32) (sh % 32) a d maj, 1)) (hn : n = kind * 2 ^ 13 + sh) :
    encodeBits i = some (n * 2 ^ 17 + a * 2 ^ 12 + d * 2 ^ 7 + maj * 2, 1) := by
  have hdiv : kind * 256 + sh / 32 = n / 32 := by omega
  have hmod : sh % 32 = n % 32 := by omega
  exact encodeBits_immediate (by rw [h, hdiv, hmod])

/-- The U form holds a 20-bit number above its register (R55). -/
theorem encodeBits_upper (h : encodeBits i = some (join32 (n / 1024) (n / 32 % 32) (n % 32) d maj, 1)) :
    encodeBits i = some (n * 2 ^ 12 + d * 2 ^ 7 + maj * 2, 1) := by
  have hjoin : join32 (n / 1024) (n / 32 % 32) (n % 32) d maj = n * 2 ^ 12 + d * 2 ^ 7 + maj * 2 := by unfold join32; omega
  rw [h, hjoin]

/-- The B form holds the low five bits of its number in place of d (R55). -/
theorem encodeBits_branch (h : encodeBits i = some (join32 (n / 32) b a (n % 32) maj, 1)) :
    encodeBits i = some (n / 2 ^ 5 * 2 ^ 22 + b * 2 ^ 17 + a * 2 ^ 12 + n % 2 ^ 5 * 2 ^ 7 + maj * 2, 1) := by
  have hjoin : join32 (n / 32) b a (n % 32) maj =
      n / 2 ^ 5 * 2 ^ 22 + b * 2 ^ 17 + a * 2 ^ 12 + n % 2 ^ 5 * 2 ^ 7 + maj * 2 := by unfold join32; omega
  rw [h, hjoin]

end

/-- Kind 3, and a one between the kind and the amount, are refused (R104). -/
theorem decodeShift_refused {fn : Nat} (b a d : Nat) (h : fn / 256 = 3 ∨ fn % 256 / 2 ≠ 0) :
    ∃ r, decodeShift fn b a d = .error r := by
  by_cases hzero : fn % 256 / 2 = 0
  · have hkind : fn / 256 = 3 := h.resolve_right (not_not_intro hzero)
    exact ⟨.functionReserved, by simp [decodeShift, hzero, hkind]⟩
  · exact ⟨_, if_pos hzero⟩

/-- A parcel of major 0x08 whose shift is refused is no instruction. -/
theorem decodeParcels_refused_of_shift {w : Nat} (hmaj : w % 2 ^ 7 = 0x08 * 2) (hlt : w < 2 ^ 32)
    (h : w / 2 ^ 30 = 3 ∨ w / 2 ^ 23 % 2 ^ 7 ≠ 0) : ∃ r, decodeParcels w 0 = .error r := by
  have hfn : w / 4194304 % 1024 / 256 = 3 ∨ w / 4194304 % 1024 % 256 / 2 ≠ 0 := by omega
  have hmajor : w / 2 % 64 = 0x08 := by omega
  obtain ⟨r, hr⟩ := decodeShift_refused (w / 131072 % 32) (w / 4096 % 32) (w / 128 % 32) hfn
  refine ⟨r, ?_⟩
  rw [decodeParcels, if_pos (by omega), decode32, if_neg (by omega), hmajor, decodeMajor32, hr]

end Sys2Proof
end

section
/-! Immediates, branches and calls (R103 to R107). -/

namespace Sys2Proof

open Machine Claim

/-- The values of the eleven instructions; LIHI and PCADD name d alone. -/
theorem immediatesGiveTheirValues : ImmediatesGiveTheirValues := by
  intro s d a imm sh up hfree A I
  have hd : Free s [d] := free_of_subset hfree (by simp)
  have himm : I.toInt = imm.toInt := BitVec.toInt_signExtend_of_le (by decide)
  refine ⟨gives_of_aluOp rfl hfree rfl, gives_of_aluOp rfl hfree rfl, gives_of_aluOp rfl hfree rfl,
    gives_of_aluOp rfl hfree rfl, ?slti, ?sltiu, gives_of_aluOp rfl hfree rfl, gives_of_aluOp rfl hfree rfl,
    gives_of_aluOp rfl hfree rfl, gives_of_aluOp rfl hd rfl, gives_of_aluOp rfl hd rfl⟩
  case slti =>
    rw [himm]
    exact gives_of_aluOp rfl hfree (boolWord_decide (A.toInt < imm.toInt))
  case sltiu => exact gives_of_aluOp rfl hfree (boolWord_decide (A.toNat < I.toNat))

/-- Their parcels, and the shifts that are refused. -/
theorem immediatesAreEncoded : ImmediatesAreEncoded := by
  unfold ImmediatesAreEncoded
  refine ⟨?_, fun w hlt hmaj h => decodeParcels_refused_of_shift hmaj hlt h⟩
  intro d a imm sh up iForm uForm
  exact ⟨encodeBits_immediate rfl, encodeBits_immediate rfl, encodeBits_immediate rfl, encodeBits_immediate rfl,
    encodeBits_immediate rfl, encodeBits_immediate rfl, encodeBits_shift 0 rfl (by omega),
    encodeBits_shift 1 rfl (by omega), encodeBits_shift 2 rfl rfl, encodeBits_upper rfl, encodeBits_upper rfl⟩

/-- Settles O3: values and parcels. -/
theorem scalarImmediates : Obligations.ScalarImmediates := by
  unfold Obligations.ScalarImmediates
  exact ⟨immediatesGiveTheirValues, immediatesAreEncoded⟩

/-- Six branches of one shape, with the condition of each. -/
theorem branchesGoToTheirTargets : BranchesGoToTheirTargets := by
  intro s a b off hfree A B there go
  have hne : (A != B) = decide (A ≠ B) := by rw [Bool.eq_iff_iff, bne_iff_ne, decide_eq_true_iff]
  exact ⟨goesTo_of_branchOp rfl hfree rfl, goesTo_of_branchOp rfl hfree hne,
    goesTo_of_branchOp rfl hfree rfl, goesTo_of_branchOp rfl hfree rfl, goesTo_of_branchOp rfl hfree rfl,
    goesTo_of_branchOp rfl hfree rfl⟩

/-- CALL and CALLR, which names a as well. -/
theorem callsLinkAndJump : CallsLinkAndJump := by
  intro s d a off imm hfree
  have hd : Free s [d] := free_of_subset hfree (by simp)
  refine ⟨?_, links_of_whenReady rfl hfree⟩
  rw [four_mul_eq_shiftLeft]
  exact links_of_whenReady rfl hd

/-- The parcels of branches and calls. -/
theorem jumpsAreEncoded : JumpsAreEncoded := by
  intro d a b off imm far bForm
  exact ⟨encodeBits_branch rfl, encodeBits_branch rfl, encodeBits_branch rfl, encodeBits_branch rfl, encodeBits_branch rfl,
    encodeBits_branch rfl, encodeBits_upper rfl, encodeBits_immediate rfl⟩

/-- Settles O4: targets, links and parcels. -/
theorem branchesAndCalls : Obligations.BranchesAndCalls := by
  unfold Obligations.BranchesAndCalls
  exact ⟨branchesGoToTheirTargets, callsLinkAndJump, jumpsAreEncoded⟩

end Sys2Proof
end

section
/-! Elements of vector registers (R78, R112, R114): what a read of bits and of elements returns after a write, and what
a loop that writes elements in rising order has left at each of its steps (R115). -/

namespace Sys2Proof.Machine

/-! ## Bit strings -/

theorem testBit_bitsGet (x pos len k : Nat) :
    (bitsGet x pos len).testBit k = (decide (k < len) && x.testBit (pos + k)) := by
  rw [bitsGet, Nat.testBit_mod_two_pow, Nat.testBit_shiftRight]

theorem testBit_bitsSet (x pos len y k : Nat) :
    (bitsSet x pos len y).testBit k = if pos ≤ k ∧ k < pos + len then y.testBit (k - pos) else x.testBit k := by
  rw [bitsSet, Nat.testBit_xor, Nat.testBit_shiftLeft, Nat.testBit_xor, testBit_bitsGet, Nat.testBit_mod_two_pow]
  by_cases hlo : pos ≤ k
  · have hk : pos + (k - pos) = k := by omega
    by_cases hhi : k - pos < len
    · rw [if_pos ⟨hlo, by omega⟩]
      simp [hlo, hhi, hk]
    · rw [if_neg (by omega)]
      simp [hhi]
  · rw [if_neg (by omega)]
    simp [hlo]

theorem bitsGet_bitsSet_self (x pos len y : Nat) : bitsGet (bitsSet x pos len y) pos len = y % 2 ^ len := by
  refine Nat.eq_of_testBit_eq fun k => ?_
  rw [testBit_bitsGet, testBit_bitsSet, Nat.testBit_mod_two_pow]
  by_cases hk : k < len
  · simp [hk]
  · simp [hk]

theorem bitsGet_bitsSet_of_disjoint (x y : Nat) {pos len p l : Nat} (h : p + l ≤ pos ∨ pos + len ≤ p) :
    bitsGet (bitsSet x pos len y) p l = bitsGet x p l := by
  refine Nat.eq_of_testBit_eq fun k => ?_
  rw [testBit_bitsGet, testBit_bitsGet, testBit_bitsSet]
  by_cases hk : k < l
  · rw [if_neg (by omega)]
  · simp [hk]

theorem bitsGet_lt (x pos len : Nat) : bitsGet x pos len < 2 ^ len := Nat.mod_lt _ (Nat.two_pow_pos len)

/-! ## Registers and their elements -/

/-- A hart that differs from another in vector registers, their dirty bits and their marks alone. -/
def VectorsOnly (h h' : Hart) : Prop :=
  ∃ v vdirty marks, h' = { h with v := v, vdirty := vdirty, marks := marks }

theorem VectorsOnly.refl (h : Hart) : VectorsOnly h h := ⟨h.v, h.vdirty, h.marks, rfl⟩

theorem VectorsOnly.vset {h h' : Hart} (hv : VectorsOnly h h') (c : VConf) (r fmt i x : Nat) :
    VectorsOnly h (vset c r fmt i x h') := by
  obtain ⟨v, vdirty, marks, rfl⟩ := hv
  exact ⟨_, _, _, rfl⟩

theorem vreg_vsetBits (pos w x q : Nat) (h : Hart) {r : Nat} (hr : r < 64) :
    vreg (vsetBits r pos w x h) q = if q = r then bitsSet (vreg h r) pos w x else vreg h q := by
  have hsize : r < h.v.toArray.size := by simpa using hr
  by_cases hq : q = r
  · subst hq
    simp [vreg, vsetBits, Array.getD_eq_getD_getElem?, Array.getElem?_setIfInBounds_self_of_lt hsize]
  · rw [if_neg hq]
    simp [vreg, vsetBits, Array.getD_eq_getD_getElem?, Array.getElem?_setIfInBounds_ne (Ne.symm hq)]

section
variable (c : VConf) (fmt x : Nat) (h : Hart) {r i : Nat} (hr : r + i / regElems c (fmtWidth fmt) < 64)

include hr in
theorem vreg_vset_of_ne {q : Nat} (hq : q ≠ r + i / regElems c (fmtWidth fmt)) :
    vreg (vset c r fmt i x h) q = vreg h q := by
  rw [vset, vreg_vsetBits _ _ _ _ _ hr, if_neg hq]

include hr in
/-- An element that is read after it was written (R78). -/
theorem vget_vset_self : vget c (vset c r fmt i x h) r fmt i = x % 2 ^ fmtWidth fmt := by
  rw [vget, vgetW, vset, vreg_vsetBits _ _ _ _ _ hr, if_pos rfl, bitsGet_bitsSet_self]

include hr in
/-- The other elements of the vector stay as they were (R114). -/
theorem vget_vset_of_ne {j : Nat} (hj : j ≠ i) : vget c (vset c r fmt i x h) r fmt j = vget c h r fmt j := by
  rw [vget, vget, vgetW, vgetW, vset, vreg_vsetBits _ _ _ _ _ hr]
  by_cases hreg : r + j / regElems c (fmtWidth fmt) = r + i / regElems c (fmtWidth fmt)
  · have hdiv := Nat.div_add_mod i (regElems c (fmtWidth fmt))
    have hdiv' := Nat.div_add_mod j (regElems c (fmtWidth fmt))
    have hquot : j / regElems c (fmtWidth fmt) = i / regElems c (fmtWidth fmt) := by omega
    have hmod : j % regElems c (fmtWidth fmt) ≠ i % regElems c (fmtWidth fmt) := by
      rw [hquot] at hdiv'
      omega
    rw [if_pos hreg, ← hreg]
    refine bitsGet_bitsSet_of_disjoint _ _ ?_
    rcases Nat.lt_or_gt_of_ne hmod with hlt | hgt
    · left
      calc _ = fmtWidth fmt * (j % regElems c (fmtWidth fmt) + 1) := (Nat.mul_succ _ _).symm
        _ ≤ _ := Nat.mul_le_mul_left _ hlt
    · right
      calc _ = fmtWidth fmt * (i % regElems c (fmtWidth fmt) + 1) := (Nat.mul_succ _ _).symm
        _ ≤ _ := Nat.mul_le_mul_left _ hgt
  · rw [if_neg hreg]

include hr in
/-- Writing an element of a register that holds it changes no bit outside it. -/
theorem testBit_vset_of_outside (hi : i / regElems c (fmtWidth fmt) = 0) {k : Nat}
    (hk : k < i * fmtWidth fmt ∨ (i + 1) * fmtWidth fmt ≤ k) :
    (vreg (vset c r fmt i x h) r).testBit k = (vreg h r).testBit k := by
  have hmod : i % regElems c (fmtWidth fmt) = i := by
    have hdiv := Nat.div_add_mod i (regElems c (fmtWidth fmt))
    rwa [hi, Nat.mul_zero, Nat.zero_add] at hdiv
  rw [Nat.succ_mul] at hk
  rw [vset, vreg_vsetBits _ _ _ _ _ hr, hi, hmod, if_pos (Nat.add_zero r).symm, testBit_bitsSet, Nat.mul_comm,
    if_neg (by omega), Nat.add_zero]

end

theorem vget_lt (c : VConf) (h : Hart) (r fmt i : Nat) : vget c h r fmt i < 2 ^ fmtWidth fmt := bitsGet_lt _ _ _

/-! ## Loops over elements -/

/-- A loop over p, p + 1, …, q − 1 keeps what holds at p and goes on from each number to the next. -/
theorem foldl_fromTo {α : Type} {motive : Nat → α → Prop} {g : α → Nat → α} {p q : Nat} {a : α} (hstart : motive p a)
    (hstep : ∀ i a, p ≤ i → i < q → motive i a → motive (i + 1) (g a i)) :
    motive (max p q) ((fromTo p q).foldl g a) := by
  have hall : ∀ n, n ≤ q - p → motive (p + n) (((List.range n).map (· + p)).foldl g a) := by
    intro n
    induction n with
    | zero => exact fun _ => hstart
    | succ n ih =>
      intro hn
      rw [List.range_succ, List.map_append, List.foldl_append, List.map_singleton, List.foldl_cons, List.foldl_nil,
        Nat.add_comm n p]
      exact hstep (p + n) _ (Nat.le_add_right p n) (by omega) (ih (by omega))
  have hmax : max p q = p + (q - p) := by omega
  rw [hmax]
  exact hall _ (le_refl _)

theorem fromTo_succ {p i : Nat} (h : p ≤ i) : fromTo p (i + 1) = fromTo p i ++ [i] := by
  have hlen : i + 1 - p = i - p + 1 := by omega
  have hlast : i - p + p = i := by omega
  rw [fromTo, fromTo, hlen, List.range_succ, List.map_append, List.map_singleton, hlast]

theorem fromTo_max (p q : Nat) : fromTo p (max p q) = fromTo p q := by
  have hlen : max p q - p = q - p := by omega
  rw [fromTo, fromTo, hlen]

theorem mem_fromTo {p q i : Nat} : i ∈ fromTo p q ↔ p ≤ i ∧ i < q := by
  simp only [fromTo, List.mem_map, List.mem_range]
  constructor
  · rintro ⟨j, hj, rfl⟩
    omega
  · rintro ⟨hlo, hhi⟩
    exact ⟨i - p, by omega, by omega⟩

/-- The elements `lo` to i − 1 of the vector in the n registers from d hold `want`, and nothing else of the hart has
changed: no bit outside them of a single register, no other register, no later element. -/
structure Filled (c : VConf) (d fmt n lo : Nat) (want : Nat → Nat) (h h' : Hart) (i : Nat) : Prop where
  only : VectorsOnly h h'
  other : ∀ r, r < d ∨ d + n ≤ r → vreg h' r = vreg h r
  outside : n = 1 → ∀ k, k < lo * fmtWidth fmt ∨ i * fmtWidth fmt ≤ k → (vreg h' d).testBit k = (vreg h d).testBit k
  done : ∀ j, lo ≤ j → j < i → vget c h' d fmt j = want j
  ahead : ∀ j, i ≤ j → vget c h' d fmt j = vget c h d fmt j

section
variable {c : VConf} {d fmt n lo : Nat} {want : Nat → Nat} {h h' : Hart} {i : Nat}

theorem Filled.start (c : VConf) (d fmt n lo : Nat) (want : Nat → Nat) (h : Hart) :
    Filled c d fmt n lo want h h lo where
  only := .refl h
  other _ _ := rfl
  outside _ _ _ := rfl
  done _ hlo hhi := absurd hlo (Nat.not_le.mpr hhi)
  ahead _ _ := rfl

/-- One more element is written. -/
theorem Filled.write (hf : Filled c d fmt n lo want h h' i) (hlo : lo ≤ i) (hreg : i / regElems c (fmtWidth fmt) < n)
    (hd : d + n ≤ 64) {x : Nat} (hx : want i = x % 2 ^ fmtWidth fmt) :
    Filled c d fmt n lo want h (vset c d fmt i x h') (i + 1) := by
  have hr : d + i / regElems c (fmtWidth fmt) < 64 := by omega
  refine ⟨hf.only.vset c d fmt i x, fun r hout => ?_, fun hn k hk => ?_, fun j hj hj' => ?_, fun j hj => ?_⟩
  · have hne : r ≠ d + i / regElems c (fmtWidth fmt) := by
      generalize i / regElems c (fmtWidth fmt) = q at hreg ⊢
      omega
    rw [vreg_vset_of_ne c fmt x h' hr hne, hf.other r hout]
  · have hwidth : lo * fmtWidth fmt ≤ i * fmtWidth fmt := Nat.mul_le_mul_right _ hlo
    have hzero : i / regElems c (fmtWidth fmt) = 0 := Nat.lt_one_iff.mp (hn ▸ hreg)
    rw [testBit_vset_of_outside c fmt x h' hr hzero (hk.imp_left fun hk => Nat.lt_of_lt_of_le hk hwidth),
      hf.outside hn k]
    rw [Nat.succ_mul] at hk
    omega
  · by_cases hji : j = i
    · rw [hji, vget_vset_self c fmt x h' hr, hx]
    · rw [vget_vset_of_ne c fmt x h' hr hji, hf.done j hj (by omega)]
  · rw [vget_vset_of_ne c fmt x h' hr (by omega), hf.ahead j (by omega)]

/-- One more element keeps what it held. -/
theorem Filled.skip (hf : Filled c d fmt n lo want h h' i) (hx : want i = vget c h d fmt i) :
    Filled c d fmt n lo want h h' (i + 1) := by
  refine ⟨hf.only, hf.other, fun hn k hk => hf.outside hn k ?_, fun j hj hj' => ?_, fun j hj => hf.ahead j (by omega)⟩
  · rw [Nat.succ_mul] at hk
    omega
  · by_cases hji : j = i
    · rw [hji, hf.ahead i (le_refl i), hx]
    · exact hf.done j hj (by omega)

/-- An element that is still to come reads in every register as before, where each register holds it whole. -/
theorem Filled.vget_eq (hf : Filled c d fmt 1 lo want h h' i) (hi : i / regElems c (fmtWidth fmt) = 0) (r : Nat) :
    vget c h' r fmt i = vget c h r fmt i := by
  by_cases hr : r = d
  · rw [hr, hf.ahead i (le_refl i)]
  · have hreg : r + i / regElems c (fmtWidth fmt) = r := by omega
    rw [vget, vget, vgetW, vgetW, hreg, hf.other r (by omega)]

end

/-! ## The element-wise loop (R115) -/

theorem padValue_lt (fmt : Nat) : padValue fmt < 2 ^ fmtWidth fmt := by
  unfold padValue
  split
  · subst fmt; decide
  · exact Nat.two_pow_pos _

/-- What the element-wise loop leaves in element i of the destination. -/
def elementAfter (c : VConf) (f : VF) (fmt : Nat) (val : Nat → Nat) (h : Hart) (i : Nat) : Nat :=
  if c.vl - c.vlpad ≤ i then padValue fmt
  else if maskBit h f.m.toNat i then val i % 2 ^ fmtWidth fmt
  else if f.mz then 0 else vget c h f.d.toNat fmt i

/-- The flags of the elements of a list that are performed, joined. -/
def flagsOf (c : VConf) (h : Hart) (m : BitVec 4) (fl : Nat → Nat) (l : List Nat) : Nat :=
  l.foldl (fun x i => if !isPad c i && maskBit h m.toNat i then x ||| fl i else x) 0

theorem flagsOf_append (c : VConf) (h : Hart) (m : BitVec 4) (fl : Nat → Nat) (l : List Nat) (i : Nat) :
    flagsOf c h m fl (l ++ [i]) =
      if !isPad c i && maskBit h m.toNat i then flagsOf c h m fl l ||| fl i else flagsOf c h m fl l := by
  rw [flagsOf, List.foldl_append, List.foldl_cons, List.foldl_nil, ← flagsOf]

/-- The element-wise loop, of an instruction whose result at an element does not depend on the elements before it. -/
theorem elemLoop_filled {c : VConf} {f : VF} {fmt n : Nat} {res : ElemFn} {val fl : Nat → Nat} {h : Hart}
    (hd : f.d.toNat + n ≤ 64) (hfit : ∀ i, i < c.vl → i / regElems c (fmtWidth fmt) < n)
    (hres : ∀ h' i, i < c.vl → Filled c f.d.toNat fmt n h.vstart (elementAfter c f fmt val h) h h' i →
      res h' i = (val i, fl i)) :
    Filled c f.d.toNat fmt n h.vstart (elementAfter c f fmt val h) h (elemLoop c f fmt res h).1 (max h.vstart c.vl) ∧
      (elemLoop c f fmt res h).2 = flagsOf c h f.m fl (visited c h) := by
  rw [visited, ← fromTo_max]
  refine foldl_fromTo (motive := fun i (acc : Hart × Nat) =>
    Filled c f.d.toNat fmt n h.vstart (elementAfter c f fmt val h) h acc.1 i ∧
      acc.2 = flagsOf c h f.m fl (fromTo h.vstart i)) ⟨.start .., ?_⟩ fun i acc hlo hhi ⟨hf, hfl⟩ => ?_
  · simp [fromTo, flagsOf]
  · have hmask : maskBit acc.1 f.m.toNat i = maskBit h f.m.toNat i := by
      obtain ⟨v, vdirty, marks, heq⟩ := hf.only
      rw [heq]; rfl
    rw [fromTo_succ hlo, flagsOf_append, hmask, ← hfl]
    by_cases hpad : c.vl - c.vlpad ≤ i
    · have hp : isPad c i = true := decide_eq_true hpad
      simp only [hp, if_true, Bool.not_true, Bool.false_and, Bool.false_eq_true, if_false]
      refine ⟨hf.write hlo (hfit i hhi) hd ?_, trivial⟩
      rw [elementAfter, if_pos hpad, Nat.mod_eq_of_lt (padValue_lt fmt)]
    · have hp : isPad c i = false := decide_eq_false hpad
      cases hm : maskBit h f.m.toNat i
      · cases hz : f.mz
        · simp only [hp, Bool.false_eq_true, if_false, Bool.and_false]
          exact ⟨hf.skip (by simp [elementAfter, hpad, hm, hz]), trivial⟩
        · simp only [hp, Bool.false_eq_true, if_false, if_true, Bool.and_false]
          exact ⟨hf.write hlo (hfit i hhi) hd (by simp [elementAfter, hpad, hm, hz]), trivial⟩
      · simp only [hp, Bool.false_eq_true, if_false, if_true, Bool.not_false, Bool.and_self, hres acc.1 i hhi hf]
        exact ⟨hf.write hlo (hfit i hhi) hd (by simp [elementAfter, hpad, hm]), trivial⟩

end Sys2Proof.Machine
end

section
/-! A vector instruction that is committed on an empty queue and completes at once (R68, R333, R334): its next state,
and what the element-wise loop leaves there. -/

namespace Sys2Proof.Machine

open Claim

/-! ## The next state -/

/-- What the run of an instruction that completes may change of its hart: registers, flags and what it delivers. -/
def RegistersOnly (h h' : Hart) : Prop :=
  ∃ v vdirty marks m g fflags smflags mxflags readback,
    h' = { h with
      v := v, vdirty := vdirty, marks := marks, m := m, g := g, fflags := fflags, smflags := smflags, mxflags := mxflags
      readback := readback, vstart := 0 }

/-- The next state of an instruction alone in the queue whose run leaves its hart as given. -/
def completed (i : Instr) (s : State) (h' : Hart) : State :=
  finishHead 1 s.h.qhead s.h.vstart (parcelsOf i) (.done { aloneAtHead i s with h := h' })

@[simp] theorem endReplay_v (h : Hart) : (endReplay h).v = h.v := by
  unfold endReplay; split <;> rfl

@[simp] theorem endReplay_vdirty (h : Hart) : (endReplay h).vdirty = h.vdirty := by
  unfold endReplay; split <;> rfl

@[simp] theorem endReplay_m (h : Hart) : (endReplay h).m = h.m := by
  unfold endReplay; split <;> rfl

@[simp] theorem endReplay_g (h : Hart) : (endReplay h).g = h.g := by
  unfold endReplay; split <;> rfl

@[simp] theorem endReplay_fflags (h : Hart) : (endReplay h).fflags = h.fflags := by
  unfold endReplay; split <;> rfl

@[simp] theorem endReplay_smflags (h : Hart) : (endReplay h).smflags = h.smflags := by
  unfold endReplay; split <;> rfl

@[simp] theorem endReplay_mxflags (h : Hart) : (endReplay h).mxflags = h.mxflags := by
  unfold endReplay; split <;> rfl

@[simp] theorem endReplay_readback (h : Hart) : (endReplay h).readback = h.readback := by
  unfold endReplay; split <;> rfl

theorem endReplay_of_not_replay {h : Hart} (hr : h.replay = false) : endReplay h = h := by
  simp [endReplay, hr]

section
variable (i : Instr) (s : State) (h' : Hart)

@[simp] theorem completed_v : (completed i s h').h.v = h'.v := endReplay_v _
@[simp] theorem completed_vdirty : (completed i s h').h.vdirty = h'.vdirty := endReplay_vdirty _
@[simp] theorem completed_m : (completed i s h').h.m = h'.m := endReplay_m _
@[simp] theorem completed_g : (completed i s h').h.g = h'.g := endReplay_g _
@[simp] theorem completed_fflags : (completed i s h').h.fflags = h'.fflags := endReplay_fflags _
@[simp] theorem completed_smflags : (completed i s h').h.smflags = h'.smflags := endReplay_smflags _
@[simp] theorem completed_mxflags : (completed i s h').h.mxflags = h'.mxflags := endReplay_mxflags _
@[simp] theorem completed_readback : (completed i s h').h.readback = h'.readback := endReplay_readback _

end

/-- A commit whose checks pass and whose run completes. -/
theorem exec_eq_completed {i : Instr} {check : CheckFn} {perf : PerfFn} {s : State} {h' : Hart}
    (hexec : exec i s = commitVector i check perf s) (hat : AtOnce i s) (hc : check s.h.conf = 0)
    (hperf : perf s.h.conf (captureA i s) (captureB i s) (aloneAtHead i s) = .done { aloneAtHead i s with h := h' }) :
    exec i s = .next (completed i s h') := by
  obtain ⟨-, hfrozen, hq, -, -, -, -, -, -, -, hfree, hrb⟩ := hat
  have hlen : s.h.queue.length < 32 := by rw [hq]; decide
  have hused : readbackUsed s.h < 8 := by rw [readbackUsed, hq]; exact hrb
  rw [hexec, commitVector_alone perf hfrozen hc hfree hlen hused hq, hperf]
  rfl

/-- Groups read early that belong to no load stay: there are none. -/
theorem map_filter_of_empty {l : Vector (List EarlyGroup) 2} (p : EarlyGroup → Bool) (h : ∀ q ∈ l.toList, q = []) :
    (l.map fun q => q.filter p) = l := by
  refine Vector.ext fun k hk => ?_
  have hnil : l[k] = [] := h _ (by simp)
  rw [Vector.getElem_map, hnil, List.filter_nil]

/-- An instruction that completes counts in performance counters 1 and 2 alone (R378). -/
theorem perf_two_counters (v : Vector Word 8) (x y : Word) {k : Nat} (h1 : k ≠ 1) (h2 : k ≠ 2) :
    ((v.setIfInBounds 1 x).setIfInBounds 2 y).toArray.getD k 0 = v.toArray.getD k 0 := by
  simp [Array.getD_eq_getD_getElem?, Array.getElem?_setIfInBounds_ne (Ne.symm h1),
    Array.getElem?_setIfInBounds_ne (Ne.symm h2)]

/-- The only entry leaves the queue (R333). -/
theorem popSlots_alone {h : Hart} {e : Entry} (hreplay : h.replay = false) (hq : h.queue = [e])
    (hfront : h.front = 16384) (hload : ∀ q ∈ h.loadData.toList, q = []) :
    popSlots 1 h = { h with
      queue := [], arrived := h.arrived.drop 1, qhead := (h.qhead + 1) % 32, loadFirst := 0, memberPass := [] } := by
  have hdata : dropEarly 1 h = h.loadData := map_filter_of_empty _ hload
  have hfirst : loadFirstAfter 1 h = 0 := by simp [loadFirstAfter, hq]
  rw [popSlots, endReplay_of_not_replay hreplay, hdata, hfirst, hq, ← hfront]
  rfl

/-- With the committed configuration at the head already, the entry is all that a commit adds. -/
theorem aloneAtHead_of_headConf {i : Instr} {s : State} (hconf : s.h.headConf = s.h.conf) :
    aloneAtHead i s = performAs (s.h.arrived ++ [s.tick]).head? (pushEntry (capturedEntry i s) s) := by
  rw [aloneAtHead, ← hconf]

theorem completed_eq (i : Instr) (s : State) (h' : Hart) :
    completed i s h' = countGroups h'.headConf s.h.vstart true
      { aloneAtHead i s with h := popSlots 1 { h' with performing := none } } := rfl

/-- An instruction that completes leaves what a vector instruction leaves. -/
theorem onlyVector_completed {i : Instr} {s : State} {h' : Hart} (hat : AtOnce i s)
    (hregs : RegistersOnly (aloneAtHead i s).h h') : OnlyVector s (completed i s h') := by
  obtain ⟨-, -, hq, hconf, hreplay, -, hfront, -, -, hload, -, -⟩ := hat
  rw [aloneAtHead_of_headConf hconf] at hregs
  obtain ⟨v, vdirty, marks, m, g, fflags, smflags, mxflags, readback, hregs⟩ := hregs
  have hreplay' : h'.replay = false := by rw [hregs]; exact hreplay
  have hqueue : h'.queue = [capturedEntry i s] := by rw [hregs]; exact congrArg (· ++ [capturedEntry i s]) hq
  have hfront' : h'.front = 16384 := by rw [hregs]; exact hfront
  have hload' : ∀ q ∈ h'.loadData.toList, q = [] := by rw [hregs]; exact hload
  rw [completed_eq, popSlots_alone (h := { h' with performing := none }) hreplay' hqueue hfront' hload',
    aloneAtHead_of_headConf hconf]
  subst hregs
  exact ⟨fun k h1 h2 => perf_two_counters _ _ _ h1 h2, rfl⟩

/-! ## Instructions of one element at a time -/

theorem vreg_congr {h h' : Hart} (hv : h'.v = h.v) (r : Nat) : vreg h' r = vreg h r := by rw [vreg, vreg, hv]

theorem vget_congr {h h' : Hart} (hv : h'.v = h.v) (c : VConf) (r fmt i : Nat) :
    vget c h' r fmt i = vget c h r fmt i := by
  rw [vget, vget, vgetW, vgetW, vreg_congr hv]

theorem maskBit_congr {h h' : Hart} (hm : h'.m = h.m) (k i : Nat) : maskBit h' k i = maskBit h k i := by
  rw [maskBit, maskBit, hm]

section
variable {i : Instr} {check : CheckFn} {perf : PerfFn} {s : State} (hexec : exec i s = commitVector i check perf s)
  (hat : AtOnce i s) (hc : check s.h.conf = 0)

include hexec hat hc in
/-- An instruction whose run changes vector registers and joins flags. -/
theorem completes_of_vectorsOnly {r : Hart × Nat}
    (hperf : perf s.h.conf (captureA i s) (captureB i s) (aloneAtHead i s) =
      .done { aloneAtHead i s with h := endLoop r })
    (hv : VectorsOnly (aloneAtHead i s).h r.1) :
    ∃ t, exec i s = .next t ∧ OnlyVector s t ∧ t.h.v = r.1.v ∧ t.h.m = s.h.m ∧ t.h.g = s.h.g ∧
      t.h.fflags = s.h.fflags ||| BitVec.ofNat 7 r.2 ∧ t.h.smflags = s.h.smflags ∧ t.h.mxflags = s.h.mxflags ∧
      t.h.readback = s.h.readback := by
  obtain ⟨h', fl⟩ := r
  obtain ⟨v, vdirty, marks, rfl⟩ := hv
  refine ⟨_, exec_eq_completed hexec hat hc hperf, onlyVector_completed hat ⟨_, _, _, _, _, _, _, _, _, rfl⟩, ?_⟩
  rw [completed_v, completed_m, completed_g, completed_fflags, completed_smflags, completed_mxflags, completed_readback]
  exact ⟨rfl, rfl, rfl, rfl, rfl, rfl, rfl⟩

include hexec hat hc in
/-- An instruction whose run is the element-wise loop, with a result at each element that does not depend on the
elements before it (R115). -/
theorem perElement_of_elemLoop {f : VF} {fmt n : Nat} {res : ElemFn} {val fl : Nat → Nat}
    (hperf : perf s.h.conf (captureA i s) (captureB i s) (aloneAtHead i s) =
      .done { aloneAtHead i s with h := endLoop (elemLoop s.h.conf f fmt res (aloneAtHead i s).h) })
    (hd : f.d.toNat + n ≤ 64) (hfit : ∀ k, k < s.h.conf.vl → k / regElems s.h.conf (fmtWidth fmt) < n)
    (hres : ∀ h' k, k < s.h.conf.vl →
      Filled s.h.conf f.d.toNat fmt n s.h.vstart (elementAfter s.h.conf f fmt val s.h) (aloneAtHead i s).h h' k →
      res h' k = (val k, fl k)) :
    PerElement i s f fmt n val fl := by
  obtain ⟨hfilled, hflags⟩ := elemLoop_filled (h := (aloneAtHead i s).h) hd hfit hres
  obtain ⟨t, ht, honly, hv, hm, hg, hfl, hrest⟩ := completes_of_vectorsOnly hexec hat hc hperf hfilled.only
  refine ⟨t, ht, honly, ⟨fun r hr => ?_, hm, hg, fun hn k hk => ?_, fun k hlo hhi => ?_⟩, ?_, hrest⟩
  · exact (vreg_congr hv r).trans (hfilled.other r hr)
  · have hk' : k < s.h.vstart * fmtWidth fmt ∨ max s.h.vstart s.h.conf.vl * fmtWidth fmt ≤ k := by
      rcases le_total s.h.vstart s.h.conf.vl with hle | hle
      · rwa [max_eq_right hle]
      · rw [max_eq_left hle]
        exact Nat.lt_or_ge _ _
    rw [vreg_congr hv]
    exact hfilled.outside hn k hk'
  · exact (vget_congr hv ..).trans (hfilled.done k hlo (lt_max_of_lt_right hhi))
  · rw [hfl, hflags]
    rfl

end

end Sys2Proof.Machine
end

section
/-! The integer instructions of VINT that write a vector (R119, R121): their operands, and the exact result cut to the
width or clamped. -/

namespace Sys2Proof.Machine

open Claim

/-! ## Operands -/

/-- In a vector that fits, a register holds every element below VL whole (R112, R208). -/
theorem div_regElems_of_fits {s : State} (hfits : Fits s) {k : Nat} (hk : k < s.h.conf.vl) :
    k / regElems s.h.conf (fmtWidth (fmtOf s)) = 0 :=
  Nat.div_eq_of_lt (Nat.lt_of_lt_of_le hk hfits.2)

/-- Operand a, as it stands when the instruction begins (R119). -/
theorem srcA_aloneAtHead {i : Instr} {s : State} {f : VF}
    (hcap : captureA i s = if f.sa then readS s (sregOf f.a) else 0) (k : Nat) :
    srcA s.h.conf f (captureA i s) (aloneAtHead i s).h k = opA s f k := by
  rw [srcA, opA, hcap]
  cases f.sa <;> rfl

section
variable {s : State} {d lo : Nat} {want : Nat → Nat} {h h' : Hart} {k : Nat}
  (hf : Filled s.h.conf d (fmtOf s) 1 lo want h h' k) (hfits : Fits s) (hk : k < s.h.conf.vl)

include hf hfits hk in
/-- Writing the elements before it does not change operand a of an element. -/
theorem srcA_of_filled (f : VF) (a : Word) : srcA s.h.conf f a h' k = srcA s.h.conf f a h k := by
  rw [srcA, srcA]
  split
  · rfl
  · exact hf.vget_eq (div_regElems_of_fits hfits hk) _

include hf hfits hk in
theorem srcB_of_filled (f : VF) : srcB s.h.conf f h' k = srcB s.h.conf f h k :=
  hf.vget_eq (div_regElems_of_fits hfits hk) _

end

theorem opA_lt (s : State) (f : VF) (k : Nat) : opA s f k < 2 ^ fmtWidth (fmtOf s) := by
  rw [opA]
  split
  · exact Nat.mod_lt _ (Nat.two_pow_pos _)
  · exact vget_lt ..

theorem opB_lt (s : State) (f : VF) (k : Nat) : opB s f k < 2 ^ fmtWidth (fmtOf s) := vget_lt ..

/-! ## Signed elements and codes -/

theorem toSigned_of_lt {w x : Nat} (h : x < 2 ^ w) :
    toSigned w x = if 2 * x < 2 ^ w then (x : Int) else (x : Int) - 2 ^ w := by
  simp [toSigned, Nat.mod_eq_of_lt h]

theorem signedOf_eq_signedElem {fmt x : Nat} (h : x < 2 ^ fmtWidth fmt) : signedOf fmt x = signedElem fmt x := by
  rw [signedOf, signedElem, toSigned_of_lt h]

theorem ofInt_eq_codeOf (w : Nat) (x : Int) : ofInt w x = codeOf w x := by
  rw [ofInt, codeOf, Nat.cast_pow]
  rfl

theorem isInt_iff {fmt : Nat} : isInt fmt = true ↔ fmt = 6 ∨ fmt = 7 ∨ fmt = 8 ∨ fmt = 9 ∨ fmt = 13 := by
  simp [isInt, or_assoc]

/-- The range of an integer format (R76). -/
theorem intMin_intMax_of_isInt {fmt : Nat} (h : isInt fmt = true) :
    intMin fmt = leastOf fmt ∧ intMax fmt = greatestOf fmt ∧ leastOf fmt ≤ greatestOf fmt := by
  rcases isInt_iff.mp h with rfl | rfl | rfl | rfl | rfl <;> decide

/-- A result clamped to the range of its format, and the flag that says so (R76). -/
theorem saturated_eq_clampTo {fmt : Nat} (h : isInt fmt = true) (w : Nat) (x : Int) :
    (if x < intMin fmt then (ofInt w (intMin fmt), fSAT)
      else if intMax fmt < x then (ofInt w (intMax fmt), fSAT) else (ofInt w x, 0)) =
      (codeOf w (clampTo fmt x), if clampTo fmt x = x then 0 else 64) := by
  obtain ⟨hmin, hmax, hle⟩ := intMin_intMax_of_isInt h
  rw [hmin, hmax, clampTo]
  by_cases hlo : x < leastOf fmt
  · have hclamp : max (leastOf fmt) (min (greatestOf fmt) x) = leastOf fmt := by omega
    rw [if_pos hlo, hclamp, if_neg (by omega), ofInt_eq_codeOf]
    rfl
  · by_cases hhi : greatestOf fmt < x
    · have hclamp : max (leastOf fmt) (min (greatestOf fmt) x) = greatestOf fmt := by omega
      rw [if_neg hlo, if_pos hhi, hclamp, if_neg (by omega), ofInt_eq_codeOf]
      rfl
    · have hclamp : max (leastOf fmt) (min (greatestOf fmt) x) = x := by omega
      rw [if_neg hlo, if_neg hhi, hclamp, if_pos rfl, ofInt_eq_codeOf]

/-! ## Two-source instructions -/

section
variable {i : Instr} {s : State} {f : VF} {g : (fmt a b : Nat) → Int} {x : Nat → Int} (hat : AtOnce i s)
  (hint : isInt (fmtOf s) = true) (hidx : indexBad i s.h.conf = false) (hfits : Fits s)
  (hcap : captureA i s = if f.sa then readS s (sregOf f.a) else 0)
  (hx : ∀ k, g (fmtOf s) (opA s f k) (opB s f k) = x k)

include hint hidx in
theorem checkInt_of_legal : checkInt i s.h.conf = 0 := by
  have hfmt : intOnly s.h.conf = true := hint
  simp [checkInt, checks, hfmt, hidx]

include hat hint hidx hfits hcap hx in
/-- The exact result of an integer instruction is cut to w bits (R121). -/
theorem perElement_of_intOp (hexec : exec i s = commitVector i (checkInt i) (intOp f g) s) :
    PerElement i s f (fmtOf s) 1 (fun k => codeOf (widthOf s) (x k)) (fun _ => 0) := by
  refine perElement_of_elemLoop hexec hat (checkInt_of_legal hint hidx) rfl (by omega)
    (fun k hk => by rw [div_regElems_of_fits hfits hk]; exact Nat.one_pos) fun h' k hk hf => ?_
  have hgx : g (confFmt s.h.conf) (opA s f k) (opB s f k) = x k := hx k
  rw [srcA_of_filled hf hfits hk, srcB_of_filled hf hfits hk, srcA_aloneAtHead hcap, ofInt_eq_codeOf, ← hgx]
  rfl

include hat hint hidx hfits hcap hx in
/-- A result outside the format's range is clamped, with SAT (R76, R121). -/
theorem perElement_of_satOp (hexec : exec i s = commitVector i (checkInt i) (satOp f g) s) :
    PerElement i s f (fmtOf s) 1 (fun k => codeOf (widthOf s) (clampTo (fmtOf s) (x k)))
      (fun k => if clampTo (fmtOf s) (x k) = x k then 0 else 64) := by
  refine perElement_of_elemLoop hexec hat (checkInt_of_legal hint hidx) rfl (by omega)
    (fun k hk => by rw [div_regElems_of_fits hfits hk]; exact Nat.one_pos) fun h' k hk hf => ?_
  have hgx : g (confFmt s.h.conf) (opA s f k) (srcB s.h.conf f (aloneAtHead i s).h k) = x k := hx k
  dsimp only
  rw [srcA_of_filled hf hfits hk, srcB_of_filled hf hfits hk, srcA_aloneAtHead hcap, hgx]
  exact saturated_eq_clampTo hint _ _

end

end Sys2Proof.Machine

namespace Sys2Proof

open Machine Claim

/-- Settles O23: every one of the seventeen is `intOp` or `satOp` of its exact result. -/
theorem integerElements : Obligations.IntegerElements := by
  unfold Obligations.IntegerElements
  intro s f hat hint hidx hfits w sa sb a b gives sat
  have hsa (k : Nat) : signedOf (fmtOf s) (opA s f k) = sa k := signedOf_eq_signedElem (opA_lt s f k)
  have hsb (k : Nat) : signedOf (fmtOf s) (opB s f k) = sb k := signedOf_eq_signedElem (opB_lt s f k)
  refine ⟨?vadd, ?vsub, ?vmul, ?vmulh, ?vmulhu, ?vmin, ?vmax, ?vminu, ?vmaxu, ?vand, ?vor, ?vxor, ?vsll, ?vsrl, ?vsra,
    ?vaddsat, ?vsubsat⟩
  case vadd => exact perElement_of_intOp hat hint hidx hfits rfl (fun k => rfl) rfl
  case vsub => exact perElement_of_intOp hat hint hidx hfits rfl (fun k => rfl) rfl
  case vmul => exact perElement_of_intOp hat hint hidx hfits rfl (fun k => rfl) rfl
  case vmulh => exact perElement_of_intOp hat hint hidx hfits rfl (fun k => by rw [hsa, hsb]; rfl) rfl
  case vmulhu => exact perElement_of_intOp hat hint hidx hfits rfl (fun k => by push_cast; rfl) rfl
  case vmin => exact perElement_of_intOp hat hint hidx hfits rfl (fun k => by rw [hsa, hsb]) rfl
  case vmax => exact perElement_of_intOp hat hint hidx hfits rfl (fun k => by rw [hsa, hsb]) rfl
  case vminu => exact perElement_of_intOp hat hint hidx hfits rfl (fun k => by push_cast; rfl) rfl
  case vmaxu => exact perElement_of_intOp hat hint hidx hfits rfl (fun k => by push_cast; rfl) rfl
  case vand => exact perElement_of_intOp hat hint hidx hfits rfl (fun k => rfl) rfl
  case vor => exact perElement_of_intOp hat hint hidx hfits rfl (fun k => rfl) rfl
  case vxor => exact perElement_of_intOp hat hint hidx hfits rfl (fun k => rfl) rfl
  case vsll =>
    exact perElement_of_intOp hat hint hidx hfits rfl (fun k => by rw [Nat.shiftLeft_eq]; push_cast; rfl) rfl
  case vsrl =>
    exact perElement_of_intOp hat hint hidx hfits rfl (fun k => by rw [Nat.shiftRight_eq_div_pow]; push_cast; rfl) rfl
  case vsra => exact perElement_of_intOp hat hint hidx hfits rfl (fun k => by rw [hsa]; rfl) rfl
  case vaddsat => exact perElement_of_satOp hat hint hidx hfits rfl (fun k => by rw [hsa, hsb]) rfl
  case vsubsat => exact perElement_of_satOp hat hint hidx hfits rfl (fun k => by rw [hsa, hsb]) rfl

end Sys2Proof
end

section
/-! The compares (R116, R121, R122): the loop that writes bits of a mask register, and what it leaves in the next
state. -/

namespace Sys2Proof.Machine

open Claim

/-! ## Mask registers -/

/-- A hart that differs from another in mask registers alone. -/
def MasksOnly (h h' : Hart) : Prop := ∃ m, h' = { h with m := m }

theorem MasksOnly.msetBit {h h' : Hart} (hm : MasksOnly h h') (k i : Nat) (b : Bool) :
    MasksOnly h (msetBit k i b h') := by
  obtain ⟨m, rfl⟩ := hm
  exact ⟨_, rfl⟩

/-- Every read of a mask after one bit of one register, not m0, was written (R69). -/
theorem maskBit_msetBit {d : Nat} (hd : d < 16) (hd0 : d ≠ 0) (i : Nat) (b : Bool) (h : Hart) (k j : Nat) :
    maskBit (msetBit d i b h) k j = if k = d ∧ j = i then b else maskBit h k j := by
  have hsize : d < h.m.toArray.size := by simpa using hd
  by_cases hk : k = d
  · subst hk
    have hbit : maskBit (msetBit k i b h) k j = (bitsSet (h.m.toArray.getD k 0) i 1 b.toNat).testBit j := by
      simp [maskBit, bitAt, msetBit, hd0, Array.getD_eq_getD_getElem?, Array.getElem?_setIfInBounds_self_of_lt hsize]
    rw [hbit, testBit_bitsSet]
    by_cases hj : j = i
    · subst hj
      rw [if_pos ⟨le_refl _, Nat.lt_succ_self _⟩, if_pos ⟨rfl, rfl⟩, Nat.sub_self]
      cases b <;> rfl
    · rw [if_neg (by omega), if_neg (by simp [hj])]
      simp [maskBit, bitAt, hd0]
  · rw [if_neg (by simp [hk])]
    simp [maskBit, bitAt, msetBit, Array.getD_eq_getD_getElem?, Array.getElem?_setIfInBounds_ne (Ne.symm hk)]

theorem msetBit_getElem_of_ne {d : Nat} (i : Nat) (b : Bool) (h : Hart) {k : Fin 16} (hk : k.val ≠ d) :
    (msetBit d i b h).m[k] = h.m[k] := by
  exact Vector.getElem_setIfInBounds_ne k.isLt (Ne.symm hk)

/-! ## The loop of a compare (R116) -/

/-- Bits `lo` to i − 1 of mask register d are `want`, and nothing else of the hart has changed. -/
structure BitsFilled (d lo : Nat) (want : Nat → Bool) (h h' : Hart) (i : Nat) : Prop where
  only : MasksOnly h h'
  other : ∀ k : Fin 16, k.val ≠ d → h'.m[k] = h.m[k]
  bit : ∀ k j, maskBit h' k j = if k = d ∧ lo ≤ j ∧ j < i then want j else maskBit h k j

section
variable {d lo : Nat} {want : Nat → Bool} {h h' : Hart} {i : Nat}

theorem BitsFilled.start (d lo : Nat) (want : Nat → Bool) (h : Hart) : BitsFilled d lo want h h lo where
  only := ⟨h.m, rfl⟩
  other _ _ := rfl
  bit k j := (if_neg (by omega)).symm

/-- One more bit is written. -/
theorem BitsFilled.write (hf : BitsFilled d lo want h h' i) (hlo : lo ≤ i) (hd : d < 16) (hd0 : d ≠ 0) {b : Bool}
    (hb : want i = b) : BitsFilled d lo want h (msetBit d i b h') (i + 1) := by
  refine ⟨hf.only.msetBit d i b, fun k hk => (msetBit_getElem_of_ne i b h' hk).trans (hf.other k hk), fun k j => ?_⟩
  rw [maskBit_msetBit hd hd0, hf.bit]
  by_cases hj : k = d ∧ j = i
  · obtain ⟨rfl, rfl⟩ := hj
    rw [if_pos ⟨rfl, rfl⟩, if_pos ⟨rfl, hlo, Nat.lt_succ_self _⟩, hb]
  · rw [if_neg hj]
    exact ite_congr (propext (by omega)) (fun _ => rfl) fun _ => rfl

/-- One more bit keeps what it was. -/
theorem BitsFilled.skip (hf : BitsFilled d lo want h h' i) (hb : want i = maskBit h d i) :
    BitsFilled d lo want h h' (i + 1) := by
  refine ⟨hf.only, hf.other, fun k j => ?_⟩
  rw [hf.bit]
  by_cases hj : k = d ∧ j = i
  · obtain ⟨rfl, rfl⟩ := hj
    rw [if_neg (by omega), hb, ite_self]
  · exact ite_congr (propext (by omega)) (fun _ => rfl) fun _ => rfl

end

/-- What the loop of a compare leaves in bit i of the destination. -/
def bitAfter (c : VConf) (f : VF) (val : Nat → Bool) (h : Hart) (i : Nat) : Bool :=
  if c.vl - c.vlpad ≤ i then false
  else if maskBit h f.m.toNat i then val i
  else if f.mz then false else maskBit h f.d.toNat i

/-- The loop of a compare; its operands stand in registers that it does not write. -/
theorem compareLoop_filled {c : VConf} {f : VF} {res : ElemFn} {val : Nat → Bool} {fl : Nat → Nat} {h : Hart}
    (hd : f.d.toNat < 16) (hd0 : f.d.toNat ≠ 0)
    (hres : ∀ h' i, i < c.vl → MasksOnly h h' → res h' i = ((val i).toNat, fl i)) :
    BitsFilled f.d.toNat h.vstart (bitAfter c f val h) h (compareLoop c f res h).1 (max h.vstart c.vl) ∧
      (compareLoop c f res h).2 = flagsOf c h f.m fl (visited c h) := by
  rw [visited, ← fromTo_max]
  refine foldl_fromTo (motive := fun i (acc : Hart × Nat) =>
    BitsFilled f.d.toNat h.vstart (bitAfter c f val h) h acc.1 i ∧ acc.2 = flagsOf c h f.m fl (fromTo h.vstart i))
    ⟨.start .., ?_⟩ fun i acc hlo hhi ⟨hf, hfl⟩ => ?_
  · simp [fromTo, flagsOf]
  · have hmask : maskBit acc.1 f.m.toNat i = maskBit h f.m.toNat i := by
      rw [hf.bit, if_neg (by omega)]
    rw [fromTo_succ hlo, flagsOf_append, hmask, ← hfl]
    by_cases hpad : c.vl - c.vlpad ≤ i
    · have hp : isPad c i = true := decide_eq_true hpad
      simp only [hp, if_true, Bool.not_true, Bool.false_and, Bool.false_eq_true, if_false]
      exact ⟨hf.write hlo hd hd0 (by rw [bitAfter, if_pos hpad]), trivial⟩
    · have hp : isPad c i = false := decide_eq_false hpad
      cases hm : maskBit h f.m.toNat i
      · cases hz : f.mz
        · simp only [hp, Bool.false_eq_true, if_false, Bool.and_false]
          exact ⟨hf.skip (by simp [bitAfter, hpad, hm, hz]), trivial⟩
        · simp only [hp, Bool.false_eq_true, if_false, if_true, Bool.and_false]
          exact ⟨hf.write hlo hd hd0 (by simp [bitAfter, hpad, hm, hz]), trivial⟩
      · simp only [hp, Bool.false_eq_true, if_false, if_true, Bool.not_false, Bool.and_self, hres acc.1 i hhi hf.only]
        refine ⟨hf.write hlo hd hd0 ?_, trivial⟩
        have hodd : ((val i).toNat % 2 == 1) = val i := by cases val i <;> rfl
        simp [bitAfter, hpad, hm, hodd]

/-! ## A compare that is committed and completes -/

/-- The destination of a compare is a mask register, not m0 (R58). -/
theorem maskDst_of_wellFormed {i : Instr} {r : Roles} {f : VF} (hw : wellFormed i = true) (hr : rolesOf i = some (r, f))
    (hd : r.d = .maskDst) : f.d.toNat < 16 ∧ f.d.toNat ≠ 0 := by
  rw [wellFormed, hr, Bool.and_eq_true] at hw
  simp only [rolesOk, hd, roleOk, Bool.and_eq_true, decide_eq_true_eq, bne_iff_ne] at hw
  obtain ⟨-, ⟨⟨⟨⟨⟨hlt, hne⟩, -⟩, -⟩, -⟩, -⟩, -⟩ := hw
  refine ⟨hlt, fun h0 => hne (BitVec.eq_of_toNat_eq h0)⟩

section
variable {i : Instr} {check : CheckFn} {perf : PerfFn} {s : State} {f : VF}
  (hexec : exec i s = commitVector i check perf s) (hat : AtOnce i s) (hc : check s.h.conf = 0)

include hexec hat hc in
/-- An instruction whose run changes mask registers and joins flags. -/
theorem completes_of_masksOnly {r : Hart × Nat}
    (hperf : perf s.h.conf (captureA i s) (captureB i s) (aloneAtHead i s) =
      .done { aloneAtHead i s with h := endLoop r })
    (hm : MasksOnly (aloneAtHead i s).h r.1) :
    ∃ t, exec i s = .next t ∧ OnlyVector s t ∧ t.h.m = r.1.m ∧ t.h.v = s.h.v ∧ t.h.g = s.h.g ∧
      t.h.vdirty = s.h.vdirty ∧ t.h.fflags = s.h.fflags ||| BitVec.ofNat 7 r.2 ∧ t.h.readback = s.h.readback := by
  obtain ⟨h', fl⟩ := r
  obtain ⟨m, rfl⟩ := hm
  refine ⟨_, exec_eq_completed hexec hat hc hperf, onlyVector_completed hat ⟨_, _, _, _, _, _, _, _, _, rfl⟩, ?_⟩
  rw [completed_m, completed_v, completed_g, completed_vdirty, completed_fflags, completed_readback]
  exact ⟨rfl, rfl, rfl, rfl, rfl, rfl⟩

include hexec hat hc in
/-- An instruction whose run is the loop of a compare, with results that masks do not change (R116). -/
theorem perBit_of_compareLoop {r : Roles} {res : ElemFn} {val : Nat → Bool} {p : Nat → Prop} {fl : Nat → Nat}
    (hroles : rolesOf i = some (r, f)) (hdst : r.d = .maskDst)
    (hperf : perf s.h.conf (captureA i s) (captureB i s) (aloneAtHead i s) =
      .done { aloneAtHead i s with h := endLoop (compareLoop s.h.conf f res (aloneAtHead i s).h) })
    (hres : ∀ h' k, k < s.h.conf.vl → MasksOnly (aloneAtHead i s).h h' → res h' k = ((val k).toNat, fl k))
    (hp : ∀ k, val k = true ↔ p k) : PerBit i s f p fl := by
  obtain ⟨hd, hd0⟩ := maskDst_of_wellFormed hat.1 hroles hdst
  obtain ⟨hfilled, hflags⟩ := compareLoop_filled (h := (aloneAtHead i s).h) hd hd0 hres
  obtain ⟨t, ht, honly, hm, hv, hg, hdirty, hfl, hrb⟩ := completes_of_masksOnly hexec hat hc hperf hfilled.only
  have hbit (k j : Nat) : maskBit t.h k j =
      if k = f.d.toNat ∧ s.h.vstart ≤ j ∧ j < max s.h.vstart s.h.conf.vl
        then bitAfter s.h.conf f val s.h j else maskBit s.h k j := (maskBit_congr hm k j).trans (hfilled.bit k j)
  refine ⟨t, ht, honly, hv, hg, hdirty, fun k hk => ?_, fun j hj => ?_, fun j hlo hhi => ?_, ?_, hrb⟩
  · rw [hm]
    exact hfilled.other k hk
  · rw [hbit, if_neg (by omega)]
  · rw [hbit, if_pos ⟨rfl, hlo, lt_max_of_lt_right hhi⟩, bitAfter]
    by_cases hpad : s.h.conf.vl - s.h.conf.vlpad ≤ j
    · simp [hpad, Nat.not_lt.mpr hpad]
    · have hlt : j < s.h.conf.vl - s.h.conf.vlpad := Nat.not_le.mp hpad
      cases hmj : maskBit s.h f.m.toNat j
      · cases f.mz <;> simp [hpad, hlt]
      · simp [hpad, hlt, hp]
  · rw [hfl, hflags]
    rfl

end

/-! ## Rounding by stochastic bits (R81) -/

/-- The mode is 6 where the field says 6, and where it says 7 and `frm` holds 6. -/
theorem rmOf_eq_six_iff {rm : BitVec 3} {h : Hart} : rmOf rm h = 6 ↔ rm = 6 ∨ rm = 7 ∧ h.frm = 6 := by
  have hsix (x : BitVec 3) : x.toNat = 6 ↔ x = 6 := ⟨fun hx => BitVec.eq_of_toNat_eq hx, fun hx => hx ▸ rfl⟩
  rw [rmOf]
  by_cases h7 : rm = 7
  · rw [if_pos h7, hsix]
    simp [h7]
  · rw [if_neg h7, hsix]
    exact (or_iff_left fun h => h7 h.1).symm

section
variable {s : State} {rm : BitVec 3} {reg : Nat} (hbias : BiasLegal s rm reg)

include hbias in
theorem rsbBad_eq_false_of_legal : rsbBad04 rm s.h.conf = false ∧ rsbBad03 rm reg s.h.conf = false := by
  rw [rsbBad04, rsbBad03]
  by_cases h6 : rm = 6
  · obtain ⟨hwide, hreg⟩ := hbias (rmOf_eq_six_iff.mpr (.inl h6))
    exact ⟨Bool.and_eq_false_imp.mpr fun _ => decide_eq_false (Nat.not_lt.mpr hwide),
      Bool.and_eq_false_imp.mpr fun _ => decide_eq_false (Nat.not_le.mpr hreg)⟩
  · have hne : (rm == 6) = false := beq_eq_false_iff_ne.mpr h6
    rw [hne]
    exact ⟨rfl, rfl⟩

include hbias in
/-- The checks at the head pass for a mode that comes from `frm`. -/
theorem rsbHead_of_legal (p : PerfFn) (a b : Word) {t : State} (ht : t.h.frm = s.h.frm) :
    rsbHead rm reg p s.h.conf a b t = p s.h.conf a b t := by
  unfold rsbHead
  split
  case isTrue h =>
    obtain ⟨hwide, hreg⟩ := hbias (rmOf_eq_six_iff.mpr (.inr ⟨h.1, ht ▸ h.2⟩))
    have hwide : ¬ confW s.h.conf < 8 := Nat.not_lt.mpr hwide
    rw [if_neg hwide, if_neg (Nat.not_le.mpr hreg)]
  case isFalse => rfl

include hbias in
theorem checkFp_of_legal {i : Instr} {k : Nat} {f : VF} (hreg : biasRegOf k f = reg)
    (hfloat : isFloat16Up (fmtOf s) = true) (hidx : indexBad i s.h.conf = false) : checkFp i rm k f s.h.conf = 0 := by
  obtain ⟨h04, h03⟩ := rsbBad_eq_false_of_legal hbias
  have hfmt : floatOnly s.h.conf = true := hfloat
  simp [checkFp, checks, hreg, h04, h03, hfmt, hidx]

end

theorem fmtWidth_of_isFloat16Up {fmt : Nat} (h : isFloat16Up fmt = true) : 16 ≤ fmtWidth fmt := by
  have hle : fmt ≤ 2 := of_decide_eq_true h
  interval_cases fmt <;> decide

/-- Where field c is the bias register alone, its index was checked at commit (R58, R122). -/
theorem biasLegal_of_biasRole {i : Instr} {r : Roles} {f : VF} {s : State} {rm : BitVec 3}
    (hroles : rolesOf i = some (r, f)) (hrc : r.c = biasRole rm) (hfloat : isFloat16Up (fmtOf s) = true)
    (hidx : indexBad i s.h.conf = false) : BiasLegal s rm f.c.toNat := by
  intro h6
  have hwide : 16 ≤ widthOf s := fmtWidth_of_isFloat16Up hfloat
  have hrole : r.c = .vec := by
    rw [hrc, biasRole, if_neg]
    rcases rmOf_eq_six_iff.mp h6 with rfl | ⟨rfl, -⟩ <;> decide
  simp only [indexBad, hroles, hrole, vecBad, Bool.or_eq_false_iff, beq_self_eq_true, Bool.true_and,
    decide_eq_false_iff_not, Nat.not_le] at hidx
  exact ⟨by omega, hidx.2⟩

/-! ## The six compares -/

section
variable {i : Instr} {s : State} {f : VF} {p : Nat → Prop} (hat : AtOnce i s) (hidx : indexBad i s.h.conf = false)
  (hcap : captureA i s = if f.sa then readS s (sregOf f.a) else 0) {r : Roles} (hroles : rolesOf i = some (r, f))
  (hdst : r.d = .maskDst)

include hat hidx hcap hroles hdst in
/-- An integer compare (R121). -/
theorem perBit_of_intCompare {g : (fmt a b : Nat) → Bool} (hint : isInt (fmtOf s) = true)
    (hexec : exec i s = commitVector i (checkInt i) (intCompare f g) s)
    (hp : ∀ k, g (fmtOf s) (opA s f k) (opB s f k) = true ↔ p k) : PerBit i s f p (fun _ => 0) := by
  refine perBit_of_compareLoop hexec hat (checkInt_of_legal hint hidx) hroles hdst
    (val := fun k => g (fmtOf s) (opA s f k) (opB s f k)) rfl (fun h' k _ hm => ?_) hp
  obtain ⟨m, rfl⟩ := hm
  rw [← srcA_aloneAtHead hcap]
  rfl

include hat hidx hcap hroles hdst in
/-- A floating-point compare, with its flag (R122). -/
theorem perBit_of_fpCompare {rm : BitVec 3} {anyNan : Bool} {g : Int → Bool} {fl : Nat → Nat}
    (hfloat : isFloat16Up (fmtOf s) = true) (hrc : r.c = biasRole rm)
    (hexec : exec i s = commitVector i (checkFp i rm 0 f) (fpCompare rm f anyNan g) s)
    (hp : ∀ k, (!(isNanX (decodeX (fmtOf s) (opA s f k)) || isNanX (decodeX (fmtOf s) (opB s f k))) &&
      g (cmpX (decodeX (fmtOf s) (opA s f k)) (decodeX (fmtOf s) (opB s f k)))) = true ↔ p k)
    (hfl : ∀ k, (if isSigX (decodeX (fmtOf s) (opA s f k)) || isSigX (decodeX (fmtOf s) (opB s f k)) ||
      (anyNan && (isNanX (decodeX (fmtOf s) (opA s f k)) || isNanX (decodeX (fmtOf s) (opB s f k)))) then fNV else 0) =
        fl k) : PerBit i s f p fl := by
  have hbias : BiasLegal s rm f.c.toNat := biasLegal_of_biasRole hroles hrc hfloat hidx
  refine perBit_of_compareLoop hexec hat (checkFp_of_legal hbias rfl hfloat hidx) hroles hdst
    (rsbHead_of_legal hbias _ _ _ rfl) (fun h' k _ hm => ?_) hp
  obtain ⟨m, rfl⟩ := hm
  rw [← hfl, ← srcA_aloneAtHead hcap]
  rfl

end

theorem isNanX_of_isSigX {x : XVal} (h : isSigX x = true) : isNanX x = true := by
  cases x with
  | nan => rfl
  | inf => cases h
  | fin => cases h

end Sys2Proof.Machine

namespace Sys2Proof

open Machine Claim

/-- Settles O24: three are `intCompare`, three `fpCompare`. -/
theorem comparesWriteAMask : Obligations.ComparesWriteAMask := by
  unfold Obligations.ComparesWriteAMask
  intro s rm f sa sb x y nan sig
  have hsa (k : Nat) : signedOf (fmtOf s) (opA s f k) = sa k := signedOf_eq_signedElem (opA_lt s f k)
  have hsb (k : Nat) : signedOf (fmtOf s) (opB s f k) = sb k := signedOf_eq_signedElem (opB_lt s f k)
  have hquiet (k : Nat) : (sig k || (false && nan k)) = sig k := by simp
  have hany (k : Nat) : (sig k || (true && nan k)) = nan k := by
    have himp : sig k = true → nan k = true := fun h => by
      rcases Bool.or_eq_true_iff.mp h with h | h <;> simp [nan, isNanX_of_isSigX h]
    cases hs : sig k <;> simp_all
  refine ⟨fun hat hint hidx _ => ⟨?vcmpeq, ?vcmplt, ?vcmpltu⟩, fun hat hfloat hidx _ => ⟨?vfcmpeq, ?vfcmplt, ?vfcmple⟩⟩
  case vcmpeq => exact perBit_of_intCompare hat hidx rfl rfl rfl hint rfl fun k => beq_iff_eq
  case vcmplt => exact perBit_of_intCompare hat hidx rfl rfl rfl hint rfl fun k => by rw [hsa, hsb, decide_eq_true_iff]
  case vcmpltu => exact perBit_of_intCompare hat hidx rfl rfl rfl hint rfl fun k => decide_eq_true_iff
  case vfcmpeq =>
    exact perBit_of_fpCompare hat hidx rfl rfl rfl hfloat rfl rfl (fun k => by simp [nan, x, y])
      fun k => congrArg (fun b : Bool => if b then 1 else 0) (hquiet k)
  case vfcmplt =>
    exact perBit_of_fpCompare (i := .vfcmplt rm f) hat hidx rfl rfl rfl hfloat rfl rfl (fun k => by simp [nan, x, y])
      fun k => congrArg (fun b : Bool => if b then 1 else 0) (hany k)
  case vfcmple =>
    exact perBit_of_fpCompare (i := .vfcmple rm f) hat hidx rfl rfl rfl hfloat rfl rfl (fun k => by simp [nan, x, y])
      fun k => congrArg (fun b : Bool => if b then 1 else 0) (hany k)

end Sys2Proof
end

section
/-! Reductions over segments of a vector (R128, R129): what every level of the pairwise tree keeps (R89), and the loop
that writes the results. -/

namespace Sys2Proof.Machine

open Claim

/-! ## The pairwise tree (R89) -/

section
variable (op : Nat → Nat → Nat × Nat)

/-- One level of the tree. -/
def levelOf (l : List (Option Nat)) : List (Option Nat) := (flagTree.level op l).1

theorem levelOf_nil : levelOf op [] = [] := rfl

theorem levelOf_singleton (x : Option Nat) : levelOf op [x] = [x] := by
  cases x <;> rfl

/-- Two neighbours give their combination, or the one of them that takes part. -/
theorem levelOf_cons_cons (x y : Option Nat) (l : List (Option Nat)) :
    levelOf op (x :: y :: l) = Option.merge (fun a b => (op a b).1) x y :: levelOf op l := by
  cases x <;> cases y <;> rfl

theorem length_levelOf (l : List (Option Nat)) : (levelOf op l).length = (l.length + 1) / 2 := by
  induction l using List.twoStepInduction with
  | nil => rfl
  | singleton x => rw [levelOf_singleton, List.length_singleton]
  | cons_cons x y l ih _ =>
    rw [levelOf_cons_cons, List.length_cons, ih, List.length_cons, List.length_cons]
    omega

theorem flagTree_succ_fst (n : Nat) (l : List (Option Nat)) :
    (flagTree op (n + 1) l).1 = (flagTree op n (levelOf op l)).1 := rfl

variable {op}

/-- What every level keeps of the operands that take part holds of the result, where the levels are enough. -/
theorem flagTree_induction {motive : List Nat → Prop}
    (hlevel : ∀ l : List (Option Nat), motive l.reduceOption → motive (levelOf op l).reduceOption) (n : Nat)
    (l : List (Option Nat)) (hlen : l.length ≤ 2 ^ n) (hl : motive l.reduceOption) :
    motive (flagTree op n l).1.toList := by
  induction n generalizing l with
  | zero =>
    match l, hlen, hl with
    | [], _, hl => exact hl
    | [none], _, hl => exact hl
    | [some x], _, hl => exact hl
  | succ n ih =>
    rw [flagTree_succ_fst]
    refine ih _ ?_ (hlevel l hl)
    rw [length_levelOf]
    omega

end

/-- A level of sums modulo m keeps the sum modulo m. -/
theorem sum_levelOf_mod (m : Nat) (l : List (Option Nat)) :
    (levelOf (fun a b => ((a + b) % m, 0)) l).reduceOption.sum % m = l.reduceOption.sum % m := by
  induction l using List.twoStepInduction with
  | nil => rfl
  | singleton x => rw [levelOf_singleton]
  | cons_cons x y l ih _ =>
    rw [levelOf_cons_cons]
    cases x with
    | none =>
      cases y with
      | none => exact ih
      | some b => exact Nat.ModEq.add_left b ih
    | some a =>
      cases y with
      | none => exact Nat.ModEq.add_left a ih
      | some b =>
        have hhead : (a + b) % m ≡ a + b [MOD m] := Nat.mod_modEq _ _
        have hsum := hhead.add (show _ ≡ _ [MOD m] from ih)
        rw [Nat.add_assoc] at hsum
        exact hsum

/-- A level of choices keeps only operands, and for each operand one that is as far in the order. -/
theorem levelOf_choice {op : Nat → Nat → Nat × Nat} {le : Nat → Nat → Prop} (hrefl : ∀ a, le a a)
    (hchoice : ∀ a b, (op a b).1 = a ∨ (op a b).1 = b) (hle : ∀ a b, le (op a b).1 a ∧ le (op a b).1 b)
    (l : List (Option Nat)) :
    (levelOf op l).reduceOption ⊆ l.reduceOption ∧
      ∀ y ∈ l.reduceOption, ∃ x ∈ (levelOf op l).reduceOption, le x y := by
  induction l using List.twoStepInduction with
  | nil => exact ⟨fun _ h => h, fun _ h => absurd h List.not_mem_nil⟩
  | singleton x => rw [levelOf_singleton]; exact ⟨fun _ h => h, fun y h => ⟨y, h, hrefl y⟩⟩
  | cons_cons x y l ih _ =>
    obtain ⟨hsub, hall⟩ := ih
    have hcons (a : Nat) : a :: (levelOf op l).reduceOption ⊆ a :: l.reduceOption ∧
        ∀ y ∈ a :: l.reduceOption, ∃ x ∈ a :: (levelOf op l).reduceOption, le x y := by
      refine ⟨List.cons_subset_cons a hsub, fun y hy => ?_⟩
      rcases List.mem_cons.mp hy with rfl | hy
      · exact ⟨y, List.mem_cons_self, hrefl y⟩
      · obtain ⟨x, hx, hxy⟩ := hall y hy
        exact ⟨x, List.mem_cons_of_mem a hx, hxy⟩
    rw [levelOf_cons_cons]
    cases x with
    | none =>
      cases y with
      | none => exact ⟨hsub, hall⟩
      | some b => exact hcons b
    | some a =>
      cases y with
      | none => exact hcons a
      | some b =>
        change (op a b).1 :: (levelOf op l).reduceOption ⊆ a :: b :: l.reduceOption ∧
          ∀ y ∈ a :: b :: l.reduceOption, ∃ x ∈ (op a b).1 :: (levelOf op l).reduceOption, le x y
        refine ⟨List.cons_subset.mpr ⟨?_, fun z hz => ?_⟩, fun y hy => ?_⟩
        · rcases hchoice a b with h | h <;> simp [h]
        · exact List.mem_cons_of_mem a (List.mem_cons_of_mem b (hsub hz))
        · rcases List.mem_cons.mp hy with rfl | hy
          · exact ⟨_, List.mem_cons_self, (hle y b).1⟩
          · rcases List.mem_cons.mp hy with rfl | hy
            · exact ⟨_, List.mem_cons_self, (hle a y).2⟩
            · obtain ⟨x, hx, hxy⟩ := hall y hy
              exact ⟨x, List.mem_cons_of_mem _ hx, hxy⟩

/-- The tree of sums modulo m is the sum modulo m of the operands that take part. -/
theorem flagTree_sum {m n : Nat} {l : List (Option Nat)} (hlen : l.length ≤ 2 ^ n) :
    (flagTree (fun a b => ((a + b) % m, 0)) n l).1.getD 0 % m = l.reduceOption.sum % m := by
  have hsum := flagTree_induction (motive := fun L => L.sum % m = l.reduceOption.sum % m)
    (fun L hL => (sum_levelOf_mod m L).trans hL) n l hlen rfl
  rw [← hsum]
  cases (flagTree (fun a b => ((a + b) % m, 0)) n l).1 <;> rfl

/-- The tree of choices in an order gives an operand that is at the front of the order, or nothing where none takes
part. -/
theorem flagTree_choice {op : Nat → Nat → Nat × Nat} {le : Nat → Nat → Prop} (hrefl : ∀ a, le a a)
    (htrans : ∀ a b c, le a b → le b c → le a c) (hchoice : ∀ a b, (op a b).1 = a ∨ (op a b).1 = b)
    (hle : ∀ a b, le (op a b).1 a ∧ le (op a b).1 b) {n : Nat} {l : List (Option Nat)} (hlen : l.length ≤ 2 ^ n) :
    (flagTree op n l).1 = none ∧ l.reduceOption = [] ∨
      ∃ x ∈ l.reduceOption, (flagTree op n l).1 = some x ∧ ∀ y ∈ l.reduceOption, le x y := by
  have hkept := flagTree_induction (op := op)
    (motive := fun L => L ⊆ l.reduceOption ∧ ∀ y ∈ l.reduceOption, ∃ x ∈ L, le x y)
    (fun L hL => ?_) n l hlen ⟨fun _ h => h, fun y h => ⟨y, h, hrefl y⟩⟩
  · obtain ⟨hsub, hall⟩ := hkept
    cases hr : (flagTree op n l).1 with
    | none =>
      rw [hr] at hall
      refine .inl ⟨rfl, List.eq_nil_iff_forall_not_mem.mpr fun y hy => ?_⟩
      obtain ⟨x, hx, -⟩ := hall y hy
      exact List.not_mem_nil hx
    | some x =>
      rw [hr] at hsub hall
      refine .inr ⟨x, hsub List.mem_cons_self, rfl, fun y hy => ?_⟩
      obtain ⟨z, hz, hzy⟩ := hall y hy
      rwa [List.mem_singleton.mp hz] at hzy
  · obtain ⟨hsub, hall⟩ := hL
    obtain ⟨hsub', hall'⟩ := levelOf_choice hrefl hchoice hle L
    refine ⟨fun z hz => hsub (hsub' hz), fun y hy => ?_⟩
    obtain ⟨x, hx, hxy⟩ := hall y hy
    obtain ⟨z, hz, hzx⟩ := hall' x hx
    exact ⟨z, hz, htrans _ _ _ hzx hxy⟩

/-! ## Segments (R128) -/

/-- The operands of the tree of segment k: the elements that take part, and gaps for the others. -/
def segmentLeaves (c : VConf) (f : VF) (h : Hart) (k : Nat) : List (Option Nat) :=
  (fromTo (k * segmentLen f c) (min ((k + 1) * segmentLen f c) c.vl)).map fun i =>
    if contributes c h f.m.toNat i then some (vget c h f.a.toNat (confFmt c) i) else none

theorem segmentResult_fst (c : VConf) (f : VF) (h : Hart) (op : (fmt a b : Nat) → Nat × Nat) (identity k : Nat) :
    (segmentResult c f h op identity k).1 =
      (flagTree (op (confFmt c)) 16 (segmentLeaves c f h k)).1.getD identity := by
  simp only [segmentResult, segmentLeaves]

/-- A segment's result depends on vector and mask registers alone. -/
theorem segmentResult_congr {h h' : Hart} (hv : h'.v = h.v) (hm : h'.m = h.m) (c : VConf) (f : VF)
    (op : (fmt a b : Nat) → Nat × Nat) (identity : Nat) :
    segmentResult c f h' op identity = segmentResult c f h op identity := by
  have hcontributes : contributes c h' f.m.toNat = contributes c h f.m.toNat :=
    funext fun i => by rw [contributes, contributes, maskBit_congr hm]
  have hget : vget c h' f.a.toNat (confFmt c) = vget c h f.a.toNat (confFmt c) := funext fun i => vget_congr hv ..
  unfold segmentResult
  rw [hcontributes, hget]

section
variable {c : VConf} {f : VF} {h : Hart} {k : Nat}

theorem length_segmentLeaves (hvl : c.vl ≤ 16384) : (segmentLeaves c f h k).length ≤ 2 ^ 16 := by
  rw [segmentLeaves, List.length_map, fromTo, List.length_map, List.length_range]
  omega

theorem mem_segmentLeaves {x : Nat} : x ∈ (segmentLeaves c f h k).reduceOption ↔
    ∃ i, (k * segmentLen f c ≤ i ∧ i < (k + 1) * segmentLen f c ∧ contributes c h f.m.toNat i = true) ∧
      vget c h f.a.toNat (confFmt c) i = x := by
  rw [List.reduceOption_mem_iff, segmentLeaves, List.mem_map]
  constructor
  · rintro ⟨i, hi, hx⟩
    obtain ⟨hlo, hhi⟩ := mem_fromTo.mp hi
    cases hc : contributes c h f.m.toNat i with
    | false => simp [hc] at hx
    | true => exact ⟨i, ⟨hlo, (lt_min_iff.mp hhi).1, hc⟩, by simpa [hc] using hx⟩
  · rintro ⟨i, ⟨hlo, hhi, hc⟩, rfl⟩
    have hvl : i < c.vl := by
      simp only [contributes, Bool.and_eq_true, decide_eq_true_eq] at hc
      exact hc.2
    exact ⟨i, mem_fromTo.mpr ⟨hlo, lt_min hhi hvl⟩, if_pos hc⟩

theorem foldl_add_eq_sum_reduceOption (p : Nat → Bool) (v : Nat → Nat) (l : List Nat) (x : Nat) :
    l.foldl (fun a i => if p i then a + v i else a) x =
      x + (l.map fun i => if p i then some (v i) else none).reduceOption.sum := by
  induction l generalizing x with
  | nil => rfl
  | cons i l ih =>
    rw [List.foldl_cons, ih, List.map_cons]
    cases p i with
    | false => rfl
    | true => exact Nat.add_assoc _ _ _

/-- The sum of a segment: the numbers at or above VL that a last, shorter segment lacks would add nothing. -/
theorem sum_segmentLeaves :
    (segmentLeaves c f h k).reduceOption.sum =
      ((List.range (segmentLen f c)).map (k * segmentLen f c + ·)).foldl
        (fun a i => if contributes c h f.m.toNat i then a + vget c h f.a.toNat (confFmt c) i else a) 0 := by
  rw [foldl_add_eq_sum_reduceOption, Nat.zero_add, segmentLeaves, fromTo, Nat.succ_mul]
  generalize segmentLen f c = n
  generalize k * n = q
  obtain ⟨j, hj⟩ : ∃ j, n = (min (q + n) c.vl - q) + j := ⟨n - (min (q + n) c.vl - q), by omega⟩
  have hcomm : (fun i => i + q) = (q + ·) := funext fun i => Nat.add_comm i q
  have hrest : (((List.range j).map (min (q + n) c.vl - q + ·)).map (q + ·)).map
      (fun i => if contributes c h f.m.toNat i then some (vget c h f.a.toNat (confFmt c) i) else none) =
      List.replicate j none := by
    refine List.eq_replicate_iff.mpr ⟨by simp, fun x hx => ?_⟩
    simp only [List.map_map, List.mem_map, List.mem_range, Function.comp_apply] at hx
    obtain ⟨i, hi, rfl⟩ := hx
    have hout : ¬ q + (min (q + n) c.vl - q + i) < c.vl := by omega
    simp [contributes, hout]
  conv_rhs => rw [hj, List.range_add, List.map_append, List.map_append, hrest, List.reduceOption_append,
    List.reduceOption_replicate_none, List.append_nil]
  rw [hcomm]

end

/-! ## The results (R129) -/

/-- How many segments a vector has. -/
def segmentCount (f : VF) (c : VConf) : Nat :=
  if segmentLen f c = 0 then 0 else (c.vl + segmentLen f c - 1) / segmentLen f c

/-- A segment is one that the reduction writes when its first element lies below VL. -/
theorem lt_segmentCount_iff {f : VF} {c : VConf} {k : Nat} : k < segmentCount f c ↔ k * segmentLen f c < c.vl := by
  have himm : f.imm ≠ 0 → f.imm.toNat ≠ 0 := fun h h0 => h (BitVec.eq_of_toNat_eq h0)
  rw [segmentCount]
  split
  case isTrue h0 =>
    have hvl : c.vl = 0 := by
      rw [segmentLen] at h0
      split at h0
      · exact h0
      · exact absurd h0 (himm ‹_›)
    simp [h0, hvl]
  case isFalse h0 =>
    rw [Nat.lt_div_iff_mul_lt (Nat.pos_of_ne_zero h0)]
    generalize k * segmentLen f c = q
    omega

/-- There are at most as many segments as elements. -/
theorem lt_vl_of_lt_segmentCount {f : VF} {c : VConf} {k : Nat} (h : k < segmentCount f c) : k < c.vl := by
  have hn : segmentLen f c ≠ 0 := fun h0 => by simp [segmentCount, h0] at h
  exact Nat.lt_of_le_of_lt (Nat.le_mul_of_pos_right k (Nat.pos_of_ne_zero hn)) (lt_segmentCount_iff.mp h)

/-- The loop that writes the results of the segments. -/
def resultLoop (c : VConf) (f : VF) (g : Nat → Nat × Nat) (h : Hart) : Hart × Nat :=
  (fromTo 0 (segmentCount f c)).foldl
    (fun acc k => (vset c f.d.toNat (confFmt c) k (g k).1 acc.1, acc.2 ||| (g k).2)) (h, 0)

theorem redOp_of_vstart_zero {f : VF} (op : (fmt a b : Nat) → Nat × Nat) (identity : Nat → Nat) (c : VConf) (a b : Word)
    {t : State} (hv : t.h.vstart = 0) :
    redOp f op identity c a b t = .done { t with
      h := endLoop (resultLoop c f (segmentResult c f t.h op (identity (confFmt c))) t.h) } := by
  have hzero : (t.h.vstart == 0) = true := beq_iff_eq.mpr hv
  rw [redOp, perfWhen, if_pos hzero, perfRegs, resultLoop, fromTo]
  simp only [List.foldl_map, upTo, segmentCount, Nat.sub_zero, Nat.add_zero]

theorem resultLoop_filled {s : State} {f : VF} (g : Nat → Nat × Nat) (h : Hart) (hfits : Fits s) :
    Filled s.h.conf f.d.toNat (fmtOf s) 1 0 (fun k => (g k).1 % 2 ^ fmtWidth (fmtOf s)) h
      (resultLoop s.h.conf f g h).1 (segmentCount f s.h.conf) := by
  rw [← Nat.zero_max (segmentCount f s.h.conf)]
  refine foldl_fromTo (motive := fun i (acc : Hart × Nat) =>
    Filled s.h.conf f.d.toNat (fmtOf s) 1 0 (fun k => (g k).1 % 2 ^ fmtWidth (fmtOf s)) h acc.1 i) (.start ..)
    fun k acc hlo hhi hf => hf.write hlo ?_ (by omega) rfl
  rw [div_regElems_of_fits hfits (lt_vl_of_lt_segmentCount hhi)]
  exact Nat.one_pos

theorem conf_of_onlyVector {s t : State} (h : OnlyVector s t) : t.h.conf = s.h.conf := by
  rw [h.2]

/-- What a reduction leaves, with the result of each segment. -/
theorem reduces_of_redOp {i : Instr} {check : CheckFn} {s : State} {f : VF} {op : (fmt a b : Nat) → Nat × Nat}
    {identity : Nat → Nat} {p : Nat → Nat → Prop} (hexec : exec i s = commitVector i check (redOp f op identity) s)
    (hat : AtOnce i s) (hc : check s.h.conf = 0) (hv : s.h.vstart = 0) (hfits : Fits s)
    (hp : ∀ k, p k ((segmentResult s.h.conf f s.h op (identity (fmtOf s)) k).1 % 2 ^ widthOf s)) :
    ∃ t, exec i s = .next t ∧ OnlyVector s t ∧ t.h.m = s.h.m ∧ t.h.g = s.h.g ∧ t.h.readback = s.h.readback ∧
      (∀ r, r ≠ f.d.toNat → vreg t.h r = vreg s.h r) ∧
      (∀ k, k * segmentLen f s.h.conf < s.h.conf.vl → p k (element t f.d (fmtOf s) k)) ∧
      ∀ k, s.h.conf.vl ≤ k * segmentLen f s.h.conf → k < regElems s.h.conf (widthOf s) →
        element t f.d (fmtOf s) k = element s f.d (fmtOf s) k := by
  have hrun := redOp_of_vstart_zero (f := f) op identity s.h.conf (captureA i s) (captureB i s)
    (t := aloneAtHead i s) hv
  rw [segmentResult_congr (h := s.h) (h' := (aloneAtHead i s).h) rfl rfl] at hrun
  have hfilled := resultLoop_filled (f := f) (segmentResult s.h.conf f s.h op (identity (confFmt s.h.conf)))
    (aloneAtHead i s).h hfits
  obtain ⟨t, ht, honly, htv, htm, htg, -, -, -, htr⟩ := completes_of_vectorsOnly hexec hat hc hrun hfilled.only
  have helem (k : Nat) : element t f.d (fmtOf s) k = vget s.h.conf t.h f.d.toNat (fmtOf s) k := by
    rw [element, conf_of_onlyVector honly]
  refine ⟨t, ht, honly, htm, htg, htr, fun r hr => ?_, fun k hk => ?_, fun k hk _ => ?_⟩
  · exact (vreg_congr htv r).trans (hfilled.other r (by omega))
  · rw [helem, vget_congr htv, hfilled.done k (Nat.zero_le k) (lt_segmentCount_iff.mpr hk)]
    exact hp k
  · rw [helem, vget_congr htv, hfilled.ahead k (Nat.not_lt.mp (mt lt_segmentCount_iff.mp (Nat.not_lt.mpr hk)))]
    rfl

/-! ## The six reductions -/

theorem checkRed_of_legal {i : Instr} {s : State} {float : Bool}
    (hfmt : (if float then floatOnly s.h.conf else intOnly s.h.conf) = true) (hidx : indexBad i s.h.conf = false) :
    checkRed i float s.h.conf = 0 := by
  cases float <;> simp_all [checkRed, checks]

theorem codeOf_lt (w : Nat) (x : Int) : codeOf w x < 2 ^ w := by
  have hpos : (0 : Int) < 2 ^ w := by positivity
  have hlt : x % 2 ^ w < 2 ^ w := Int.emod_lt_of_pos x hpos
  have hnonneg : 0 ≤ x % 2 ^ w := Int.emod_nonneg x hpos.ne'
  have hcast : ((codeOf w x : Nat) : Int) < ((2 ^ w : Nat) : Int) := by
    rw [codeOf, Int.toNat_of_nonneg hnonneg]
    push_cast
    exact hlt
  exact_mod_cast hcast

/-- An element contributes to its segment when the reduction performs it. -/
theorem contributes_iff_active {s : State} {m : BitVec 4} {i : Nat} (hv : s.h.vstart = 0) :
    contributes s.h.conf s.h m.toNat i = true ↔ Active s m i := by
  simp only [contributes, isPad, Active, hv, Bool.and_eq_true, Bool.not_eq_true', decide_eq_false_iff_not,
    decide_eq_true_eq]
  constructor
  · rintro ⟨⟨hm, hpad⟩, hvl⟩
    exact ⟨Nat.zero_le i, by omega, hm⟩
  · rintro ⟨-, hlt, hm⟩
    exact ⟨⟨hm, by omega⟩, by omega⟩

theorem pickInt_choice {fmt : Nat} {p : Int → Int → Bool} (a b : Nat) :
    (pickInt fmt p a b).1 = a ∨ (pickInt fmt p a b).1 = b := by
  rw [pickInt]
  exact ite_eq_or_eq _ a b

section
variable {R : Int → Int → Prop} [DecidableRel R] (hrefl : ∀ a, R a a) (htotal : ∀ a b, R a b ∨ R b a)

include hrefl htotal in
/-- The operand that is chosen comes before both in the order. -/
theorem pickInt_rel (fmt a b : Nat) :
    R (signedOf fmt (pickInt fmt (fun x y => decide (R x y)) a b).1) (signedOf fmt a) ∧
      R (signedOf fmt (pickInt fmt (fun x y => decide (R x y)) a b).1) (signedOf fmt b) := by
  rw [pickInt]
  by_cases h : R (signedOf fmt a) (signedOf fmt b)
  · rw [if_pos (decide_eq_true h)]
    exact ⟨hrefl _, h⟩
  · rw [if_neg (ne_true_of_eq_false (decide_eq_false h))]
    exact ⟨(htotal _ _).resolve_left h, hrefl _⟩

include hrefl htotal in
/-- The result of a segment under a choice in an order of the values: it comes before every element that takes part, and
it is one of them, or the code of the identity where there is none. -/
theorem segmentResult_of_choice {s : State} {f : VF} {identity : Nat} {least : Int} (k : Nat) (hv : s.h.vstart = 0)
    (hfits : Fits s) (hid : identity = codeOf (widthOf s) least) (htrans : ∀ a b c, R a b → R b c → R a c) :
    let val := element s f.a (fmtOf s)
    let inSegment (i : Nat) : Prop :=
      k * segmentLen f s.h.conf ≤ i ∧ i < (k + 1) * segmentLen f s.h.conf ∧ Active s f.m i
    let x :=
      (segmentResult s.h.conf f s.h (fun fmt => pickInt fmt fun x y => decide (R x y)) identity k).1 % 2 ^ widthOf s
    (∀ i, inSegment i → R (signedElem (fmtOf s) x) (signedElem (fmtOf s) (val i))) ∧
      ((∃ i, inSegment i ∧ val i = x) ∨ (∀ i, ¬ inSegment i) ∧ x = codeOf (widthOf s) least) := by
  intro val inSegment x
  have hmem (y : Nat) : y ∈ (segmentLeaves s.h.conf f s.h k).reduceOption ↔ ∃ i, inSegment i ∧ val i = y := by
    simp only [mem_segmentLeaves, contributes_iff_active hv]
    rfl
  have hx : x = (flagTree (pickInt (fmtOf s) fun x y => decide (R x y)) 16
      (segmentLeaves s.h.conf f s.h k)).1.getD identity % 2 ^ widthOf s :=
    congrArg (· % 2 ^ widthOf s) (segmentResult_fst ..)
  have hsigned (i : Nat) : signedOf (fmtOf s) (val i) = signedElem (fmtOf s) (val i) :=
    signedOf_eq_signedElem (vget_lt ..)
  rcases flagTree_choice (le := fun a b => R (signedOf (fmtOf s) a) (signedOf (fmtOf s) b)) (fun _ => hrefl _)
    (fun _ _ _ => htrans _ _ _) pickInt_choice (pickInt_rel hrefl htotal (fmtOf s)) (length_segmentLeaves hfits.1)
    with ⟨hnone, hnil⟩ | ⟨y, hy, hsome, hall⟩
  · have hempty (i : Nat) : ¬ inSegment i := fun hi => by
      have hmem := (hmem (val i)).mpr ⟨i, hi, rfl⟩
      rw [hnil] at hmem
      exact List.not_mem_nil hmem
    refine ⟨fun i hi => absurd hi (hempty i), .inr ⟨hempty, ?_⟩⟩
    rw [hx, hnone, hid]
    exact Nat.mod_eq_of_lt (codeOf_lt _ _)
  · obtain ⟨i, hi, rfl⟩ := (hmem y).mp hy
    have hxi : x = val i := by
      rw [hx, hsome]
      exact Nat.mod_eq_of_lt (vget_lt ..)
    refine ⟨fun j hj => ?_, .inl ⟨i, hi, hxi.symm⟩⟩
    rw [hxi, ← hsigned, ← hsigned]
    exact hall _ ((hmem _).mpr ⟨j, hj, rfl⟩)

end

theorem withSign_of_isFloat16Up {fmt : Nat} (h : isFloat16Up fmt = true) (x : Nat) :
    withSign fmt true x = x + 2 ^ (fmtWidth fmt - 1) := by
  have hle : fmt ≤ 2 := of_decide_eq_true h
  have hne : fmt ≠ fmtA48 := fun h16 => by rw [h16] at hle; exact absurd hle (by decide)
  rw [withSign, if_pos rfl, floatWidth, if_neg hne]

end Sys2Proof.Machine

namespace Sys2Proof

open Machine Claim

/-- Settles O27: the tree's levels keep the sum, and the choice in either order. -/
theorem reductionsBySegment : Obligations.ReductionsBySegment := by
  unfold Obligations.ReductionsBySegment
  intro s f hv hfits c fmt n inSegment reduces val sval
  have hred {i : Instr} {float : Bool} {op : (fmt a b : Nat) → Nat × Nat} {identity : Nat → Nat} {p : Nat → Nat → Prop}
      (hexec : exec i s = commitVector i (checkRed i float) (redOp f op identity) s) (hat : AtOnce i s)
      (hfmt : (if float then floatOnly c else intOnly c) = true) (hidx : indexBad i c = false)
      (hp : ∀ k, p k ((segmentResult c f s.h op (identity fmt) k).1 % 2 ^ widthOf s)) : reduces i p :=
    reduces_of_redOp hexec hat (checkRed_of_legal hfmt hidx) hv hfits hp
  clear_value reduces
  refine ⟨fun hat hint hidx => ⟨?vredsum, ?vredmin, ?vredmax⟩,
    fun hat hfloat hidx => ⟨?vfredsum, ?vfredmin, ?vfredmax⟩⟩
  case vredsum =>
    refine hred (float := false) rfl hat hint hidx fun k => ?_
    rw [segmentResult_fst]
    exact (flagTree_sum (length_segmentLeaves hfits.1)).trans (congrArg (· % 2 ^ widthOf s) sum_segmentLeaves)
  case vredmin =>
    refine hred (float := false) rfl hat hint hidx fun k => ?_
    obtain ⟨-, hmax, -⟩ := intMin_intMax_of_isInt hint
    exact segmentResult_of_choice (R := fun x y => x ≤ y) (fun a => le_refl a) (fun a b => le_total a b) k hv hfits
      (by rw [ofInt_eq_codeOf, hmax]; rfl) fun a b c hab hbc => hab.trans hbc
  case vredmax =>
    refine hred (float := false) rfl hat hint hidx fun k => ?_
    obtain ⟨hmin, -⟩ := intMin_intMax_of_isInt hint
    exact segmentResult_of_choice (R := fun x y => y ≤ x) (fun a => le_refl a) (fun a b => le_total b a) k hv hfits
      (by rw [ofInt_eq_codeOf, hmin]; rfl) fun a b c hab hbc => hbc.trans hab
  case vfredsum => exact hred (float := true) rfl hat hfloat hidx fun k => rfl
  case vfredmin => exact hred (float := true) rfl hat hfloat hidx fun k => rfl
  case vfredmax =>
    refine hred (float := true) rfl hat hfloat hidx fun k => ?_
    rw [withSign_of_isFloat16Up hfloat]
    rfl

end Sys2Proof
end

section
/-! Mode 7 in `frm` (R80, R81, R202): the model rounds it by bias bytes, as mode 6, and nothing keeps the bias register
apart from the destination. CFGWR refuses to write 7 there, and a hart that is restored takes whatever its save area
holds. -/

namespace Sys2Proof.Machine

open Claim

/-- Vectors of two FP32 elements, with N = 32. -/
def twoElements : VConf := { vcfg := 2, vl := 2 }

/-- A hart after reset with `frm` 7, those vectors, and those registers 1 and 2. -/
def modeSeven (v1 v2 : Nat) : State :=
  { State.reset with
    h := { conf := twoElements, headConf := twoElements, frm := 7, v := ((Vector.replicate 64 0).set 1 v1).set 2 v2 } }

/-- Operands whose bias register is the destination, register 3. -/
def biasInDestination (b : BitVec 6) (imm : BitVec 16) : VF :=
  { d := 3, a := 1, b := b, c := 3, sa := false, m := 0, mz := false, imm := imm }

theorem atOnce_modeSeven {i : Instr} (v1 v2 : Nat) (hw : wellFormed i = true) (hfree : capturesOf i = []) :
    AtOnce i (modeSeven v1 v2) := by
  refine ⟨hw, rfl, rfl, rfl, rfl, rfl, rfl, rfl, rfl, ?_, ?_, Nat.succ_pos 7⟩
  · change ∀ q ∈ (Vector.replicate 2 ([] : List EarlyGroup)).toList, q = []
    decide
  · rw [hfree]
    exact fun r hr => absurd hr List.not_mem_nil

theorem fits_modeSeven (v1 v2 : Nat) : Fits (modeSeven v1 v2) := by
  have hfits : twoElements.vl ≤ 16384 ∧ twoElements.vl ≤ regElems twoElements (confW twoElements) := by decide
  exact hfits

/-- Element 1 of register 3 in a format, in the next state. -/
def secondResult (fmt : Nat) (s : State) : Result → Option Nat
  | .next t => some (vget s.h.conf t.h 3 fmt 1)
  | _ => none

/-- Two sums: 0xFF00 as a subnormal, exact, whose byte 1 is 0xFF; and 1 + 2⁻²⁴, half way between 1 and the next. -/
def twoSums : State := modeSeven (0xFF00 + 0x3F800000 * 2 ^ 32) (0x33800000 * 2 ^ 32)

/-- The first sum is the bias of the second, which is rounded up. -/
theorem secondResult_vfadd :
    secondResult 0 twoSums (exec (.vfadd 7 (biasInDestination 2 0)) twoSums) = some 0x3F800001 := by
  decide +kernel

/-- With the bias byte that stood there before, 0, it is rounded down. -/
theorem fAdd_before : (fAdd 0 (opA twoSums (biasInDestination 2 0) 1) (opB twoSums (biasInDestination 2 0) 1)
    (rmOf 7 twoSums.h) (biasByte twoSums.h 3 1)).1 = 0x3F800000 := by
  decide +kernel

/-- Two conversions to BF16: of a value whose code is 0xFF00, exact; and of 1 + 2⁻⁸, half way between 1 and the next. -/
def twoConversions : State := modeSeven (0xFF000000 + 0x3F808000 * 2 ^ 32) 0

theorem secondResult_vcvt :
    secondResult 1 twoConversions (exec (.vcvt 7 false (biasInDestination 0 1)) twoConversions) = some 0x3F81 := by
  decide +kernel

theorem cvtElem_before : (cvtElem 0 1 (rmOf 7 twoConversions.h) (biasByte twoConversions.h 3 1) false
    (element twoConversions 1 0 1)).1 = 0x3F80 := by
  decide +kernel

/-- An instruction that works by elements gives element 1 the value that the statement says. -/
theorem secondResult_of_perElement {i : Instr} {f : VF} {fmt : Nat} {res fl : Nat → Nat} {v1 v2 : Nat}
    (h : PerElement i (modeSeven v1 v2) f fmt 1 res fl) (hd : f.d = 3) (hm : f.m = 0) :
    secondResult fmt (modeSeven v1 v2) (exec i (modeSeven v1 v2)) = some (res 1 % 2 ^ fmtWidth fmt) := by
  obtain ⟨t, ht, -, ⟨-, -, -, -, hval⟩, -⟩ := h
  have hone := hval 1 (Nat.zero_le 1) Nat.one_lt_two
  have hpad : ¬ twoElements.vl - twoElements.vlpad ≤ 1 := by decide
  have hmask : maskBit (modeSeven v1 v2).h f.m.toNat 1 = true := by rw [hm]; rfl
  rw [hd] at hone
  rw [ht]
  exact congrArg some (hone.trans ((if_neg hpad).trans (if_pos hmask)))

end Sys2Proof.Machine

namespace Sys2Proof

open Machine Claim

/-- Refutes O25: with `frm` 7 a VFADD of field 7 rounds by the bias bytes of register c, which `BiasReadable` keeps
apart from the destination in mode 6 alone; where they are one register, the second sum takes the first as its bias. -/
theorem not_floatElements : ¬ Obligations.FloatElements := by
  unfold Obligations.FloatElements
  intro h
  have hat : AtOnce (.vfadd 7 (biasInDestination 2 0)) twoSums := atOnce_modeSeven _ _ (by decide) (by decide)
  have hbias : BiasReadable twoSums 7 3 3 1 := fun h6 => absurd h6 (by decide)
  obtain ⟨hadds, -⟩ := h twoSums 7 (biasInDestination 2 0) rfl (fits_modeSeven _ _)
  obtain ⟨hadd, -⟩ := hadds hat (by decide) hbias
  have hsum := secondResult_of_perElement hadd rfl rfl
  have hround := congrArg (fun x => some (x % 2 ^ 32)) fAdd_before
  exact absurd (secondResult_vfadd.symm.trans (hsum.trans hround)) (by decide)

/-- Refutes O26: with `frm` 7 a VCVT of field 7 rounds by the bias bytes of register c, which nothing keeps apart from
the destination, as in `not_floatElements`. -/
theorem not_conversionElements : ¬ Obligations.ConversionElements := by
  unfold Obligations.ConversionElements
  intro h
  have hat : AtOnce (.vcvt 7 false (biasInDestination 0 1)) twoConversions :=
    atOnce_modeSeven _ _ (by decide) (by decide)
  have hlegal : VcvtLegal twoConversions 7 false (biasInDestination 0 1) := by decide
  have hbias : BiasReadable twoConversions 7 3 3 (toGroup twoConversions (biasInDestination 0 1)) :=
    fun h6 => absurd h6 (by decide)
  obtain ⟨hcvt, -⟩ := h twoConversions 7 false (biasInDestination 0 1) (fits_modeSeven _ _)
  have hconv := secondResult_of_perElement (hcvt hat hlegal hbias) rfl rfl
  have hround := congrArg (fun x => some (x % 2 ^ 16)) cvtElem_before
  exact absurd (secondResult_vcvt.symm.trans (hconv.trans hround)) (by decide)

end Sys2Proof
end

section
/-! Vector instructions that read every source before they write (R134): the next state of one that completes, by the
registers that it writes. -/

namespace Sys2Proof.Machine

open Claim

/-! ## Runs that begin at element 0 -/

theorem withVstart_of_vstart_zero {h : Hart} (h0 : h.vstart = 0) : { h with vstart := 0 } = h := by rw [← h0]

theorem VectorsOnly.vsetBits {h h' : Hart} (hv : VectorsOnly h h') (r pos w x : Nat) :
    VectorsOnly h (vsetBits r pos w x h') := by
  obtain ⟨v, vdirty, marks, rfl⟩ := hv
  exact ⟨_, _, _, rfl⟩

/-- A whole run begins with `vstart` 0 (R134). -/
theorem wholeOp_of_vstart_zero (g : VConf → Word → Word → Hart → Hart) (c : VConf) (a b : Word) {t : State}
    (h0 : t.h.vstart = 0) : wholeOp g c a b t = .done { t with h := g c a b t.h } := by
  rw [wholeOp, perfWhen, if_pos (beq_iff_eq.mpr h0), perfRegs]

theorem VectorsOnly.trans {h h' h'' : Hart} (hv : VectorsOnly h h') (hv' : VectorsOnly h' h'') : VectorsOnly h h'' := by
  obtain ⟨v, vdirty, marks, rfl⟩ := hv
  obtain ⟨v', vdirty', marks', rfl⟩ := hv'
  exact ⟨v', vdirty', marks', rfl⟩

theorem MasksOnly.registersOnly {h h' : Hart} (hm : MasksOnly h h') (h0 : h.vstart = 0) : RegistersOnly h h' := by
  obtain ⟨m, rfl⟩ := hm
  refine ⟨h.v, h.vdirty, h.marks, m, h.g, h.fflags, h.smflags, h.mxflags, h.readback, ?_⟩
  rw [← h0]

theorem pushReadback_registersOnly (d : BitVec 6) (x : Word) {h : Hart} (h0 : h.vstart = 0) :
    RegistersOnly h (pushReadback d x h) := by
  refine ⟨h.v, h.vdirty, h.marks, h.m, h.g, h.fflags, h.smflags, h.mxflags, h.readback ++ [(sregOf d, x)], ?_⟩
  rw [← h0, pushReadback]

theorem orFlags_registersOnly (fl : Nat) {h h' : Hart} (hv : VectorsOnly h h') (h0 : h.vstart = 0) :
    RegistersOnly h (orFlags fl h') := by
  obtain ⟨v, vdirty, marks, rfl⟩ := hv
  refine ⟨v, vdirty, marks, h.m, h.g, h.fflags ||| BitVec.ofNat 7 fl, h.smflags, h.mxflags, h.readback, ?_⟩
  rw [← h0, orFlags]

/-! ## Field a of a well-formed instruction (R58) -/

section
variable {i : Instr} {r : Roles} {f : VF} (hw : wellFormed i = true) (hroles : rolesOf i = some (r, f))

include hw hroles in
theorem sa_of_required (hsa : r.sa = .required) : f.sa = true := by
  rw [wellFormed, hroles, Bool.and_eq_true] at hw
  simp only [rolesOk, hsa, Bool.and_eq_true] at hw
  obtain ⟨-, ⟨⟨-, hsa, -⟩, -⟩, -⟩ := hw
  exact hsa

include hw hroles in
theorem sa_of_no (hsa : r.sa = .no) : f.sa = false := by
  rw [wellFormed, hroles, Bool.and_eq_true] at hw
  simp only [rolesOk, hsa, Bool.and_eq_true, Bool.not_eq_true'] at hw
  obtain ⟨-, ⟨⟨-, hsa, -⟩, -⟩, -⟩ := hw
  exact hsa

end

/-! ## The next state -/

/-- An instruction whose run leaves its hart as given. -/
theorem completes_of_registersOnly {i : Instr} {check : CheckFn} {perf : PerfFn} {s : State} {h' : Hart}
    (hexec : exec i s = commitVector i check perf s) (hat : AtOnce i s) (hc : check s.h.conf = 0)
    (hperf : perf s.h.conf (captureA i s) (captureB i s) (aloneAtHead i s) = .done { aloneAtHead i s with h := h' })
    (hregs : RegistersOnly (aloneAtHead i s).h h') :
    ∃ t, exec i s = .next t ∧ OnlyVector s t ∧ t.h.v = h'.v ∧ t.h.m = h'.m ∧ t.h.g = h'.g ∧
      t.h.fflags = h'.fflags ∧ t.h.readback = h'.readback :=
  ⟨_, exec_eq_completed hexec hat hc hperf, onlyVector_completed hat hregs, completed_v .., completed_m ..,
    completed_g .., completed_fflags .., completed_readback ..⟩

/-- An instruction whose run writes vector registers alone, and no flag. -/
theorem completes_of_vectorsRun {i : Instr} {check : CheckFn} {perf : PerfFn} {s : State} {h' : Hart}
    (hexec : exec i s = commitVector i check perf s) (hat : AtOnce i s) (hc : check s.h.conf = 0)
    (hperf : perf s.h.conf (captureA i s) (captureB i s) (aloneAtHead i s) =
      .done { aloneAtHead i s with h := { h' with vstart := 0 } })
    (hv : VectorsOnly (aloneAtHead i s).h h') :
    ∃ t, exec i s = .next t ∧ OnlyVector s t ∧ t.h.v = h'.v ∧ t.h.m = s.h.m ∧ t.h.g = s.h.g ∧
      t.h.fflags = s.h.fflags ∧ t.h.readback = s.h.readback := by
  have hregs : RegistersOnly (aloneAtHead i s).h { h' with vstart := 0 } := by
    obtain ⟨v, vdirty, marks, rfl⟩ := hv
    exact ⟨_, _, _, _, _, _, _, _, _, rfl⟩
  obtain ⟨t, ht, honly, hregs⟩ := completes_of_registersOnly hexec hat hc hperf hregs
  obtain ⟨v, vdirty, marks, rfl⟩ := hv
  exact ⟨t, ht, honly, hregs⟩

section
variable {i : Instr} {check : CheckFn} {g : VConf → Word → Word → Hart → Hart} {s : State}
  (hexec : exec i s = commitVector i check (wholeOp g) s) (hat : AtOnce i s) (hc : check s.h.conf = 0)
  (h0 : s.h.vstart = 0)

include hexec hat hc h0 in
/-- A whole run that leaves its hart as given. -/
theorem completes_of_wholeOp {h' : Hart}
    (hrun : g s.h.conf (captureA i s) (captureB i s) (aloneAtHead i s).h = h')
    (hregs : RegistersOnly (aloneAtHead i s).h h') :
    ∃ t, exec i s = .next t ∧ OnlyVector s t ∧ t.h.v = h'.v ∧ t.h.m = h'.m ∧ t.h.g = h'.g ∧
      t.h.fflags = h'.fflags ∧ t.h.readback = h'.readback := by
  have hperf := wholeOp_of_vstart_zero g s.h.conf (captureA i s) (captureB i s) (t := aloneAtHead i s) h0
  rw [hrun] at hperf
  exact completes_of_registersOnly hexec hat hc hperf hregs

include hexec hat hc h0 in
/-- A whole run that writes vector registers alone. -/
theorem completes_of_wholeVectors {h' : Hart}
    (hrun : g s.h.conf (captureA i s) (captureB i s) (aloneAtHead i s).h = h')
    (hv : VectorsOnly (aloneAtHead i s).h h') :
    ∃ t, exec i s = .next t ∧ OnlyVector s t ∧ t.h.v = h'.v ∧ t.h.m = s.h.m ∧ t.h.g = s.h.g ∧
      t.h.fflags = s.h.fflags ∧ t.h.readback = s.h.readback := by
  have hstart : h'.vstart = 0 := by
    obtain ⟨v, vdirty, marks, rfl⟩ := hv
    exact h0
  refine completes_of_vectorsRun hexec hat hc ?_ hv
  rw [withVstart_of_vstart_zero hstart, ← hrun]
  exact wholeOp_of_vstart_zero g _ _ _ h0

include hexec hat hc h0 in
/-- A whole run that delivers a scalar through the read-back queue (R19). -/
theorem completes_of_readback {d : BitVec 6} {x : Word}
    (hrun : g s.h.conf (captureA i s) (captureB i s) (aloneAtHead i s).h = pushReadback d x (aloneAtHead i s).h) :
    ∃ t, exec i s = .next t ∧ OnlyVector s t ∧ t.h.v = s.h.v ∧ t.h.m = s.h.m ∧ t.h.g = s.h.g ∧
      t.h.fflags = s.h.fflags ∧ t.h.readback = s.h.readback ++ [(sregOf d, x)] := by
  obtain ⟨t, ht, honly, htv, htm, htg, htf, htr⟩ :=
    completes_of_wholeOp hexec hat hc h0 hrun (pushReadback_registersOnly d x h0)
  exact ⟨t, ht, honly, htv, htm, htg, htf, htr⟩

end

/-! ## Reads of a register -/

/-- An element that the first register holds whole depends on that register alone. -/
theorem vget_of_vreg_eq {c : VConf} {fmt k r : Nat} {h h' : Hart} (hk : k / regElems c (fmtWidth fmt) = 0)
    (hr : vreg h' r = vreg h r) : vget c h' r fmt k = vget c h r fmt k := by
  rw [vget, vget, vgetW, vgetW, hk, Nat.add_zero, hr]

/-- An element before those that a loop writes in a single register. -/
theorem Filled.vget_below {c : VConf} {d fmt lo i j : Nat} {want : Nat → Nat} {h h' : Hart}
    (hf : Filled c d fmt 1 lo want h h' i) (hj : j / regElems c (fmtWidth fmt) = 0) (hlo : j < lo) :
    vget c h' d fmt j = vget c h d fmt j := by
  have hmod : j % regElems c (fmtWidth fmt) = j := by
    have hdiv := Nat.div_add_mod j (regElems c (fmtWidth fmt))
    rwa [hj, Nat.mul_zero, Nat.zero_add] at hdiv
  have hend : (j + 1) * fmtWidth fmt ≤ lo * fmtWidth fmt := Nat.mul_le_mul_right _ hlo
  rw [Nat.succ_mul, Nat.mul_comm j] at hend
  rw [vget, vget, vgetW, vgetW, hj, hmod, Nat.add_zero]
  refine Nat.eq_of_testBit_eq fun k => ?_
  rw [testBit_bitsGet, testBit_bitsGet]
  by_cases hk : k < fmtWidth fmt
  · rw [hf.outside rfl _ (.inl (by omega))]
  · simp [hk]

/-- A loop that writes every element from p to q − 1. -/
theorem writeLoop_filled {c : VConf} {d fmt n p q : Nat} {want : Nat → Nat} {val : Hart → Nat → Nat} {h : Hart}
    (hd : d + n ≤ 64) (hfit : ∀ i, i < q → i / regElems c (fmtWidth fmt) < n)
    (hval : ∀ h' i, i < q → Filled c d fmt n p want h h' i → want i = val h' i % 2 ^ fmtWidth fmt) :
    Filled c d fmt n p want h ((fromTo p q).foldl (fun h i => vset c d fmt i (val h i) h) h) (max p q) :=
  foldl_fromTo (motive := fun i h' => Filled c d fmt n p want h h' i) (.start ..)
    fun i h' hlo hhi hf => hf.write hlo (hfit i hhi) hd (hval h' i hhi hf)

/-- A configuration has at most 64 registers (R112). -/
theorem confN_le (c : VConf) : confN c ≤ 64 := by
  have hlt : bitsGet c.vcfg.toNat 0 2 < 4 := bitsGet_lt _ 0 2
  rw [confN]
  generalize bitsGet c.vcfg.toNat 0 2 = x at hlt ⊢
  interval_cases x <;> decide

theorem upTo_eq_fromTo (n : Nat) : upTo n = fromTo 0 n := (List.map_id' _).symm

/-- VLmax is no more than the elements of a register (R112, R208). -/
theorem vlMost_le_regElems (s : State) : vlMost s ≤ regElems s.h.conf (fmtWidth (fmtOf s)) := by
  rw [regElems, regBits, Nat.div_div_eq_div_mul]
  exact Nat.min_le_right _ _

theorem div_regElems_of_lt_vlMost {s : State} {k : Nat} (hk : k < vlMost s) :
    k / regElems s.h.conf (fmtWidth (fmtOf s)) = 0 :=
  Nat.div_eq_of_lt (hk.trans_le (vlMost_le_regElems s))

/-! ## Bits of mask registers -/

theorem testBit_mreg_of_ne_zero {k : Nat} (hk : k ≠ 0) (h : Hart) (j : Nat) :
    (mreg h k).testBit j = maskBit h k j := by
  rw [mreg, if_neg hk, maskBit, beq_eq_false_iff_ne.mpr hk, Bool.false_or, bitAt]

theorem testBit_mreg (h : Hart) (k : Nat) {j : Nat} (hj : j < 16384) : (mreg h k).testBit j = maskBit h k j := by
  by_cases hk : k = 0
  · rw [mreg, if_pos hk, Nat.testBit_two_pow_sub_one, decide_eq_true hj, maskBit, beq_iff_eq.mpr hk, Bool.true_or]
  · exact testBit_mreg_of_ne_zero hk h j

/-- The bits of a mask register below a length of at most 16384 (R132). -/
theorem bitAt_mreg_mod (h : Hart) (k : Nat) {n : Nat} (hn : n ≤ 16384) (j : Nat) :
    bitAt (mreg h k % 2 ^ n) j = (decide (j < n) && maskBit h k j) := by
  rw [bitAt, Nat.testBit_mod_two_pow]
  by_cases hj : j < n
  · rw [testBit_mreg h k (by omega)]
  · simp [hj]

end Sys2Proof.Machine
end

section
/-! Moves of elements (R139 to R142): the element-wise ones, VMERGE, and the access to one element by its index. -/

namespace Sys2Proof.Machine

open Claim

/-! ## Element-wise moves -/

/-- Only the low w bits of a result count. -/
theorem perElement_of_mod_eq {i : Instr} {s : State} {f : VF} {fmt n : Nat} {res res' fl : Nat → Nat}
    (h : PerElement i s f fmt n res fl) (hmod : ∀ k, res k % 2 ^ fmtWidth fmt = res' k % 2 ^ fmtWidth fmt) :
    PerElement i s f fmt n res' fl := by
  obtain ⟨t, ht, honly, ⟨hother, hm, hg, hout, helems⟩, hrest⟩ := h
  refine ⟨t, ht, honly, ⟨hother, hm, hg, hout, fun k hlo hhi => ?_⟩, hrest⟩
  rw [← hmod]
  exact helems k hlo hhi

/-- A move of elements whose value at each does not depend on the elements before it (R134, R139). -/
theorem perElement_of_moveOp {i : Instr} {check : CheckFn} {s : State} {f : VF}
    {g : VConf → Word → (h0 h : Hart) → Nat → Nat} {val : Nat → Nat}
    (hexec : exec i s = commitVector i check (moveOp f g) s) (hat : AtOnce i s) (hc : check s.h.conf = 0)
    (hfits : Fits s)
    (hval : ∀ h' k, k < s.h.conf.vl →
      Filled s.h.conf f.d.toNat (fmtOf s) 1 s.h.vstart (elementAfter s.h.conf f (fmtOf s) val s.h)
        (aloneAtHead i s).h h' k →
      g s.h.conf (captureA i s) (aloneAtHead i s).h h' k = val k) :
    PerElement i s f (fmtOf s) 1 val (fun _ => 0) :=
  perElement_of_elemLoop hexec hat hc rfl (by omega)
    (fun k hk => by rw [div_regElems_of_fits hfits hk]; exact Nat.one_pos)
    fun h' k hk hf => congrArg (·, 0) (hval h' k hk hf)

theorem checkMask_of_legal {i : Instr} {c : VConf} (h : indexBad i c = false) : checkMask i c = 0 :=
  checks_eq_zero.mpr ⟨rfl, h⟩

theorem elementBad_eq_false_iff {s : State} {f : VF} : elementBad f s.h.conf = false ↔ f.imm.toNat < vlMost s :=
  decide_eq_false_iff_not.trans Nat.not_le

theorem elementBad_eq_true_iff {s : State} {f : VF} : elementBad f s.h.conf = true ↔ vlMost s ≤ f.imm.toNat :=
  decide_eq_true_iff

/-- VIOTA counts the set bits below a position and below the pads (R141). -/
theorem countBelow_eq_length (h : Hart) (k : Nat) {n : Nat} (hn : n ≤ 16384) (i : Nat) :
    countBelow (mreg h k % 2 ^ n) i = ((List.range i).filter fun j => decide (j < n) && maskBit h k j).length := by
  have hbit : bitAt (mreg h k % 2 ^ n) = fun j => decide (j < n) && maskBit h k j :=
    funext fun j => bitAt_mreg_mod h k hn j
  rw [countBelow, popCount_eq_countP, hbit, List.countP_eq_length_filter]

section
variable {s : State} {f : VF} (hfits : Fits s)

include hfits in
theorem perElement_vmv (hat : AtOnce (.vmv f) s) (hidx : indexBad (.vmv f) s.h.conf = false) :
    PerElement (.vmv f) s f (fmtOf s) 1 (element s f.a (fmtOf s)) (fun _ => 0) :=
  perElement_of_moveOp rfl hat (checkMask_of_legal hidx) hfits
    fun _ _ hk hf => hf.vget_eq (div_regElems_of_fits hfits hk) _

include hfits in
/-- VBCAST reads its scalar, or its element, once (R139). -/
theorem perElement_vbcast (hat : AtOnce (.vbcast f) s) (himm : f.sa = false → f.imm.toNat < vlMost s)
    (hidx : indexBad (.vbcast f) s.h.conf = false) :
    PerElement (.vbcast f) s f (fmtOf s) 1
      (fun _ => if f.sa then (readS s (sregOf f.a)).toNat else element s f.a (fmtOf s) f.imm.toNat) (fun _ => 0) := by
  have hbad : (!f.sa && elementBad f s.h.conf) = false := by
    cases hsa : f.sa
    · exact elementBad_eq_false_iff.mpr (himm hsa)
    · rfl
  have hmove := perElement_of_moveOp (i := .vbcast f) (g := fun c a h0 _ _ =>
      if f.sa then a.toNat % 2 ^ confW c else vget c h0 f.a.toNat (confFmt c) f.imm.toNat) rfl hat
    (checks_eq_zero.mpr ⟨hbad, hidx⟩) hfits (fun _ _ _ _ => rfl)
  refine perElement_of_mod_eq hmove fun _ => ?_
  have hcap : captureA (.vbcast f) s = if f.sa then readS s (sregOf f.a) else 0 := rfl
  rw [hcap]
  cases f.sa
  · rfl
  · exact Nat.mod_mod _ _

include hfits in
theorem perElement_viota (hat : AtOnce (.viota f) s) (hint : isInt (fmtOf s) = true)
    (hidx : indexBad (.viota f) s.h.conf = false) :
    PerElement (.viota f) s f (fmtOf s) 1
      (fun i => ((List.range i).filter fun j =>
        decide (j < s.h.conf.vl - s.h.conf.vlpad) && maskBit s.h f.a.toNat j).length) (fun _ => 0) := by
  have hlive : s.h.conf.vl - s.h.conf.vlpad ≤ 16384 := (Nat.sub_le _ _).trans hfits.1
  have hmove := perElement_of_moveOp (i := .viota f)
    (val := fun i => countBelow (mreg s.h f.a.toNat % 2 ^ (s.h.conf.vl - s.h.conf.vlpad)) i % 2 ^ confW s.h.conf)
    rfl hat (checkInt_of_legal hint hidx) hfits fun h' k _ hf => by
      obtain ⟨v, vdirty, marks, rfl⟩ := hf.only
      rfl
  refine perElement_of_mod_eq hmove fun k => ?_
  rw [countBelow_eq_length s.h f.a.toNat hlive]
  exact Nat.mod_mod _ _

/-! ## VMERGE (R142) -/

/-- What VMERGE writes to element i. -/
def merged (s : State) (f : VF) (i : Nat) : Nat :=
  if s.h.conf.vl - s.h.conf.vlpad ≤ i then padValue (fmtOf s)
  else if maskBit s.h f.m.toNat i then opA s f i else opB s f i

theorem merged_lt (s : State) (f : VF) (i : Nat) : merged s f i < 2 ^ fmtWidth (fmtOf s) := by
  rw [merged]
  split
  · exact padValue_lt _
  · split
    · exact opA_lt s f i
    · exact opB_lt s f i

include hfits in
/-- The loop of VMERGE writes every element that it visits. -/
theorem mergeLoop_filled :
    Filled s.h.conf f.d.toNat (fmtOf s) 1 s.h.vstart (merged s f) (aloneAtHead (.vmerge f) s).h
      ((visited s.h.conf s.h).foldl (fun h i => vset s.h.conf f.d.toNat (fmtOf s) i
        (if isPad s.h.conf i then padValue (fmtOf s)
         else if maskBit h f.m.toNat i then srcA s.h.conf f (captureA (.vmerge f) s) h i else srcB s.h.conf f h i) h)
        (aloneAtHead (.vmerge f) s).h)
      (max s.h.vstart s.h.conf.vl) := by
  refine writeLoop_filled (by omega) (fun i hi => ?_) fun h' i hi hf => ?_
  · rw [div_regElems_of_fits hfits hi]
    exact Nat.one_pos
  · have hmask : maskBit h' f.m.toNat i = maskBit s.h f.m.toNat i := by
      obtain ⟨v, vdirty, marks, rfl⟩ := hf.only
      rfl
    have hpad : isPad s.h.conf i = decide (s.h.conf.vl - s.h.conf.vlpad ≤ i) := rfl
    have hb : srcB s.h.conf f (aloneAtHead (.vmerge f) s).h i = opB s f i := rfl
    rw [hmask, srcA_of_filled hf hfits hi, srcB_of_filled hf hfits hi, srcA_aloneAtHead rfl, hb, hpad]
    refine (Nat.mod_eq_of_lt (merged_lt s f i)).symm.trans (congrArg (· % _) ?_)
    simp only [merged, decide_eq_true_eq]

include hfits in
theorem vmerge_completes (hat : AtOnce (.vmerge f) s) (hidx : indexBad (.vmerge f) s.h.conf = false) :
    ∃ t, exec (.vmerge f) s = .next t ∧ OnlyVector s t ∧ t.h.m = s.h.m ∧ t.h.g = s.h.g ∧ t.h.fflags = s.h.fflags ∧
      (∀ r, r ≠ f.d.toNat → vreg t.h r = vreg s.h r) ∧
      ∀ i, i < regElems s.h.conf (widthOf s) → element t f.d (fmtOf s) i =
        if i < s.h.vstart ∨ s.h.conf.vl ≤ i then element s f.d (fmtOf s) i else merged s f i := by
  have hfilled := mergeLoop_filled (f := f) hfits
  obtain ⟨t, ht, honly, htv, htm, htg, htf, -⟩ := completes_of_vectorsRun rfl hat (checkMask_of_legal hidx) rfl
    hfilled.only
  refine ⟨t, ht, honly, htm, htg, htf, fun r hr => ?_, fun i hi => ?_⟩
  · exact (vreg_congr htv r).trans (hfilled.other r (by omega))
  · rw [element, conf_of_onlyVector honly, vget_congr htv]
    have hreg : i / regElems s.h.conf (fmtWidth (fmtOf s)) = 0 := Nat.div_eq_of_lt hi
    split
    case isTrue hout =>
      rcases hout with hlo | hhi
      · exact hfilled.vget_below hreg hlo
      · by_cases hlo : i < s.h.vstart
        · exact hfilled.vget_below hreg hlo
        · exact hfilled.ahead i (max_le (Nat.not_lt.mp hlo) hhi)
    case isFalse hin =>
      exact hfilled.done i (by omega) (lt_max_of_lt_right (by omega))

end

/-! ## Access to one element (R140) -/

section
variable {s : State} {f : VF} (h0 : s.h.vstart = 0) (himm : f.imm.toNat < vlMost s)

include h0 himm in
theorem vins_completes (hat : AtOnce (.vins f) s) (hidx : indexBad (.vins f) s.h.conf = false) :
    ∃ t, exec (.vins f) s = .next t ∧ OnlyVector s t ∧ t.h.m = s.h.m ∧ t.h.g = s.h.g ∧ t.h.fflags = s.h.fflags ∧
      (∀ r, r ≠ f.d.toNat → vreg t.h r = vreg s.h r) ∧
      ∀ i, i < regElems s.h.conf (widthOf s) → element t f.d (fmtOf s) i =
        if i = f.imm.toNat then (readS s (sregOf f.a)).toNat % 2 ^ widthOf s else element s f.d (fmtOf s) i := by
  have hcap : captureA (.vins f) s = readS s (sregOf f.a) := if_pos (sa_of_required hat.1 rfl rfl)
  have himm0 := div_regElems_of_lt_vlMost himm
  have hd : f.d.toNat + f.imm.toNat / regElems s.h.conf (fmtWidth (fmtOf s)) < 64 := by omega
  obtain ⟨t, ht, honly, htv, htm, htg, htf, -⟩ := completes_of_wholeVectors rfl hat
    (checks_eq_zero.mpr ⟨elementBad_eq_false_iff.mpr himm, hidx⟩) h0 rfl ((VectorsOnly.refl _).vset ..)
  refine ⟨t, ht, honly, htm, htg, htf, fun r hr => ?_, fun i _ => ?_⟩
  · rw [vreg_congr htv]
    exact vreg_vset_of_ne _ _ _ _ hd (by omega)
  · rw [element, conf_of_onlyVector honly, vget_congr htv]
    split
    case isTrue hi =>
      rw [hi, hcap]
      exact (vget_vset_self _ _ _ _ hd).trans (Nat.mod_mod _ _)
    case isFalse hi => exact vget_vset_of_ne _ _ _ _ hd hi

/-- An integer of the signed formats leaves sign-extended. -/
theorem word_toSigned {fmt x : Nat} (hfmt : isInt fmt = true ∧ fmt ≠ 9) (hx : x < 2 ^ fmtWidth fmt) :
    word (ofInt 64 (toSigned (fmtWidth fmt) x)) = BitVec.ofInt 64 (signedElem fmt x) := by
  have hsigned : toSigned (fmtWidth fmt) x = signedElem fmt x := by
    rw [← signedOf_eq_signedElem hx, signedOf, if_neg hfmt.2]
  rw [hsigned]
  apply BitVec.eq_of_toNat_eq
  rw [word, ofInt, BitVec.toNat_ofNat, BitVec.toNat_ofInt]
  omega

include h0 himm in
theorem vmvs_completes (hat : AtOnce (.vmvs f) s) (hidx : indexBad (.vmvs f) s.h.conf = false) :
    ∃ t, exec (.vmvs f) s = .next t ∧ OnlyVector s t ∧ t.h.v = s.h.v ∧ t.h.m = s.h.m ∧ t.h.g = s.h.g ∧
      t.h.fflags = s.h.fflags ∧ t.h.readback = s.h.readback ++ [(sregOf f.d,
        if isInt (fmtOf s) ∧ fmtOf s ≠ 9 then
          BitVec.ofInt 64 (signedElem (fmtOf s) (element s f.a (fmtOf s) f.imm.toNat))
        else BitVec.ofNat 64 (element s f.a (fmtOf s) f.imm.toNat))] := by
  refine completes_of_readback rfl hat (checks_eq_zero.mpr ⟨elementBad_eq_false_iff.mpr himm, hidx⟩) h0 ?_
  have hcodes : (fmtOf s = 6 ∨ fmtOf s = 7 ∨ fmtOf s = 8 ∨ fmtOf s = 13) ↔ isInt (fmtOf s) ∧ fmtOf s ≠ 9 := by
    rw [isInt_iff]
    omega
  refine congrArg (pushReadback f.d · _) ?_
  by_cases hfmt : isInt (fmtOf s) ∧ fmtOf s ≠ 9
  · rw [if_pos hfmt]
    exact (congrArg word (if_pos (hcodes.mpr hfmt))).trans (word_toSigned hfmt (vget_lt ..))
  · rw [if_neg hfmt]
    exact congrArg word (if_neg (mt hcodes.mp hfmt))

end

/-- A configuration that the checks refuse traps at commit (R68). -/
theorem traps_of_refused {i : Instr} {check : CheckFn} {perf : PerfFn} {s : State}
    (hv : vectorOf i = some (check, perf)) (hf : s.h.frozen = false) (hq : s.h.queue = [])
    (hc : check s.h.conf = 0x04) : exec i s = .next (takeTrap false 0x04 (parcelsOf i) s.h.pc 32 s) := by
  obtain ⟨htraps, -⟩ := vectorChecksTrapAtCommit
  obtain ⟨-, hrefused⟩ := htraps i s _ hv
  have hne : check s.h.conf ≠ 0 := by rw [hc]; decide
  have htrap : exec i s = .next (takeTrap false (check s.h.conf) (parcelsOf i) s.h.pc 32 s) := hrefused hf hne hq
  rwa [hc] at htrap

end Sys2Proof.Machine

namespace Sys2Proof

open Machine Claim

/-- Settles O30: three are `moveOp`; VMERGE has a loop of its own, and the index is checked at commit. -/
theorem movesOfElements : Obligations.MovesOfElements := by
  unfold Obligations.MovesOfElements
  intro s f hfits c fmt w flagless
  refine ⟨perElement_vmv hfits, perElement_vbcast hfits, perElement_viota hfits, vmerge_completes hfits,
    fun hat h0 himm hidx => vins_completes h0 himm hat hidx, fun hat h0 himm hidx => vmvs_completes h0 himm hat hidx,
    fun hf hq himm => ?_⟩
  have hbad : elementBad f s.h.conf = true := elementBad_eq_true_iff.mpr himm
  refine ⟨fun hsa => traps_of_refused rfl hf hq ?vbcast, traps_of_refused rfl hf hq ?vins,
    traps_of_refused rfl hf hq ?vmvs⟩
  case vbcast => rw [checkVbcast, hsa, hbad]; rfl
  case vins => rw [checkVins, hbad]; rfl
  case vmvs => rw [checkVmvs, hbad]; rfl

end Sys2Proof
end

section
/-! Mask logic, counts of masks, and shifts of a vector as one bit string (R137, R138, R148). -/

namespace Sys2Proof.Machine

open Claim

/-! ## Mask logic (R137) -/

/-- Every read of a mask after one register, not m0, was written whole (R69). -/
theorem maskBit_setMask {d : Nat} (hd : d < 16) (hd0 : d ≠ 0) (y : Nat) (h : Hart) (k j : Nat) :
    maskBit { h with m := h.m.setIfInBounds d y } k j = if k = d then y.testBit j else maskBit h k j := by
  have hsize : d < h.m.toArray.size := by simpa using hd
  by_cases hk : k = d
  · subst hk
    simp [maskBit, bitAt, hd0, Array.getD_eq_getD_getElem?, Array.getElem?_setIfInBounds_self_of_lt hsize]
  · simp [maskBit, hk, Array.getD_eq_getD_getElem?, Array.getElem?_setIfInBounds_ne (Ne.symm hk)]

/-- Operand a of mask logic: the captured scalar, or a mask register. -/
def maskA (i : Instr) (s : State) (f : VF) : Nat := if f.sa then (captureA i s).toNat else mreg s.h f.a.toNat

theorem maskA_of_mask {i : Instr} {s : State} {f : VF} (hsa : f.sa = false) : maskA i s f = mreg s.h f.a.toNat := by
  rw [maskA, hsa]
  rfl

/-- What mask logic leaves, by the bits of its result below the pads. -/
theorem writes_of_maskOp {i : Instr} {r : Roles} {s : State} {f : VF} {g : (a b n : Nat) → Nat} {bit : Nat → Prop}
    (hexec : exec i s = commitVector i (checkMask i) (maskOp f g) s) (hat : AtOnce i s)
    (hroles : rolesOf i = some (r, f)) (hdst : r.d = .maskDst) (hidx : indexBad i s.h.conf = false)
    (h0 : s.h.vstart = 0)
    (hbit : ∀ j, j < s.h.conf.vl - s.h.conf.vlpad →
      ((g (maskA i s f) (mreg s.h f.b.toNat) (s.h.conf.vl - s.h.conf.vlpad)).testBit j = true ↔ bit j)) :
    ∃ t, exec i s = .next t ∧ OnlyVector s t ∧ t.h.v = s.h.v ∧ t.h.g = s.h.g ∧ t.h.fflags = s.h.fflags ∧
      t.h.readback = s.h.readback ∧ (∀ k : Fin 16, k.val ≠ f.d.toNat → t.h.m[k] = s.h.m[k]) ∧
      ∀ j, (maskBit t.h f.d.toNat j = true ↔
        if j < s.h.conf.vl then j < s.h.conf.vl - s.h.conf.vlpad ∧ bit j else maskBit s.h f.d.toNat j = true) := by
  obtain ⟨hd, hd0⟩ := maskDst_of_wellFormed hat.1 hroles hdst
  obtain ⟨t, ht, honly, htv, htm, htg, htf, htr⟩ := completes_of_wholeOp hexec hat (checkMask_of_legal hidx) h0 rfl
    (MasksOnly.registersOnly ⟨_, rfl⟩ h0)
  refine ⟨t, ht, honly, htv, htg, htf, htr, fun k hk => ?_, fun j => ?_⟩
  · rw [htm]
    exact Vector.getElem_setIfInBounds_ne k.isLt (Ne.symm hk)
  · have hread := (maskBit_congr htm f.d.toNat j).trans (maskBit_setMask hd hd0 _ (aloneAtHead i s).h f.d.toNat j)
    rw [if_pos rfl, testBit_bitsSet] at hread
    rw [hread]
    by_cases hj : j < s.h.conf.vl
    · rw [if_pos ⟨Nat.zero_le j, by rwa [Nat.zero_add]⟩, if_pos hj, Nat.sub_zero, Nat.testBit_mod_two_pow,
        Bool.and_eq_true, decide_eq_true_iff]
      exact and_congr_right fun hlive => hbit j hlive
    · have hold : (mreg (aloneAtHead i s).h f.d.toNat).testBit j = maskBit s.h f.d.toNat j :=
        testBit_mreg_of_ne_zero hd0 _ j
      rw [if_neg (by omega), if_neg hj, hold]

/-- An instruction that names no vector register names none at or above N (R58). -/
theorem indexBad_of_no_vec {i : Instr} {r : Roles} {f : VF} {c : VConf} (hroles : rolesOf i = some (r, f))
    (hr : r.d ≠ .vec ∧ r.a ≠ .vec ∧ r.b ≠ .vec ∧ r.c ≠ .vec) : indexBad i c = false := by
  obtain ⟨hd, ha, hb, hc⟩ := hr
  simp [indexBad, hroles, vecBad, hd, ha, hb, hc]

theorem testBit_complement {n j : Nat} (hj : j < n) (b : Nat) :
    (2 ^ n - 1 - b % 2 ^ n).testBit j = !b.testBit j := by
  have hsucc : 2 ^ n - 1 - b % 2 ^ n = 2 ^ n - (b % 2 ^ n + 1) := by omega
  rw [hsucc, Nat.testBit_two_pow_sub_succ (Nat.mod_lt _ (Nat.two_pow_pos n)), Nat.testBit_mod_two_pow,
    decide_eq_true hj, Bool.true_and, Bool.true_and]

/-! ## Counts and positions (R138) -/

/-- The positions that MPOPC and MFIRST look at. -/
theorem bitAt_selectedBits {c : VConf} (hvl : c.vl ≤ 16384) (f : VF) (h : Hart) (j : Nat) :
    bitAt (selectedBits c f h) j =
      (decide (j < c.vl - c.vlpad) && (maskBit h f.a.toNat j && maskBit h f.m.toNat j)) := by
  have hlive : c.vl - c.vlpad ≤ 16384 := (Nat.sub_le _ _).trans hvl
  rw [bitAt, selectedBits, Nat.testBit_mod_two_pow, Nat.testBit_and]
  by_cases hj : j < c.vl - c.vlpad
  · rw [testBit_mreg _ _ (by omega), testBit_mreg _ _ (by omega)]
  · simp [hj]

theorem filter_range_of_le {p : Nat → Bool} {n m : Nat} (hn : n ≤ m) :
    (List.range m).filter (fun j => decide (j < n) && p j) = (List.range n).filter p := by
  obtain ⟨k, rfl⟩ := Nat.exists_eq_add_of_le hn
  have hlow : (List.range n).filter (fun j => decide (j < n) && p j) = (List.range n).filter p :=
    List.filter_congr fun j hj => by simp [List.mem_range.mp hj]
  have hhigh : ((List.range k).map (n + ·)).filter (fun j => decide (j < n) && p j) = [] :=
    List.filter_eq_nil_iff.mpr fun j hj => by
      obtain ⟨i, -, rfl⟩ := List.mem_map.mp hj
      simp
  rw [List.range_add, List.filter_append, hlow, hhigh, List.append_nil]

/-- The number of positions that MPOPC delivers. -/
theorem popCount_selectedBits {c : VConf} (hvl : c.vl ≤ 16384) (f : VF) (h : Hart) :
    popCount 16384 (selectedBits c f h) =
      ((List.range (c.vl - c.vlpad)).filter fun j => maskBit h f.a.toNat j && maskBit h f.m.toNat j).length := by
  have hbits : bitAt (selectedBits c f h) = _ := funext (bitAt_selectedBits hvl f h)
  rw [popCount_eq_countP, hbits, List.countP_eq_length_filter, filter_range_of_le ((Nat.sub_le _ _).trans hvl)]

/-- The lowest one among n bits from bit i, where there is one. -/
theorem lowestOne_spec (x n i : Nat) :
    (∃ k, lowestOne x n i = some k ∧ bitAt x k = true ∧ ∀ j, i ≤ j → j < k → bitAt x j = false) ∨
      (lowestOne x n i = none ∧ ∀ j, i ≤ j → j < i + n → bitAt x j = false) := by
  induction n generalizing i with
  | zero => exact .inr ⟨rfl, fun j hi hj => absurd hi (Nat.not_le.mpr hj)⟩
  | succ n ih =>
    cases hbit : bitAt x i with
    | true => exact .inl ⟨i, if_pos hbit, hbit, fun j hi hj => absurd hi (Nat.not_le.mpr hj)⟩
    | false =>
      have hnext : lowestOne x (n + 1) i = lowestOne x n (i + 1) := if_neg (by rw [hbit]; exact Bool.false_ne_true)
      have hzero {j : Nat} (hrest : i + 1 ≤ j → bitAt x j = false) (hi : i ≤ j) : bitAt x j = false := by
        rcases Nat.eq_or_lt_of_le hi with rfl | hlt
        · exact hbit
        · exact hrest hlt
      rw [hnext]
      rcases ih (i + 1) with ⟨k, hk, hone, hlow⟩ | ⟨hnone, hlow⟩
      · exact .inl ⟨k, hk, hone, fun j hi hj => hzero (fun h => hlow j h hj) hi⟩
      · exact .inr ⟨hnone, fun j hi hj => hzero (fun h => hlow j h (by omega)) hi⟩

/-- What MFIRST delivers. -/
def firstSelected (c : VConf) (f : VF) (h : Hart) : Nat :=
  (lowestOne (selectedBits c f h) (c.vl - c.vlpad) 0).getD (2 ^ 64 - 1)

theorem firstSelected_spec (c : VConf) (f : VF) (h : Hart) :
    (bitAt (selectedBits c f h) (firstSelected c f h) = true ∧
        ∀ j, j < firstSelected c f h → bitAt (selectedBits c f h) j = false) ∨
      ((∀ j, bitAt (selectedBits c f h) j = false) ∧ firstSelected c f h = 2 ^ 64 - 1) := by
  rcases lowestOne_spec (selectedBits c f h) (c.vl - c.vlpad) 0 with ⟨k, hk, hone, hlow⟩ | ⟨hnone, hlow⟩
  · rw [firstSelected, hk]
    exact .inl ⟨hone, fun j hj => hlow j (Nat.zero_le j) hj⟩
  · rw [firstSelected, hnone]
    refine .inr ⟨fun j => ?_, rfl⟩
    by_cases hj : j < c.vl - c.vlpad
    · exact hlow j (Nat.zero_le j) (by omega)
    · rw [bitAt, selectedBits, Nat.testBit_mod_two_pow, decide_eq_false hj, Bool.false_and]

/-- MFIRST delivers it. -/
theorem perfMfirst_eq (f : VF) :
    perfMfirst f = wholeOp fun c _ _ h => { pushReadback f.d (word (firstSelected c f h)) h with vstart := 0 } := by
  refine congrArg wholeOp (funext fun c => funext fun _ => funext fun _ => funext fun h => ?_)
  rw [firstSelected]
  cases lowestOne (selectedBits c f h) (c.vl - c.vlpad) 0 <;> rfl

/-! ## Bit strings (R148) -/

/-- Writing the low n bits of a register. -/
theorem bitsSet_zero (v n y : Nat) : bitsSet v 0 n y = v / 2 ^ n * 2 ^ n + y % 2 ^ n := by
  refine Nat.eq_of_testBit_eq fun k => ?_
  rw [testBit_bitsSet, Nat.mul_comm (v / 2 ^ n), Nat.testBit_two_pow_mul_add _ (Nat.mod_lt _ (Nat.two_pow_pos n)),
    Nat.testBit_mod_two_pow, Nat.testBit_div_two_pow, Nat.zero_add, Nat.sub_zero]
  by_cases hk : k < n
  · simp [hk]
  · have hsum : k - n + n = k := by omega
    simp [hk, hsum]

/-- The low n bits of two strings, one shifted up by k and the other down by what is left. -/
theorem shiftLeft_or_shiftRight_mod {a c n k : Nat} (hc : c < 2 ^ n) (hk : k ≤ n) :
    (a <<< k ||| c >>> (n - k)) % 2 ^ n = a * 2 ^ k % 2 ^ n + c / 2 ^ (n - k) := by
  have hn : 2 ^ n = 2 ^ (n - k) * 2 ^ k := by rw [← Nat.pow_add, Nat.sub_add_cancel hk]
  have hlow : c / 2 ^ (n - k) < 2 ^ k := by
    rw [Nat.div_lt_iff_lt_mul (Nat.two_pow_pos _), Nat.mul_comm, ← hn]
    exact hc
  have hlow' : c / 2 ^ (n - k) < 2 ^ n := hlow.trans_le (Nat.pow_le_pow_right Nat.two_pos hk)
  rw [Nat.or_mod_two_pow, Nat.shiftRight_eq_div_pow, Nat.mod_eq_of_lt hlow', Nat.shiftLeft_eq, hn,
    Nat.mul_mod_mul_right, ← Nat.shiftLeft_eq, Nat.shiftLeft_add_eq_or_of_lt hlow]

section
variable {s : State} {f : VF}

/-- A string of vl elements at register r, and the shift k (R148). -/
def stringAt (s : State) (r : BitVec 6) : Nat := vreg s.h r.toNat % 2 ^ (s.h.conf.vl * widthOf s)

def stringShift (s : State) (f : VF) : Nat := min (readS s (sregOf f.b)).toNat (s.h.conf.vl * widthOf s)

theorem stringAt_lt (s : State) (r : BitVec 6) : stringAt s r < 2 ^ (s.h.conf.vl * widthOf s) :=
  Nat.mod_lt _ (Nat.two_pow_pos _)

/-- Without a second string the shift that fills has the fields of the one that does not (R133). -/
theorem shiftAlone_of_fill (hat : AtOnce (.vbfsl f) s) (hidx : indexBad (.vbfsl f) s.h.conf = false) (hc : f.c = 0) :
    AtOnce (.vbsll f) s ∧ indexBad (.vbsll f) s.h.conf = false := by
  obtain ⟨hwf, hrest⟩ := hat
  refine ⟨⟨?_, hrest⟩, ?_⟩
  · have hfill : rolesOk { d := .vec, a := .vec, b := .scal, c := .vec } f = true := hwf
    change rolesOk { d := .vec, a := .vec, b := .scal } f = true
    simpa [rolesOk, roleOk, hc] using hfill
  · simp only [indexBad, rolesOf, Bool.or_eq_false_iff] at hidx ⊢
    obtain ⟨hdab, -⟩ := hidx
    exact ⟨hdab, rfl⟩

/-- What a shift of bit strings leaves, by the string that it gives. -/
theorem shifts_of_bitOp {i : Instr} {g : (a c k s : Nat) → Nat} {x : Nat}
    (hexec : exec i s = commitVector i (checkMove i) (bitOp f g) s) (hat : AtOnce i s)
    (hidx : indexBad i s.h.conf = false) (h0 : s.h.vstart = 0) (hcap : captureB i s = readS s (sregOf f.b))
    (hx : g (stringAt s f.a) (stringAt s f.c) (stringShift s f) (s.h.conf.vl * widthOf s) %
      2 ^ (s.h.conf.vl * widthOf s) = x) :
    ∃ t, exec i s = .next t ∧ OnlyVector s t ∧ t.h.m = s.h.m ∧ t.h.g = s.h.g ∧ t.h.fflags = s.h.fflags ∧
      t.h.readback = s.h.readback ∧ (∀ r, r ≠ f.d.toNat → vreg t.h r = vreg s.h r) ∧
      vreg t.h f.d.toNat = vreg s.h f.d.toNat / 2 ^ (s.h.conf.vl * widthOf s) * 2 ^ (s.h.conf.vl * widthOf s) + x := by
  have hcheck : checkMove i s.h.conf = 0 := checks_eq_zero.mpr ⟨rfl, hidx⟩
  by_cases hn : s.h.conf.vl * widthOf s = 0
  · obtain ⟨t, ht, honly, htv, htm, htg, htf, htr⟩ :=
      completes_of_wholeVectors hexec hat hcheck h0 (if_pos hn) (.refl _)
    refine ⟨t, ht, honly, htm, htg, htf, htr, fun r _ => vreg_congr htv r, (vreg_congr htv _).trans ?_⟩
    rw [← hx, hn, Nat.pow_zero, Nat.mod_one, Nat.div_one, Nat.mul_one]
    rfl
  · obtain ⟨t, ht, honly, htv, htm, htg, htf, htr⟩ :=
      completes_of_wholeVectors hexec hat hcheck h0 (if_neg hn) (.vsetBits (.refl _) ..)
    have hreg (r : Nat) := (vreg_congr htv r).trans (vreg_vsetBits _ _ _ r _ f.d.isLt)
    refine ⟨t, ht, honly, htm, htg, htf, htr, fun r hr => (hreg r).trans (if_neg hr), (hreg _).trans ?_⟩
    rw [if_pos rfl, hcap, bitsSet_zero, Nat.mod_mod, ← hx]
    rfl

end

end Sys2Proof.Machine

namespace Sys2Proof

open Machine Claim

/-- R148: each of the four shifts is `bitOp`; the two that fill are one another's mirror. -/
theorem bitStringsShift : BitStringsShift := by
  intro s f h0 hat hidx n str k shifts
  have hk : k ≤ n := min_le_right _ _
  have hlt (r : BitVec 6) : str r < 2 ^ n := stringAt_lt s r
  refine ⟨shifts_of_bitOp rfl hat hidx h0 rfl (shiftLeft_or_shiftRight_mod (hlt f.c) hk),
    shifts_of_bitOp rfl hat hidx h0 rfl ?vbfsr, fun hc => ?_⟩
  case vbfsr =>
    have hmod := shiftLeft_or_shiftRight_mod (a := str f.c) (hlt f.a) (Nat.sub_le n k)
    rw [Nat.sub_sub_self hk] at hmod
    exact (congrArg (· % 2 ^ n) (Nat.or_comm ..)).trans (hmod.trans (Nat.add_comm ..))
  obtain ⟨hat, hidx⟩ := shiftAlone_of_fill hat hidx hc
  refine ⟨shifts_of_bitOp rfl hat hidx h0 rfl ?vbsll, shifts_of_bitOp rfl hat hidx h0 rfl ?vbsrl⟩
  case vbsll => exact congrArg (· % 2 ^ n) (Nat.shiftLeft_eq ..)
  case vbsrl =>
    have hsmall : str f.a / 2 ^ k < 2 ^ n := (Nat.div_le_self _ _).trans_lt (hlt f.a)
    exact (congrArg (· % 2 ^ n) (Nat.shiftRight_eq_div_pow ..)).trans (Nat.mod_eq_of_lt hsmall)

/-- R137, R138: mask logic bit by bit, and the two counts of selected positions. -/
theorem maskInstructions : MaskInstructions := by
  intro s f h0 hvl live writes delivers A B selected
  have hlive : live ≤ 16384 := (Nat.sub_le _ _).trans hvl
  have hA {j : Nat} (hj : j < live) : (mreg s.h f.a.toNat).testBit j = true ↔ A j := by
    rw [testBit_mreg _ _ (hj.trans_le hlive)]
  have hB {j : Nat} (hj : j < live) : (mreg s.h f.b.toNat).testBit j = true ↔ B j := by
    rw [testBit_mreg _ _ (hj.trans_le hlive)]
  have hselected (j : Nat) : bitAt (selectedBits s.h.conf f s.h) j = true ↔ selected j := by
    rw [bitAt_selectedBits hvl, Bool.and_eq_true, Bool.and_eq_true, decide_eq_true_iff]
  refine ⟨fun hat => ?logic, fun hat => ?mset, fun hat => ⟨?mpopc, ?mfirst⟩⟩
  case logic =>
    have hsa : f.sa = false := sa_of_no hat.1 rfl rfl
    have hidx : indexBad (.mand f) s.h.conf = false := indexBad_of_no_vec rfl (by decide)
    refine ⟨writes_of_maskOp rfl hat rfl rfl hidx h0 fun j hj => ?mand,
      writes_of_maskOp (i := .mor f) rfl hat rfl rfl hidx h0 fun j hj => ?mor,
      writes_of_maskOp (i := .mxor f) rfl hat rfl rfl hidx h0 fun j hj => ?mxor,
      writes_of_maskOp (i := .mandn f) rfl hat rfl rfl hidx h0 fun j hj => ?mandn⟩
    all_goals rw [maskA_of_mask hsa]
    case mand => rw [Nat.testBit_and, Bool.and_eq_true, hA hj, hB hj]
    case mor => rw [Nat.testBit_or, Bool.or_eq_true, hA hj, hB hj]
    case mxor => rw [Nat.testBit_xor, bne_iff_ne, Ne, Bool.eq_iff_iff, hA hj, hB hj]
    case mandn =>
      rw [Nat.testBit_and, Bool.and_eq_true, testBit_complement hj, Bool.not_eq_true', ← Bool.not_eq_true, hA hj, hB hj]
  case mset =>
    have hsa : f.sa = true := sa_of_required hat.1 rfl rfl
    refine writes_of_maskOp rfl hat rfl rfl (indexBad_of_no_vec rfl (by decide)) h0 fun j hj => ?_
    have hcap : maskA (.mset f) s f = (readS s (sregOf f.a)).toNat :=
      (if_pos hsa).trans (congrArg BitVec.toNat (if_pos hsa))
    rw [hcap, Nat.testBit_two_pow_sub_one, decide_eq_true_iff, lt_min_iff]
    exact and_iff_left hj
  case mpopc =>
    obtain ⟨t, ht, honly, htv, htm, htg, htf, htr⟩ := completes_of_readback rfl hat
      (checkMask_of_legal (indexBad_of_no_vec rfl (by decide))) h0
      (withVstart_of_vstart_zero (h := pushReadback f.d _ (aloneAtHead (.mpopc f) s).h) h0)
    exact ⟨t, _, ht, honly, htv, htm, htg, htf, htr, popCount_selectedBits hvl f s.h⟩
  case mfirst =>
    obtain ⟨t, ht, honly, htv, htm, htg, htf, htr⟩ := completes_of_readback (i := .mfirst f)
      (congrArg (commitVector _ _ · s) (perfMfirst_eq f)) hat (checkMask_of_legal (indexBad_of_no_vec rfl (by decide)))
      h0 (withVstart_of_vstart_zero (h := pushReadback f.d _ (aloneAtHead (.mfirst f) s).h) h0)
    refine ⟨t, _, ht, honly, htv, htm, htg, htf, htr, ?_⟩
    rcases firstSelected_spec s.h.conf f s.h with ⟨hone, hlow⟩ | ⟨hnone, hx⟩
    · exact .inl ⟨(hselected _).mp hone, fun j hj => (hselected j).not.mp (Bool.eq_false_iff.mp (hlow j hj))⟩
    · exact .inr ⟨fun j => (hselected j).not.mp (Bool.eq_false_iff.mp (hnone j)), hx⟩

/-- Settles O29: the shifts are `bitOp`, mask logic `maskOp`, and the two counts deliver a scalar. -/
theorem masksAndBitStrings : Obligations.MasksAndBitStrings := by
  unfold Obligations.MasksAndBitStrings
  exact ⟨bitStringsShift, maskInstructions⟩

end Sys2Proof
end

section
/-! Permutes, slides, compress and expand (R143 to R145): every source is read from the registers as they were, and each
position is elemWritten, or left, by itself. -/

namespace Sys2Proof.Machine

open Claim

/-! ## Positions with their values -/

/-- What an optional value leaves of an element. -/
def elemWritten (fmt old : Nat) (x : Option Nat) : Nat := x.elim old (· % 2 ^ fmtWidth fmt)

theorem writeElems_append (c : VConf) (d fmt : Nat) (l l' : List (Nat × Option Nat)) (h : Hart) :
    writeElems c d fmt (l ++ l') h = writeElems c d fmt l' (writeElems c d fmt l h) := List.foldl_append

/-- One more position with its value, or without one. -/
theorem Filled.writeElem {c : VConf} {d fmt n lo i : Nat} {want : Nat → Nat} {h h' : Hart}
    (hf : Filled c d fmt n lo want h h' i) (hlo : lo ≤ i) (hreg : i / regElems c (fmtWidth fmt) < n) (hd : d + n ≤ 64)
    {x : Option Nat} (hx : want i = elemWritten fmt (vget c h d fmt i) x) :
    Filled c d fmt n lo want h (writeElems c d fmt [(i, x)] h') (i + 1) := by
  cases x with
  | none => exact hf.skip hx
  | some x => exact hf.write hlo hreg hd hx

/-- The positions from 0 to q − 1, each with its value. -/
theorem writeElems_filled {c : VConf} {d fmt n q : Nat} {x : Nat → Option Nat} {want : Nat → Nat} {h : Hart}
    (hd : d + n ≤ 64) (hfit : ∀ i, i < q → i / regElems c (fmtWidth fmt) < n)
    (hwant : ∀ i, i < q → want i = elemWritten fmt (vget c h d fmt i) (x i)) :
    Filled c d fmt n 0 want h (writeElems c d fmt ((upTo q).map fun i => (i, x i)) h) q := by
  induction q with
  | zero => exact .start ..
  | succ q ih =>
    rw [upTo, List.range_succ, List.map_append, writeElems_append]
    have hrest := ih (fun i hi => hfit i (Nat.lt_succ_of_lt hi)) fun i hi => hwant i (Nat.lt_succ_of_lt hi)
    exact hrest.writeElem (Nat.zero_le q) (hfit q (Nat.lt_succ_self q)) hd (hwant q (Nat.lt_succ_self q))

/-! ## What such an instruction leaves -/

/-- The elements of register d below VL hold `want`; no later bit of it, no other register and no mask has changed. -/
structure FilledIn (s t : State) (f : VF) (want : Nat → Nat) : Prop where
  conf : t.h.conf = s.h.conf
  masks : t.h.m = s.h.m
  matrices : t.h.g = s.h.g
  other : ∀ r, r ≠ f.d.toNat → vreg t.h r = vreg s.h r
  outside : ∀ k, s.h.conf.vl * fmtWidth (fmtOf s) ≤ k →
    (vreg t.h f.d.toNat).testBit k = (vreg s.h f.d.toNat).testBit k
  done : ∀ k, k < s.h.conf.vl → element t f.d (fmtOf s) k = want k

/-- It completes, raises no flag, and leaves elements at or above VL and every other register as they were. -/
def Moves (i : Instr) (s : State) (f : VF) (p : State → Prop) : Prop :=
  ∃ t, exec i s = .next t ∧ OnlyVector s t ∧ t.h.m = s.h.m ∧ t.h.g = s.h.g ∧ t.h.fflags = s.h.fflags ∧
    t.h.readback = s.h.readback ∧ (∀ r, r ≠ f.d.toNat → vreg t.h r = vreg s.h r) ∧
    (∀ k, s.h.conf.vl ≤ k → k < regElems s.h.conf (widthOf s) →
      element t f.d (fmtOf s) k = element s f.d (fmtOf s) k) ∧ p t

/-- A whole run that fills the elements below VL. -/
theorem moves_of_filled {i : Instr} {check : CheckFn} {g : VConf → Word → Word → Hart → Hart} {s : State} {f : VF}
    {want : Nat → Nat} {p : State → Prop} (hexec : exec i s = commitVector i check (wholeOp g) s) (hat : AtOnce i s)
    (hc : check s.h.conf = 0) (h0 : s.h.vstart = 0)
    (hfilled : Filled s.h.conf f.d.toNat (fmtOf s) 1 0 want (aloneAtHead i s).h
      (g s.h.conf (captureA i s) (captureB i s) (aloneAtHead i s).h) s.h.conf.vl)
    (hp : ∀ t, FilledIn s t f want → p t) : Moves i s f p := by
  obtain ⟨t, ht, honly, htv, htm, htg, htf, htr⟩ := completes_of_wholeVectors hexec hat hc h0 rfl hfilled.only
  have helem (k : Nat) : element t f.d (fmtOf s) k = vget s.h.conf t.h f.d.toNat (fmtOf s) k := by
    rw [element, conf_of_onlyVector honly]
  have hother (r : Nat) (hr : r ≠ f.d.toNat) : vreg t.h r = vreg s.h r :=
    (vreg_congr htv r).trans (hfilled.other r (by omega))
  refine ⟨t, ht, honly, htm, htg, htf, htr, hother, fun k hk _ => ?_, hp t ⟨conf_of_onlyVector honly, htm, htg, hother,
    fun k hk => ?_, fun k hk => ?_⟩⟩
  · rw [helem, vget_congr htv]
    exact hfilled.ahead k hk
  · rw [vreg_congr htv]
    exact hfilled.outside rfl k (.inr hk)
  · rw [helem, vget_congr htv]
    exact hfilled.done k (Nat.zero_le k) hk

/-- Where masks, pads and `mz` decide as in R115. -/
theorem FilledIn.elements {s t : State} {f : VF} {want val : Nat → Nat} (hf : FilledIn s t f want)
    (h0 : s.h.vstart = 0)
    (hwant : ∀ k, k < s.h.conf.vl → want k = elementAfter s.h.conf f (fmtOf s) val s.h k) :
    Elements s t f (fmtOf s) 1 val := by
  refine ⟨fun r hr => hf.other r (by omega), hf.masks, hf.matrices, fun _ k hk => hf.outside k ?_, fun k _ hk => ?_⟩
  · rw [h0] at hk
    omega
  · have hdone := (hf.done k hk).trans (hwant k hk)
    rw [element, hf.conf] at hdone
    exact hdone

/-! ## VPERM and the slides (R143, R144) -/

/-- What a permute leaves in element i, by its value there. -/
def permutedElem (s : State) (f : VF) (skip : Nat → Bool) (val : Nat → Nat) (i : Nat) : Nat :=
  if skip i then element s f.d (fmtOf s) i else elementAfter s.h.conf f (fmtOf s) val s.h i

theorem permutedElem_eq_elemWritten (s : State) (f : VF) (skip : Nat → Bool) (val : Nat → Nat) (i : Nat) :
    permutedElem s f skip val i = elemWritten (fmtOf s) (element s f.d (fmtOf s) i)
      (if skip i then none
       else if isPad s.h.conf i then some (padValue (fmtOf s))
       else if maskBit s.h f.m.toNat i then some (val i)
       else if f.mz then some 0 else none) := by
  rw [permutedElem, elementAfter]
  cases skip i
  · by_cases hpad : s.h.conf.vl - s.h.conf.vlpad ≤ i
    · simp [isPad, hpad, elemWritten, Nat.mod_eq_of_lt (padValue_lt _)]
    · cases maskBit s.h f.m.toNat i
      · cases f.mz <;> simp [isPad, hpad, elemWritten, element]
      · simp [isPad, hpad, elemWritten]
  · rfl

theorem moves_of_permOp {i : Instr} {check : CheckFn} {s : State} {f : VF} {skip : Word → Nat → Bool}
    {g : VConf → Word → Hart → Nat → Nat} {p : State → Prop}
    (hexec : exec i s = commitVector i check (permOp f skip g) s) (hat : AtOnce i s) (hc : check s.h.conf = 0)
    (h0 : s.h.vstart = 0) (hfits : Fits s)
    (hp : ∀ t, FilledIn s t f
      (permutedElem s f (skip (captureB i s)) (g s.h.conf (captureB i s) (aloneAtHead i s).h)) → p t) :
    Moves i s f p := by
  refine moves_of_filled hexec hat hc h0 (writeElems_filled (by omega) (fun k hk => ?_) fun k _ => ?_) hp
  · rw [div_regElems_of_fits hfits hk]
    exact Nat.one_pos
  · exact permutedElem_eq_elemWritten ..

/-! ## VCOMPRESS and VEXPAND (R145) -/

/-- The selected elements below element i and below the pads. -/
def selectedBelow (c : VConf) (f : VF) (h : Hart) (i : Nat) : Nat :=
  ((List.range i).filter fun j => maskBit h f.m.toNat j && !isPad c j).length

theorem selectedBelow_succ (c : VConf) (f : VF) (h : Hart) (i : Nat) :
    selectedBelow c f h (i + 1) =
      if maskBit h f.m.toNat i && !isPad c i then selectedBelow c f h i + 1 else selectedBelow c f h i := by
  rw [selectedBelow, List.range_succ, List.filter_append, List.length_append, ← selectedBelow]
  cases hsel : maskBit h f.m.toNat i && !isPad c i <;> simp [hsel]

theorem selectedBelow_le (c : VConf) (f : VF) (h : Hart) (i : Nat) : selectedBelow c f h i ≤ i :=
  (List.length_filter_le _ _).trans List.length_range.le

/-- Element i of those that a predicate selects stands after the selected ones below it. -/
theorem getElem?_filter_range {p : Nat → Bool} {n i : Nat} (hi : i < n) (hp : p i = true) :
    ((List.range n).filter p)[((List.range i).filter p).length]? = some i := by
  obtain ⟨k, rfl⟩ := Nat.exists_eq_add_of_lt hi
  rw [Nat.add_assoc, List.range_add, List.filter_append, List.getElem?_append_right (le_refl _), Nat.sub_self,
    List.range_succ_eq_map, List.map_cons, Nat.add_zero, List.filter_cons_of_pos hp, List.getElem?_cons_zero]

/-- What VCOMPRESS writes to position i. -/
def compressed (c : VConf) (f : VF) (h : Hart) (i : Nat) : Option Nat :=
  ((selectedElems c f (upTo c.vl) h)[i]?.map (vget c h f.a.toNat (confFmt c))).or (if f.mz then some 0 else none)

theorem perfVcompress_eq (f : VF) : perfVcompress f = wholeOp fun c _ _ h =>
    writeElems c f.d.toNat (confFmt c) ((upTo c.vl).map fun i => (i, compressed c f h i)) h := by
  refine congrArg wholeOp (funext fun c => funext fun _ => funext fun _ => funext fun h => ?_)
  refine congrArg (writeElems c f.d.toNat (confFmt c) · h) (List.map_congr_left fun i _ => congrArg (i, ·) ?_)
  rw [compressed]
  cases (selectedElems c f (upTo c.vl) h)[i]? <;> rfl

theorem compressed_of_selected {c : VConf} {f : VF} {h : Hart} {i : Nat} (hi : i < c.vl - c.vlpad)
    (hm : maskBit h f.m.toNat i = true) :
    compressed c f h (selectedBelow c f h i) = some (vget c h f.a.toNat (confFmt c) i) := by
  have hpad : isPad c i = false := decide_eq_false (Nat.not_le.mpr hi)
  have hget : (selectedElems c f (upTo c.vl) h)[selectedBelow c f h i]? = some i :=
    getElem?_filter_range (by omega) (by rw [hm, hpad]; rfl)
  rw [compressed, hget]
  rfl

theorem compressed_of_beyond {c : VConf} {f : VF} {h : Hart} {i : Nat} (hi : selectedBelow c f h c.vl ≤ i) :
    compressed c f h i = if f.mz then some 0 else none := by
  rw [compressed, List.getElem?_eq_none (l := selectedElems c f (upTo c.vl) h) hi]
  rfl

/-- The positions that VEXPAND writes, with their values, and the elements taken for them. -/
def expandStep (c : VConf) (f : VF) (h : Hart) (acc : List (Nat × Option Nat) × Nat) (i : Nat) :
    List (Nat × Option Nat) × Nat :=
  if isPad c i then (acc.1 ++ [(i, some (padValue (confFmt c)))], acc.2)
  else if maskBit h f.m.toNat i then (acc.1 ++ [(i, some (vget c h f.a.toNat (confFmt c) acc.2))], acc.2 + 1)
  else if f.mz then (acc.1 ++ [(i, some 0)], acc.2) else acc

theorem perfVexpand_eq (f : VF) : perfVexpand f = wholeOp fun c _ _ h =>
    writeElems c f.d.toNat (confFmt c) ((fromTo 0 c.vl).foldl (expandStep c f h) ([], 0)).1 h := by
  refine congrArg wholeOp (funext fun c => funext fun _ => funext fun _ => funext fun h => ?_)
  rw [← upTo_eq_fromTo]
  rfl

theorem expandLoop_filled {s : State} {f : VF} (h : Hart) (hfits : Fits s) :
    Filled s.h.conf f.d.toNat (fmtOf s) 1 0
      (elementAfter s.h.conf f (fmtOf s)
        (fun k => vget s.h.conf h f.a.toNat (fmtOf s) (selectedBelow s.h.conf f h k)) h) h
      (writeElems s.h.conf f.d.toNat (fmtOf s) ((fromTo 0 s.h.conf.vl).foldl (expandStep s.h.conf f h) ([], 0)).1 h)
      s.h.conf.vl := by
  have hloop := foldl_fromTo (p := 0) (q := s.h.conf.vl) (a := ([], 0)) (g := expandStep s.h.conf f h)
    (motive := fun i (acc : List (Nat × Option Nat) × Nat) => acc.2 = selectedBelow s.h.conf f h i ∧
      Filled s.h.conf f.d.toNat (fmtOf s) 1 0 (elementAfter s.h.conf f (fmtOf s)
        (fun k => vget s.h.conf h f.a.toNat (fmtOf s) (selectedBelow s.h.conf f h k)) h) h
      (writeElems s.h.conf f.d.toNat (fmtOf s) acc.1 h) i) ⟨rfl, .start ..⟩ fun i acc hlo hhi ⟨hcount, hf⟩ => ?_
  · rw [Nat.zero_max] at hloop
    exact hloop.2
  · have hreg : i / regElems s.h.conf (fmtWidth (fmtOf s)) < 1 := by
      rw [div_regElems_of_fits hfits hhi]
      exact Nat.one_pos
    have hd : f.d.toNat + 1 ≤ 64 := by omega
    rw [selectedBelow_succ, expandStep]
    by_cases hpad : s.h.conf.vl - s.h.conf.vlpad ≤ i
    · have hp : isPad s.h.conf i = true := decide_eq_true hpad
      simp only [hp, if_true, Bool.not_true, Bool.and_false, Bool.false_eq_true, if_false, writeElems_append]
      refine ⟨hcount, hf.writeElem hlo hreg hd ?_⟩
      rw [elementAfter, if_pos hpad]
      exact (Nat.mod_eq_of_lt (padValue_lt _)).symm
    · have hp : isPad s.h.conf i = false := decide_eq_false hpad
      cases hm : maskBit h f.m.toNat i
      · cases hz : f.mz
        · simp only [hp, Bool.false_eq_true, if_false, Bool.false_and]
          exact ⟨hcount, hf.skip (by simp [elementAfter, hpad, hm, hz])⟩
        · simp only [hp, Bool.false_eq_true, if_false, if_true, Bool.false_and, writeElems_append]
          exact ⟨hcount, hf.writeElem hlo hreg hd (by simp [elementAfter, hpad, hm, hz, elemWritten])⟩
      · simp only [hp, Bool.false_eq_true, if_false, if_true, Bool.not_false, Bool.and_self, writeElems_append, hcount]
        exact ⟨trivial, hf.writeElem hlo hreg hd (by simp [elementAfter, hpad, hm, elemWritten, fmtOf])⟩

end Sys2Proof.Machine

namespace Sys2Proof

open Machine Claim

/-- R143 to R145: VPERM and the slides are `permOp`; VCOMPRESS and VEXPAND go by the rank of the selected elements. -/
theorem permutesMoveElements : PermutesMoveElements := by
  intro s f h0 hfits c fmt val rank moves
  have hwide {i : Instr} (h : ByteWide i s) : checks (!byteWide c) (indexBad i c) = 0 := by
    obtain ⟨hw, hidx⟩ := h
    have hbyte : byteWide c = true := decide_eq_true hw
    rw [hbyte, hidx]
    rfl
  have hfit {i : Nat} (hi : i < c.vl) : i / regElems c (fmtWidth fmt) < 1 := by
    rw [div_regElems_of_fits hfits hi]
    exact Nat.one_pos
  refine ⟨fun hat hl => ?vperm, fun hat hidx => ⟨?vslideup, ?vslidedn⟩, fun hat hl => ⟨?vcompress, ?vexpand⟩⟩
  case vperm => exact moves_of_permOp rfl hat (hwide hl) h0 hfits fun t hf => hf.elements h0 fun k _ => rfl
  case vslideup =>
    refine moves_of_permOp rfl hat (checks_eq_zero.mpr ⟨rfl, hidx⟩) h0 hfits fun t hf i hi => (hf.done i hi).trans ?_
    exact ite_congr decide_eq_true_eq (fun _ => rfl) fun _ => ite_congr rfl (fun _ => rfl) fun _ =>
      ite_congr rfl (fun _ => Nat.mod_eq_of_lt (vget_lt ..)) fun _ => rfl
  case vslidedn =>
    exact moves_of_permOp (i := .vslidedn f) rfl hat (checks_eq_zero.mpr ⟨rfl, hidx⟩) h0 hfits
      fun t hf => hf.elements h0 fun k _ => rfl
  case vcompress =>
    refine moves_of_filled (want := fun i => elemWritten fmt (element s f.d fmt i) (compressed c f s.h i))
      (congrArg (commitVector _ _ · s) (perfVcompress_eq f)) hat (hwide hl) h0
      (writeElems_filled (by omega) (fun i hi => hfit hi) fun _ _ => rfl)
      fun t hf => ⟨fun i hi hm => ?_, fun i hlo hhi => ?_⟩
    · have hrank : rank i < c.vl := (selectedBelow_le c f s.h i).trans_lt (by omega)
      refine (hf.done (rank i) hrank).trans ?_
      have hsel : compressed c f s.h (rank i) = some (val i) := compressed_of_selected hi hm
      rw [hsel]
      exact Nat.mod_eq_of_lt (vget_lt ..)
    · have hsel : compressed c f s.h i = _ := compressed_of_beyond hlo
      refine (hf.done i hhi).trans ?_
      rw [hsel]
      cases f.mz <;> rfl
  case vexpand =>
    exact moves_of_filled (i := .vexpand f) (congrArg (commitVector _ _ · s) (perfVexpand_eq f)) hat (hwide hl) h0
      (expandLoop_filled _ hfits) fun t hf => hf.elements h0 fun k _ => rfl

end Sys2Proof
end

section
/-! Transposes of register groups (R146, R147): each step of the loops writes one place, which no other step writes. -/

namespace Sys2Proof.Machine

open Claim

/-! ## Loops whose steps write different places -/

/-- Each step of a loop establishes what it is for, and no other step undoes it. -/
theorem foldl_each {α ι : Type} {Inv : α → Prop} {P : ι → α → Prop} {g : α → ι → α} {l : List ι} {a : α}
    (hstart : Inv a) (hstep : ∀ a, ∀ i ∈ l, Inv a → Inv (g a i) ∧ P i (g a i))
    (hkeep : ∀ a, ∀ i ∈ l, ∀ k ∈ l, k ≠ i → P k a → P k (g a i)) :
    Inv (l.foldl g a) ∧ ∀ i ∈ l, P i (l.foldl g a) := by
  induction l using List.reverseRecOn with
  | nil => exact ⟨hstart, fun i hi => absurd hi List.not_mem_nil⟩
  | append_singleton l k ih =>
    have hsub {i : ι} (hi : i ∈ l) : i ∈ l ++ [k] := List.mem_append_left _ hi
    have hlast : k ∈ l ++ [k] := List.mem_append_right _ List.mem_cons_self
    obtain ⟨hinv, hall⟩ := ih (fun a i hi => hstep a i (hsub hi)) fun a i hi k hk => hkeep a i (hsub hi) k (hsub hk)
    obtain ⟨hinv', hk⟩ := hstep (l.foldl g a) k hlast hinv
    rw [List.foldl_append, List.foldl_cons, List.foldl_nil]
    refine ⟨hinv', fun i hi => ?_⟩
    by_cases hik : i = k
    · exact hik ▸ hk
    · rcases List.mem_append.mp hi with hi | hi
      · exact hkeep _ k hlast i (hsub hi) hik (hall i hi)
      · exact absurd (List.mem_singleton.mp hi) hik

/-- The pairs of a number below n and one below k, the first one rising slowest. -/
def pairsBelow (n k : Nat) : List (Nat × Nat) := (upTo n).flatMap fun j => (upTo k).map (j, ·)

theorem mem_pairsBelow {n k : Nat} {p : Nat × Nat} : p ∈ pairsBelow n k ↔ p.1 < n ∧ p.2 < k := by
  obtain ⟨j, r⟩ := p
  simp [pairsBelow, upTo, List.mem_flatMap]

/-- Two nested loops are one over pairs. -/
theorem foldl_pairsBelow {α : Type} (g : α → Nat → Nat → α) (n k : Nat) (a : α) :
    (pairsBelow n k).foldl (fun a p => g a p.1 p.2) a =
      (upTo n).foldl (fun a j => (upTo k).foldl (fun a r => g a j r) a) a := by
  rw [pairsBelow, List.foldl_flatMap]
  simp only [List.foldl_map]

/-! ## VGTRN (R146) -/

section
variable {s : State} {f : VF}

/-- What a legal transpose passes at commit. -/
theorem transposeBad_of_legal (hfmt : fmtOf s ≠ 12) (hl : TransposeLegal s f) :
    transposeBad04 s.h.conf f = false ∧ transposeBad03 s.h.conf f = false := by
  obtain ⟨hn1, hn64, hmost, hvl, hapart, hsrc, hdst⟩ := hl
  have hmax : ¬ confVlmax s.h.conf < f.imm.toNat := Nat.not_lt.mpr hmost
  have hfmt : confFmt s.h.conf ≠ 12 := hfmt
  have hn0 : f.imm.toNat ≠ 0 := by omega
  refine ⟨?_, ?_⟩
  · simp [transposeBad04, groupsMeet_eq_false hapart, hmax, hfmt, hvl, hn0, Nat.not_lt.mpr hn64]
  · rw [transposeBad03, groupBad_eq_false hsrc, groupBad_eq_false hdst]
    rfl

/-- A row of the result lies whole in one register below 64. -/
theorem rowFits_of_legal (hl : TransposeLegal s f) :
    (∀ r, r < f.imm.toNat → r / regElems s.h.conf (fmtWidth (fmtOf s)) = 0) ∧
      ∀ j, j < s.h.conf.vl → f.d.toNat + j < 64 := by
  obtain ⟨-, -, hmost, -, -, -, hdst⟩ := hl
  have hN : confN s.h.conf ≤ 64 := confN_le _
  have hdst : f.d.toNat + s.h.conf.vl ≤ confN s.h.conf := hdst
  exact ⟨fun r hr => div_regElems_of_lt_vlMost (hr.trans_le hmost), fun j hj => by omega⟩

/-- Element r of destination register j after VGTRN. -/
def transposed (s : State) (f : VF) (j r : Nat) : Nat :=
  if s.h.conf.vl - s.h.conf.vlpad ≤ j then padValue (fmtOf s) else vget s.h.conf s.h (f.a.toNat + r) (fmtOf s) j

theorem transposed_mod (s : State) (f : VF) (j r : Nat) :
    transposed s f j r % 2 ^ fmtWidth (fmtOf s) = transposed s f j r := by
  refine Nat.mod_eq_of_lt ?_
  rw [transposed]
  split
  · exact padValue_lt _
  · exact vget_lt ..

/-- The loops of VGTRN from the registers `h`, each pair a column and a row. -/
def transposeLoop (s : State) (f : VF) (h : Hart) : Hart :=
  (pairsBelow s.h.conf.vl f.imm.toNat).foldl
    (fun h (p : Nat × Nat) => vset s.h.conf (f.d.toNat + p.1) (fmtOf s) p.2 (transposed s f p.1 p.2) h) h

/-- Only destination registers are written. -/
def InGroup (f : VF) (n : Nat) (h h' : Hart) : Prop :=
  VectorsOnly h h' ∧ ∀ k, k < f.d.toNat ∨ f.d.toNat + n ≤ k → vreg h' k = vreg h k

theorem transposeLoop_spec (hl : TransposeLegal s f) (h : Hart) :
    InGroup f s.h.conf.vl h (transposeLoop s f h) ∧
      ∀ p ∈ pairsBelow s.h.conf.vl f.imm.toNat,
        vget s.h.conf (transposeLoop s f h) (f.d.toNat + p.1) (fmtOf s) p.2 = transposed s f p.1 p.2 := by
  obtain ⟨hrow, hcol⟩ := rowFits_of_legal hl
  have hreg {p : Nat × Nat} (hp : p ∈ pairsBelow s.h.conf.vl f.imm.toNat) :
      f.d.toNat + p.1 + p.2 / regElems s.h.conf (fmtWidth (fmtOf s)) < 64 := by
    obtain ⟨hj, hr⟩ := mem_pairsBelow.mp hp
    rw [hrow _ hr]
    exact hcol _ hj
  refine foldl_each (Inv := InGroup f s.h.conf.vl h)
    (P := fun (p : Nat × Nat) h' => vget s.h.conf h' (f.d.toNat + p.1) (fmtOf s) p.2 = transposed s f p.1 p.2)
    ⟨.refl h, fun _ _ => rfl⟩ (fun h' p hp ⟨honly, hother⟩ => ⟨⟨honly.vset .., fun k hk => ?_⟩, ?_⟩)
    fun h' p hp q hq hpq hdone => ?_
  · obtain ⟨hj, hr⟩ := mem_pairsBelow.mp hp
    rw [vreg_vset_of_ne _ _ _ _ (hreg hp), hother k hk]
    rw [hrow _ hr]
    omega
  · exact (vget_vset_self _ _ _ _ (hreg hp)).trans (transposed_mod ..)
  · refine Eq.trans ?_ hdone
    by_cases hj : q.1 = p.1
    · rw [hj]
      exact vget_vset_of_ne _ _ _ _ (hreg hp) fun hr => hpq (Prod.ext hj hr)
    · refine vget_of_vreg_eq (hrow _ (mem_pairsBelow.mp hq).2) (vreg_vset_of_ne _ _ _ _ (hreg hp) ?_)
      rw [hrow _ (mem_pairsBelow.mp hp).2]
      omega

theorem vgtrn_completes (h0 : s.h.vstart = 0) (hat : AtOnce (.vgtrn f) s) (hl : VgtrnLegal s f) :
    ∃ t, exec (.vgtrn f) s = .next t ∧ OnlyVector s t ∧ t.h.m = s.h.m ∧ t.h.g = s.h.g ∧ t.h.fflags = s.h.fflags ∧
      t.h.readback = s.h.readback ∧
      (∀ k, k < f.d.toNat ∨ f.d.toNat + s.h.conf.vl ≤ k → vreg t.h k = vreg s.h k) ∧
      ∀ j r, j < s.h.conf.vl → r < f.imm.toNat →
        vget s.h.conf t.h (f.d.toNat + j) (fmtOf s) r = transposed s f j r := by
  obtain ⟨hfmt, hl, hidx⟩ := hl
  obtain ⟨h04, h03⟩ := transposeBad_of_legal hfmt hl
  have hc : checkVgtrn f s.h.conf = 0 := checks_eq_zero.mpr ⟨h04, by rw [hidx, h03]; rfl⟩
  obtain ⟨⟨honly', hother⟩, hdone⟩ := transposeLoop_spec hl (aloneAtHead (.vgtrn f) s).h
  have hrun : (upTo s.h.conf.vl).foldl (fun h' j => (upTo f.imm.toNat).foldl (fun h' r =>
      vset s.h.conf (f.d.toNat + j) (fmtOf s) r
        (if isPad s.h.conf j then padValue (fmtOf s)
         else vget s.h.conf (aloneAtHead (.vgtrn f) s).h (f.a.toNat + r) (fmtOf s) j) h') h')
      (aloneAtHead (.vgtrn f) s).h = transposeLoop s f (aloneAtHead (.vgtrn f) s).h := by
    rw [transposeLoop, foldl_pairsBelow (fun h j r => vset s.h.conf (f.d.toNat + j) (fmtOf s) r (transposed s f j r) h)]
    simp only [transposed, isPad, decide_eq_true_eq]
    rfl
  obtain ⟨t, ht, honly, htv, htm, htg, htf, htr⟩ := completes_of_wholeVectors rfl hat hc h0 hrun honly'
  exact ⟨t, ht, honly, htm, htg, htf, htr, fun k hk => (vreg_congr htv k).trans (hother k hk),
    fun j r hj hr => (vget_congr htv ..).trans (hdone (j, r) (mem_pairsBelow.mpr ⟨hj, hr⟩))⟩

end

/-! ## One block of VQTRN (R147) -/

section
variable (c : VConf) (f : VF) (h : Hart)

/-- The scale byte of row r at column j. -/
def rowScale (j r : Nat) : Nat := scaleByte c h f.c.toNat (confW c) (f.a.toNat + r) j

/-- The scale byte of the block of rows from b0 at column j. -/
def columnScale (j b0 : Nat) : Nat :=
  if isPad c j then 0x7F else (fromTo b0 (b0 + blockLen (confBlk c))).foldl (fun x r => max x (rowScale c f h j r)) 0

/-- Row r of column j at the scale of its block. -/
def requantised (j b0 r : Nat) : Nat :=
  if isPad c j then 0
  else (qtrnElem (confFmt c) (vget c h (f.a.toNat + r) (confFmt c) j) (rowScale c f h j r) (columnScale c f h j b0)).1

theorem map_add_eq_fromTo (p n : Nat) : (upTo n).map (p + ·) = fromTo p (p + n) := by
  rw [fromTo, Nat.add_sub_cancel_left]
  exact List.map_congr_left fun i _ => Nat.add_comm p i

/-- A block writes its scale byte, then its codes. -/
theorem qtrnBlock_fst (acc : Hart × Nat) (j b0 : Nat) :
    (qtrnBlock c f h acc j b0).1 =
      (fromTo b0 (b0 + blockLen (confBlk c))).foldl
        (fun h' r => vset c (f.d.toNat + j) (confFmt c) r (requantised c f h j b0 r) h')
        (vsetBits (f.c.toNat + 1) (8 * scaleIndex c (confW c) (f.d.toNat + j) b0) 8 (columnScale c f h j b0)
          acc.1) := by
  rw [qtrnBlock]
  dsimp only
  rw [map_add_eq_fromTo]
  cases hpad : isPad c j
  · simp only [requantised, columnScale, hpad, Bool.false_eq_true, if_false]
    exact (List.foldl_hom Prod.fst fun _ _ => rfl).symm
  · simp only [requantised, columnScale, hpad, if_true]

/-- Below the pads the new scale is the largest of the rows' (R147). -/
theorem columnScale_eq (j b0 : Nat) :
    columnScale c f h j b0 = if c.vl - c.vlpad ≤ j then 0x7F
      else (List.range (blockLen (confBlk c))).foldl (fun x q => max x (rowScale c f h j (b0 + q))) 0 := by
  rw [columnScale, ← map_add_eq_fromTo, List.foldl_map, upTo]
  exact ite_congr decide_eq_true_eq (fun _ => rfl) fun _ => rfl

/-- What a code becomes, by the new scale of its block. -/
theorem requantised_eq {j b0 most : Nat} (r : Nat) (hmost : ¬ c.vl - c.vlpad ≤ j → columnScale c f h j b0 = most) :
    requantised c f h j b0 r % 2 ^ confW c = if c.vl - c.vlpad ≤ j then 0
      else if most = 0xFF then (if confFmt c = 5 ∨ confFmt c = 8 then 0 else qNaN (confFmt c) % 2 ^ confW c)
      else (roundX (scaleX (decodeX (confFmt c) (vget c h (f.a.toNat + r) (confFmt c) j))
        ((rowScale c f h j r : Int) - most)) (confFmt c) 0 0 true).1 % 2 ^ confW c := by
  rw [requantised]
  by_cases hpad : c.vl - c.vlpad ≤ j
  · have hp : isPad c j = true := decide_eq_true hpad
    rw [if_pos hp, if_pos hpad, Nat.zero_mod]
  · have hp : ¬ isPad c j = true := ne_true_of_eq_false (decide_eq_false hpad)
    rw [if_neg hp, if_neg hpad, qtrnElem, hmost hpad]
    split
    · split
      · exact Nat.zero_mod _
      · rfl
    · rfl

theorem foldl_max_lt {n : Nat} (g : Nat → Nat) (hg : ∀ r, g r < n) (l : List Nat) (x : Nat) (hx : x < n) :
    l.foldl (fun x r => max x (g r)) x < n := by
  induction l generalizing x with
  | nil => exact hx
  | cons r l ih => exact ih _ (max_lt hx (hg r))

theorem columnScale_lt (j b0 : Nat) : columnScale c f h j b0 < 2 ^ 8 := by
  rw [columnScale]
  split
  · decide
  · exact foldl_max_lt _ (fun r => bitsGet_lt _ _ 8) _ 0 (by decide)

end

/-! ## Scale bytes (R85) -/

/-- Registers of one scale group follow one another in the scale register. -/
theorem scaleIndex_of_oneGroup {c : VConf} {w r n j i : Nat} (hj : j < n)
    (hone : r / (blockLen (confBlk c) * w / 8) = (r + n - 1) / (blockLen (confBlk c) * w / 8)) :
    scaleIndex c w (r + j) i =
      ((r % (blockLen (confBlk c) * w / 8) + j) * regElems c w + i) / blockLen (confBlk c) := by
  have hmod : (r + j) % (blockLen (confBlk c) * w / 8) = r % (blockLen (confBlk c) * w / 8) + j := by
    generalize blockLen (confBlk c) * w / 8 = g at hone
    have hle : r / g ≤ (r + j) / g := Nat.div_le_div_right (by omega)
    have hge : (r + j) / g ≤ (r + n - 1) / g := Nat.div_le_div_right (by omega)
    have hquot : (r + j) / g = r / g := by omega
    have hr := Nat.div_add_mod r g
    have hrj := Nat.div_add_mod (r + j) g
    rw [hquot] at hrj
    omega
  rw [scaleIndex, hmod]

theorem div_lt_div_of_add_le {x y b : Nat} (hb : b ≠ 0) (h : x + b ≤ y) : x / b < y / b := by
  have hdiv : (x + b) / b ≤ y / b := Nat.div_le_div_right h
  rwa [Nat.add_div_right _ (Nat.pos_of_ne_zero hb)] at hdiv

section
variable {s : State} {f : VF} (hl : VqtrnLegal s f)

/-- The columns and blocks that VQTRN visits. -/
def blocksOf (s : State) (f : VF) : List (Nat × Nat) := pairsBelow s.h.conf.vl (f.imm.toNat / blockOf s)

/-- The scale byte of a block of the destination. -/
def blockIndex (s : State) (f : VF) (p : Nat × Nat) : Nat :=
  scaleIndex s.h.conf (widthOf s) (f.d.toNat + p.1) (p.2 * blockOf s)

include hl in
/-- The last row of a block is one of a register's elements. -/
theorem blockEnd_le {p : Nat × Nat} (hp : p ∈ blocksOf s f) :
    p.2 * blockOf s + blockOf s ≤ regElems s.h.conf (fmtWidth (fmtOf s)) := by
  obtain ⟨-, -, -, -, ⟨-, -, hmost, -⟩, -⟩ := hl
  obtain ⟨-, hblock⟩ := mem_pairsBelow.mp hp
  calc p.2 * blockOf s + blockOf s = (p.2 + 1) * blockOf s := (Nat.succ_mul _ _).symm
    _ ≤ f.imm.toNat / blockOf s * blockOf s := Nat.mul_le_mul_right _ hblock
    _ ≤ f.imm.toNat := Nat.div_mul_le_self _ _
    _ ≤ vlMost s := hmost
    _ ≤ _ := vlMost_le_regElems s

include hl in
/-- Scale bytes of blocks follow one another, by columns and then by blocks. -/
theorem blockIndex_lt {p q : Nat × Nat} (hp : p ∈ blocksOf s f) (hq : q ∈ blocksOf s f)
    (hpq : p.1 < q.1 ∨ p.1 = q.1 ∧ p.2 < q.2) : blockIndex s f p < blockIndex s f q := by
  have hend := blockEnd_le hl hp
  obtain ⟨-, hb, -, -, -, -, hone, -⟩ := hl
  rw [blockIndex, blockIndex, scaleIndex_of_oneGroup (mem_pairsBelow.mp hp).1 hone,
    scaleIndex_of_oneGroup (mem_pairsBelow.mp hq).1 hone]
  refine div_lt_div_of_add_le hb ?_
  have hw : regElems s.h.conf (widthOf s) = regElems s.h.conf (fmtWidth (fmtOf s)) := rfl
  have hB : blockLen (confBlk s.h.conf) = blockOf s := rfl
  rw [hw, hB]
  generalize f.d.toNat % (blockOf s * widthOf s / 8) = g
  rcases hpq with hcol | ⟨hcol, hblock⟩
  · have hrows : (g + p.1) * regElems s.h.conf (fmtWidth (fmtOf s)) + regElems s.h.conf (fmtWidth (fmtOf s)) ≤
        (g + q.1) * regElems s.h.conf (fmtWidth (fmtOf s)) := by
      rw [← Nat.succ_mul]
      exact Nat.mul_le_mul_right _ (by omega)
    omega
  · have hblocks : p.2 * blockOf s + blockOf s ≤ q.2 * blockOf s := by
      rw [← Nat.succ_mul]
      exact Nat.mul_le_mul_right _ hblock
    rw [hcol]
    omega

include hl in
theorem blockIndex_ne {p q : Nat × Nat} (hp : p ∈ blocksOf s f) (hq : q ∈ blocksOf s f) (hpq : q ≠ p) :
    blockIndex s f q ≠ blockIndex s f p := by
  have hcases : (p.1 < q.1 ∨ p.1 = q.1 ∧ p.2 < q.2) ∨ (q.1 < p.1 ∨ q.1 = p.1 ∧ q.2 < p.2) := by
    have hne : ¬ (q.1 = p.1 ∧ q.2 = p.2) := fun h => hpq (Prod.ext h.1 h.2)
    omega
  rcases hcases with h | h
  · exact (blockIndex_lt hl hp hq h).ne'
  · exact (blockIndex_lt hl hq hp h).ne

/-! ## VQTRN (R147) -/

/-- A block has its scale byte and its codes, computed from the registers `h`. -/
def BlockDone (s : State) (f : VF) (h : Hart) (p : Nat × Nat) (h' : Hart) : Prop :=
  bitsGet (vreg h' (f.c.toNat + 1)) (8 * blockIndex s f p) 8 = columnScale s.h.conf f h p.1 (p.2 * blockOf s) ∧
  ∀ r, p.2 * blockOf s ≤ r → r < p.2 * blockOf s + blockOf s →
    vget s.h.conf h' (f.d.toNat + p.1) (fmtOf s) r =
      requantised s.h.conf f h p.1 (p.2 * blockOf s) r % 2 ^ fmtWidth (fmtOf s)

/-- Only destination registers and the one of the new scales are written. -/
def InGroupOrScales (s : State) (f : VF) (h h' : Hart) : Prop :=
  VectorsOnly h h' ∧
  ∀ k, k < f.d.toNat ∨ f.d.toNat + s.h.conf.vl ≤ k → k ≠ f.c.toNat + 1 → vreg h' k = vreg h k

/-- The registers after the scale byte of a block is written. -/
def withScale (s : State) (f : VF) (h : Hart) (p : Nat × Nat) (h' : Hart) : Hart :=
  vsetBits (f.c.toNat + 1) (8 * blockIndex s f p) 8 (columnScale s.h.conf f h p.1 (p.2 * blockOf s)) h'

include hl in
/-- The registers that a block writes lie below 64, the scales' apart from the destination's. -/
theorem blockRegisters {p : Nat × Nat} (hp : p ∈ blocksOf s f) :
    f.d.toNat + p.1 < 64 ∧ f.c.toNat + 1 < 64 ∧ f.c.toNat + 1 ≠ f.d.toNat + p.1 := by
  obtain ⟨-, -, -, -, ⟨-, -, -, -, -, -, hdst⟩, -, -, -, hapart, hscale, -⟩ := hl
  have hN : confN s.h.conf ≤ 64 := confN_le _
  have hdst : f.d.toNat + s.h.conf.vl ≤ confN s.h.conf := hdst
  obtain ⟨hcol, -⟩ := mem_pairsBelow.mp hp
  omega

include hl in
/-- What a block writes after its scale byte. -/
theorem qtrnBlock_filled (h : Hart) (acc : Hart × Nat) {p : Nat × Nat} (hp : p ∈ blocksOf s f) :
    Filled s.h.conf (f.d.toNat + p.1) (fmtOf s) 1 (p.2 * blockOf s)
      (fun r => requantised s.h.conf f h p.1 (p.2 * blockOf s) r % 2 ^ fmtWidth (fmtOf s))
      (withScale s f h p acc.1) (qtrnBlock s.h.conf f h acc p.1 (p.2 * blockOf s)).1
      (p.2 * blockOf s + blockOf s) := by
  have hend := blockEnd_le hl hp
  obtain ⟨hd, -⟩ := blockRegisters hl hp
  have hfilled := writeLoop_filled (c := s.h.conf) (d := f.d.toNat + p.1) (fmt := fmtOf s) (n := 1)
    (p := p.2 * blockOf s) (q := p.2 * blockOf s + blockOf s)
    (val := fun _ r => requantised s.h.conf f h p.1 (p.2 * blockOf s) r) (h := withScale s f h p acc.1) hd
    (fun i hi => by rw [Nat.div_eq_of_lt (hi.trans_le hend)]; exact Nat.one_pos) fun _ _ _ _ => rfl
  rw [max_eq_right (Nat.le_add_right _ _)] at hfilled
  rw [qtrnBlock_fst]
  exact hfilled

include hl in
theorem blockDone_qtrnBlock (h : Hart) (acc : Hart × Nat) {p : Nat × Nat} (hp : p ∈ blocksOf s f)
    (hinv : InGroupOrScales s f h acc.1) :
    InGroupOrScales s f h (qtrnBlock s.h.conf f h acc p.1 (p.2 * blockOf s)).1 ∧
      BlockDone s f h p (qtrnBlock s.h.conf f h acc p.1 (p.2 * blockOf s)).1 := by
  have hfilled := qtrnBlock_filled hl h acc hp
  obtain ⟨hd, hscale, hne⟩ := blockRegisters hl hp
  obtain ⟨hcol, -⟩ := mem_pairsBelow.mp hp
  obtain ⟨honly, hother⟩ := hinv
  refine ⟨⟨(honly.vsetBits ..).trans hfilled.only, fun k hk hkc => ?_⟩, ?_, fun r hlo hhi => hfilled.done r hlo hhi⟩
  · rw [hfilled.other k (by omega), withScale, vreg_vsetBits _ _ _ _ _ hscale, if_neg hkc, hother k hk hkc]
  · rw [hfilled.other _ (by omega), withScale, vreg_vsetBits _ _ _ _ _ hscale, if_pos rfl, bitsGet_bitsSet_self]
    exact Nat.mod_eq_of_lt (columnScale_lt ..)

include hl in
/-- A block keeps what the others have written. -/
theorem blockDone_of_other (h : Hart) (acc : Hart × Nat) {p q : Nat × Nat} (hp : p ∈ blocksOf s f)
    (hq : q ∈ blocksOf s f) (hqp : q ≠ p) (hdone : BlockDone s f h q acc.1) :
    BlockDone s f h q (qtrnBlock s.h.conf f h acc p.1 (p.2 * blockOf s)).1 := by
  have hfilled := qtrnBlock_filled hl h acc hp
  have hend := blockEnd_le hl hq
  have hindex := blockIndex_ne hl hp hq hqp
  obtain ⟨hd, hscale, hne⟩ := blockRegisters hl hp
  obtain ⟨-, -, hneq⟩ := blockRegisters hl hq
  obtain ⟨hbyte, hcodes⟩ := hdone
  have hreg (k : Nat) (hk : k ≠ f.c.toNat + 1) : vreg (withScale s f h p acc.1) k = vreg acc.1 k := by
    rw [withScale, vreg_vsetBits _ _ _ _ _ hscale, if_neg hk]
  refine ⟨?_, fun r hlo hhi => ?_⟩
  · rw [hfilled.other _ (by omega), withScale, vreg_vsetBits _ _ _ _ _ hscale, if_pos rfl,
      bitsGet_bitsSet_of_disjoint _ _ (by omega), hbyte]
  · have hrow : r / regElems s.h.conf (fmtWidth (fmtOf s)) = 0 := Nat.div_eq_of_lt (hhi.trans_le hend)
    rw [← hcodes r hlo hhi, ← vget_of_vreg_eq hrow (hreg _ hneq.symm)]
    by_cases hcol : q.1 = p.1
    · have hblock : q.2 ≠ p.2 := fun h => hqp (Prod.ext hcol h)
      rw [hcol]
      rcases Nat.lt_or_gt_of_ne hblock with hlt | hgt
      · have hle : (q.2 + 1) * blockOf s ≤ p.2 * blockOf s := Nat.mul_le_mul_right _ hlt
        rw [Nat.succ_mul] at hle
        exact hfilled.vget_below hrow (by omega)
      · have hle : (p.2 + 1) * blockOf s ≤ q.2 * blockOf s := Nat.mul_le_mul_right _ hgt
        rw [Nat.succ_mul] at hle
        exact hfilled.ahead r (by omega)
    · exact vget_of_vreg_eq hrow (hfilled.other _ (by omega))

/-- The loops of VQTRN. -/
def qtrnLoop (s : State) (f : VF) (h : Hart) : Hart × Nat :=
  (blocksOf s f).foldl (fun acc p => qtrnBlock s.h.conf f h acc p.1 (p.2 * blockOf s)) (h, 0)

include hl in
theorem qtrnLoop_spec (h : Hart) :
    InGroupOrScales s f h (qtrnLoop s f h).1 ∧ ∀ p ∈ blocksOf s f, BlockDone s f h p (qtrnLoop s f h).1 :=
  foldl_each (Inv := fun acc : Hart × Nat => InGroupOrScales s f h acc.1)
    (P := fun p acc => BlockDone s f h p acc.1) ⟨.refl h, fun _ _ _ => rfl⟩
    (fun acc _ hp hinv => blockDone_qtrnBlock hl h acc hp hinv)
    fun acc _ hp _ hq hqp hdone => blockDone_of_other hl h acc hp hq hqp hdone

include hl in
theorem checkVqtrn_of_legal : checkVqtrn f s.h.conf = 0 := by
  obtain ⟨hfmt, hb, hn, hvl, htrans, hsrc, hdst, hcsrc, hcdst, hscale, hidx⟩ := hl
  have hfmt' : confFmt s.h.conf = 3 ∨ confFmt s.h.conf = 4 ∨ confFmt s.h.conf = 5 ∨ confFmt s.h.conf = 8 := by
    simpa [fmtOf] using hfmt
  have hformat : qtrnFormat (confFmt s.h.conf) = true := by simpa [qtrnFormat, or_assoc] using hfmt'
  obtain ⟨h04, h03⟩ := transposeBad_of_legal (by rw [fmtOf]; omega) htrans
  have hmax : max 1 (blockLen (confBlk s.h.conf)) = blockOf s := max_eq_right (Nat.pos_of_ne_zero hb)
  have hone {r n : Nat} (h : OneScaleGroup s r n) : oneScaleGroup s.h.conf r n = true := beq_iff_eq.mpr h
  have hblock : (blockLen (confBlk s.h.conf) == 0) = false := beq_eq_false_iff_ne.mpr hb
  refine checks_eq_zero.mpr ⟨?_, ?_⟩
  · rw [qtrnBad04]
    simp [hformat, hmax, hn, hvl, h04, hone hsrc, hone hdst, groupsMeet_eq_false hcsrc, groupsMeet_eq_false hcdst,
      hblock]
  · rw [hidx, h03, Bool.false_or, Bool.false_or]
    exact decide_eq_false (Nat.not_le.mpr hscale)

include hl in
theorem vqtrn_completes (h0 : s.h.vstart = 0) (hat : AtOnce (.vqtrn f) s) :
    ∃ t, exec (.vqtrn f) s = .next t ∧ OnlyVector s t ∧ t.h.m = s.h.m ∧ t.h.g = s.h.g ∧
      t.h.readback = s.h.readback ∧
      (∀ k, k < f.d.toNat ∨ f.d.toNat + s.h.conf.vl ≤ k → k ≠ f.c.toNat + 1 → vreg t.h k = vreg s.h k) ∧
      ∀ p ∈ blocksOf s f, BlockDone s f s.h p t.h := by
  obtain ⟨⟨honly', hother⟩, hdone⟩ := qtrnLoop_spec hl (aloneAtHead (.vqtrn f) s).h
  have hrun : (upTo s.h.conf.vl).foldl (fun acc j => (upTo (f.imm.toNat / blockOf s)).foldl (fun acc n =>
      qtrnBlock s.h.conf f (aloneAtHead (.vqtrn f) s).h acc j (n * blockOf s)) acc)
      ((aloneAtHead (.vqtrn f) s).h, 0) = qtrnLoop s f (aloneAtHead (.vqtrn f) s).h :=
    (foldl_pairsBelow (fun acc j n => qtrnBlock s.h.conf f (aloneAtHead (.vqtrn f) s).h acc j (n * blockOf s)) ..).symm
  obtain ⟨t, ht, honly, htv, htm, htg, -, htr⟩ := completes_of_wholeOp rfl hat (checkVqtrn_of_legal hl) h0
    (congrArg (fun r : Hart × Nat => orFlags r.2 r.1) hrun) (orFlags_registersOnly _ honly' h0)
  obtain ⟨v, vdirty, marks, hloop⟩ := honly'
  have htv : t.h.v = (qtrnLoop s f (aloneAtHead (.vqtrn f) s).h).1.v := htv
  have hfields : t.h.m = s.h.m ∧ t.h.g = s.h.g ∧ t.h.readback = s.h.readback := by
    refine ⟨htm.trans ?_, htg.trans ?_, htr.trans ?_⟩ <;> rw [orFlags, hloop] <;> rfl
  obtain ⟨hm, hg, hrb⟩ := hfields
  refine ⟨t, ht, honly, hm, hg, hrb, fun k hk hkc => (vreg_congr htv k).trans (hother k hk hkc), fun p hp => ?_⟩
  obtain ⟨hbyte, hcodes⟩ := hdone p hp
  refine ⟨?_, fun r hlo hhi => (vget_congr htv ..).trans (hcodes r hlo hhi)⟩
  rw [vreg_congr htv]
  exact hbyte

end

end Sys2Proof.Machine

namespace Sys2Proof

open Machine Claim

/-- R146, R147: row r of column j lies in block r / B of the column. -/
theorem transposesSwapRowsAndColumns : TransposesSwapRowsAndColumns := by
  intro s f h0 hfits c fmt
  refine ⟨fun hat hl => vgtrn_completes h0 hat hl, fun hat hl => ?_⟩
  obtain ⟨t, ht, honly, htm, htg, htr, hother, hdone⟩ := vqtrn_completes hl h0 hat
  refine ⟨t, ht, honly, htm, htg, htr, hother, fun j r hj hr => ?_⟩
  obtain ⟨-, hb, hn, -⟩ := hl
  have hpos : 0 < blockOf s := Nat.pos_of_ne_zero hb
  have hblock : r / blockOf s < f.imm.toNat / blockOf s := by
    rw [Nat.div_lt_iff_lt_mul hpos, Nat.div_mul_cancel (Nat.dvd_of_mod_eq_zero hn)]
    exact hr
  obtain ⟨hbyte, hcodes⟩ := hdone (j, r / blockOf s) (mem_pairsBelow.mpr ⟨hj, hblock⟩)
  have hcode := hcodes r (Nat.div_mul_le_self _ _) (Nat.lt_div_mul_add hpos)
  have hscale := columnScale_eq c f s.h j (r / blockOf s * blockOf s)
  exact ⟨hbyte.trans hscale, hcode.trans (requantised_eq c f s.h r fun hpad => hscale.trans (if_neg hpad))⟩

/-- Settles O28: each position is written by itself, or by the one step of a loop that is for it. -/
theorem permutesAndTransposes : Obligations.PermutesAndTransposes := by
  unfold Obligations.PermutesAndTransposes
  exact ⟨permutesMoveElements, transposesSwapRowsAndColumns⟩

end Sys2Proof
end

section
/-! Small-matrix registers (R150 to R154): reads after the writes of one instance, and what the loop over the instances
leaves of every entry, component and mask bit. -/

namespace Sys2Proof.Machine

open Claim

/-! ## Entries of matrix registers (R150) -/

/-- Entry (p, q) of the matrix of instance i in register n. -/
def gentry (h : Hart) (n i p q : Nat) : Nat := bitsGet (h.g.toArray.getD n 0) (1152 * i + 32 * (6 * p + q)) 32

/-- Entry (p, q) of a matrix has its place among the 36. -/
theorem entryIndex_lt {p q : Nat} (hp : p < 6) (hq : q < 6) : 6 * p + q < 36 := by omega

theorem ent_gmat (h : Hart) (n i : Nat) {p q : Nat} (hp : p < 6) (hq : q < 6) :
    ent (gmat h n i) p q = gentry h n i p q := by
  simp [ent, gmat, upTo, gentry, List.getElem?_range (entryIndex_lt hp hq)]

/-- A matrix is its 36 entries. -/
theorem gmat_congr {h h' : Hart} {n i : Nat} (hentry : ∀ p q, p < 6 → q < 6 → gentry h' n i p q = gentry h n i p q) :
    gmat h' n i = gmat h n i := by
  refine List.map_congr_left fun k hk => ?_
  have hk : k < 36 := List.mem_range.mp hk
  have hplace : 6 * (k / 6) + k % 6 = k := Nat.div_add_mod k 6
  have hread := hentry (k / 6) (k % 6) (by omega) (Nat.mod_lt _ (by decide))
  rwa [gentry, gentry, hplace] at hread

/-- No register stands at 8 or above. -/
theorem gentry_of_ge (h : Hart) {n : Nat} (hn : 8 ≤ n) (i p q : Nat) : gentry h n i p q = 0 := by
  have hsize : h.g.toArray[n]? = none := Array.getElem?_eq_none (by simpa using hn)
  simp [gentry, Array.getD_eq_getD_getElem?, hsize, bitsGet]

theorem getD_g_gset (n i p q x : Nat) (h : Hart) (k : Nat) :
    (gset n i p q x h).g.toArray.getD k 0 =
      if k = n ∧ k < 8 then bitsSet (h.g.toArray.getD n 0) (1152 * i + 32 * (6 * p + q)) 32 x
      else h.g.toArray.getD k 0 := by
  by_cases hk : k = n
  · subst hk
    by_cases hsize : k < 8
    · simp [gset, hsize, Array.getD_eq_getD_getElem?]
    · have hnone (v : Vector Nat 8) : v.toArray[k]? = none := Array.getElem?_eq_none (by simpa using hsize)
      rw [if_neg (by omega), Array.getD_eq_getD_getElem?, Array.getD_eq_getD_getElem?, hnone, hnone]
  · rw [if_neg fun h => hk h.1]
    simp [gset, Array.getD_eq_getD_getElem?, Array.getElem?_setIfInBounds_ne (Ne.symm hk)]

/-- An entry that is read after one was written. -/
theorem gentry_gset {n i p q p' q' n' : Nat} (x : Nat) (h : Hart) (i' : Nat) (hn' : n' < 8) (hp : p < 6) (hq : q < 6)
    (hp' : p' < 6) (hq' : q' < 6) :
    gentry (gset n i p q x h) n' i' p' q' =
      if n' = n ∧ i' = i ∧ p' = p ∧ q' = q then x % 2 ^ 32 else gentry h n' i' p' q' := by
  rw [gentry, getD_g_gset]
  by_cases hreg : n' = n
  · subst hreg
    rw [if_pos ⟨rfl, hn'⟩]
    split
    case isTrue heq =>
      obtain ⟨-, rfl, rfl, rfl⟩ := heq
      exact bitsGet_bitsSet_self ..
    case isFalse hne => exact bitsGet_bitsSet_of_disjoint _ _ (by omega)
  · rw [if_neg fun h => hreg h.1, if_neg fun h => hreg h.1, gentry]

/-- Write entries of g[n][i], each with its value. -/
def setEntries (n i : Nat) (shape : List (Nat × Nat)) (val : Nat × Nat → Nat) (h : Hart) : Hart :=
  shape.foldl (fun h pq => gset n i pq.1 pq.2 (val pq) h) h

theorem setEntries_eq (n i : Nat) (shape : List (Nat × Nat)) (val : Nat × Nat → Nat) (h : Hart) :
    ∃ g, setEntries n i shape val h = { h with g := g } := by
  induction shape generalizing h with
  | nil => exact ⟨h.g, rfl⟩
  | cons pq shape ih => exact ih (gset n i pq.1 pq.2 (val pq) h)

theorem getD_g_setEntries (n i : Nat) (shape : List (Nat × Nat)) (val : Nat × Nat → Nat) (h : Hart) {k : Nat}
    (hk : k ≠ n ∨ shape = []) : (setEntries n i shape val h).g.toArray.getD k 0 = h.g.toArray.getD k 0 := by
  induction shape generalizing h with
  | nil => rfl
  | cons pq shape ih =>
    have hk : k ≠ n := hk.resolve_right (List.cons_ne_nil _ _)
    exact (ih _ (.inl hk)).trans ((getD_g_gset ..).trans (if_neg fun h => hk h.1))

theorem gentry_setEntries {n i n' i' p q : Nat} {shape : List (Nat × Nat)} (hshape : ∀ x ∈ shape, x.1 < 6 ∧ x.2 < 6)
    (val : Nat × Nat → Nat) (h : Hart) (hn' : n' < 8) (hp : p < 6) (hq : q < 6) :
    gentry (setEntries n i shape val h) n' i' p q =
      if n' = n ∧ i' = i ∧ (p, q) ∈ shape then val (p, q) % 2 ^ 32 else gentry h n' i' p q := by
  induction shape generalizing h with
  | nil => simp [setEntries]
  | cons x shape ih =>
    obtain ⟨hx1, hx2⟩ := hshape x List.mem_cons_self
    have hrest := ih (fun y hy => hshape y (List.mem_cons_of_mem _ hy)) (gset n i x.1 x.2 (val x) h)
    rw [gentry_gset _ _ _ hn' hx1 hx2 hp hq] at hrest
    refine hrest.trans ?_
    by_cases hx : (p, q) = x
    · subst hx
      by_cases hplace : n' = n ∧ i' = i
      · simp [hplace]
      · have hne (r : Prop) : ¬ (n' = n ∧ i' = i ∧ r) := fun h => hplace ⟨h.1, h.2.1⟩
        simp only [if_neg (hne _)]
    · have hx' : ¬ (n' = n ∧ i' = i ∧ p = x.1 ∧ q = x.2) := fun h => hx (Prod.ext h.2.2.1 h.2.2.2)
      simp only [if_neg hx', List.mem_cons, hx, false_or]

/-! ## Components of vector registers (R153) -/

theorem setComps_spec {r : Nat} (hr : r < 64) (i : Nat) (l : List Nat) (h : Hart) :
    VectorsOnly h (setComps r i l h) ∧ (∀ q, q ≠ r → vreg (setComps r i l h) q = vreg h q) ∧
      ∀ i' j, j < 8 → vcomp (setComps r i l h) r i' j = if i' = i then l.getD j 0 % 2 ^ 32 else vcomp h r i' j := by
  rw [setComps, upTo_eq_fromTo]
  have hloop := foldl_fromTo (p := 0) (q := 8) (a := h)
    (g := fun h j => vsetBits r (32 * (8 * i + j)) 32 (l.getD j 0) h)
    (motive := fun k h' => VectorsOnly h h' ∧ (∀ q, q ≠ r → vreg h' q = vreg h q) ∧
      ∀ i' j, j < 8 → vcomp h' r i' j = if i' = i ∧ j < k then l.getD j 0 % 2 ^ 32 else vcomp h r i' j)
    ⟨.refl h, fun _ _ => rfl, fun i' j _ => by simp⟩ fun k h' _ hk ⟨honly, hother, hcomp⟩ =>
      ⟨honly.vsetBits .., fun q hq => ?_, fun i' j hj => ?_⟩
  · obtain ⟨honly, hother, hcomp⟩ := hloop
    refine ⟨honly, hother, fun i' j hj => (hcomp i' j hj).trans ?_⟩
    simp [hj]
  · rw [vreg_vsetBits _ _ _ _ _ hr, if_neg hq, hother q hq]
  · rw [vcomp, vreg_vsetBits _ _ _ _ _ hr, if_pos rfl]
    by_cases hplace : i' = i ∧ j = k
    · obtain ⟨rfl, rfl⟩ := hplace
      rw [bitsGet_bitsSet_self, if_pos ⟨rfl, Nat.lt_succ_self _⟩]
    · rw [bitsGet_bitsSet_of_disjoint _ _ (by omega), ← vcomp, hcomp i' j hj]
      refine ite_congr (propext ?_) (fun _ => rfl) fun _ => rfl
      omega

/-! ## Flag masks (R154) -/

theorem getD_m_msetBit (k i : Nat) (b : Bool) (h : Hart) (j : Nat) :
    (msetBit k i b h).m.toArray.getD j 0 =
      if j = k ∧ j < 16 then bitsSet (h.m.toArray.getD k 0) i 1 b.toNat else h.m.toArray.getD j 0 := by
  by_cases hj : j = k
  · subst hj
    by_cases hsize : j < 16
    · simp [msetBit, hsize, Array.getD_eq_getD_getElem?]
    · have hnone (v : Vector Nat 16) : v.toArray[j]? = none := Array.getElem?_eq_none (by simpa using hsize)
      rw [if_neg (by omega), Array.getD_eq_getD_getElem?, Array.getD_eq_getD_getElem?, hnone, hnone]
  · rw [if_neg fun h => hj h.1]
    simp [msetBit, Array.getD_eq_getD_getElem?, Array.getElem?_setIfInBounds_ne (Ne.symm hj)]

theorem smFlagBit_eq (k i : Nat) (b : Bool) (h : Hart) : ∃ m, smFlagBit k i b h = { h with m := m } := by
  unfold smFlagBit
  split
  · exact ⟨h.m, rfl⟩
  · exact ⟨_, rfl⟩

theorem getD_m_smFlagBit (k i : Nat) (b : Bool) (h : Hart) {j : Nat} (hj : j ≠ k ∨ k = 0) :
    (smFlagBit k i b h).m.toArray.getD j 0 = h.m.toArray.getD j 0 := by
  unfold smFlagBit
  split
  case isTrue => rfl
  case isFalse hk => exact (getD_m_msetBit ..).trans (if_neg fun h => hj.resolve_right hk h.1)

theorem maskBit_smFlagBit (k i : Nat) (b : Bool) (h : Hart) {j : Nat} (hj : j < 16) (i' : Nat) :
    maskBit (smFlagBit k i b h) j i' = if j = k ∧ k ≠ 0 ∧ i' = i then b else maskBit h j i' := by
  by_cases hk : k = 0
  · simp [smFlagBit, hk]
  · rw [smFlagBit, if_neg hk, maskBit, getD_m_msetBit]
    by_cases hjk : j = k
    · subst hjk
      have hj0 : (j == 0) = false := beq_eq_false_iff_ne.mpr hk
      rw [if_pos ⟨rfl, hj⟩, maskBit, hj0, Bool.false_or, Bool.false_or, bitAt, testBit_bitsSet]
      by_cases hi : i' = i
      · subst hi
        cases b <;> simp [hk]
      · rw [if_neg (by omega), if_neg fun h => hi h.2.2, bitAt]
    · rw [if_neg fun h => hjk h.1, if_neg fun h => hjk h.1, maskBit]

/-! ## What one instance writes (R152) -/

/-- A hart that differs from another in vector, mask and matrix registers and `smflags` alone. -/
def SmatOnly (h h' : Hart) : Prop :=
  ∃ v vdirty marks m g smflags,
    h' = { h with v := v, vdirty := vdirty, marks := marks, m := m, g := g, smflags := smflags }

theorem SmatOnly.refl (h : Hart) : SmatOnly h h := ⟨h.v, h.vdirty, h.marks, h.m, h.g, h.smflags, rfl⟩

theorem SmatOnly.trans {h h' h'' : Hart} (ho : SmatOnly h h') (ho' : SmatOnly h' h'') : SmatOnly h h'' := by
  obtain ⟨v, vdirty, marks, m, g, smflags, rfl⟩ := ho
  obtain ⟨v', vdirty', marks', m', g', smflags', rfl⟩ := ho'
  exact ⟨v', vdirty', marks', m', g', smflags', rfl⟩

/-- The entries that an instance writes, and what it gives for them, its components and its flags. -/
abbrev SmWrite := List (Nat × Nat) × SmRes

/-- The registers after an instance has written its components. -/
def smVec (d : SmDest) (i : Nat) (l : List Nat) (h : Hart) : Hart :=
  match d.vec with | some r => setComps r i l h | none => h

/-- The registers after an instance has written what it gives. -/
def smWrite (f : VF) (d : SmDest) (i : Nat) (w : SmWrite) (h : Hart) : Hart :=
  let h' := smVec d i w.2.vec (setEntries f.d.toNat i w.1 (fun pq => ent w.2.mat pq.1 pq.2) h)
  smFlagBit d.mask i w.2.flag { h' with smflags := h'.smflags ||| BitVec.ofNat 9 w.2.fl }

/-- What instance i writes: zeros to the components of a pad, its result where the mask selects it, zeros or nothing
where it does not. -/
def smWritten (c : VConf) (f : VF) (d : SmDest) (res : Nat → SmRes) (h : Hart) (i : Nat) : Option SmWrite :=
  if isPad c i then some ([], {})
  else if maskBit h f.m.toNat i then some (d.shape, res i)
  else if f.mz then some (d.shape, {}) else none

theorem smInstance_eq (c : VConf) (f : VF) (d : SmDest) (comp : Hart → Nat → SmRes) (h : Hart) (i : Nat) :
    smInstance c f d comp h i = (smWritten c f d (comp h) h i).elim h fun w => smWrite f d i w h := by
  have hcases : smInstance c f d comp h i =
      if isPad c i then smFlagBit d.mask i false (smVec d i [] h)
      else if maskBit h f.m.toNat i then smWrite f d i (d.shape, comp h i) h
      else if f.mz then smFlagBit d.mask i false (smVec d i [] (setEntries f.d.toNat i d.shape (fun _ => 0) h))
      else h := rfl
  have hflags (h : Hart) : { h with smflags := h.smflags ||| BitVec.ofNat 9 0 } = h := by simp
  rw [hcases, smWritten]
  split
  · exact congrArg (smFlagBit _ _ _) (hflags _).symm
  · split
    · rfl
    · split
      · exact congrArg (smFlagBit _ _ _) (hflags _).symm
      · rfl

/-- What a write, or none, leaves of an entry, a component and a mask bit of its instance. -/
def entryAfter (f : VF) (w : Option SmWrite) (n p q old : Nat) : Nat :=
  w.elim old fun w => if n = f.d.toNat ∧ (p, q) ∈ w.1 then ent w.2.mat p q % 2 ^ 32 else old

def compAfter (d : SmDest) (w : Option SmWrite) (r j old : Nat) : Nat :=
  w.elim old fun w => if d.vec = some r then w.2.vec.getD j 0 % 2 ^ 32 else old

def flagAfter (d : SmDest) (w : Option SmWrite) (k : Nat) (old : Bool) : Bool :=
  w.elim old fun w => if k = d.mask ∧ d.mask ≠ 0 then w.2.flag else old

/-- Instance i of every register holds what a write, or none, has left. -/
structure InstanceHolds (f : VF) (d : SmDest) (w : Option SmWrite) (h h' : Hart) (i : Nat) : Prop where
  entry : ∀ n p q, n < 8 → p < 6 → q < 6 → gentry h' n i p q = entryAfter f w n p q (gentry h n i p q)
  comp : ∀ r j, j < 8 → vcomp h' r i j = compAfter d w r j (vcomp h r i j)
  bit : ∀ k, k < 16 → maskBit h' k i = flagAfter d w k (maskBit h k i)

/-- Registers that an instruction does not name stay as they are, and sticky flags stay raised. -/
structure SmFrame (f : VF) (d : SmDest) (h h' : Hart) : Prop where
  matrices : ∀ n, n ≠ f.d.toNat ∨ d.shape = [] → h'.g.toArray.getD n 0 = h.g.toArray.getD n 0
  vectors : ∀ r, d.vec ≠ some r → vreg h' r = vreg h r
  masks : ∀ k, k ≠ d.mask ∨ d.mask = 0 → h'.m.toArray.getD k 0 = h.m.toArray.getD k 0
  sticky : ∀ b, h.smflags.getLsbD b = true → h'.smflags.getLsbD b = true

section
variable {f : VF} {d : SmDest} {w w' : Option SmWrite} {h h' h'' : Hart} {i : Nat}

theorem InstanceHolds.refl (f : VF) (d : SmDest) (h : Hart) (i : Nat) : InstanceHolds f d none h h i :=
  ⟨fun _ _ _ _ _ _ => rfl, fun _ _ _ => rfl, fun _ _ => rfl⟩

/-- A write to an instance that nothing was written to before. -/
theorem InstanceHolds.after (ha : InstanceHolds f d none h h' i) (hb : InstanceHolds f d w h' h'' i) :
    InstanceHolds f d w h h'' i where
  entry n p q hn hp hq := (hb.entry n p q hn hp hq).trans (congrArg _ (ha.entry n p q hn hp hq))
  comp r j hj := (hb.comp r j hj).trans (congrArg _ (ha.comp r j hj))
  bit k hk := (hb.bit k hk).trans (congrArg _ (ha.bit k hk))

/-- Writes to other instances leave what an instance holds. -/
theorem InstanceHolds.kept (ha : InstanceHolds f d w h h' i) (hb : InstanceHolds f d none h' h'' i) :
    InstanceHolds f d w h h'' i where
  entry n p q hn hp hq := (hb.entry n p q hn hp hq).trans (ha.entry n p q hn hp hq)
  comp r j hj := (hb.comp r j hj).trans (ha.comp r j hj)
  bit k hk := (hb.bit k hk).trans (ha.bit k hk)

/-- The matrices of an instance that nothing was written to. -/
theorem InstanceHolds.gmat_eq (ha : InstanceHolds f d none h h' i) (n : Nat) : gmat h' n i = gmat h n i := by
  refine gmat_congr fun p q hp hq => ?_
  by_cases hn : n < 8
  · exact ha.entry n p q hn hp hq
  · rw [gentry_of_ge _ (Nat.not_lt.mp hn), gentry_of_ge _ (Nat.not_lt.mp hn)]

theorem SmFrame.refl (f : VF) (d : SmDest) (h : Hart) : SmFrame f d h h :=
  ⟨fun _ _ => rfl, fun _ _ => rfl, fun _ _ => rfl, fun _ => id⟩

theorem SmFrame.trans (ha : SmFrame f d h h') (hb : SmFrame f d h' h'') : SmFrame f d h h'' where
  matrices n hn := (hb.matrices n hn).trans (ha.matrices n hn)
  vectors r hr := (hb.vectors r hr).trans (ha.vectors r hr)
  masks k hk := (hb.masks k hk).trans (ha.masks k hk)
  sticky b hb' := hb.sticky b (ha.sticky b hb')

end

/-- The destination names entries of 6 × 6 matrices and one of the 64 vector registers. -/
structure SmDest.Legal (d : SmDest) : Prop where
  shape : ∀ x ∈ d.shape, x.1 < 6 ∧ x.2 < 6
  vec : ∀ r, d.vec = some r → r < 64

section
variable {f : VF} {d : SmDest} (hd : d.Legal)

include hd in
theorem smVec_spec (i : Nat) (l : List Nat) (h : Hart) :
    VectorsOnly h (smVec d i l h) ∧ (∀ q, d.vec ≠ some q → vreg (smVec d i l h) q = vreg h q) ∧
      ∀ r i' j, j < 8 → vcomp (smVec d i l h) r i' j =
        if d.vec = some r ∧ i' = i then l.getD j 0 % 2 ^ 32 else vcomp h r i' j := by
  cases hvec : d.vec with
  | none => simp [smVec, hvec, VectorsOnly.refl]
  | some r =>
    obtain ⟨honly, hother, hcomp⟩ := setComps_spec (hd.vec r hvec) i l h
    have hrun : smVec d i l h = setComps r i l h := by simp [smVec, hvec]
    rw [hrun]
    refine ⟨honly, fun q hq => hother q fun h => hq (congrArg some h.symm), fun q i' j hj => ?_⟩
    by_cases hq : q = r
    · subst hq
      simpa using hcomp i' j hj
    · rw [if_neg fun h => hq (Option.some.inj h.1).symm, vcomp, vcomp, hother q hq]

include hd in
/-- The write of one instance. -/
theorem smWrite_spec (i : Nat) {w : SmWrite} (hw : w.1 = d.shape ∨ w.1 = []) (h : Hart) :
    SmatOnly h (smWrite f d i w h) ∧ SmFrame f d h (smWrite f d i w h) ∧
      (smWrite f d i w h).smflags = h.smflags ||| BitVec.ofNat 9 w.2.fl ∧
      InstanceHolds f d (some w) h (smWrite f d i w h) i ∧
      ∀ i', i' ≠ i → InstanceHolds f d none h (smWrite f d i w h) i' := by
  have hshape : ∀ x ∈ w.1, x.1 < 6 ∧ x.2 < 6 := by
    rcases hw with hw | hw
    · rw [hw]; exact hd.shape
    · rw [hw]; exact fun x hx => absurd hx List.not_mem_nil
  obtain ⟨g, hg⟩ := setEntries_eq f.d.toNat i w.1 (fun pq => ent w.2.mat pq.1 pq.2) h
  have hentry (n i' p q : Nat) (hn : n < 8) (hp : p < 6) (hq : q < 6) := gentry_setEntries (n := f.d.toNat) (i := i)
    (i' := i') hshape (fun pq => ent w.2.mat pq.1 pq.2) h hn hp hq
  have hregs (k : Nat) (hk : k ≠ f.d.toNat ∨ w.1 = []) := getD_g_setEntries f.d.toNat i w.1
    (fun pq => ent w.2.mat pq.1 pq.2) h hk
  rw [hg] at hentry hregs
  obtain ⟨hvec, hother, hcomp⟩ := smVec_spec hd i w.2.vec { h with g := g }
  obtain ⟨v, vdirty, marks, hv⟩ := hvec
  rw [hv] at hother hcomp
  obtain ⟨m, hm⟩ := smFlagBit_eq d.mask i w.2.flag
    { h with g := g, v := v, vdirty := vdirty, marks := marks, smflags := h.smflags ||| BitVec.ofNat 9 w.2.fl }
  have hbit (k i' : Nat) (hk : k < 16) := maskBit_smFlagBit d.mask i w.2.flag
    { h with g := g, v := v, vdirty := vdirty, marks := marks, smflags := h.smflags ||| BitVec.ofNat 9 w.2.fl } hk i'
  have hmask (k : Nat) (hk : k ≠ d.mask ∨ d.mask = 0) := getD_m_smFlagBit d.mask i w.2.flag
    { h with g := g, v := v, vdirty := vdirty, marks := marks, smflags := h.smflags ||| BitVec.ofNat 9 w.2.fl } hk
  rw [hm] at hbit hmask
  have hrun : smWrite f d i w h = { h with
      g := g, v := v, vdirty := vdirty, marks := marks, m := m
      smflags := h.smflags ||| BitVec.ofNat 9 w.2.fl } := by
    rw [smWrite, hg, hv]
    exact hm
  rw [hrun]
  refine ⟨⟨v, vdirty, marks, m, g, _, rfl⟩, ⟨fun n hn => hregs n ?_, hother, hmask, fun b hb => ?_⟩, rfl,
    ⟨fun n p q hn hp hq => ?_, fun r j hj => ?_, fun k hk => ?_⟩,
    fun i' hi => ⟨fun n p q hn hp hq => ?_, fun r j hj => ?_, fun k hk => ?_⟩⟩
  · refine hn.imp_right fun hnil => ?_
    rcases hw with hw | hw
    · rw [hw, hnil]
    · exact hw
  · rw [BitVec.getLsbD_or, hb, Bool.true_or]
  · exact (hentry n i p q hn hp hq).trans (ite_congr (by simp) (fun _ => rfl) fun _ => rfl)
  · exact (hcomp r i j hj).trans (ite_congr (by simp) (fun _ => rfl) fun _ => rfl)
  · exact (hbit k i hk).trans (ite_congr (by simp) (fun _ => rfl) fun _ => rfl)
  · exact (hentry n i' p q hn hp hq).trans (if_neg fun h => hi h.2.1)
  · exact (hcomp r i' j hj).trans (if_neg fun h => hi h.2)
  · exact (hbit k i' hk).trans (if_neg fun h => hi h.2.2)

/-! ## The loop over the instances (R151, R152) -/

/-- What an instance gives depends on its own matrices and components alone. -/
def InstanceLocal (comp : Hart → Nat → SmRes) : Prop :=
  ∀ h h' i, (∀ n, gmat h' n i = gmat h n i) → (∀ r j, j < 8 → vcomp h' r i j = vcomp h r i j) → comp h' i = comp h i

/-- The instances below k have written what they give, the others nothing; a performed one has raised its flags. -/
structure Performed (c : VConf) (f : VF) (d : SmDest) (res : Nat → SmRes) (h : Hart) (k : Nat) (h' : Hart) : Prop where
  frame : SmFrame f d h h'
  holds : ∀ i, InstanceHolds f d (if i < k then smWritten c f d res h i else none) h h' i
  raised : ∀ i w b, i < k → smWritten c f d res h i = some w → b < 9 → w.2.fl.testBit b = true →
    h'.smflags.getLsbD b = true

/-- The three ways in which an instance writes. -/
theorem smWritten_some {c : VConf} {res : Nat → SmRes} {h : Hart} {i : Nat} {w : SmWrite}
    (hw : smWritten c f d res h i = some w) :
    (isPad c i = true ∧ w = ([], {})) ∨
      (isPad c i = false ∧ maskBit h f.m.toNat i = true ∧ w = (d.shape, res i)) ∨
      (isPad c i = false ∧ maskBit h f.m.toNat i = false ∧ f.mz = true ∧ w = (d.shape, {})) := by
  unfold smWritten at hw
  split at hw
  case isTrue hpad => exact .inl ⟨hpad, (Option.some.inj hw).symm⟩
  case isFalse hpad =>
    have hpad := Bool.eq_false_iff.mpr hpad
    split at hw
    case isTrue hm => exact .inr (.inl ⟨hpad, hm, (Option.some.inj hw).symm⟩)
    case isFalse hm =>
      split at hw
      case isTrue hz => exact .inr (.inr ⟨hpad, Bool.eq_false_iff.mpr hm, hz, (Option.some.inj hw).symm⟩)
      case isFalse => cases hw

theorem smWritten_shape {c : VConf} {res : Nat → SmRes} {h : Hart} {i : Nat} {w : SmWrite}
    (hw : smWritten c f d res h i = some w) : w.1 = d.shape ∨ w.1 = [] := by
  rcases smWritten_some hw with ⟨-, rfl⟩ | ⟨-, -, rfl⟩ | ⟨-, -, -, rfl⟩
  · exact .inr rfl
  · exact .inl rfl
  · exact .inl rfl

theorem smWritten_congr {c : VConf} {res res' : Nat → SmRes} {h h' : Hart} {i : Nat} (hres : res' i = res i)
    (hm : maskBit h' f.m.toNat i = maskBit h f.m.toNat i) :
    smWritten c f d res' h' i = smWritten c f d res h i := by
  rw [smWritten, smWritten, hres, hm]

include hd in
/-- The next instance performs: none of those before it has touched what it reads. -/
theorem Performed.step {c : VConf} {comp : Hart → Nat → SmRes} {h h' : Hart} {k : Nat} (hlocal : InstanceLocal comp)
    (hp : Performed c f d (comp h) h k h') :
    Performed c f d (comp h) h (k + 1) (smInstance c f d comp h' k) ∧ SmatOnly h' (smInstance c f d comp h' k) := by
  have hfresh : InstanceHolds f d none h h' k := by
    have hk := hp.holds k
    rwa [if_neg (Nat.lt_irrefl k)] at hk
  have hres : comp h' k = comp h k := hlocal h h' k hfresh.gmat_eq hfresh.comp
  rw [smInstance_eq, smWritten_congr (res := comp h) (h := h) hres (hfresh.bit _ f.m.isLt)]
  have hother (i : Nat) (hi : i ≠ k) (o : Option SmWrite) :
      (if i < k + 1 then o else none) = if i < k then o else none :=
    ite_congr (propext (by omega)) (fun _ => rfl) fun _ => rfl
  cases hw : smWritten c f d (comp h) h k with
  | none =>
    refine ⟨⟨hp.frame, fun i => ?_, fun i w b hi hwi => ?_⟩, .refl h'⟩
    · by_cases hik : i = k
      · subst hik
        rw [if_pos (Nat.lt_succ_self i), hw]
        exact hfresh
      · rw [hother i hik]
        exact hp.holds i
    · refine hp.raised i w b (Nat.lt_of_le_of_ne (Nat.le_of_lt_succ hi) fun hik => ?_) hwi
      rw [hik, hw] at hwi
      cases hwi
  | some w =>
    obtain ⟨honly, hframe, hflags, hself, hrest⟩ := smWrite_spec (f := f) hd k (smWritten_shape hw) h'
    rw [Option.elim_some]
    refine ⟨⟨hp.frame.trans hframe, fun i => ?_, fun i w' b hi hwi hb hbit => ?_⟩, honly⟩
    · by_cases hik : i = k
      · subst hik
        rw [if_pos (Nat.lt_succ_self i), hw]
        exact hfresh.after hself
      · rw [hother i hik]
        exact (hp.holds i).kept (hrest i hik)
    · by_cases hik : i = k
      · rw [hik, hw] at hwi
        cases hwi
        rw [hflags, BitVec.getLsbD_or, BitVec.getLsbD_ofNat, hbit, decide_eq_true hb, Bool.and_self, Bool.or_true]
      · exact hframe.sticky b (hp.raised i w' b (by omega) hwi hb hbit)

include hd in
/-- Every instance performs on what the registers held when the instruction began. -/
theorem performed_instances (c : VConf) {comp : Hart → Nat → SmRes} (hlocal : InstanceLocal comp) (h : Hart) (n : Nat) :
    SmatOnly h ((upTo n).foldl (smInstance c f d comp) h) ∧
      Performed c f d (comp h) h n ((upTo n).foldl (smInstance c f d comp) h) := by
  have hloop := foldl_fromTo (p := 0) (q := n) (a := h) (g := smInstance c f d comp)
    (motive := fun k h' => SmatOnly h h' ∧ Performed c f d (comp h) h k h')
    ⟨.refl h, .refl f d h, fun i => .refl f d h i, fun i _ _ hi => absurd hi (Nat.not_lt_zero i)⟩
    fun k h' _ _ ⟨honly, hp⟩ => ⟨honly.trans (hp.step hd hlocal).2, (hp.step hd hlocal).1⟩
  rwa [Nat.zero_max, ← upTo_eq_fromTo] at hloop

end

end Sys2Proof.Machine
end

section
/-! A small-matrix instruction that is committed on an empty queue and completes at once (R152 to R156): the entries,
components and flag bits that it leaves. -/

namespace Sys2Proof.Machine

open Claim

/-! ## The next state -/

theorem SmatOnly.registersOnly {h h' : Hart} (ho : SmatOnly h h') (h0 : h.vstart = 0) : RegistersOnly h h' := by
  obtain ⟨v, vdirty, marks, m, g, smflags, rfl⟩ := ho
  refine ⟨v, vdirty, marks, m, g, h.fflags, smflags, h.mxflags, h.readback, ?_⟩
  rw [← h0]

/-- Two harts with the same vector, mask and matrix registers and `smflags`. -/
structure SameSmat (h h' : Hart) : Prop where
  v : h'.v = h.v
  m : h'.m = h.m
  g : h'.g = h.g
  smflags : h'.smflags = h.smflags

theorem gentry_congr {h h' : Hart} (hg : h'.g = h.g) (n i p q : Nat) : gentry h' n i p q = gentry h n i p q := by
  rw [gentry, gentry, hg]

theorem vcomp_congr {h h' : Hart} (hv : h'.v = h.v) (r i j : Nat) : vcomp h' r i j = vcomp h r i j := by
  rw [vcomp, vcomp, vreg_congr hv]

/-- What the instances leave, seen from harts with the same registers. -/
theorem Performed.congr {c : VConf} {f : VF} {d : SmDest} {res : Nat → SmRes} {a b a' b' : Hart} {k : Nat}
    (hp : Performed c f d res a k a') (hab : SameSmat a b) (hab' : SameSmat a' b') : Performed c f d res b k b' := by
  obtain ⟨hv, hm, hg, hfl⟩ := hab
  obtain ⟨hv', hm', hg', hfl'⟩ := hab'
  have hw (i : Nat) : smWritten c f d res b i = smWritten c f d res a i := smWritten_congr rfl (maskBit_congr hm _ i)
  refine ⟨⟨fun n hn => ?_, fun r hr => ?_, fun k hk => ?_, fun x hx => ?_⟩, fun i => ⟨fun n p q hn hp' hq => ?_,
    fun r j hj => ?_, fun k hk => ?_⟩, fun i w x hi hwi hx hbit => ?_⟩
  · rw [hg, hg', hp.frame.matrices n hn]
  · rw [vreg_congr hv, vreg_congr hv', hp.frame.vectors r hr]
  · rw [hm, hm', hp.frame.masks k hk]
  · rw [hfl']
    exact hp.frame.sticky x (hfl ▸ hx)
  · rw [gentry_congr hg', gentry_congr hg, hw, (hp.holds i).entry n p q hn hp' hq]
  · rw [vcomp_congr hv', vcomp_congr hv, hw, (hp.holds i).comp r j hj]
  · rw [maskBit_congr hm', maskBit_congr hm, hw, (hp.holds i).bit k hk]
  · rw [hfl']
    exact hp.raised i w x hi (hw i ▸ hwi) hx hbit

/-- What a small-matrix instruction leaves: its instances have performed on the registers as they were. -/
def SmCompletes (i : Instr) (s : State) (f : VF) (d : SmDest) (res : Nat → SmRes) : Prop :=
  ∃ t, exec i s = .next t ∧ OnlyVector s t ∧ t.h.fflags = s.h.fflags ∧ t.h.readback = s.h.readback ∧
    Performed s.h.conf f d res s.h (instancesOf s.h.conf) t.h

theorem completes_of_smOp {i : Instr} {check : CheckFn} {perf : PerfFn} {s : State} {f : VF} {d : Word → SmDest}
    {comp : Word → Hart → Nat → SmRes} (hexec : exec i s = commitVector i check perf s) (hat : AtOnce i s)
    (hc : check s.h.conf = 0) (h0 : s.h.vstart = 0)
    (hsm : perf s.h.conf (captureA i s) (captureB i s) (aloneAtHead i s) =
      smOp f d comp s.h.conf (captureA i s) (captureB i s) (aloneAtHead i s))
    (hd : (d (captureB i s)).Legal) (hlocal : InstanceLocal (comp (captureB i s))) :
    SmCompletes i s f (d (captureB i s)) (comp (captureB i s) s.h) := by
  obtain ⟨honly, hperf⟩ := performed_instances (f := f) hd s.h.conf hlocal (aloneAtHead i s).h (instancesOf s.h.conf)
  have hregs := honly.registersOnly (h := (aloneAtHead i s).h) h0
  have hrun := exec_eq_completed hexec hat hc
    (hsm.trans (wholeOp_of_vstart_zero _ _ _ _ (t := aloneAtHead i s) h0))
  have hres : comp (captureB i s) (aloneAtHead i s).h = comp (captureB i s) s.h :=
    funext fun k => hlocal _ _ k (fun _ => rfl) fun _ _ _ => rfl
  obtain ⟨v, vdirty, marks, m, g, smflags, hloop⟩ := honly
  refine ⟨_, hrun, onlyVector_completed hat hregs, ?_, ?_, ?_⟩
  · rw [completed_fflags, hloop]; rfl
  · rw [completed_readback, hloop]; rfl
  · rw [hres] at hperf
    exact hperf.congr ⟨rfl, rfl, rfl, rfl⟩ ⟨completed_v .., completed_m .., completed_g .., completed_smflags ..⟩

/-! ## Performed instances and the others (R152) -/

section
variable {s : State} {f : VF} {d : SmDest} {res : Nat → SmRes} {i : Nat}

theorem isPad_eq_false_iff {c : VConf} : isPad c i = false ↔ i < c.vl - c.vlpad :=
  decide_eq_false_iff_not.trans Nat.not_le

theorem lt_instancesOf {c : VConf} : i < instancesOf c ↔ i < c.vl ∧ i < c.lanes := lt_min_iff

theorem lt_instancesOf_of_live {c : VConf} (hlive : i < c.vl - c.vlpad) (hlane : i < c.lanes) : i < instancesOf c :=
  lt_instancesOf.mpr ⟨by omega, hlane⟩

theorem smWritten_of_instance (h : Instance s f.m i) :
    (if i < instancesOf s.h.conf then smWritten s.h.conf f d res s.h i else none) = some (d.shape, res i) := by
  obtain ⟨hlive, hlane, hm⟩ := h
  rw [if_pos (lt_instancesOf_of_live hlive hlane), smWritten, isPad_eq_false_iff.mpr hlive, hm]
  rfl

/-- An instance that the mask leaves out. -/
theorem smWritten_of_unselected (hlive : i < s.h.conf.vl - s.h.conf.vlpad) (hlane : i < s.h.conf.lanes)
    (hm : maskBit s.h f.m.toNat i = false) :
    (if i < instancesOf s.h.conf then smWritten s.h.conf f d res s.h i else none) =
      if f.mz then some (d.shape, {}) else none := by
  rw [if_pos (lt_instancesOf_of_live hlive hlane), smWritten, isPad_eq_false_iff.mpr hlive, hm]
  rfl

theorem smWritten_of_pad (hpad : s.h.conf.vl - s.h.conf.vlpad ≤ i) (hvl : i < s.h.conf.vl)
    (hlane : i < s.h.conf.lanes) :
    (if i < instancesOf s.h.conf then smWritten s.h.conf f d res s.h i else none) = some ([], {}) := by
  have hp : isPad s.h.conf i = true := decide_eq_true hpad
  rw [if_pos (lt_instancesOf.mpr ⟨hvl, hlane⟩), smWritten, hp]
  rfl

/-- Entries are written in performed instances, and under `mz` in those that the mask leaves out. -/
theorem entryAfter_of_unwritten {n p q old : Nat}
    (h : ¬ (n = f.d.toNat ∧ (p, q) ∈ d.shape ∧ i < s.h.conf.vl - s.h.conf.vlpad ∧ i < s.h.conf.lanes ∧
      (maskBit s.h f.m.toNat i = true ∨ f.mz = true))) :
    entryAfter f (if i < instancesOf s.h.conf then smWritten s.h.conf f d res s.h i else none) n p q old = old := by
  by_cases hi : i < instancesOf s.h.conf
  · have hlane : i < s.h.conf.lanes := (lt_instancesOf.mp hi).2
    rw [if_pos hi]
    cases hw : smWritten s.h.conf f d res s.h i with
    | none => rfl
    | some w =>
      refine if_neg fun hin => h ?_
      obtain ⟨hn, hmem⟩ := hin
      rcases smWritten_some hw with ⟨-, rfl⟩ | ⟨hpad, hm, rfl⟩ | ⟨hpad, -, hz, rfl⟩
      · exact absurd hmem List.not_mem_nil
      · exact ⟨hn, hmem, isPad_eq_false_iff.mp hpad, hlane, .inl hm⟩
      · exact ⟨hn, hmem, isPad_eq_false_iff.mp hpad, hlane, .inr hz⟩
  · rw [if_neg hi]
    rfl

variable {t : State} (hp : Performed s.h.conf f d res s.h (instancesOf s.h.conf) t.h)

include hp in
/-- The entries of the destination, by what a performed instance gives for those of the shape. -/
theorem matrixEntries_of_performed {shape : Nat → Nat → Prop} {val : Nat → Nat → Nat → Nat}
    (hshape : ∀ p q, p < 6 → q < 6 → ((p, q) ∈ d.shape ↔ shape p q))
    (hval : ∀ i p q, Instance s f.m i → p < 6 → q < 6 → shape p q → ent (res i).mat p q = val i p q) :
    MatrixEntries s t f shape val := by
  intro n i p q hn hp6 hq6
  have hentry : entry t n i p q = _ := (hp.holds i).entry n.toNat p q hn hp6 hq6
  have hreg : n = f.d ↔ n.toNat = f.d.toNat := BitVec.toNat_inj.symm
  rw [hentry]
  refine ⟨fun hnd hs hinst => ?_, fun hout => entryAfter_of_unwritten ?_, fun hnd hs hlive hlane hm hz => ?_⟩
  · rw [smWritten_of_instance hinst]
    exact (if_pos ⟨hreg.mp hnd, (hshape p q hp6 hq6).mpr hs⟩).trans
      (congrArg (· % 2 ^ 32) (hval i p q hinst hp6 hq6 hs))
  · rwa [← hreg, hshape p q hp6 hq6]
  · rw [smWritten_of_unselected hlive hlane hm, hz]
    exact if_pos ⟨hreg.mp hnd, (hshape p q hp6 hq6).mpr hs⟩

include hp in
/-- The components of a vector destination, by what a performed instance gives. -/
theorem components_of_performed {r : BitVec 6} {val : Nat → Nat → Nat} (hvec : d.vec = some r.toNat)
    (hval : ∀ i j, Instance s f.m i → j < 8 → (res i).vec.getD j 0 = val i j) :
    (∀ i j, Instance s f.m i → j < 8 → comp t r i j = val i j % 2 ^ 32) ∧
      ∀ i j, i < s.h.conf.vl → i < s.h.conf.lanes → j < 8 → ¬ Instance s f.m i →
        comp t r i j = if s.h.conf.vl - s.h.conf.vlpad ≤ i ∨ f.mz = true then 0 else comp s r i j := by
  have hcomp (i j : Nat) (hj : j < 8) : comp t r i j = _ := (hp.holds i).comp r.toNat j hj
  refine ⟨fun i j hinst hj => ?_, fun i j hvl hlane hj hout => ?_⟩
  · rw [hcomp i j hj, smWritten_of_instance hinst]
    exact (if_pos hvec).trans (congrArg (· % 2 ^ 32) (hval i j hinst hj))
  · rw [hcomp i j hj]
    by_cases hpad : s.h.conf.vl - s.h.conf.vlpad ≤ i
    · rw [smWritten_of_pad hpad hvl hlane, if_pos (.inl hpad)]
      exact if_pos hvec
    · have hlive := Nat.not_le.mp hpad
      have hm : maskBit s.h f.m.toNat i = false := Bool.eq_false_iff.mpr fun hm => hout ⟨hlive, hlane, hm⟩
      rw [smWritten_of_unselected hlive hlane hm]
      cases hz : f.mz
      · exact (if_neg fun h => h.elim hpad Bool.false_ne_true).symm
      · exact (if_pos hvec).trans (if_pos (.inr rfl)).symm

end

/-! ## Registers that an instruction does not name -/

theorem vector_ext_getD {n : Nat} {v w : Vector Nat n} (h : ∀ k, v.toArray.getD k 0 = w.toArray.getD k 0) : v = w := by
  refine Vector.ext fun k hk => ?_
  simpa [Array.getD_eq_getD_getElem?, hk] using h k

theorem getElem_eq_of_getD {n : Nat} {v w : Vector Nat n} {k : Fin n}
    (h : v.toArray.getD k.val 0 = w.toArray.getD k.val 0) : v[k] = w[k] := by
  simpa [Array.getD_eq_getD_getElem?, k.isLt] using h

section
variable {f : VF} {d : SmDest} {h h' : Hart} (hf : SmFrame f d h h')

include hf in
theorem SmFrame.v_eq (hd : d.vec = none) : h'.v = h.v :=
  vector_ext_getD fun r => hf.vectors r (by rw [hd]; exact nofun)

include hf in
theorem SmFrame.m_eq (hd : d.mask = 0) : h'.m = h.m := vector_ext_getD fun k => hf.masks k (.inr hd)

include hf in
theorem SmFrame.g_eq (hd : d.shape = []) : h'.g = h.g := vector_ext_getD fun n => hf.matrices n (.inr hd)

end

/-- The flag mask and the sticky flag of SMCHOL, SMLU and SMSOLV (R154). -/
theorem flagBits_of_performed {s t : State} {f : VF} {d : SmDest} {res : Nat → SmRes} {k : Nat} {flag : Nat → Bool}
    (hp : Performed s.h.conf f d res s.h (instancesOf s.h.conf) t.h) (hmask : d.mask = f.c.toNat) (hk : k < 9)
    (hflag : ∀ i, (res i).flag = flag i) (hraise : ∀ i, flag i = true → (res i).fl.testBit k = true) :
    FlagBits s t f k flag := by
  refine ⟨fun hc hc16 i _ => ?_, fun hc => hp.frame.m_eq (by rw [hmask, hc]; rfl), ?_, fun ⟨i, hinst, hf⟩ => ?_⟩
  · have hbit : maskBit t.h f.c.toNat i = _ := (hp.holds i).bit f.c.toNat hc16
    have hnamed : f.c.toNat = d.mask ∧ d.mask ≠ 0 :=
      ⟨hmask.symm, hmask ▸ fun h0 => hc (BitVec.eq_of_toNat_eq h0)⟩
    rw [hbit]
    refine ⟨fun hinst => ?_, fun hout hclear => ?_, fun hout hkeep => ?_⟩
    · rw [smWritten_of_instance hinst]
      exact (if_pos hnamed).trans (hflag i)
    · obtain ⟨hvl, hlane, hclear⟩ := hclear
      by_cases hpad : s.h.conf.vl - s.h.conf.vlpad ≤ i
      · rw [smWritten_of_pad hpad hvl hlane]
        exact if_pos hnamed
      · have hlive := Nat.not_le.mp hpad
        have hm : maskBit s.h f.m.toNat i = false := Bool.eq_false_iff.mpr fun hm => hout ⟨hlive, hlane, hm⟩
        rw [smWritten_of_unselected hlive hlane hm, if_pos (hclear.resolve_left hpad)]
        exact if_pos hnamed
    · by_cases hi : i < instancesOf s.h.conf
      · obtain ⟨hvl, hlane⟩ := lt_instancesOf.mp hi
        have hlive : i < s.h.conf.vl - s.h.conf.vlpad :=
          Nat.not_le.mp fun hpad => hkeep ⟨hvl, hlane, .inl hpad⟩
        have hm : maskBit s.h f.m.toNat i = false := Bool.eq_false_iff.mpr fun hm => hout ⟨hlive, hlane, hm⟩
        rw [smWritten_of_unselected hlive hlane hm, if_neg fun hz => hkeep ⟨hvl, hlane, .inr hz⟩]
        rfl
      · rw [if_neg hi]
        rfl
  · refine BitVec.eq_of_getLsbD_eq fun b _ => ?_
    rw [BitVec.getLsbD_and]
    cases hb : s.h.smflags.getLsbD b
    · rfl
    · rw [hp.frame.sticky b hb, Bool.and_self]
  · have hw := smWritten_of_instance (d := d) (res := res) hinst
    obtain ⟨hlive, hlane, -⟩ := hinst
    have hi := lt_instancesOf_of_live hlive hlane
    rw [if_pos hi] at hw
    exact hp.raised i _ k hi hw hk (hraise i hf)

/-! ## The checks that every small-matrix instruction shares (R54, R155) -/

theorem shapeBad_eq_false {x : Nat} (h : 1 ≤ x ∧ x ≤ 6) : shapeBad x = false := by
  have h0 : x ≠ 0 := by omega
  have h7 : x ≠ 7 := by omega
  simp [shapeBad, h0, h7]

section
variable {i : Instr} {s : State} {f : VF} (hl : ShapeLegal i s f)

include hl in
theorem shape_of_legal :
    (1 ≤ smRows f ∧ smRows f ≤ 6) ∧ (1 ≤ smCols f ∧ smCols f ≤ 6) ∧ 1 ≤ smInner f ∧ smInner f ≤ 6 := by
  obtain ⟨hshape, -⟩ := hl
  exact ⟨hshape _ (by simp), hshape _ (by simp), hshape _ (by simp)⟩

include hl in
theorem smBad_of_legal : smBad f = false := by
  obtain ⟨hr, hc, hk⟩ := shape_of_legal hl
  rw [smBad, shapeBad_eq_false hr, shapeBad_eq_false hc, shapeBad_eq_false hk]
  rfl

include hl in
theorem checks_of_shape : checks (smBad f) (indexBad i s.h.conf) = 0 := checks_eq_zero.mpr ⟨smBad_of_legal hl, hl.2⟩

theorem smBadV_of_legal (hl : ShapeLegal i s f) (hfmt : fmtOf s = 0) : smBadV f s.h.conf = false := by
  have hfp : (confFmt s.h.conf != 0) = false := bne_eq_false_iff_eq.mpr hfmt
  rw [smBadV, smBad_of_legal hl, hfp]
  rfl

theorem checks_of_shapeV (hl : ShapeLegal i s f) (hfmt : fmtOf s = 0) :
    checks (smBadV f s.h.conf) (indexBad i s.h.conf) = 0 :=
  checks_eq_zero.mpr ⟨smBadV_of_legal hl hfmt, hl.2⟩

end

/-! ## Instructions with one kind of destination -/

/-- An instruction that writes entries of its destination matrix alone. -/
theorem givesEntries_of_performed {i : Instr} {s : State} {f : VF} {d : SmDest} {res : Nat → SmRes}
    {shape : Nat → Nat → Prop} {val : Nat → Nat → Nat → Nat} (hcompletes : SmCompletes i s f d res)
    (hvec : d.vec = none) (hmask : d.mask = 0) (hshape : ∀ p q, p < 6 → q < 6 → ((p, q) ∈ d.shape ↔ shape p q))
    (hval : ∀ i p q, p < 6 → q < 6 → shape p q → ent (res i).mat p q = val i p q) :
    GivesEntries i s f shape val := by
  obtain ⟨t, ht, honly, hfl, hrb, hp⟩ := hcompletes
  exact ⟨t, ht, honly, hp.frame.v_eq hvec, hp.frame.m_eq hmask, hfl, hrb,
    matrixEntries_of_performed hp hshape fun i p q _ => hval i p q⟩

/-- An instruction that writes components of its destination vector alone. -/
theorem givesComponents_of_performed {i : Instr} {s : State} {f : VF} {d : SmDest} {res : Nat → SmRes}
    {val : Nat → Nat → Nat} (hcompletes : SmCompletes i s f d res) (hvec : d.vec = some f.d.toNat)
    (hshape : d.shape = []) (hval : ∀ i j, j < 8 → (res i).vec.getD j 0 = val i j) : GivesComponents i s f val := by
  obtain ⟨t, ht, honly, hfl, hrb, hp⟩ := hcompletes
  refine ⟨t, ht, honly, hp.frame.g_eq hshape, hfl, hrb, fun r hr => hp.frame.vectors r ?_,
    components_of_performed hp hvec fun i j _ => hval i j⟩
  rw [hvec]
  exact fun h => hr (Option.some.inj h).symm

end Sys2Proof.Machine
end

section
/-! The small-matrix instructions without a factorisation (R158, R159): the matrix, or the components, that a performed
instance gives. -/

namespace Sys2Proof.Machine

open Claim

/-! ## Matrices as lists of entries -/

@[simp] theorem length_setEnt (m : List Nat) (p q x : Nat) : (setEnt m p q x).length = m.length := List.length_set

@[simp] theorem length_zeroMat : zeroMat.length = 36 := List.length_replicate

@[simp] theorem length_gmat (h : Hart) (n i : Nat) : (gmat h n i).length = 36 := by simp [gmat, upTo]

theorem ent_zeroMat (p q : Nat) : ent zeroMat p q = 0 := by
  rw [ent, zeroMat, List.getD_eq_getElem?_getD, List.getElem?_replicate]
  split <;> rfl

theorem ent_setEnt {m : List Nat} (hm : m.length = 36) {p q p' q' : Nat} (x : Nat) (hp : p < 6) (hq : q < 6)
    (hq' : q' < 6) : ent (setEnt m p q x) p' q' = if p' = p ∧ q' = q then x else ent m p' q' := by
  rw [ent, ent, setEnt, List.getD_eq_getElem?_getD, List.getD_eq_getElem?_getD, List.getElem?_set]
  by_cases heq : p' = p ∧ q' = q
  · obtain ⟨rfl, rfl⟩ := heq
    have hlt : 6 * p' + q' < m.length := by omega
    simp [hlt]
  · have hne : 6 * p + q ≠ 6 * p' + q' := by omega
    rw [if_neg hne, if_neg heq]

/-- The matrix with some entries set, each to its value. -/
def fillMat (shape : List (Nat × Nat)) (val : Nat × Nat → Nat) (m : List Nat) : List Nat :=
  shape.foldl (fun m pq => setEnt m pq.1 pq.2 (val pq)) m

theorem fillMat_spec {shape : List (Nat × Nat)} (hshape : ∀ x ∈ shape, x.1 < 6 ∧ x.2 < 6) (val : Nat × Nat → Nat)
    {m : List Nat} (hm : m.length = 36) :
    (fillMat shape val m).length = 36 ∧
      ∀ p q, q < 6 → ent (fillMat shape val m) p q = if (p, q) ∈ shape then val (p, q) else ent m p q := by
  induction shape generalizing m with
  | nil => exact ⟨hm, fun _ _ _ => rfl⟩
  | cons x shape ih =>
    obtain ⟨hx1, hx2⟩ := hshape x List.mem_cons_self
    obtain ⟨hlen, hent⟩ := ih (fun y hy => hshape y (List.mem_cons_of_mem _ hy)) (m := setEnt m x.1 x.2 (val x))
      ((length_setEnt ..).trans hm)
    refine ⟨hlen, fun p q hq => (hent p q hq).trans ?_⟩
    rw [ent_setEnt hm _ hx1 hx2 hq]
    by_cases hx : (p, q) = x
    · subst hx
      simp
    · have hx' : ¬ (p = x.1 ∧ q = x.2) := fun h => hx (Prod.ext h.1 h.2)
      simp only [if_neg hx', List.mem_cons, hx, false_or]

theorem mem_block {r c p q : Nat} : (p, q) ∈ block r c ↔ p < r ∧ q < c := mem_pairsBelow

theorem block_fits {r c : Nat} (hr : r ≤ 6) (hc : c ≤ 6) : ∀ x ∈ block r c, x.1 < 6 ∧ x.2 < 6 := fun x hx => by
  obtain ⟨hp, hq⟩ := mem_block.mp hx
  exact ⟨hp.trans_le hr, hq.trans_le hc⟩

/-- A block of a matrix, filled. -/
theorem ent_fillMat_block {r c : Nat} (hr : r ≤ 6) (hc : c ≤ 6) (val : Nat × Nat → Nat) {p q : Nat} (hp : p < r)
    (hq : q < c) : ent (fillMat (block r c) val zeroMat) p q = val (p, q) := by
  obtain ⟨-, hent⟩ := fillMat_spec (block_fits hr hc) val length_zeroMat
  rw [hent p q (hq.trans_le hc), if_pos (mem_block.mpr ⟨hp, hq⟩)]

theorem buildMat_fst (shape : List (Nat × Nat)) (g : Nat → Nat → Nat × Nat) (m : List Nat) :
    (buildMat shape g m).1 = fillMat shape (fun pq => (g pq.1 pq.2).1) m :=
  (List.foldl_hom Prod.fst fun _ _ => rfl).symm

theorem ent_buildMat_block {r c : Nat} (hr : r ≤ 6) (hc : c ≤ 6) (g : Nat → Nat → Nat × Nat) {p q : Nat} (hp : p < r)
    (hq : q < c) : ent (buildMat (block r c) g zeroMat).1 p q = (g p q).1 := by
  rw [buildMat_fst, ent_fillMat_block hr hc _ hp hq]

theorem getD_map_upTo (g : Nat → Nat) (n j : Nat) : ((upTo n).map g).getD j 0 = if j < n then g j else 0 := by
  by_cases hj : j < n
  · simp [upTo, hj]
  · simp [upTo, hj]

/-! ## Instructions that write a block -/

theorem SmDest.Legal.of_block {r c : Nat} (hr : r ≤ 6) (hc : c ≤ 6) (mask : Nat) :
    SmDest.Legal { shape := block r c, mask := mask } := ⟨block_fits hr hc, nofun⟩

theorem SmDest.Legal.of_vec (r : BitVec 6) (mask : Nat) : SmDest.Legal { vec := some r.toNat, mask := mask } :=
  ⟨fun _ hx => absurd hx List.not_mem_nil, fun _ hq => Option.some.inj hq ▸ r.isLt⟩

section
variable {i : Instr} {s : State} {f : VF} (h0 : s.h.vstart = 0) (hat : AtOnce i s)

include h0 hat in
/-- An instruction that gives each entry of a block. -/
theorem givesEntries_of_block {check : CheckFn} {r c : Nat} {comp : Word → Hart → Nat → SmRes}
    {val : Nat → Nat → Nat → Nat}
    (hexec : exec i s = commitVector i check (smOp f (fun _ => { shape := block r c }) comp) s)
    (hcheck : check s.h.conf = 0) (hr : r ≤ 6) (hc : c ≤ 6) (hlocal : InstanceLocal (comp (captureB i s)))
    (hval : ∀ k p q, p < r → q < c → ent (comp (captureB i s) s.h k).mat p q = val k p q) :
    GivesEntries i s f (fun p q => p < r ∧ q < c) val :=
  givesEntries_of_performed (completes_of_smOp hexec hat hcheck h0 rfl (.of_block hr hc 0) hlocal) rfl rfl
    (fun _ _ _ _ => mem_block) fun k p q _ _ hpq => hval k p q hpq.1 hpq.2

variable (hl : ShapeLegal i s f)

include h0 hat hl in
/-- An instruction that gives each entry of the block of its shape by itself, from matrices that it reads. -/
theorem givesEntries_of_buildMat {check : CheckFn} {comp : Word → Hart → Nat → SmRes}
    {g : Nat → Nat → Nat → Nat × Nat} {val : Nat → Nat → Nat → Nat}
    (hexec : exec i s = commitVector i check (smOp f (fun _ => { shape := block (smRows f) (smCols f) }) comp) s)
    (hcheck : check s.h.conf = 0) (hlocal : InstanceLocal (comp (captureB i s)))
    (hcomp : ∀ k, (comp (captureB i s) s.h k).mat = (buildMat (block (smRows f) (smCols f)) (g k) zeroMat).1)
    (hval : ∀ k p q, p < smRows f → q < smCols f → (g k p q).1 = val k p q) :
    GivesEntries i s f (fun p q => p < smRows f ∧ q < smCols f) val := by
  obtain ⟨⟨-, hr⟩, ⟨-, hc⟩, -⟩ := shape_of_legal hl
  refine givesEntries_of_block h0 hat hexec hcheck hr hc hlocal fun k p q hp hq => ?_
  rw [hcomp, ent_buildMat_block hr hc _ hp hq, hval k p q hp hq]

end

/-! ## Identity, sum, scaling and transpose (R158) -/

section
variable {s : State} {f : VF} (h0 : s.h.vstart = 0)

/-- The entries that an instruction reads, as the statements write them. -/
theorem ent_gmat_eq_entry (s : State) (n : BitVec 6) (i : Nat) {p q : Nat} (hp : p < 6) (hq : q < 6) :
    ent (gmat s.h n.toNat i) p q = entry s n i p q := ent_gmat s.h n.toNat i hp hq

include h0 in
theorem givesEntries_smid (hat : AtOnce (.smid f) s) (hl : ShapeLegal (.smid f) s f) :
    GivesEntries (.smid f) s f (fun p q => p < smRows f ∧ q < smCols f)
      (fun _ p q => if p = q then 0x3F800000 else 0) := by
  obtain ⟨⟨-, hr⟩, ⟨-, hc⟩, -⟩ := shape_of_legal hl
  refine givesEntries_of_block h0 hat rfl (checks_of_shape hl) hr hc (fun _ _ _ _ _ => rfl) fun k p q hp hq => ?_
  have hdiag : ∀ x ∈ (upTo 6).map fun p => (p, p), x.1 < 6 ∧ x.2 < 6 := by decide
  obtain ⟨-, hent⟩ := fillMat_spec hdiag (fun _ => 0x3F800000) length_zeroMat
  have hrun : (upTo 6).foldl (fun m p => setEnt m p p 0x3F800000) zeroMat =
      fillMat ((upTo 6).map fun p => (p, p)) (fun _ => 0x3F800000) zeroMat := by rw [fillMat, List.foldl_map]
  refine (congrArg (ent · p q) hrun).trans ((hent p q (hq.trans_le hc)).trans ?_)
  refine ite_congr (propext ?_) (fun _ => rfl) fun _ => ent_zeroMat p q
  have hp6 : p < 6 := hp.trans_le hr
  simp only [upTo, List.mem_map, List.mem_range, Prod.mk.injEq]
  exact ⟨fun ⟨a, _, hap, haq⟩ => hap.symm.trans haq, fun h => ⟨p, hp6, rfl, h⟩⟩

include h0 in
theorem givesEntries_smadd (hat : AtOnce (.smadd f) s) (hl : ShapeLegal (.smadd f) s f) :
    GivesEntries (.smadd f) s f (fun p q => p < smRows f ∧ q < smCols f)
      (fun i p q => (fAdd 0 (entry s f.a i p q) (entry s f.b i p q) 0 0).1) := by
  obtain ⟨⟨-, hr⟩, ⟨-, hc⟩, -⟩ := shape_of_legal hl
  refine givesEntries_of_buildMat h0 hat hl rfl (checks_of_shape hl) (fun h h' i hg _ => ?_) (fun _ => rfl)
    fun k p q hp hq => ?_
  · simp only [hg]
  · have hent (n : BitVec 6) := ent_gmat_eq_entry s n k (hp.trans_le hr) (hq.trans_le hc)
    rw [hent, hent]

include h0 in
theorem givesEntries_smscl (hat : AtOnce (.smscl f) s) (hl : ShapeLegal (.smscl f) s f) :
    GivesEntries (.smscl f) s f (fun p q => p < smRows f ∧ q < smCols f)
      (fun i p q => (fMul 0 ((readS s (sregOf f.b)).toNat % 2 ^ 32) (entry s f.a i p q) 0 0).1) := by
  obtain ⟨⟨-, hr⟩, ⟨-, hc⟩, -⟩ := shape_of_legal hl
  have hcap : captureB (.smscl f) s = readS s (sregOf f.b) := rfl
  refine givesEntries_of_buildMat h0 hat hl rfl (checks_of_shape hl) (fun h h' i hg _ => ?_) (fun _ => rfl)
    fun k p q hp hq => ?_
  · simp only [hg]
  · rw [hcap, ent_gmat_eq_entry _ _ _ (hp.trans_le hr) (hq.trans_le hc)]

include h0 in
theorem givesEntries_smtr (hat : AtOnce (.smtr f) s) (hl : ShapeLegal (.smtr f) s f) :
    GivesEntries (.smtr f) s f (fun p q => p < smCols f ∧ q < smRows f) (fun i p q => entry s f.a i q p) := by
  obtain ⟨⟨-, hr⟩, ⟨-, hc⟩, -⟩ := shape_of_legal hl
  refine givesEntries_of_block h0 hat rfl (checks_of_shape hl) hc hr (fun h h' i hg _ => ?_) fun k p q hp hq => ?_
  · simp only [hg]
  · exact (ent_fillMat_block hc hr (fun pq => ent (gmat s.h f.a.toNat k) pq.2 pq.1) hp hq).trans
      (ent_gmat_eq_entry _ _ _ (hq.trans_le hr) (hp.trans_le hc))

/-! ## Rows (R158) -/

/-- A row index below 6 does not fault (R155). -/
theorem rowIndexed_of_lt (p : PerfFn) (c : VConf) (a b : Word) (s : State) (hb : b.toNat < 6) :
    rowIndexed p c a b s = p c a b s := if_neg (Nat.not_le.mpr hb)

include h0 in
theorem givesEntries_smput (hat : AtOnce (.smput f) s) (hl : ShapeLegal (.smput f) s f) (hfmt : fmtOf s = 0)
    (hrow : (readS s (sregOf f.b)).toNat < 6) :
    GivesEntries (.smput f) s f (fun p q => p = (readS s (sregOf f.b)).toNat ∧ q < smCols f)
      (fun i _ q => comp s f.a i q) := by
  obtain ⟨-, ⟨-, hc⟩, -⟩ := shape_of_legal hl
  have hmem (p q : Nat) : (p, q) ∈ (upTo (smCols f)).map (fun q => ((readS s (sregOf f.b)).toNat, q)) ↔
      p = (readS s (sregOf f.b)).toNat ∧ q < smCols f := by
    simp only [upTo, List.mem_map, List.mem_range, Prod.mk.injEq]
    exact ⟨fun ⟨a, ha, hap, haq⟩ => ⟨hap.symm, haq ▸ ha⟩, fun ⟨hp, hq⟩ => ⟨q, hq, hp.symm, rfl⟩⟩
  have hfits : ∀ x ∈ (upTo (smCols f)).map (fun q => ((readS s (sregOf f.b)).toNat, q)), x.1 < 6 ∧ x.2 < 6 := by
    intro x hx
    obtain ⟨hp, hq⟩ := (hmem x.1 x.2).mp hx
    omega
  have hcompletes := completes_of_smOp (i := .smput f) rfl hat (checks_of_shapeV hl hfmt) h0
    (rowIndexed_of_lt _ _ _ _ _ hrow) ⟨hfits, nofun⟩ (fun h h' i _ hv => ?_)
  · refine givesEntries_of_performed hcompletes rfl rfl (fun p q _ _ => hmem p q) fun i p q _ hq hpq => ?_
    obtain ⟨-, hent⟩ := fillMat_spec hfits (fun pq => vcomp s.h f.a.toNat i pq.2) length_zeroMat
    have hrun : (upTo (smCols f)).foldl
          (fun m q => setEnt m (readS s (sregOf f.b)).toNat q (vcomp s.h f.a.toNat i q)) zeroMat =
        fillMat ((upTo (smCols f)).map fun q => ((readS s (sregOf f.b)).toNat, q))
          (fun pq => vcomp s.h f.a.toNat i pq.2) zeroMat := by
      rw [fillMat, List.foldl_map]
    exact (congrArg (ent · p q) hrun).trans ((hent p q hq).trans (if_pos ((hmem p q).mpr hpq)))
  · refine congrArg (fun m => ({ mat := m } : SmRes)) (List.foldl_ext _ _ _ fun m q hq => ?_)
    rw [hv _ _ ((List.mem_range.mp hq).trans_le (hc.trans (by decide)))]

include h0 in
theorem givesComponents_smget (hat : AtOnce (.smget f) s) (hl : ShapeLegal (.smget f) s f) (hfmt : fmtOf s = 0)
    (hrow : (readS s (sregOf f.b)).toNat < 6) :
    GivesComponents (.smget f) s f
      (fun i j => if j < smCols f then entry s f.a i (readS s (sregOf f.b)).toNat j else 0) := by
  obtain ⟨-, ⟨-, hc⟩, -⟩ := shape_of_legal hl
  have hcompletes := completes_of_smOp (i := .smget f) rfl hat (checks_of_shapeV hl hfmt) h0
    (rowIndexed_of_lt _ _ _ _ _ hrow) (.of_vec f.d 0) (fun h h' i hg _ => ?_)
  · refine givesComponents_of_performed hcompletes rfl rfl fun i j _ => (getD_map_upTo ..).trans ?_
    refine ite_congr rfl (fun hj => ?_) fun _ => rfl
    exact ent_gmat_eq_entry _ _ _ hrow (hj.trans_le hc)
  · simp only [hg]

/-! ## Products (R159) -/

/-- The pairs of a row of the matrix in a and a column of that in b. -/
def productTerms (s : State) (f : VF) (i p q : Nat) : List (Nat × Nat) :=
  (List.range (smInner f)).map fun k => (entry s f.a i p k, entry s f.b i k q)

theorem productTerms_eq (hk : smInner f ≤ 6) (i : Nat) {p q : Nat} (hp : p < 6) (hq : q < 6) :
    (upTo (smInner f)).map (fun k => (ent (gmat s.h f.a.toNat i) p k, ent (gmat s.h f.b.toNat i) k q)) =
      productTerms s f i p q := by
  refine List.map_congr_left fun k hkmem => ?_
  have hk6 : k < 6 := (List.mem_range.mp hkmem).trans_le hk
  rw [ent_gmat_eq_entry _ _ _ hp hk6, ent_gmat_eq_entry _ _ _ hk6 hq]

/-- Entry (p, q) of a product, added to that of the destination or not. -/
def productEntry (f : VF) (accumulate : Bool) (h : Hart) (i p q : Nat) : Nat × Nat :=
  dot ((upTo (smInner f)).map fun k => (ent (gmat h f.a.toNat i) p k, ent (gmat h f.b.toNat i) k q))
    (if accumulate then some (ent (gmat h f.d.toNat i) p q) else none)

theorem smProduct_mat (f : VF) (accumulate : Bool) (h : Hart) (i : Nat) :
    (smProduct f accumulate h i).mat =
      (buildMat (block (smRows f) (smCols f)) (productEntry f accumulate h i) zeroMat).1 := rfl

theorem instanceLocal_smProduct (accumulate : Bool) : InstanceLocal (smProduct f accumulate) := fun h h' i hg _ => by
  simp only [smProduct, hg]

include h0 in
theorem givesEntries_smmul (hat : AtOnce (.smmul f) s) (hl : ShapeLegal (.smmul f) s f) :
    GivesEntries (.smmul f) s f (fun p q => p < smRows f ∧ q < smCols f)
      (fun i p q => (dot (productTerms s f i p q) none).1) := by
  obtain ⟨⟨-, hr⟩, ⟨-, hc⟩, -, hk⟩ := shape_of_legal hl
  refine givesEntries_of_buildMat h0 hat hl rfl (checks_of_shape hl) (instanceLocal_smProduct false)
    (smProduct_mat f false s.h) fun i p q hp hq => ?_
  rw [productEntry, productTerms_eq hk i (hp.trans_le hr) (hq.trans_le hc)]
  rfl

include h0 in
/-- SMMA has the fields of SMMUL. -/
theorem givesEntries_smma (hat : AtOnce (.smmul f) s) (hl : ShapeLegal (.smmul f) s f) :
    GivesEntries (.smma f) s f (fun p q => p < smRows f ∧ q < smCols f)
      (fun i p q => (dot (productTerms s f i p q) (some (entry s f.d i p q))).1) := by
  obtain ⟨⟨-, hr⟩, ⟨-, hc⟩, -, hk⟩ := shape_of_legal hl
  refine givesEntries_of_buildMat (i := .smma f) h0 hat hl rfl (checks_of_shape hl) (instanceLocal_smProduct true)
    (smProduct_mat f true s.h) fun i p q hp hq => ?_
  rw [productEntry, productTerms_eq hk i (hp.trans_le hr) (hq.trans_le hc), if_pos rfl,
    ent_gmat_eq_entry _ _ _ (hp.trans_le hr) (hq.trans_le hc)]

include h0 in
theorem givesComponents_smmv (hat : AtOnce (.smmv f) s) (hl : ShapeLegal (.smmv f) s f) (hfmt : fmtOf s = 0) :
    GivesComponents (.smmv f) s f (fun i j => (if j < smRows f
      then dot ((List.range (smCols f)).map fun q => (entry s f.a i j q, comp s f.b i q)) none else (0, 0)).1) := by
  obtain ⟨⟨-, hr⟩, ⟨-, hc⟩, -⟩ := shape_of_legal hl
  have hcompletes := completes_of_smOp (i := .smmv f) rfl hat (checks_of_shapeV hl hfmt) h0 rfl
    (.of_vec f.d 0) (fun h h' i hg hv => ?_)
  · refine givesComponents_of_performed hcompletes rfl rfl fun i j _ => ?_
    refine (congrArg (List.getD · j 0) List.map_map).trans ((getD_map_upTo ..).trans ?_)
    by_cases hj : j < smRows f
    · rw [if_pos hj, if_pos hj]
      refine congrArg (fun l => (dot l none).1) (List.map_congr_left fun q hq => ?_)
      rw [ent_gmat_eq_entry _ _ _ (hj.trans_le hr) ((List.mem_range.mp hq).trans_le hc)]
      rfl
    · rw [if_neg hj, if_neg hj]
  · have hterms (p : Nat) : (upTo (smCols f)).map (fun q => (ent (gmat h f.a.toNat i) p q, vcomp h' f.b.toNat i q)) =
        (upTo (smCols f)).map (fun q => (ent (gmat h f.a.toNat i) p q, vcomp h f.b.toNat i q)) :=
      List.map_congr_left fun q hq => by
        rw [hv _ _ ((List.mem_range.mp hq).trans_le (hc.trans (by decide)))]
    simp only [hg, hterms]

end

end Sys2Proof.Machine

namespace Sys2Proof

open Machine Claim

/-- Settles O33: each instruction is a loop over instances that read their own operands alone. -/
theorem matrixArithmetic : Obligations.MatrixArithmetic := by
  unfold Obligations.MatrixArithmetic
  intro s f h0 hfits r c blk A B row flat
  exact ⟨givesEntries_smid h0, givesEntries_smadd h0, givesEntries_smscl h0, givesEntries_smtr h0,
    givesEntries_smput h0, givesComponents_smget h0,
    fun hat hl => ⟨givesEntries_smmul h0 hat hl, givesEntries_smma h0 hat hl⟩, givesComponents_smmv h0⟩

end Sys2Proof
end

section
/-! Cholesky factors (R160): one column from those before it, and the column where the factor stops. -/

namespace Sys2Proof.Machine

open Claim

/-! ## One column -/

/-- A(x, j) less the products of rows x and j of L, column by column below j. -/
def choleskyRest (A L : Nat → Nat → Nat) (x j : Nat) : Nat :=
  lessProducts ((List.range j).map fun i => (L x i, L j i)) (A x j)

theorem choleskyRest_congr {A A' L L' : Nat → Nat → Nat} {x j : Nat} (hA : A' x j = A x j)
    (hL : ∀ p i, i < j → L' p i = L p i) : choleskyRest A' L' x j = choleskyRest A L x j := by
  rw [choleskyRest, choleskyRest, hA]
  refine congrArg (lessProducts · _) (List.map_congr_left fun i hi => ?_)
  rw [hL x i (List.mem_range.mp hi), hL j i (List.mem_range.mp hi)]

/-- The chain of fused multiply-adds that computes it. -/
theorem chain_eq_choleskyRest (a l : List Nat) (x j : Nat) :
    (chain ((upTo j).map fun k => (fNeg 0 (ent l x k), ent l j k)) (ent a x j, 0)).1 =
      choleskyRest (ent a) (ent l) x j := by
  rw [choleskyRest, lessProducts, List.map_map]
  rfl

theorem isPositive_iff {t : Nat} :
    isPositive t ↔ (isNanX (decodeX 0 t) || decide (cmpX (decodeX 0 t) (xZero false) ≤ 0)) = false := by
  rw [Bool.or_eq_false_iff, decide_eq_false_iff_not, not_le, isPositive]

/-- One entry below the diagonal of column j, divided by the diagonal's r. -/
def cholBelow (a : List Nat) (j r : Nat) (acc : List Nat × Nat × Option Nat) (y : Nat) : List Nat × Nat × Option Nat :=
  let t := chain ((upTo j).map fun k => (fNeg 0 (ent acc.1 y k), ent acc.1 j k)) (ent a y j, 0)
  let q := rd (divX (decodeX 0 t.1) (decodeX 0 r))
  (setEnt acc.1 y j q.1, acc.2.1 ||| t.2 ||| q.2, none)

theorem cholBelow_fst (a : List Nat) (j r : Nat) (acc : List Nat × Nat × Option Nat) (y : Nat) :
    (cholBelow a j r acc y).1 = setEnt acc.1 y j (quotient (choleskyRest (ent a) (ent acc.1) y j) r) := by
  rw [← chain_eq_choleskyRest]
  rfl

theorem cholColumn_none (n : Nat) (a l : List Nat) (fl j : Nat) :
    ∃ fl' fl'', cholColumn n a (l, fl, none) j =
      if isNanX (decodeX 0 (choleskyRest (ent a) (ent l) j j)) ||
          decide (cmpX (decodeX 0 (choleskyRest (ent a) (ent l) j j)) (xZero false) ≤ 0) then (l, fl', some j)
      else (fromTo (j + 1) n).foldl (cholBelow a j (Claim.rootOf (choleskyRest (ent a) (ent l) j j)))
        (setEnt l j j (Claim.rootOf (choleskyRest (ent a) (ent l) j j)), fl'', none) := by
  rw [← chain_eq_choleskyRest]
  exact ⟨_, _, rfl⟩

/-- What column j becomes from row j on. -/
def cholEntry (A L : Nat → Nat → Nat) (j p : Nat) : Nat :=
  if p = j then Claim.rootOf (choleskyRest A L j j)
  else quotient (choleskyRest A L p j) (Claim.rootOf (choleskyRest A L j j))

section
variable {n j : Nat} {a l : List Nat} (hn : n ≤ 6) (hj : j < n) (hl : l.length = 36)

include hn hj hl in
theorem cholBelow_loop (fl : Nat) :
    let r := (fromTo (j + 1) n).foldl (cholBelow a j (Claim.rootOf (choleskyRest (ent a) (ent l) j j)))
      (setEnt l j j (Claim.rootOf (choleskyRest (ent a) (ent l) j j)), fl, none)
    r.2.2 = none ∧ r.1.length = 36 ∧ ∀ p q, q < 6 →
      ent r.1 p q = if q = j ∧ j ≤ p ∧ p < n then cholEntry (ent a) (ent l) j p else ent l p q := by
  have hloop := foldl_fromTo (p := j + 1) (q := n)
    (g := cholBelow a j (Claim.rootOf (choleskyRest (ent a) (ent l) j j)))
    (a := (setEnt l j j (Claim.rootOf (choleskyRest (ent a) (ent l) j j)), fl, none))
    (motive := fun y acc => acc.2.2 = none ∧ acc.1.length = 36 ∧ ∀ p q, q < 6 →
      ent acc.1 p q = if q = j ∧ j ≤ p ∧ p < y then cholEntry (ent a) (ent l) j p else ent l p q)
    ⟨rfl, (length_setEnt ..).trans hl, fun p q hq => ?_⟩ fun y acc hlo hhi ⟨_, hlen, hent⟩ =>
      ⟨rfl, ?_, fun p q hq => ?_⟩
  · rwa [max_eq_right hj] at hloop
  · rw [ent_setEnt hl _ (by omega) (by omega) hq]
    by_cases hpq : p = j ∧ q = j
    · obtain ⟨rfl, rfl⟩ := hpq
      rw [if_pos ⟨rfl, rfl⟩, if_pos (by omega), cholEntry, if_pos rfl]
    · rw [if_neg hpq, if_neg (by omega)]
  · rw [cholBelow_fst, length_setEnt, hlen]
  · have hbefore (p i : Nat) (hi : i < j) : ent acc.1 p i = ent l p i := by
      rw [hent p i (by omega), if_neg (by omega)]
    rw [cholBelow_fst, ent_setEnt hlen _ (by omega) (by omega) hq, choleskyRest_congr rfl hbefore]
    by_cases hpq : p = y ∧ q = j
    · obtain ⟨rfl, rfl⟩ := hpq
      rw [if_pos ⟨rfl, rfl⟩, if_pos (by omega), cholEntry, if_neg (by omega)]
    · rw [if_neg hpq, hent p q hq]
      exact ite_congr (propext (by omega)) (fun _ => rfl) fun _ => rfl

include hn hj hl in
/-- A column of the factor, or its end there. -/
theorem cholColumn_spec (fl : Nat) :
    (¬ isPositive (choleskyRest (ent a) (ent l) j j) ∧ ∃ fl', cholColumn n a (l, fl, none) j = (l, fl', some j)) ∨
      (isPositive (choleskyRest (ent a) (ent l) j j) ∧ ∃ l' fl', cholColumn n a (l, fl, none) j = (l', fl', none) ∧
        l'.length = 36 ∧ ∀ p q, q < 6 →
          ent l' p q = if q = j ∧ j ≤ p ∧ p < n then cholEntry (ent a) (ent l) j p else ent l p q) := by
  obtain ⟨fl', fl'', hrun⟩ := cholColumn_none n a l fl j
  by_cases hpos : isPositive (choleskyRest (ent a) (ent l) j j)
  · obtain ⟨hnone, hlen, hent⟩ := cholBelow_loop hn hj hl (a := a) fl''
    rw [if_neg (Bool.eq_false_iff.mp (isPositive_iff.mp hpos))] at hrun
    exact .inr ⟨hpos, _, _, hrun.trans (Prod.ext rfl (Prod.ext rfl hnone)), hlen, hent⟩
  · rw [if_pos (Bool.eq_false_iff.not_left.mp (mt isPositive_iff.mpr hpos))] at hrun
    exact .inl ⟨hpos, fl', hrun⟩

end

/-! ## The columns -/

/-- The factor of the columns below j, or of those below the column where it stopped. -/
structure CholeskyTo (n : Nat) (a : List Nat) (j : Nat) (acc : List Nat × Nat × Option Nat) : Prop where
  len : acc.1.length = 36
  done : ∀ i, i < acc.2.2.getD j → isPositive (choleskyRest (ent a) (ent acc.1) i i) ∧
    ∀ x, i ≤ x → x < n → ent acc.1 x i = cholEntry (ent a) (ent acc.1) i x
  blank : ∀ p q, q < 6 → p < q ∨ acc.2.2.getD j ≤ q → ent acc.1 p q = 0
  stopped : ∀ k, acc.2.2 = some k → k < j ∧ ¬ isPositive (choleskyRest (ent a) (ent acc.1) k k)

theorem cholEntry_congr {A L L' : Nat → Nat → Nat} {j : Nat} (hL : ∀ p i, i < j → L' p i = L p i) (x : Nat) :
    cholEntry A L' j x = cholEntry A L j x := by
  rw [cholEntry, cholEntry, choleskyRest_congr rfl hL, choleskyRest_congr rfl hL]

theorem CholeskyTo.step {n j : Nat} {a : List Nat} {acc : List Nat × Nat × Option Nat} (hn : n ≤ 6) (hj : j < n)
    (h : CholeskyTo n a j acc) : CholeskyTo n a (j + 1) (cholColumn n a acc j) := by
  obtain ⟨l, fl, stop⟩ := acc
  obtain ⟨hlen, hdone, hblank, hstopped⟩ := h
  cases stop with
  | some k =>
    obtain ⟨hk, hpos⟩ := hstopped k rfl
    exact ⟨hlen, hdone, hblank, fun k' hk' => Option.some.inj hk' ▸ ⟨Nat.lt_succ_of_lt hk, hpos⟩⟩
  | none =>
    rcases cholColumn_spec hn hj hlen fl with ⟨hpos, fl', hrun⟩ | ⟨hpos, l', fl', hrun, hlen', hent⟩
    · rw [hrun]
      exact ⟨hlen, hdone, hblank, fun k hk => Option.some.inj hk ▸ ⟨Nat.lt_succ_self j, hpos⟩⟩
    · rw [hrun]
      have hbefore (p i : Nat) (hi : i < j) : ent l' p i = ent l p i := by
        rw [hent p i (by omega), if_neg (by omega)]
      refine ⟨hlen', fun i hi => ?_, fun p q hq hpq => ?_, nofun⟩
      · have hi : i < j + 1 := hi
        have hearlier (p k : Nat) (hk : k < i) : ent l' p k = ent l p k := hbefore p k (by omega)
        rw [choleskyRest_congr rfl hearlier]
        by_cases hij : i = j
        · subst hij
          refine ⟨hpos, fun x hlo hhi => ?_⟩
          rw [hent x i (by omega), if_pos ⟨rfl, hlo, hhi⟩, cholEntry_congr hearlier]
        · have hi : i < j := by omega
          obtain ⟨hpos', hcol⟩ := hdone i hi
          refine ⟨hpos', fun x hlo hhi => ?_⟩
          rw [hbefore x i hi, cholEntry_congr hearlier, hcol x hlo hhi]
      · have hpq : p < q ∨ j + 1 ≤ q := hpq
        rw [hent p q hq, if_neg (by omega)]
        exact hblank p q hq (hpq.imp_right fun h => Nat.le_of_succ_le h)

theorem choleskyTo_columns {n : Nat} (hn : n ≤ 6) (a : List Nat) :
    CholeskyTo n a n ((upTo n).foldl (cholColumn n a) (zeroMat, 0, none)) := by
  have hloop := foldl_fromTo (p := 0) (q := n) (a := (zeroMat, 0, none)) (g := cholColumn n a)
    (motive := CholeskyTo n a)
    ⟨length_zeroMat, fun i hi => absurd hi (Nat.not_lt_zero i), fun p q _ _ => ent_zeroMat p q, nofun⟩
    fun j acc _ hj h => h.step hn hj
  rwa [Nat.zero_max, ← upTo_eq_fromTo] at hloop

/-! ## SMCHOL (R160) -/

/-- The columns that SMCHOL goes through, and the column where the factor stops; n where it does not. -/
def choleskyRun (f : VF) (h : Hart) (i : Nat) : List Nat × Nat × Option Nat :=
  (upTo (smRows f)).foldl (cholColumn (smRows f) (gmat h f.a.toNat i)) (zeroMat, 0, none)

def choleskyStop (f : VF) (h : Hart) (i : Nat) : Nat := (choleskyRun f h i).2.2.getD (smRows f)

theorem instanceLocal_smCholesky (f : VF) : InstanceLocal (smCholesky f) := fun h h' i hg _ => by
  simp only [smCholesky, hg]

/-- From the column where it stops on, the lower triangle is filled with NaN. -/
def nanFrom (n k : Nat) (l : List Nat) : List Nat :=
  fillMat ((block n n).filter fun pq => decide (pq.2 ≤ pq.1 ∧ k ≤ pq.2)) (fun _ => qNaN 0) l

theorem smCholesky_cases (f : VF) (h : Hart) (i : Nat) :
    ((choleskyRun f h i).2.2 = none ∧ (smCholesky f h i).mat = (choleskyRun f h i).1 ∧
        (smCholesky f h i).flag = false) ∨
      ∃ k, (choleskyRun f h i).2.2 = some k ∧ (smCholesky f h i).mat = nanFrom (smRows f) k (choleskyRun f h i).1 ∧
        (smCholesky f h i).flag = true ∧ (smCholesky f h i).fl.testBit 8 = true := by
  have hrun : smCholesky f h i = match (choleskyRun f h i).2.2 with
      | none => { mat := (choleskyRun f h i).1, fl := (choleskyRun f h i).2.1 }
      | some j =>
        { mat := (block (smRows f) (smRows f)).foldl (fun m pq =>
            if pq.2 ≤ pq.1 ∧ j ≤ pq.2 then setEnt m pq.1 pq.2 (qNaN 0) else m) (choleskyRun f h i).1
          flag := true, fl := (choleskyRun f h i).2.1 ||| smNPD } := rfl
  rw [hrun]
  cases (choleskyRun f h i).2.2 with
  | none => exact .inl ⟨rfl, rfl, rfl⟩
  | some k =>
    refine .inr ⟨k, rfl, ?_, rfl, ?_⟩
    · rw [nanFrom, fillMat, List.foldl_filter]
      simp only [decide_eq_true_eq]
    · have hbit : smNPD.testBit 8 = true := by decide
      rw [Nat.testBit_or, hbit, Bool.or_true]

theorem nanFrom_spec {n : Nat} (hn : n ≤ 6) (k : Nat) {l : List Nat} (hl : l.length = 36) {p q : Nat} (hq : q < 6) :
    ent (nanFrom n k l) p q = if (p < n ∧ q < n) ∧ q ≤ p ∧ k ≤ q then qNaN 0 else ent l p q := by
  have hfits (x : Nat × Nat) (hx : x ∈ (block n n).filter fun pq => decide (pq.2 ≤ pq.1 ∧ k ≤ pq.2)) :
      x.1 < 6 ∧ x.2 < 6 := block_fits hn hn x (List.mem_of_mem_filter hx)
  obtain ⟨-, hent⟩ := fillMat_spec hfits (fun _ => qNaN 0) hl
  refine (hent p q hq).trans (ite_congr (propext ?_) (fun _ => rfl) fun _ => rfl)
  rw [List.mem_filter, mem_block, decide_eq_true_eq]

/-- The factor, from the columns and what fills the triangle from the column k where it stops. -/
theorem CholeskyTo.choleskyOf {n k : Nat} (hn : n ≤ 6) {a : List Nat} {acc : List Nat × Nat × Option Nat}
    (hto : CholeskyTo n a n acc) (hk : acc.2.2.getD n = k) {A L : Nat → Nat → Nat}
    (hA : ∀ p q, p < 6 → q < 6 → A p q = ent a p q)
    (hL : ∀ p q, q < 6 → L p q = if (p < n ∧ q < n) ∧ q ≤ p ∧ k ≤ q then 0x7FC00000 else ent acc.1 p q) :
    CholeskyOf n A L k := by
  have hstop : k ≤ n ∧ (k < n → ¬ isPositive (choleskyRest (ent a) (ent acc.1) k k)) := by
    cases hs : acc.2.2 with
    | none =>
      rw [hs] at hk
      exact ⟨hk.ge, fun hlt => absurd hk (Nat.ne_of_gt hlt)⟩
    | some k' =>
      rw [hs] at hk
      obtain rfl : k' = k := hk
      obtain ⟨hlt, hnot⟩ := hto.stopped k' hs
      exact ⟨hlt.le, fun _ => hnot⟩
  have hbefore (p i : Nat) (hi : i < k) : L p i = ent acc.1 p i := by
    rw [hL p i (by omega), if_neg (by omega)]
  have hrest (x j : Nat) (hx : x < n) (hj : j < n) (hjk : j ≤ k) :
      choleskyRest A L x j = choleskyRest (ent a) (ent acc.1) x j :=
    choleskyRest_congr (hA x j (hx.trans_le hn) (hj.trans_le hn)) fun p i hi => hbefore p i (hi.trans_le hjk)
  obtain ⟨hkn, hnot⟩ := hstop
  refine ⟨hkn, fun j hj => ?_, fun hlt => ?_, fun p q hp hq hpq => ?_, fun p q hp hqp hkq => ?_⟩
  · have hjn : j < n := hj.trans_le hkn
    obtain ⟨hpos, hcol⟩ := hto.done j (hk.symm ▸ hj)
    change isPositive (choleskyRest A L j j) ∧ L j j = Claim.rootOf (choleskyRest A L j j) ∧
      ∀ x, j < x → x < n → L x j = quotient (choleskyRest A L x j) (L j j)
    have hdiag : ent acc.1 j j = Claim.rootOf (choleskyRest (ent a) (ent acc.1) j j) :=
      (hcol j (le_refl j) hjn).trans (if_pos rfl)
    rw [hrest j j hjn hjn hj.le, hbefore j j hj]
    refine ⟨hpos, hdiag, fun x hlo hhi => ?_⟩
    rw [hbefore x j hj, hrest x j hhi hjn hj.le, hcol x hlo.le hhi, cholEntry, if_neg (Nat.ne_of_gt hlo), hdiag]
  · change ¬ isPositive (choleskyRest A L k k)
    rw [hrest k k hlt hlt (le_refl k)]
    exact hnot hlt
  · rw [hL p q (by omega), if_neg (by omega), hto.blank p q (by omega) (.inl hpq)]
  · rw [hL p q (by omega), if_pos ⟨⟨hp, by omega⟩, hqp, hkq⟩]

theorem choleskyOf_smCholesky {f : VF} (hn : smRows f ≤ 6) (h : Hart) (i : Nat) {A : Nat → Nat → Nat}
    (hA : ∀ p q, p < 6 → q < 6 → A p q = ent (gmat h f.a.toNat i) p q) :
    CholeskyOf (smRows f) A (ent (smCholesky f h i).mat) (choleskyStop f h i) := by
  have hto : CholeskyTo (smRows f) (gmat h f.a.toNat i) (smRows f) (choleskyRun f h i) := choleskyTo_columns hn _
  refine hto.choleskyOf hn rfl hA fun p q hq => ?_
  rcases smCholesky_cases f h i with ⟨hstop, hmat, -⟩ | ⟨k, hstop, hmat, -⟩
  · rw [hmat, hstop, Option.getD_none, if_neg (by omega)]
  · rw [hmat, hstop, Option.getD_some, nanFrom_spec hn k hto.len hq]
    rfl

/-- The flag says that it stopped (R160). -/
theorem smCholesky_flag {f : VF} (hn : smRows f ≤ 6) (h : Hart) (i : Nat) :
    (smCholesky f h i).flag = decide (choleskyStop f h i < smRows f) ∧
      ((smCholesky f h i).flag = true → (smCholesky f h i).fl.testBit 8 = true) := by
  have hto : CholeskyTo (smRows f) (gmat h f.a.toNat i) (smRows f) (choleskyRun f h i) := choleskyTo_columns hn _
  rw [choleskyStop]
  rcases smCholesky_cases f h i with ⟨hstop, -, hflag⟩ | ⟨k, hstop, -, hflag, hbit⟩
  · rw [hflag, hstop, Option.getD_none]
    exact ⟨(decide_eq_false (Nat.lt_irrefl _)).symm, nofun⟩
  · rw [hflag, hstop, Option.getD_some]
    exact ⟨(decide_eq_true (hto.stopped k hstop).1).symm, fun _ => hbit⟩

end Sys2Proof.Machine
end

section
/-! LU factors with partial pivoting (R161): the pivot of a column, the exchange of two rows, and one column of the
elimination. -/

namespace Sys2Proof.Machine

open Claim

/-! ## The pivot -/

/-- The magnitude m · 2^e. -/
def finiteMagnitude (m : Nat) (e : Int) : ℚ := m * 2 ^ e

/-- The size of an exact value: a NaN above infinity, infinity above the finite magnitudes. -/
def magnitude : XVal → WithTop (WithTop ℚ)
  | .nan _ => ⊤
  | .inf _ => ((⊤ : WithTop ℚ) : WithTop (WithTop ℚ))
  | .fin _ m e _ => ((finiteMagnitude m e : WithTop ℚ) : WithTop (WithTop ℚ))

/-- A mantissa brought to a lower exponent is the same magnitude. -/
theorem mantAt_mul_zpow (m : Nat) {e e0 : Int} (h : e0 ≤ e) :
    (mantAt false m e e0 : ℚ) * 2 ^ e0 = finiteMagnitude m e := by
  have hshift : (mantAt false m e e0 : ℚ) = m * 2 ^ (e - e0) := by
    have hexp : ((e - e0).toNat : Int) = e - e0 := Int.toNat_of_nonneg (by omega)
    simp only [mantAt, Bool.false_eq_true, if_false, Nat.shiftLeft_eq]
    push_cast
    rw [← zpow_natCast, hexp]
  rw [hshift, finiteMagnitude, mul_assoc, ← zpow_add₀ two_ne_zero, Int.sub_add_cancel]

theorem mantAt_lt_iff (m l : Nat) (e g : Int) :
    mantAt false l g (min e g) < mantAt false m e (min e g) ↔ finiteMagnitude l g < finiteMagnitude m e := by
  rw [← mantAt_mul_zpow m (min_le_left e g), ← mantAt_mul_zpow l (min_le_right e g),
    mul_lt_mul_iff_left₀ (zpow_pos two_pos _), Int.cast_lt]

/-- Ranking is by magnitude. -/
theorem ranksAbove_iff {x y : Nat} : ranksAbove x y = true ↔ magnitude (decodeX 0 y) < magnitude (decodeX 0 x) := by
  rw [ranksAbove]
  generalize decodeX 0 x = a
  generalize decodeX 0 y = b
  cases a with
  | nan s => cases b <;> simp [isNanX, magnitude]
  | inf n => cases b <;> simp [isNanX, magnitude, absX, cmpX]
  | fin n m e st =>
    cases b with
    | nan s => simp [isNanX, magnitude]
    | inf k => simp [isNanX, magnitude, absX, cmpX]
    | fin k l g st' =>
      have hlt := mantAt_lt_iff m l e g
      simp only [isNanX, magnitude, absX, cmpX, Bool.false_eq_true, if_false, decide_eq_true_eq, Int.sign_pos_iff,
        Int.sub_pos, WithTop.coe_lt_coe]
      exact hlt

theorem ranksAbove_eq_false_iff {x y : Nat} :
    ranksAbove x y = false ↔ magnitude (decodeX 0 x) ≤ magnitude (decodeX 0 y) := by
  rw [← Bool.not_eq_true, ranksAbove_iff, not_lt]

/-- The row of the pivot of column j. -/
def luPivot (n : Nat) (u : List Nat) (j : Nat) : Nat :=
  (fromTo (j + 1) n).foldl (fun p x => if ranksAbove (ent u x j) (ent u p j) then x else p) j

theorem pivotRow_luPivot {n j : Nat} (hj : j < n) (u : List Nat) : PivotRow n j (ent u) (luPivot n u j) := by
  have hloop := foldl_fromTo (p := j + 1) (q := n) (a := j)
    (g := fun p x => if ranksAbove (ent u x j) (ent u p j) then x else p)
    (motive := fun i p => PivotRow i j (ent u) p) ⟨le_refl j, Nat.lt_succ_self j, fun x hlo hhi => ?_⟩
    fun x p hlo hhi ⟨hjp, hpx, hrank⟩ => ?_
  · rwa [max_eq_right hj] at hloop
  · obtain rfl : x = j := by omega
    exact ⟨ranksAbove_eq_false_iff.mpr (le_refl _), fun h => absurd h (Nat.lt_irrefl x)⟩
  · split
    case isTrue habove =>
      have hlt := ranksAbove_iff.mp habove
      refine ⟨by omega, Nat.lt_succ_self x, fun y hjy hyx => ?_⟩
      by_cases hxy : y = x
      · rw [hxy]
        exact ⟨ranksAbove_eq_false_iff.mpr (le_refl _), fun h => absurd h (Nat.lt_irrefl x)⟩
      · have hbelow := (ranksAbove_eq_false_iff.mp (hrank y hjy (by omega)).1).trans_lt hlt
        exact ⟨ranksAbove_eq_false_iff.mpr hbelow.le, fun _ => ranksAbove_iff.mpr hbelow⟩
    case isFalse habove =>
      refine ⟨hjp, Nat.lt_succ_of_lt hpx, fun y hjy hyx => ?_⟩
      by_cases hxy : y = x
      · rw [hxy]
        exact ⟨Bool.eq_false_iff.mpr habove, fun h => absurd h (Nat.not_lt.mpr hpx.le)⟩
      · exact hrank y hjy (by omega)

/-! ## The exchange of two rows -/

theorem swapRows_spec {m : List Nat} (hm : m.length = 36) {j p : Nat} (hj : j < 6) (hp : p < 6) :
    (swapRows m j p).length = 36 ∧ ∀ x q, q < 6 → ent (swapRows m j p) x q = ent m (exchanged j p x) q := by
  rw [swapRows, upTo_eq_fromTo]
  have hloop := foldl_fromTo (p := 0) (q := 6) (a := m)
    (g := fun m' k => setEnt (setEnt m' j k (ent m p k)) p k (ent m j k))
    (motive := fun k m' => m'.length = 36 ∧
      ∀ x q, q < 6 → ent m' x q = if q < k then ent m (exchanged j p x) q else ent m x q)
    ⟨hm, fun _ _ _ => rfl⟩ fun k m' _ hk ⟨hlen, hent⟩ => ⟨?_, fun x q hq => ?_⟩
  · obtain ⟨hlen, hent⟩ := hloop
    exact ⟨hlen, fun x q hq => (hent x q hq).trans (if_pos hq)⟩
  · rw [length_setEnt, length_setEnt, hlen]
  · rw [ent_setEnt ((length_setEnt ..).trans hlen) _ hp hk hq, ent_setEnt hlen _ hj hk hq, hent x q hq, exchanged]
    by_cases hqk : q = k
    · subst hqk
      by_cases hxp : x = p
      · by_cases hxj : x = j
        · simp [hxp, ← hxj]
        · simp [hxp, hxp ▸ hxj]
      · by_cases hxj : x = j
        · subst hxj
          simp [hxp]
        · simp [hxp, hxj]
    · have hlt : q < k + 1 ↔ q < k := by omega
      simp [hqk, hlt]

theorem exchanged_self (j x : Nat) : exchanged j j x = x := by
  rw [exchanged]
  split <;> simp_all

theorem getD_swapAt {l : List Nat} {j p : Nat} (hj : j < l.length) (hp : p < l.length) (x : Nat) :
    (swapAt l j p).getD x 0 = l.getD (exchanged j p x) 0 := by
  rw [swapAt, List.getD_eq_getElem?_getD, List.getElem?_set, List.getElem?_set, exchanged, List.length_set]
  by_cases hxp : p = x
  · subst hxp
    by_cases hjp : p = j
    · subst hjp
      simp [hp]
    · simp [hp, hjp]
  · by_cases hxj : j = x
    · subst hxj
      simp [hxp, hj]
    · simp [hxp, hxj, Ne.symm hxp, Ne.symm hxj]

/-- U, and its row order, after the exchange. -/
def luExchanged (n : Nat) (u : List Nat) (j : Nat) : List Nat :=
  if luPivot n u j = j then u else swapRows u j (luPivot n u j)

def luOrder (n : Nat) (u order : List Nat) (j : Nat) : List Nat :=
  if luPivot n u j = j then order else swapAt order j (luPivot n u j)

section
variable {n j : Nat} {u : List Nat} (hn : n ≤ 6) (hj : j < n) (hu : u.length = 36)

include hn hj hu in
theorem luExchanged_spec :
    (luExchanged n u j).length = 36 ∧
      ∀ x q, q < 6 → ent (luExchanged n u j) x q = ent u (exchanged j (luPivot n u j) x) q := by
  obtain ⟨-, hpn, -⟩ := pivotRow_luPivot hj u
  rw [luExchanged]
  split
  case isTrue heq =>
    rw [heq]
    exact ⟨hu, fun x q _ => by rw [exchanged_self]⟩
  case isFalse => exact swapRows_spec hu (hj.trans_le hn) (hpn.trans_le hn)

include hn hj in
theorem luOrder_spec {order : List Nat} (ho : order.length = 8) :
    (luOrder n u order j).length = 8 ∧
      ∀ x, (luOrder n u order j).getD x 0 = order.getD (exchanged j (luPivot n u j) x) 0 := by
  obtain ⟨-, hpn, -⟩ := pivotRow_luPivot hj u
  rw [luOrder]
  split
  case isTrue heq =>
    rw [heq]
    exact ⟨ho, fun x => by rw [exchanged_self]⟩
  case isFalse => exact ⟨by simp [swapAt, ho], getD_swapAt (by omega) (by omega)⟩

end

/-! ## The elimination below the pivot -/

/-- Entry (x, q) of row x after the elimination of column j, from the rows V: q > j, or q = j for the factor itself. -/
def eliminated (V : Nat → Nat → Nat) (j x q : Nat) : Nat :=
  if q = j then quotient (V x j) (V j j) else lessProducts [(quotient (V x j) (V j j), V j q)] (V x q)

/-- One entry of row x, by its factor l. -/
def luEntry (j x l : Nat) (acc : List Nat × Nat) (q : Nat) : List Nat × Nat :=
  let y := ffma (fNeg 0 l) (ent acc.1 j q) (ent acc.1 x q)
  (setEnt acc.1 x q y.1, acc.2 ||| y.2)

theorem luEntry_fst (j x l : Nat) (acc : List Nat × Nat) (q : Nat) :
    (luEntry j x l acc q).1 = setEnt acc.1 x q (lessProducts [(l, ent acc.1 j q)] (ent acc.1 x q)) := rfl

/-- Row x. -/
def luRow (n j : Nat) (acc : List Nat × Nat) (x : Nat) : List Nat × Nat :=
  let l := rd (divX (decodeX 0 (ent acc.1 x j)) (decodeX 0 (ent acc.1 j j)))
  (fromTo (j + 1) n).foldl (luEntry j x l.1) (setEnt acc.1 x j l.1, acc.2 ||| l.2)

theorem luRow_spec {n j x : Nat} {acc : List Nat × Nat} (hn : n ≤ 6) (hj : j < n) (hx : j < x) (hxn : x < n)
    (hlen : acc.1.length = 36) :
    (luRow n j acc x).1.length = 36 ∧ ∀ p q, q < 6 → ent (luRow n j acc x).1 p q =
      if p = x ∧ j ≤ q ∧ q < n then eliminated (ent acc.1) j x q else ent acc.1 p q := by
  have hloop := foldl_fromTo (p := j + 1) (q := n) (g := luEntry j x (quotient (ent acc.1 x j) (ent acc.1 j j)))
    (a := (setEnt acc.1 x j (quotient (ent acc.1 x j) (ent acc.1 j j)),
      acc.2 ||| (rd (divX (decodeX 0 (ent acc.1 x j)) (decodeX 0 (ent acc.1 j j)))).2))
    (motive := fun k r => r.1.length = 36 ∧ ∀ p q, q < 6 →
      ent r.1 p q = if p = x ∧ j ≤ q ∧ q < k then eliminated (ent acc.1) j x q else ent acc.1 p q)
    ⟨(length_setEnt ..).trans hlen, fun p q hq => ?_⟩ fun k r hlo hhi ⟨hlenr, hent⟩ => ⟨?_, fun p q hq => ?_⟩
  · rwa [max_eq_right hj] at hloop
  · rw [ent_setEnt hlen _ (by omega) (by omega) hq]
    by_cases hpq : p = x ∧ q = j
    · obtain ⟨rfl, rfl⟩ := hpq
      rw [if_pos ⟨rfl, rfl⟩, if_pos ⟨rfl, le_refl q, Nat.lt_succ_self q⟩, eliminated, if_pos rfl]
    · rw [if_neg hpq, if_neg (by omega)]
  · rw [luEntry_fst, length_setEnt, hlenr]
  · rw [luEntry_fst, ent_setEnt hlenr _ (by omega) (by omega) hq]
    by_cases hpq : p = x ∧ q = k
    · obtain ⟨rfl, rfl⟩ := hpq
      rw [if_pos ⟨rfl, rfl⟩, if_pos (by omega), eliminated, if_neg (by omega), hent j q hq, if_neg (by omega),
        hent p q hq, if_neg (by omega)]
    · rw [if_neg hpq, hent p q hq]
      exact ite_congr (propext (by omega)) (fun _ => rfl) fun _ => rfl

theorem luRows_spec {n j : Nat} {v : List Nat} (hn : n ≤ 6) (hj : j < n) (hv : v.length = 36) (fl : Nat) :
    ((fromTo (j + 1) n).foldl (luRow n j) (v, fl)).1.length = 36 ∧
      ∀ p q, q < 6 → ent ((fromTo (j + 1) n).foldl (luRow n j) (v, fl)).1 p q =
        if (j < p ∧ p < n) ∧ j ≤ q ∧ q < n then eliminated (ent v) j p q else ent v p q := by
  have hloop := foldl_fromTo (p := j + 1) (q := n) (g := luRow n j) (a := (v, fl))
    (motive := fun x r => r.1.length = 36 ∧ ∀ p q, q < 6 →
      ent r.1 p q = if (j < p ∧ p < x) ∧ j ≤ q ∧ q < n then eliminated (ent v) j p q else ent v p q)
    ⟨hv, fun p q hq => (if_neg (by omega)).symm⟩ fun x r hlo hhi ⟨hlen, hent⟩ => ?_
  · rwa [max_eq_right hj] at hloop
  · obtain ⟨hlen', hrow⟩ := luRow_spec hn hj hlo hhi hlen
    refine ⟨hlen', fun p q hq => (hrow p q hq).trans ?_⟩
    have hfixed (y k : Nat) (hy : y = j ∨ y = x) (hk : k < 6) : ent r.1 y k = ent v y k := by
      rw [hent y k hk, if_neg (by omega)]
    by_cases hp : p = x ∧ j ≤ q ∧ q < n
    · obtain ⟨rfl, hlo', hhi'⟩ := hp
      rw [if_pos ⟨rfl, hlo', hhi'⟩, if_pos (by omega), eliminated, eliminated, hfixed p j (.inr rfl) (by omega),
        hfixed j j (.inl rfl) (by omega), hfixed j q (.inl rfl) hq, hfixed p q (.inr rfl) hq]
    · rw [if_neg hp, hent p q hq]
      exact ite_congr (propext (by omega)) (fun _ => rfl) fun _ => rfl

/-- Below a zero pivot the column is zero. -/
theorem zeroBelow_spec {n j : Nat} {v : List Nat} (hn : n ≤ 6) (hj : j < n) (hv : v.length = 36) :
    ((fromTo (j + 1) n).foldl (fun u x => setEnt u x j 0) v).length = 36 ∧
      ∀ p q, q < 6 → ent ((fromTo (j + 1) n).foldl (fun u x => setEnt u x j 0) v) p q =
        if (j < p ∧ p < n) ∧ q = j then 0 else ent v p q := by
  have hfits (y : Nat × Nat) (hy : y ∈ (fromTo (j + 1) n).map fun x => (x, j)) : y.1 < 6 ∧ y.2 < 6 := by
    obtain ⟨x, hx, rfl⟩ := List.mem_map.mp hy
    have hx := mem_fromTo.mp hx
    omega
  obtain ⟨hlen, hent⟩ := fillMat_spec hfits (fun _ => 0) hv
  rw [fillMat, List.foldl_map] at hlen hent
  refine ⟨hlen, fun p q hq => (hent p q hq).trans (ite_congr (propext ?_) (fun _ => rfl) fun _ => rfl)⟩
  simp only [List.mem_map, mem_fromTo, Prod.mk.injEq]
  exact ⟨fun ⟨x, hx, hxp, hjq⟩ => ⟨hxp ▸ hx, hjq.symm⟩, fun ⟨hp, hqj⟩ => ⟨p, hp, rfl, hqj.symm⟩⟩

/-! ## One column -/

/-- U, its row order, and whether a pivot was zero. -/
abbrev LuAcc := List Nat × List Nat × Nat × Bool

theorem luColumn_eq (n : Nat) (u order : List Nat) (fl : Nat) (sing : Bool) (j : Nat) :
    luColumn n (u, order, fl, sing) j =
      if isZeroX (decodeX 0 (ent (luExchanged n u j) j j)) then
        ((fromTo (j + 1) n).foldl (fun u x => setEnt u x j 0) (luExchanged n u j), luOrder n u order j, fl, true)
      else
        (((fromTo (j + 1) n).foldl (luRow n j) (luExchanged n u j, fl)).1, luOrder n u order j,
          ((fromTo (j + 1) n).foldl (luRow n j) (luExchanged n u j, fl)).2, sing) := rfl

/-- The elimination of a column, by the rows V after the exchange. -/
theorem eliminatesColumn_of_exchanged {n j p : Nat} {U V U' : Nat → Nat → Nat} {order order' : Nat → Nat} (hj : j < n)
    (hpivot : PivotRow n j U p) (horder : ∀ x, order' x = order (exchanged j p x))
    (hV : ∀ x q, q < n → V x q = U (exchanged j p x) q)
    (hU' : ∀ x q, x < n → q < n → U' x q =
      if x ≤ j ∨ q < j then V x q
      else if isZeroX (decodeX 0 (V j j)) then (if q = j then 0 else V x q) else eliminated V j x q) :
    EliminatesColumn n j U U' order order' := by
  refine ⟨p, hpivot, fun x _ => horder x, fun x q hx hq => ?_⟩
  simp only [hU' x q hx hq, eliminated, hV _ _ hq, hV _ _ hj]

/-- What a column does: the elimination, with the pivot on the diagonal of U from then on. -/
theorem luColumn_spec {n j : Nat} {acc : LuAcc} (hn : n ≤ 6) (hj : j < n) (hu : acc.1.length = 36)
    (ho : acc.2.1.length = 8) :
    (luColumn n acc j).1.length = 36 ∧ (luColumn n acc j).2.1.length = 8 ∧
      EliminatesColumn n j (ent acc.1) (ent (luColumn n acc j).1) (fun x => acc.2.1.getD x 0)
        (fun x => (luColumn n acc j).2.1.getD x 0) ∧
      (∀ x, n ≤ x → (luColumn n acc j).2.1.getD x 0 = acc.2.1.getD x 0) ∧
      (luColumn n acc j).2.2.2 = (acc.2.2.2 || isZeroX (decodeX 0 (ent (luColumn n acc j).1 j j))) := by
  obtain ⟨u, order, fl, sing⟩ := acc
  have hpivot := pivotRow_luPivot hj u
  obtain ⟨hjp, hpn, -⟩ := id hpivot
  obtain ⟨hvlen, hv⟩ := luExchanged_spec hn hj hu
  obtain ⟨holen, horder⟩ := luOrder_spec (u := u) hn hj ho
  have hj6 : j < 6 := hj.trans_le hn
  have hbeyond (x : Nat) (hx : n ≤ x) : (luOrder n u order j).getD x 0 = order.getD x 0 := by
    rw [horder, exchanged, if_neg (by omega), if_neg (by omega)]
  rw [luColumn_eq]
  by_cases hzero : isZeroX (decodeX 0 (ent (luExchanged n u j) j j)) = true
  · obtain ⟨hlen, hent⟩ := zeroBelow_spec hn hj hvlen
    rw [if_pos hzero]
    refine ⟨hlen, holen, eliminatesColumn_of_exchanged hj hpivot horder (fun x q hq => hv x q (hq.trans_le hn))
      fun x q hx hq => ?_, hbeyond, ?_⟩
    · rw [hent x q (hq.trans_le hn), if_pos hzero]
      by_cases hkeep : x ≤ j ∨ q < j
      · rw [if_pos hkeep, if_neg (by omega)]
      · rw [if_neg hkeep]
        exact ite_congr (propext (by omega)) (fun _ => rfl) fun _ => rfl
    · rw [hent j j hj6, if_neg (by omega), hzero, Bool.or_true]
  · obtain ⟨hlen, hent⟩ := luRows_spec hn hj hvlen fl
    rw [if_neg hzero]
    refine ⟨hlen, holen, eliminatesColumn_of_exchanged hj hpivot horder (fun x q hq => hv x q (hq.trans_le hn))
      fun x q hx hq => ?_, hbeyond, ?_⟩
    · rw [hent x q (hq.trans_le hn), if_neg hzero]
      by_cases hkeep : x ≤ j ∨ q < j
      · rw [if_pos hkeep, if_neg (by omega)]
      · rw [if_neg hkeep, if_pos (by omega)]
    · rw [hent j j hj6, if_neg (by omega), Bool.eq_false_iff.mpr hzero, Bool.or_false]

/-- A column of the elimination leaves what stands on the diagonal before it. -/
theorem diagonal_of_eliminates {n j : Nat} {U U' : Nat → Nat → Nat} {order order' : Nat → Nat}
    (h : EliminatesColumn n j U U' order order') {i : Nat} (hi : i < j) (hj : j < n) : U' i i = U i i := by
  obtain ⟨p, ⟨hjp, -⟩, -, hent⟩ := h
  have hrow : exchanged j p i = i := by rw [exchanged, if_neg (by omega), if_neg (by omega)]
  exact (hent i i (by omega) (by omega)).trans ((if_pos (.inl hi.le)).trans (congrArg (U · i) hrow))

/-! ## SMLU (R161) -/

/-- The factors after k columns. -/
def luRun (f : VF) (h : Hart) (i k : Nat) : LuAcc :=
  (upTo k).foldl (luColumn (smRows f)) (gmat h f.a.toNat i, upTo 8, 0, false)

theorem luRun_succ (f : VF) (h : Hart) (i k : Nat) :
    luRun f h i (k + 1) = luColumn (smRows f) (luRun f h i k) k := by
  have hk : upTo (k + 1) = upTo k ++ [k] := List.range_succ
  rw [luRun, hk, List.foldl_append]
  rfl

section
variable {f : VF} (hn : smRows f ≤ 6) (h : Hart) (i : Nat)

include hn in
theorem luRun_length {k : Nat} (hk : k ≤ smRows f) :
    (luRun f h i k).1.length = 36 ∧ (luRun f h i k).2.1.length = 8 := by
  induction k with
  | zero => exact ⟨length_gmat .., List.length_range⟩
  | succ k ih =>
    obtain ⟨hu, ho⟩ := ih (Nat.le_of_succ_le hk)
    obtain ⟨hu', ho', -⟩ := luColumn_spec hn hk hu ho
    rw [luRun_succ]
    exact ⟨hu', ho'⟩

include hn in
theorem luRun_eliminates {k : Nat} (hk : k < smRows f) :
    EliminatesColumn (smRows f) k (ent (luRun f h i k).1) (ent (luRun f h i (k + 1)).1)
      (fun x => (luRun f h i k).2.1.getD x 0) (fun x => (luRun f h i (k + 1)).2.1.getD x 0) := by
  obtain ⟨hu, ho⟩ := luRun_length hn h i hk.le
  obtain ⟨-, -, helim, -⟩ := luColumn_spec hn hk hu ho
  rwa [← luRun_succ] at helim

include hn in
/-- Components beyond the matrix keep their own number. -/
theorem luRun_order_beyond {k x : Nat} (hk : k ≤ smRows f) (hx : smRows f ≤ x) (hx8 : x < 8) :
    (luRun f h i k).2.1.getD x 0 = x := by
  induction k with
  | zero => simp [luRun, upTo, hx8]
  | succ k ih =>
    obtain ⟨hu, ho⟩ := luRun_length hn h i (Nat.le_of_succ_le hk)
    obtain ⟨-, -, -, hbeyond, -⟩ := luColumn_spec hn hk hu ho
    rw [luRun_succ, hbeyond x hx, ih (Nat.le_of_succ_le hk)]

include hn in
/-- A pivot was zero when one on the diagonal is. -/
theorem luRun_singular {k : Nat} (hk : k ≤ smRows f) :
    (luRun f h i k).2.2.2 = true ↔ ∃ j, j < k ∧ isZeroX (decodeX 0 (ent (luRun f h i k).1 j j)) = true := by
  induction k with
  | zero => simp [luRun, upTo]
  | succ k ih =>
    obtain ⟨hu, ho⟩ := luRun_length hn h i (Nat.le_of_succ_le hk)
    obtain ⟨-, -, -, -, hsing⟩ := luColumn_spec hn hk hu ho
    rw [← luRun_succ] at hsing
    have hdiag (j : Nat) (hj : j < k) : ent (luRun f h i (k + 1)).1 j j = ent (luRun f h i k).1 j j :=
      diagonal_of_eliminates (luRun_eliminates hn h i hk) hj hk
    rw [hsing, Bool.or_eq_true, ih (Nat.le_of_succ_le hk)]
    constructor
    · rintro (⟨j, hj, hz⟩ | hz)
      · exact ⟨j, Nat.lt_succ_of_lt hj, (hdiag j hj).symm ▸ hz⟩
      · exact ⟨k, Nat.lt_succ_self k, hz⟩
    · rintro ⟨j, hj, hz⟩
      rcases Nat.lt_succ_iff_lt_or_eq.mp hj with hj | rfl
      · exact .inl ⟨j, hj, hdiag j hj ▸ hz⟩
      · exact .inr hz

/-- What SMLU gives, by its run. -/
theorem smFactor_eq : smFactor f h i =
    { mat := (luRun f h i (smRows f)).1, vec := (luRun f h i (smRows f)).2.1.map (8 * i + ·)
      flag := (luRun f h i (smRows f)).2.2.2
      fl := (luRun f h i (smRows f)).2.2.1 ||| if (luRun f h i (smRows f)).2.2.2 then smSING else 0 } := rfl

theorem instanceLocal_smFactor : InstanceLocal (smFactor f) := fun h h' i hg _ => by
  simp only [smFactor, hg]

include hn in
theorem factoredAs_smFactor {A : Nat → Nat → Nat}
    (hA : ∀ p q, p < 6 → q < 6 → A p q = ent (gmat h f.a.toNat i) p q) :
    FactoredAs (smRows f) A (ent (smFactor f h i).mat) (fun x => (luRun f h i (smRows f)).2.1.getD x 0)
      ((smFactor f h i).flag = true) :=
  ⟨fun k => ent (luRun f h i k).1, fun k x => (luRun f h i k).2.1.getD x 0,
    fun x q hx hq => (hA x q (hx.trans_le hn) (hq.trans_le hn)).symm,
    fun x hx => by simp [luRun, upTo, show x < 8 by omega],
    fun _ hj => luRun_eliminates hn h i hj, fun _ _ _ _ => rfl, fun _ _ => rfl, luRun_singular hn h i (le_refl _)⟩

include hn in
theorem smFactor_vec {j : Nat} (hj : j < 8) :
    (smFactor f h i).vec.getD j 0 =
      8 * i + if j < smRows f then (luRun f h i (smRows f)).2.1.getD j 0 else j := by
  obtain ⟨-, hlen⟩ := luRun_length hn h i (le_refl _)
  have hlt : j < (luRun f h i (smRows f)).2.1.length := by omega
  have hget : (smFactor f h i).vec.getD j 0 = 8 * i + (luRun f h i (smRows f)).2.1.getD j 0 := by
    rw [smFactor_eq]
    simp [hlt]
  rw [hget]
  split
  case isTrue => rfl
  case isFalse hge => rw [luRun_order_beyond hn h i (le_refl _) (Nat.not_lt.mp hge) hj]

theorem smFactor_raises (hflag : (smFactor f h i).flag = true) : (smFactor f h i).fl.testBit 7 = true := by
  have hsing : (luRun f h i (smRows f)).2.2.2 = true := hflag
  have hbit : smSING.testBit 7 = true := by decide
  rw [smFactor_eq, hsing, if_pos rfl, Nat.testBit_or, hbit, Bool.or_true]

end

end Sys2Proof.Machine
end

section
/-! Triangular systems (R162), the row index that traps (R155), and what SMCHOL, SMLU and SMSOLV leave. -/

namespace Sys2Proof.Machine

open Claim

/-! ## Unknowns in their order -/

/-- A loop that sets places of a list, each once and from places that are not set later, leaves each with the value of
the list it leaves. -/
theorem foldl_set_spec {val : List Nat → Nat → Nat} {dep : Nat → List Nat} {l : List Nat} {m : List Nat}
    (hplace : ∀ p ∈ l, p < m.length) (hself : ∀ p, p ∉ dep p)
    (horder : l.Pairwise fun p q => q ≠ p ∧ q ∉ dep p)
    (hdep : ∀ p a b, (∀ k ∈ dep p, a.getD k 0 = b.getD k 0) → val a p = val b p) :
    (l.foldl (fun a p => a.set p (val a p)) m).length = m.length ∧
      (∀ p ∈ l, (l.foldl (fun a p => a.set p (val a p)) m).getD p 0 =
        val (l.foldl (fun a p => a.set p (val a p)) m) p) ∧
      ∀ p, p ∉ l → (l.foldl (fun a p => a.set p (val a p)) m).getD p 0 = m.getD p 0 := by
  induction l using List.reverseRecOn with
  | nil => exact ⟨rfl, fun p hp => absurd hp List.not_mem_nil, fun _ _ => rfl⟩
  | append_singleton l q ih =>
    obtain ⟨hl, -, hlast⟩ := List.pairwise_append.mp horder
    obtain ⟨hlen, hset, hother⟩ := ih (fun p hp => hplace p (List.mem_append_left _ hp)) hl
    have hq := hplace q (List.mem_append_right _ List.mem_cons_self)
    rw [List.foldl_append, List.foldl_cons, List.foldl_nil]
    generalize l.foldl (fun a p => a.set p (val a p)) m = a at hlen hset hother ⊢
    have hget (k : Nat) (hk : k ≠ q) : (a.set q (val a q)).getD k 0 = a.getD k 0 := by
      rw [List.getD_eq_getElem?_getD, List.getElem?_set_ne (Ne.symm hk), ← List.getD_eq_getElem?_getD]
    have hkept (p : Nat) (hp : q ∉ dep p) : val (a.set q (val a q)) p = val a p :=
      hdep p _ _ fun k hk => hget k fun hkq => hp (hkq ▸ hk)
    refine ⟨List.length_set.trans hlen, fun p hp => ?_, fun p hp => ?_⟩
    · rcases List.mem_append.mp hp with hp | hp
      · obtain ⟨hne, hnot⟩ := hlast p hp q List.mem_cons_self
        rw [hget p (Ne.symm hne), hkept p hnot, hset p hp]
      · obtain rfl := List.mem_singleton.mp hp
        rw [hkept p (hself p)]
        simp [hlen, hq]
    · rw [hget p fun hpq => hp (hpq ▸ List.mem_append_right _ List.mem_cons_self),
        hother p fun hpl => hp (List.mem_append_left _ hpl)]

/-- The rows in the order in which their unknowns are computed. -/
def solveRows (mode n : Nat) : List Nat := if mode ≤ 2 then upTo n else (upTo n).reverse

theorem mem_solveRows {mode n p : Nat} : p ∈ solveRows mode n ↔ p < n := by
  rw [solveRows]
  split <;> simp [upTo]

/-- The unknown of row p, from those computed before it. -/
def solveValue (mode n : Nat) (g : List Nat) (y : Nat → Nat) (x : List Nat) (p : Nat) : Nat :=
  let t := (chain ((solveTerms mode n p).map fun k => (fNeg 0 (ent g k.1.1 k.1.2), x.getD k.2 0)) (y p, 0)).1
  if mode = 1 then t else quotient t (ent g p p)

/-- The unknowns that a row reads. -/
def solveReads (mode n p : Nat) : List Nat := (solveTerms mode n p).map Prod.snd

theorem mem_solveReads {mode n p k : Nat} :
    k ∈ solveReads mode n p ↔ if mode ≤ 2 then k < p else p < k ∧ k < n := by
  rw [solveReads, solveTerms]
  split
  · simp [upTo]
  · rw [List.map_map, List.map_reverse, List.mem_reverse, List.mem_map]
    simp only [mem_fromTo, Function.comp_apply]
    exact ⟨fun ⟨a, ha, hak⟩ => hak ▸ ha, fun hk => ⟨k, hk, rfl⟩⟩

theorem solveRows_ordered (mode n : Nat) : (solveRows mode n).Pairwise fun p q => q ≠ p ∧ q ∉ solveReads mode n p := by
  rw [solveRows]
  split
  case isTrue hmode =>
    refine List.pairwise_lt_range.imp fun hpq => ⟨Nat.ne_of_gt hpq, fun hmem => ?_⟩
    rw [mem_solveReads, if_pos hmode] at hmem
    omega
  case isFalse hmode =>
    refine List.pairwise_reverse.mpr (List.pairwise_lt_range.imp fun hpq => ⟨Nat.ne_of_lt hpq, fun hmem => ?_⟩)
    rw [mem_solveReads, if_neg hmode] at hmem
    omega

theorem solveValue_congr {mode n : Nat} {g : List Nat} {y : Nat → Nat} (p : Nat) (a b : List Nat)
    (h : ∀ k ∈ solveReads mode n p, a.getD k 0 = b.getD k 0) :
    solveValue mode n g y a p = solveValue mode n g y b p := by
  have hterms : (solveTerms mode n p).map (fun k => (fNeg 0 (ent g k.1.1 k.1.2), a.getD k.2 0)) =
      (solveTerms mode n p).map (fun k => (fNeg 0 (ent g k.1.1 k.1.2), b.getD k.2 0)) :=
    List.map_congr_left fun k hk => by rw [h k.2 (List.mem_map_of_mem hk)]
  rw [solveValue, solveValue, hterms]

/-- The unknowns that the loop over the rows leaves. -/
def solveLoop (mode n : Nat) (g : List Nat) (y : Nat → Nat) : List Nat :=
  (solveRows mode n).foldl (fun x p => x.set p (solveValue mode n g y x p)) (List.replicate 8 0)

theorem solveLoop_spec {mode n : Nat} (hn : n ≤ 6) (g : List Nat) (y : Nat → Nat) :
    (∀ p, p < n → (solveLoop mode n g y).getD p 0 = solveValue mode n g y (solveLoop mode n g y) p) ∧
      ∀ p, n ≤ p → (solveLoop mode n g y).getD p 0 = 0 := by
  have hself (p : Nat) : p ∉ solveReads mode n p := fun hmem => by
    rw [mem_solveReads] at hmem
    split at hmem <;> omega
  obtain ⟨-, hset, hother⟩ := foldl_set_spec (l := solveRows mode n) (m := List.replicate 8 0)
    (fun p hp => by
      have hp := mem_solveRows.mp hp
      rw [List.length_replicate]
      omega) hself (solveRows_ordered mode n) (solveValue_congr (g := g) (y := y))
  refine ⟨fun p hp => hset p (mem_solveRows.mpr hp), fun p hp => ?_⟩
  refine (hother p fun hmem => absurd (mem_solveRows.mp hmem) (Nat.not_lt.mpr hp)).trans ?_
  rw [List.getD_eq_getElem?_getD, List.getElem?_replicate]
  split <;> rfl

/-! ## The system (R162) -/

/-- From the last row down to the one after p. -/
theorem fromTo_reverse (p n : Nat) : (fromTo (p + 1) n).reverse = (List.range (n - 1 - p)).map (n - 1 - ·) := by
  have hlen : n - (p + 1) = n - 1 - p := by omega
  refine List.ext_getElem (by simp [fromTo, hlen]) fun k hk _ => ?_
  have hk : k < n - (p + 1) := by simpa [fromTo] using hk
  simp only [fromTo, List.getElem_reverse, List.getElem_map, List.getElem_range, List.length_map, List.length_range]
  omega

/-- The terms of row p as R162 lists them. -/
def solveProducts (mode n : Nat) (G : Nat → Nat → Nat) (x : Nat → Nat) (p : Nat) : List (Nat × Nat) :=
  if mode ≤ 2 then (List.range p).map fun k => (G p k, x k)
  else (List.range (n - 1 - p)).map fun k =>
    ((if mode = 3 then G p (n - 1 - k) else G (n - 1 - k) p), x (n - 1 - k))

theorem solveTerms_eq {mode n p : Nat} (hn : n ≤ 6) (hp : p < n) {g : List Nat} {G : Nat → Nat → Nat}
    (hG : ∀ p q, p < 6 → q < 6 → G p q = ent g p q) (x : List Nat) :
    (solveTerms mode n p).map (fun k => (ent g k.1.1 k.1.2, x.getD k.2 0)) =
      solveProducts mode n G (fun k => x.getD k 0) p := by
  rw [solveTerms, solveProducts]
  split
  · rw [List.map_map]
    refine List.map_congr_left fun k hk => ?_
    have hk := List.mem_range.mp hk
    simp only [Function.comp_apply, hG p k (by omega) (by omega)]
  · rw [fromTo_reverse, List.map_map, List.map_map]
    refine List.map_congr_left fun k _ => ?_
    simp only [Function.comp_apply, hG p (n - 1 - k) (by omega) (by omega), hG (n - 1 - k) p (by omega) (by omega)]
    split <;> rfl

theorem solveValue_eq {mode n p : Nat} (hn : n ≤ 6) (hp : p < n) {g : List Nat} {G : Nat → Nat → Nat}
    (hG : ∀ p q, p < 6 → q < 6 → G p q = ent g p q) (y : Nat → Nat) (x : List Nat) :
    solveValue mode n g y x p =
      if mode = 1 then lessProducts (solveProducts mode n G (fun k => x.getD k 0) p) (y p)
      else quotient (lessProducts (solveProducts mode n G (fun k => x.getD k 0) p) (y p)) (G p p) := by
  rw [← solveTerms_eq hn hp hG, hG p p (by omega) (by omega), lessProducts, List.map_map]
  rfl

/-! ## SMSOLV (R162) -/

section
variable {f : VF} (h : Hart) (i : Nat)

/-- A pivot on the diagonal is zero, where there is a division (R162). -/
def solveSingular (f : VF) (h : Hart) (i : Nat) : Bool :=
  smInner f != 1 && (upTo (smRows f)).any fun p => isZeroX (decodeX 0 (ent (gmat h f.a.toNat i) p p))

theorem smSolve_fields :
    (smSolve f h i).vec = solveLoop (smInner f) (smRows f) (gmat h f.a.toNat i) (vcomp h f.b.toNat i) ∧
      (smSolve f h i).flag = solveSingular f h i ∧
      ∃ fl, (smSolve f h i).fl = fl ||| if solveSingular f h i then smSING else 0 := by
  refine ⟨?_, rfl, _, rfl⟩
  refine (List.foldl_hom Prod.fst fun acc p => ?_).symm
  rw [solveValue]
  by_cases hmode : smInner f = 1
  · simp only [if_pos hmode]
  · simp only [if_neg hmode]
    rfl

theorem smSolve_raises (hflag : solveSingular f h i = true) : (smSolve f h i).fl.testBit 7 = true := by
  obtain ⟨-, -, fl, hfl⟩ := smSolve_fields (f := f) h i
  have hbit : smSING.testBit 7 = true := by decide
  rw [hfl, if_pos hflag, Nat.testBit_or, hbit, Bool.or_true]

theorem instanceLocal_smSolve (hn : smRows f ≤ 6) : InstanceLocal (smSolve f) := fun h h' i hg hv => by
  have hrows (p : Nat) (hp : p ∈ if smInner f ≤ 2 then upTo (smRows f) else (upTo (smRows f)).reverse) :
      vcomp h' f.b.toNat i p = vcomp h f.b.toNat i p := by
    have hp : p < smRows f := mem_solveRows.mp hp
    exact hv _ _ (by omega)
  simp only [smSolve, hg]
  rw [List.foldl_ext _ _ _ fun a p hp => by rw [hrows p hp]]

theorem solvedBy_smSolve (hn : smRows f ≤ 6) {G : Nat → Nat → Nat}
    (hG : ∀ p q, p < 6 → q < 6 → G p q = ent (gmat h f.a.toNat i) p q) :
    SolvedBy (smInner f) (smRows f) G (vcomp h f.b.toNat i) fun p => (smSolve f h i).vec.getD p 0 := by
  intro p hp
  obtain ⟨hvec, -⟩ := smSolve_fields (f := f) h i
  obtain ⟨hset, -⟩ := solveLoop_spec (mode := smInner f) hn (gmat h f.a.toNat i) (vcomp h f.b.toNat i)
  simp only [hvec]
  exact (hset p hp).trans (solveValue_eq hn hp hG _ _)

theorem smSolve_vec_beyond (hn : smRows f ≤ 6) {j : Nat} (hj : smRows f ≤ j) : (smSolve f h i).vec.getD j 0 = 0 := by
  obtain ⟨hvec, -⟩ := smSolve_fields (f := f) h i
  rw [hvec]
  exact (solveLoop_spec hn _ _).2 j hj

end

/-! ## What the factorisations leave -/

/-- An instruction leaves its destinations, the flag mask and the sticky flags of the unit. -/
theorem SmCompletes.leaves {i : Instr} {s : State} {f : VF} {d : SmDest} {res : Nat → SmRes} {v g : Option Nat}
    {p : State → Prop} (h : SmCompletes i s f d res) (hmask : d.mask = f.c.toNat) (hv : d.vec = v)
    (hg : ∀ n, some n ≠ g → n ≠ f.d.toNat ∨ d.shape = [])
    (hp : ∀ t, Performed s.h.conf f d res s.h (instancesOf s.h.conf) t.h → p t) :
    ∃ t, exec i s = .next t ∧ OnlyVector s t ∧ (∀ k : Fin 16, k.val ≠ f.c.toNat → t.h.m[k] = s.h.m[k]) ∧
      t.h.fflags = s.h.fflags ∧ t.h.readback = s.h.readback ∧ (∀ r, some r ≠ v → vreg t.h r = vreg s.h r) ∧
      (∀ n : Fin 8, some n.val ≠ g → t.h.g[n] = s.h.g[n]) ∧ p t := by
  obtain ⟨t, ht, honly, hfl, hrb, hperf⟩ := h
  refine ⟨t, ht, honly, fun k hk => ?_, hfl, hrb, fun r hr => hperf.frame.vectors r ?_, fun n hn => ?_, hp t hperf⟩
  · exact getElem_eq_of_getD (hperf.frame.masks k.val (.inl (hmask ▸ hk)))
  · rw [hv]
    exact Ne.symm hr
  · exact getElem_eq_of_getD (hperf.frame.matrices n.val (hg n.val hn))

section
variable {s : State} {f : VF} (h0 : s.h.vstart = 0)

theorem entry_eq_ent (s : State) (f : VF) (i p q : Nat) (hp : p < 6) (hq : q < 6) :
    entry s f.a i p q = ent (gmat s.h f.a.toNat i) p q := (ent_gmat_eq_entry s f.a i hp hq).symm

theorem checks_of_square {i : Instr} {bad : Bool} (hl : ShapeLegal i s f) (hbad : bad = false)
    (hsq : smCols f = smRows f) : checks (bad || smCols f != smRows f) (indexBad i s.h.conf) = 0 :=
  checks_eq_zero.mpr ⟨by rw [hbad, bne_eq_false_iff_eq.mpr hsq]; rfl, hl.2⟩

include h0 in
theorem completes_smchol (hat : AtOnce (.smchol f) s) (hl : ShapeLegal (.smchol f) s f) (hsq : smCols f = smRows f) :
    SmCompletes (.smchol f) s f { shape := block (smRows f) (smRows f), mask := f.c.toNat } (smCholesky f s.h) := by
  obtain ⟨⟨-, hr⟩, -⟩ := shape_of_legal hl
  exact completes_of_smOp (i := .smchol f) rfl hat (checks_of_square hl (smBad_of_legal hl) hsq) h0 rfl
    (.of_block hr hr f.c.toNat) (instanceLocal_smCholesky f)

include h0 in
theorem completes_smlu (hat : AtOnce (.smlu f) s) (hl : ShapeLegal (.smlu f) s f) (hsq : smCols f = smRows f)
    (hfmt : fmtOf s = 0) :
    SmCompletes (.smlu f) s f { shape := block (smRows f) (smRows f), vec := some f.b.toNat, mask := f.c.toNat }
      (smFactor f s.h) := by
  obtain ⟨⟨-, hr⟩, -⟩ := shape_of_legal hl
  exact completes_of_smOp (i := .smlu f) rfl hat (checks_of_square hl (smBadV_of_legal hl hfmt) hsq) h0 rfl
    ⟨block_fits hr hr, fun _ hq => Option.some.inj hq ▸ f.b.isLt⟩ instanceLocal_smFactor

include h0 in
theorem completes_smsolv (hat : AtOnce (.smsolv f) s) (hl : ShapeLegal (.smsolv f) s f) (hmode : smInner f ≤ 4)
    (hfmt : fmtOf s = 0) :
    SmCompletes (.smsolv f) s f { vec := some f.d.toNat, mask := f.c.toNat } (smSolve f s.h) := by
  obtain ⟨⟨-, hr⟩, -⟩ := shape_of_legal hl
  have hbad : decide (4 < smInner f) = false := decide_eq_false (Nat.not_lt.mpr hmode)
  exact completes_of_smOp (i := .smsolv f) rfl hat
    (checks_eq_zero.mpr ⟨by rw [smBadV_of_legal hl hfmt, hbad]; rfl, hl.2⟩) h0 rfl
    (.of_vec f.d f.c.toNat) (instanceLocal_smSolve hr)

end

/-! ## A row index that traps (R155, R340) -/

/-- An instruction alone in the queue that traps at the head keeps its entry, frozen, and every register. -/
theorem trapsAtHead {i : Instr} {check : CheckFn} {perf : PerfFn} {s : State} {cause : Nat}
    (hexec : exec i s = commitVector i check perf s) (hat : AtOnce i s) (hc : check s.h.conf = 0)
    (hperf : perf s.h.conf (captureA i s) (captureB i s) (aloneAtHead i s) = .trap cause none (aloneAtHead i s)) :
    ∃ t, exec i s = .next t ∧ t.h.trapcause = word (cause % 256) ∧ t.h.trapval = parcelsOf i ∧ t.h.epc = s.h.pc + 8 ∧
      t.h.queue.length = 1 ∧ t.h.frozen = true ∧ t.h.v = s.h.v ∧ t.h.g = s.h.g := by
  obtain ⟨-, hf, hq, -, -, -, -, -, -, -, hfree, hrb⟩ := hat
  have hlen : s.h.queue.length < 32 := by simp [hq]
  have hused : readbackUsed s.h < 8 := by simpa [readbackUsed, hq, deliveries] using hrb
  obtain ⟨hqueue, hpc, -, hregs, -⟩ := aloneAtHead_fields i s
  obtain ⟨tcause, tval, -, tepc, -, tfrozen, tqueue, tregs⟩ := trapEntry_fields false cause (parcelsOf i)
    (s.h.pc + 8) (BitVec.ofNat 6 s.h.qhead) (performAs none (aloneAtHead i s)).h
  refine ⟨takeTrap false cause (parcelsOf i) (s.h.pc + 8) (BitVec.ofNat 6 s.h.qhead) (performAs none (aloneAtHead i s)),
    ?_, ?_⟩
  · rw [hexec, commitVector_alone _ hf hc hfree hlen hused hq, hperf, finishHead_trap, hpc]
  · rw [takeTrap_h, tcause, tval, tepc, tfrozen, tqueue, tregs, hqueue, hregs, hq]
    exact ⟨rfl, rfl, rfl, rfl, rfl, rfl, rfl⟩

theorem rowIndexed_of_ge (p : PerfFn) (c : VConf) (a b : Word) (s : State) (hb : 6 ≤ b.toNat) :
    rowIndexed p c a b s = .trap 0x04 none s := if_pos hb

end Sys2Proof.Machine

namespace Sys2Proof

open Machine Claim

/-- Settles O34: the factors column by column, the unknowns row by row, and the row index checked at the head. -/
theorem matrixFactorsComplete : Obligations.MatrixFactorsComplete := by
  unfold Obligations.MatrixFactorsComplete
  intro s f h0 hfits n block A masks only components
  refine ⟨fun hat hl hsq => ?smchol, fun hat hl hsq hfmt => ?smlu, fun hat hl hmode hfmt => ?smsolv,
    fun hat hl hfmt hrow => ?smget, fun hat hl hfmt hrow => ?smput⟩
  case smchol =>
    obtain ⟨⟨-, hn⟩, -⟩ := shape_of_legal hl
    refine (completes_smchol h0 hat hl hsq).leaves rfl rfl (fun k hk => .inl fun h => hk (congrArg some h))
      fun t hp => ⟨fun i => ent (smCholesky f s.h i).mat, choleskyStop f s.h, fun i _ => ?_, ?_, ?_⟩
    · exact choleskyOf_smCholesky hn s.h i (entry_eq_ent s f i)
    · exact matrixEntries_of_performed hp (fun _ _ _ _ => mem_block) fun _ _ _ _ _ _ _ => rfl
    · refine flagBits_of_performed hp rfl (by decide) (fun i => (smCholesky_flag hn s.h i).1) fun i hflag => ?_
      exact (smCholesky_flag hn s.h i).2 ((smCholesky_flag hn s.h i).1.trans hflag)
  case smlu =>
    obtain ⟨⟨-, hn⟩, -⟩ := shape_of_legal hl
    refine (completes_smlu h0 hat hl hsq hfmt).leaves rfl rfl (fun k hk => .inl fun h => hk (congrArg some h))
      fun t hp => ⟨fun i => ent (smFactor f s.h i).mat, fun i x => (luRun f s.h i n).2.1.getD x 0,
        fun i => (smFactor f s.h i).flag, fun i _ => ?_, ?_, ?_, ?_⟩
    · exact factoredAs_smFactor hn s.h i (entry_eq_ent s f i)
    · exact matrixEntries_of_performed hp (fun _ _ _ _ => mem_block) fun _ _ _ _ _ _ _ => rfl
    · exact components_of_performed hp rfl fun i j _ hj => smFactor_vec hn s.h i hj
    · exact flagBits_of_performed hp rfl (by decide) (fun _ => rfl) fun i => smFactor_raises s.h i
  case smsolv =>
    obtain ⟨⟨-, hn⟩, -⟩ := shape_of_legal hl
    refine (completes_smsolv h0 hat hl hmode hfmt).leaves rfl rfl (fun _ _ => .inr rfl)
      fun t hp => ⟨fun i p => (smSolve f s.h i).vec.getD p 0, fun i _ => ?_, ?_, ?_⟩
    · exact solvedBy_smSolve s.h i hn (entry_eq_ent s f i)
    · refine components_of_performed hp rfl fun i j _ hj => ?_
      split
      case isTrue => rfl
      case isFalse hge => exact smSolve_vec_beyond s.h i hn (Nat.not_lt.mp hge)
    · have hflag (i : Nat) : solveSingular f s.h i =
          decide (smInner f ≠ 1 ∧ ∃ p ∈ List.range n, isZeroX (decodeX 0 (A i p p)) = true) := by
        rw [Bool.eq_iff_iff, decide_eq_true_iff, solveSingular, Bool.and_eq_true, bne_iff_ne, List.any_eq_true]
        refine and_congr_right fun _ => exists_congr fun p => and_congr_right fun hp => ?_
        have hp6 : p < 6 := (List.mem_range.mp hp).trans_le hn
        rw [← entry_eq_ent s f i p p hp6 hp6]
      refine flagBits_of_performed hp rfl (by decide) (fun i => hflag i) fun i hi => ?_
      exact smSolve_raises s.h i ((hflag i).trans hi)
  case smget =>
    obtain ⟨t, ht, hcause, hval, hepc, hqueue, hfrozen, hv, -⟩ := trapsAtHead (i := .smget f) rfl hat
      (checks_of_shapeV hl hfmt) (rowIndexed_of_ge _ _ _ _ _ hrow)
    exact ⟨t, ht, hcause, hval, hepc, hqueue, hfrozen, hv⟩
  case smput =>
    exact trapsAtHead (i := .smput f) rfl hat (checks_of_shapeV hl hfmt) (rowIndexed_of_ge _ _ _ _ _ hrow)

end Sys2Proof
end

section
/-! A vector memory instruction under `mo` = 2 while a remote write of its hart is outstanding (R317, R326): each
element performs after the hart's earlier accesses, at every scope, so the instruction waits. -/

namespace Sys2Proof.Machine

open Claim

/-- One instance under `mo` = 2 at die scope, in FP32 with N = 8. -/
def inTotalOrder : VConf := { vcfg := 0x2400, vl := 1 }

/-- A hart with the address of scratchpad bank 8 in s1, whose store to a peer has not been acknowledged yet. -/
def storeOutstanding : State :=
  { State.reset with
    h := { conf := inTotalOrder, headConf := inTotalOrder, remoteWrites := 1
           x := (Vector.replicate 32 0).set 1 0xFFFFF00000010000 }
    remotes := [{ id := 0, hart := 0, kind := 1, addr := 0x840000000000, bytes := 8, val := 7 }]
    nextRemote := 1 }

/-- A matrix of one entry at the address in s1. -/
def oneEntry : VF := { d := 0, a := 1, b := 2, c := 0, sa := true, m := 0, mz := false, imm := 0b001001001 }

theorem getHart_storeOutstanding {n : Nat} (hn : n ≠ 0) : getHart storeOutstanding n = {} := if_neg hn

theorem noCopies_storeOutstanding : NoCopies storeOutstanding := by
  have hcore : getCore storeOutstanding (curCore storeOutstanding) = {} := rfl
  refine ⟨fun ch hch => ?_, fun n _ hn => .inr ?_, fun side n => ?_⟩
  · rw [hcore] at hch
    exact congrArg Channel.queue (Vector.eq_of_mem_replicate (Vector.mem_toList_iff.mp hch))
  · rw [getHart_storeOutstanding hn]
  · rw [hcore]
    exact ⟨List.not_mem_nil, List.not_mem_nil⟩

theorem orderReady_storeOutstanding : OrderReady storeOutstanding :=
  fun _ => ⟨fun _ hp => absurd hp List.not_mem_nil, fun h => absurd h (by decide)⟩

theorem atOnce_smld_storeOutstanding : AtOnce (.smld oneEntry) storeOutstanding := by
  refine ⟨by decide, rfl, rfl, rfl, rfl, rfl, rfl, rfl, rfl, ?_, ?_, Nat.succ_pos 7⟩
  · change ∀ q ∈ (Vector.replicate 2 ([] : List EarlyGroup)).toList, q = []
    decide
  · change ∀ r ∈ capturesOf (.smld oneEntry), isPending storeOutstanding.h r = false
    decide

theorem fits_storeOutstanding : Fits storeOutstanding := by
  have hfits : inTotalOrder.vl ≤ 16384 ∧ inTotalOrder.vl ≤ regElems inTotalOrder (confW inTotalOrder) := by decide
  exact hfits

/-- Its only instance lies in bank 8. -/
theorem scratch_storeOutstanding : Scratch storeOutstanding 0xFFFFF00000010000 4 := by
  refine ⟨rfl, by decide, by decide, by decide, fun b hlo hhi => ?_⟩
  have hb : b = 8 := Nat.le_antisymm hhi hlo
  rw [hb]
  decide +kernel

/-- Entries in the vector queue of the next state. -/
def queuedAfter : Result → Option Nat
  | .next t => some t.h.queue.length
  | _ => none

theorem queuedAfter_smld : queuedAfter (exec (.smld oneEntry) storeOutstanding) = some 1 := by decide +kernel

end Sys2Proof.Machine

namespace Sys2Proof

open Machine Claim

/-- Refutes O35: under `mo` = 2 at a scope below system an SMLD waits for the hart's outstanding remote writes (R326),
which `OrderReady` asks to be none at system scope alone. -/
theorem not_matrixLoadsAndStores : ¬ Obligations.MatrixLoadsAndStores := by
  unfold Obligations.MatrixLoadsAndStores
  intro h
  have hplace (i p q : Nat) (hi : Instance storeOutstanding oneEntry.m i) (hp : p < 1) (hq : q < 1) :
      ((readS storeOutstanding (sregOf oneEntry.a)).toNat + i * (readS storeOutstanding (sregOf oneEntry.b)).toNat +
        4 * (p * 1 + q)) % 2 ^ 64 = 0xFFFFF00000010000 := by
    obtain ⟨hlive, -, -⟩ := hi
    obtain rfl : i = 0 := Nat.lt_one_iff.mp hlive
    obtain rfl : p = 0 := Nat.lt_one_iff.mp hp
    obtain rfl : q = 0 := Nat.lt_one_iff.mp hq
    decide
  obtain ⟨hload, -⟩ := h storeOutstanding oneEntry rfl fits_storeOutstanding noCopies_storeOutstanding
    orderReady_storeOutstanding fun i p q hi hp hq =>
      (congrArg (Scratch storeOutstanding · 4) (hplace i p q hi hp hq)).mpr scratch_storeOutstanding
  obtain ⟨t, ht, ⟨acq, -, -, hstate⟩, -⟩ := hload atOnce_smld_storeOutstanding (by decide)
  have hqueue : t.h.queue = [] := by rw [hstate]
  have hwaits := queuedAfter_smld
  rw [ht, queuedAfter, hqueue] at hwaits
  exact absurd hwaits (by decide)

end Sys2Proof
end

section
/-! MSPL under `mo` = 2 while a remote write of its hart is outstanding (R317, R326): each part performs after the
hart's earlier accesses, at every scope, so the instruction waits (log 37). -/

namespace Sys2Proof.Machine

open Claim

/-- `storeOutstanding` with the hart as the owner of its core's engine. -/
def ownerStoreOutstanding : State := setCore 0 { owner := some 0 } storeOutstanding

/-- The engine's configuration, spilled to the address in s1. -/
def spillConfiguration : VF := { d := 0, a := 1, b := 0, c := 0, sa := true, m := 0, mz := false, imm := 6 }

theorem getCore_ownerStoreOutstanding :
    getCore ownerStoreOutstanding (curCore ownerStoreOutstanding) = { owner := some 0 } := rfl

theorem noCopies_ownerStoreOutstanding : NoCopies ownerStoreOutstanding := by
  refine ⟨fun ch hch => ?_, fun n _ hn => .inr ?_, fun side n => ?_⟩
  · rw [getCore_ownerStoreOutstanding] at hch
    exact congrArg Channel.queue (Vector.eq_of_mem_replicate (Vector.mem_toList_iff.mp hch))
  · have hidle : getHart ownerStoreOutstanding n = {} := if_neg hn
    rw [hidle]
  · rw [getCore_ownerStoreOutstanding]
    exact ⟨List.not_mem_nil, List.not_mem_nil⟩

theorem atOnce_mspl_ownerStoreOutstanding : AtOnce (.mspl spillConfiguration) ownerStoreOutstanding := by
  refine ⟨by decide, rfl, rfl, rfl, rfl, rfl, rfl, rfl, rfl, ?_, ?_, Nat.succ_pos 7⟩
  · change ∀ q ∈ (Vector.replicate 2 ([] : List EarlyGroup)).toList, q = []
    decide
  · change ∀ r ∈ capturesOf (.mspl spillConfiguration), isPending ownerStoreOutstanding.h r = false
    decide

/-- The 64 bytes of the configuration lie in bank 8. -/
theorem scratch_ownerStoreOutstanding : Scratch ownerStoreOutstanding 0xFFFFF00000010000 64 := by
  refine ⟨rfl, by decide, by decide, by decide, fun b hlo hhi => ?_⟩
  have hb : b = 8 := Nat.le_antisymm hhi hlo
  rw [hb]
  decide +kernel

theorem queuedAfter_mspl : queuedAfter (exec (.mspl spillConfiguration) ownerStoreOutstanding) = some 1 := by
  decide +kernel

end Sys2Proof.Machine

namespace Sys2Proof

open Machine Claim

/-- Refutes O39: under `mo` = 2 at a scope below system an MSPL waits for the hart's outstanding remote writes before
its first part (R326, log 37), which `OrderReady` asks to be none at system scope alone. -/
theorem not_engineObjectsSpillAndFill : ¬ Obligations.EngineObjectsSpillAndFill := by
  unfold Obligations.EngineObjectsSpillAndFill
  intro h
  obtain ⟨hspill, -⟩ := h ownerStoreOutstanding spillConfiguration rfl rfl noCopies_ownerStoreOutstanding
    orderReady_storeOutstanding (by decide) (by decide) scratch_ownerStoreOutstanding
  obtain ⟨t, ht, ⟨-, hstate⟩, -⟩ := hspill atOnce_mspl_ownerStoreOutstanding
  have hqueue : t.h.queue = [] := by rw [hstate]
  have hwaits := queuedAfter_mspl
  rw [ht, queuedAfter, hqueue] at hwaits
  exact absurd hwaits (by decide)

end Sys2Proof
end

section
/-! An engine instruction of the hart that owns the engine (R14, R170): its checks at the head pass, and it leaves its
hart and its core as its run makes them. -/

namespace Sys2Proof.Machine

open Claim

/-! ## The checks at the head -/

theorem engineOwned_of_owns (p : PerfFn) (c : VConf) (a b : Word) {s : State} (hown : Owns s) :
    engineOwned p c a b s = p c a b s := by
  have howns : ownsEngine s = true := beq_iff_eq.mpr hown
  rw [engineOwned, if_pos howns]

theorem engineWhen_of_ok {ok : VConf → Core → Bool} (p : PerfFn) {c : VConf} (a b : Word) {s : State}
    (h : ok c (coreOf s) = true) : engineWhen ok p c a b s = p c a b s := if_pos h

theorem rowAligned_of_start (p : PerfFn) (c : VConf) (a b : Word) {s : State} (h0 : s.h.vstart = 0) :
    rowAligned p c a b s = p c a b s := by
  rw [rowAligned, perfWhen, if_pos (by rw [h0]; rfl)]

theorem frmPlain_of_ne (p : PerfFn) (c : VConf) (a b : Word) {s : State} (h : s.h.frm ≠ 6) :
    frmPlain p c a b s = p c a b s := by
  rw [frmPlain, perfWhen, if_pos (bne_iff_ne.mpr h)]

/-- Beginning at the head right after the commit changes no core and keeps the place. -/
theorem owns_aloneAtHead (i : Instr) {s : State} (hown : Owns s) : Owns (aloneAtHead i s) := hown

theorem vstart_aloneAtHead (i : Instr) {s : State} (h0 : s.h.vstart = 0) : (aloneAtHead i s).h.vstart = 0 := h0

/-! ## The rows of a whole run (R174) -/

/-- A run from element 0 that no front holds back goes through every row. -/
theorem rowsTodo_whole {c : VConf} {h : Hart} (h0 : h.vstart = 0) (hfront : h.front = 16384) (hvl : c.vl ≤ 4096) :
    rowsTodo c h = fromTo 0 (c.vl / 64) := by
  rw [rowsTodo, h0, hfront, Nat.min_eq_left (hvl.trans (by decide)), Nat.zero_div]

theorem rowsEnd_whole {c : VConf} {s : State} (h0 : s.h.vstart = 0) (hfront : s.h.front = 16384) (hvl : c.vl ≤ 4096) :
    rowsEnd c s = .done s := by
  rw [rowsEnd, if_neg (by omega), withVstart_of_vstart_zero h0]

/-! ## The next state -/

/-- What an instruction leaves whose run makes its hart's registers those of h' and the cores those of a table. -/
def LeavesCores (i : Instr) (s : State) (h' : Hart) (cores : Table Core) : Prop :=
  ∃ t, exec i s = .next t ∧ OnlyVectorCore s t ∧ t.h.v = h'.v ∧ t.h.m = h'.m ∧ t.h.g = h'.g ∧
    t.h.fflags = h'.fflags ∧ coreOf t = coreOf { s with cores := cores } ∧
    ∀ c, getCore t c = getCore { s with cores := cores } c

theorem leavesCores_of_perf {i : Instr} {check : CheckFn} {perf : PerfFn} {s : State} {h' : Hart} {cores : Table Core}
    (hexec : exec i s = commitVector i check perf s) (hat : AtOnce i s) (hc : check s.h.conf = 0)
    (hperf : perf s.h.conf (captureA i s) (captureB i s) (aloneAtHead i s) =
      .done { aloneAtHead i s with h := h', cores := cores })
    (hregs : RegistersOnly (aloneAtHead i s).h h') : LeavesCores i s h' cores := by
  have hatHead : AtOnce i { s with cores := cores } := hat
  have honly : OnlyVector { s with cores := cores } (completed i { s with cores := cores } h') :=
    onlyVector_completed hatHead hregs
  have hrun : exec i s = .next (completed i { s with cores := cores } h') := by
    obtain ⟨-, hfrozen, hq, -, -, -, -, -, -, -, hfree, hrb⟩ := hat
    have hlen : s.h.queue.length < 32 := by rw [hq]; decide
    have hused : readbackUsed s.h < 8 := by rw [readbackUsed, hq]; exact hrb
    rw [hexec, commitVector_alone perf hfrozen hc hfree hlen hused hq, hperf]
    rfl
  have hcores (c : Nat) :
      getCore (completed i { s with cores := cores } h') c = getCore { s with cores := cores } c := by
    rw [getCore, getCore]
    rfl
  exact ⟨_, hrun, honly, completed_v .., completed_m .., completed_g .., completed_fflags .., hcores _, hcores⟩

/-- The core's entry in the table of cores. -/
theorem LeavesCores.setCore {i : Instr} {s : State} {h' : Hart} {k : Core}
    (h : LeavesCores i s h' (tset s.cores (curCore s) k)) :
    ∃ t, exec i s = .next t ∧ OnlyVectorCore s t ∧ t.h.v = h'.v ∧ t.h.m = h'.m ∧ t.h.g = h'.g ∧
      t.h.fflags = h'.fflags ∧ coreOf t = k ∧ ∀ c, c ≠ curCore s → getCore t c = getCore s c := by
  obtain ⟨t, ht, honly, hv, hm, hg, hfl, hcore, hcores⟩ := h
  exact ⟨t, ht, honly, hv, hm, hg, hfl, hcore.trans (getCore_setCore (curCore s) k s),
    fun c hne => (hcores c).trans (getCore_setCore_of_ne (curCore s) c k s hne)⟩

theorem registersOnly_orMx (fl : Nat) {h h' : Hart} (hv : VectorsOnly h h') (h0 : h.vstart = 0) :
    RegistersOnly h (orMx fl h') := by
  obtain ⟨v, vdirty, marks, rfl⟩ := hv
  refine ⟨v, vdirty, marks, h.m, h.g, h.fflags, h.smflags, h.mxflags ||| BitVec.ofNat 7 fl, h.readback, ?_⟩
  rw [← h0, orMx]

/-- An engine instruction whose run makes its core the one given, and joins flags of the engine. -/
theorem makesCore_of_perf {i : Instr} {check : CheckFn} {perf : PerfFn} {s : State} {k : Core} {fl : Nat}
    (hexec : exec i s = commitVector i check perf s) (hat : AtOnce i s) (h0 : s.h.vstart = 0) (hc : check s.h.conf = 0)
    (hperf : perf s.h.conf (captureA i s) (captureB i s) (aloneAtHead i s) =
      .done { setCore (curCore s) k (aloneAtHead i s) with h := orMx fl (aloneAtHead i s).h }) : MakesCore i s k :=
  (leavesCores_of_perf hexec hat hc hperf (registersOnly_orMx fl (.refl _) h0)).setCore

theorem orMx_zero (h : Hart) : orMx 0 h = h := by simp [orMx]

end Sys2Proof.Machine
end

section
/-! The matrix engine (R169 to R180): configuration, planes, accumulators, and the rows that MSTRM adds. -/

namespace Sys2Proof.Machine

open Claim

/-! ## Configuration, planes and clearing -/

/-- A plane is re-expressed from the vector registers alone (R173). -/
theorem requantPlane_congr {h h' : Hart} (hv : h'.v = h.v) (c : VConf) (f : VF) :
    requantPlane c f h' = requantPlane c f h := by
  simp only [requantPlane, scaleByte, vget_congr hv, vreg_congr hv]

section
variable {s : State} {f : VF} (hown : Owns s) (h0 : s.h.vstart = 0)

include hown h0 in
theorem makesCore_mcfg (hat : AtOnce (.mcfg f) s) (hlegal : McfgLegal f) :
    MakesCore (.mcfg f) s { coreOf s with engConf := BitVec.ofNat 8 f.imm.toNat } := by
  refine makesCore_of_perf (fl := 0) rfl hat h0 (checkMcfg_of_legal _ hlegal) ?_
  rw [perfMcfg, engineOwned_of_owns _ _ _ _ (owns_aloneAtHead _ hown), orMx_zero]
  rfl

include hown h0 in
theorem makesCore_mswap (hat : AtOnce (.mswap f) s) :
    MakesCore (.mswap f) s { coreOf s with wpa := (coreOf s).wps, wps := (coreOf s).wpa } := by
  refine makesCore_of_perf (fl := 0) rfl hat h0 rfl ?_
  rw [perfMswap, engineOwned_of_owns _ _ _ _ (owns_aloneAtHead _ hown), orMx_zero]
  rfl

include hown h0 in
theorem makesCore_mzero (hat : AtOnce (.mzero f) s) :
    MakesCore (.mzero f) s { coreOf s with acc := (coreOf s).acc.setIfInBounds f.d.toNat 0 } := by
  refine makesCore_of_perf (fl := 0) rfl hat h0 rfl ?_
  rw [perfMzero, engineOwned_of_owns _ _ _ _ (owns_aloneAtHead _ hown), orMx_zero]
  rfl

include hown h0 in
theorem makesCore_mldw (hat : AtOnce (.mldw f) s) (hlegal : MldwLegal s f) (hfmt : fmtOf s = bfOf (coreOf s)) :
    MakesCore (.mldw f) s { coreOf s with
      wps := if f.imm.toNat = 2 then (requantPlane s.h.conf f s.h).1 else loadPlane s.h.conf f s } := by
  have hok : (confFmt s.h.conf == bfOf (coreOf (aloneAtHead (.mldw f) s))) = true := beq_iff_eq.mpr hfmt
  by_cases hmode : f.imm.toNat = 2
  · have hregs : (aloneAtHead (.mldw f) s).h.v = s.h.v := rfl
    refine makesCore_of_perf (fl := (requantPlane s.h.conf f s.h).2) rfl hat h0 (checkMldw_of_legal hlegal) ?_
    rw [perfMldw, engineOwned_of_owns _ _ _ _ (owns_aloneAtHead _ hown), engineWhen_of_ok _ _ _ hok, if_pos hmode,
      if_pos hmode, requantPlane_congr hregs]
    generalize requantPlane s.h.conf f s.h = r
    rfl
  · refine makesCore_of_perf (fl := 0) rfl hat h0 (checkMldw_of_legal hlegal) ?_
    rw [perfMldw, engineOwned_of_owns _ _ _ _ (owns_aloneAtHead _ hown), engineWhen_of_ok _ _ _ hok, if_neg hmode,
      if_neg hmode, orMx_zero]
    rfl

end

/-! ## Entries of accumulators (R166) -/

/-- A part of the bits that were written. -/
theorem bitsGet_bitsSet_of_within (x y : Nat) {pos len p l : Nat} (hlo : pos ≤ p) (hhi : p + l ≤ pos + len) :
    bitsGet (bitsSet x pos len y) p l = bitsGet y (p - pos) l := by
  refine Nat.eq_of_testBit_eq fun k => ?_
  rw [testBit_bitsGet, testBit_bitsGet, testBit_bitsSet]
  by_cases hk : k < l
  · rw [if_pos (by omega), Nat.sub_add_comm hlo]
  · simp [hk]

/-- An element of a packed bit string, zero past its end. -/
theorem bitsGet_packBits (w : Nat) (l : List Nat) (n : Nat) :
    bitsGet (packBits w l) (w * n) w = l.getD n 0 % 2 ^ w := by
  induction l generalizing n with
  | nil => simp [packBits, bitsGet]
  | cons x l ih =>
    have hx : x % 2 ^ w < 2 ^ w := Nat.mod_lt _ (Nat.two_pow_pos w)
    rw [packBits, Nat.shiftLeft_eq, bitsGet_eq_div_mod, Nat.add_comm, Nat.mul_comm (packBits w l)]
    cases n with
    | zero => simp
    | succ n =>
      rw [Nat.mul_succ, Nat.add_comm (w * n), Nat.pow_add, ← Nat.div_div_eq_div_mul,
        Nat.mul_add_div (Nat.two_pow_pos w), Nat.div_eq_of_lt hx, Nat.add_zero, ← bitsGet_eq_div_mod, ih]
      rfl

/-- An entry after a row was written. -/
theorem accEntry_accRow (acc m : Nat) (row : List Nat) (p : Nat) {n : Nat} (hn : n < 64) :
    accEntry (accRow acc m row) p n = if p = m then row.getD n 0 % 2 ^ 48 else accEntry acc p n := by
  rw [accEntry, accRow]
  by_cases hp : p = m
  · subst hp
    have hplace : 48 * (64 * p + n) - 3072 * p = 48 * n := by omega
    rw [if_pos rfl, bitsGet_bitsSet_of_within _ _ (by omega) (by omega), hplace, bitsGet_packBits]
  · rw [if_neg hp, bitsGet_bitsSet_of_disjoint _ _ (by omega), accEntry]

/-- An accumulator whose first rows were cleared. -/
theorem accEntry_cleared (acc M : Nat) {m n : Nat} (hm : m < M) (hn : n < 64) :
    accEntry (bitsSet acc 0 (48 * (64 * M)) 0) m n = 0 := by
  rw [accEntry, bitsGet_bitsSet_of_within _ _ (Nat.zero_le _) (by omega), bitsGet]
  simp

theorem getAcc_setAcc (k : Core) {n : Nat} (hn : n < 4) (x : Nat) : getAcc (setAcc k n x) n = x := by
  have hsize : n < k.acc.toArray.size := by simpa using hn
  simp [getAcc, setAcc, Array.getD_eq_getD_getElem?, Array.getElem?_setIfInBounds_self_of_lt hsize]

theorem acc_setAcc_of_ne (k : Core) (n x : Nat) {j : Fin 4} (hj : j.val ≠ n) : (setAcc k n x).acc[j] = k.acc[j] :=
  Vector.getElem_setIfInBounds_ne j.isLt (Ne.symm hj)

/-! ## Streaming (R174) -/

/-- One entry of a row that MSTRM adds: groups of eight products, onto what the accumulator holds (R90). -/
def streamEntry (row : List (Option (XVal × Nat))) (col : List (XVal × Nat)) (t : Nat) : Nat :=
  ((upTo 8).foldl (fun (acc : Nat × Nat) g =>
    let (x, fl) := matGroupAdd acc.1
      (((((row.zip col).map fun p => p.1.map fun x => mulVals x p.2).drop (8 * g)).take 8).filterMap id)
    (x, acc.2 ||| fl)) (t, 0)).1

theorem streamRow_getD (row : List (Option (XVal × Nat))) (col : Nat → List (XVal × Nat)) (t : Nat → Nat) {n : Nat}
    (hn : n < 64) : (streamRow row col t).1.getD n 0 = streamEntry row (col n) (t n) := by
  simp [streamRow, streamEntry, upTo, List.getD_eq_getElem?_getD, hn]

/-- Row m of the vector as MSTRM streams it: no element at the pads (R174). -/
def streamedRow (c : VConf) (f : VF) (h : Hart) (m : Nat) : List (Option (XVal × Nat)) :=
  (upTo 64).map fun j => if isPad c (64 * m + j) then none else some (rowValue c f h (64 * m + j))

/-- The columns of a plane. -/
def planeColumns (p : Plane) : List (List (XVal × Nat)) :=
  (upTo 64).map fun n => (upTo 64).map fun j => planeValue p j n

theorem planeColumns_getD (p : Plane) {n : Nat} (hn : n < 64) :
    (planeColumns p).getD n [] = (List.range 64).map fun j => planeValue p j n := by
  simp [planeColumns, upTo, List.getD_eq_getElem?_getD, hn]

/-- The accumulator and the flags after one more row. -/
def streamStep (c : VConf) (f : VF) (h : Hart) (p : Plane) (st : Nat × Nat) (m : Nat) : Nat × Nat :=
  let r := streamRow (streamedRow c f h m) (fun n => (planeColumns p).getD n []) (accEntry st.1 m)
  (accRow st.1 m r.1, st.2 ||| r.2)

/-- Rows that are added do not meet: each entry is its row's, onto what the accumulator held before. -/
theorem accEntry_streamSteps (c : VConf) (f : VF) (h : Hart) (p : Plane) (acc M : Nat) {m n : Nat} (hm : m < M)
    (hn : n < 64) :
    accEntry ((fromTo 0 M).foldl (streamStep c f h p) (acc, 0)).1 m n =
      streamEntry (streamedRow c f h m) ((List.range 64).map fun j => planeValue p j n) (accEntry acc m n)
        % 2 ^ 48 := by
  have hloop := foldl_fromTo (p := 0) (q := M) (a := (acc, 0)) (g := streamStep c f h p)
    (motive := fun i st => ∀ m n, n < 64 → accEntry st.1 m n =
      if m < i then streamEntry (streamedRow c f h m) ((List.range 64).map fun j => planeValue p j n)
        (accEntry acc m n) % 2 ^ 48
      else accEntry acc m n)
    (fun m n _ => (if_neg (Nat.not_lt_zero m)).symm) fun i st _ _ hst m n hn => ?_
  · rw [hloop m n hn, if_pos (lt_max_of_lt_right hm)]
  · rw [streamStep, accEntry_accRow _ _ _ _ hn]
    by_cases hmi : m = i
    · subst hmi
      rw [if_pos rfl, if_pos (Nat.lt_succ_self m), streamRow_getD _ _ _ hn, planeColumns_getD _ hn, hst m n hn,
        if_neg (Nat.lt_irrefl m)]
    · rw [if_neg hmi, hst m n hn]
      exact if_congr (by omega) rfl rfl

/-- What MSTRM starts from: its rows cleared where its immediate says so (R174). -/
def streamStart (c : VConf) (f : VF) (acc : Nat) : Nat :=
  if f.imm.toNat % 2 = 1 then bitsSet acc 0 (48 * c.vl) 0 else acc

/-- The accumulator after MSTRM has run from its first row to its last. -/
def streamedAcc (s : State) (f : VF) : Nat × Nat :=
  (fromTo 0 (s.h.conf.vl / 64)).foldl (streamStep s.h.conf f s.h (coreOf s).wpa)
    (streamStart s.h.conf f (getAcc (coreOf s) f.d.toNat), 0)

theorem streamRows_whole (i : Instr) {s : State} (f : VF) (h0 : s.h.vstart = 0) (hfront : s.h.front = 16384)
    (hvl : s.h.conf.vl ≤ 4096) :
    streamRows s.h.conf f (aloneAtHead i s) =
      { setCore (curCore s) (setAcc (coreOf s) f.d.toNat (streamedAcc s f).1) (aloneAtHead i s) with
        h := orMx (streamedAcc s f).2 (aloneAtHead i s).h } := by
  have hstart : (aloneAtHead i s).h.vstart = 0 := h0
  have hzero : (f.imm.toNat % 2 == 1 && (aloneAtHead i s).h.vstart == 0) = decide (f.imm.toNat % 2 = 1) := by
    rw [hstart]
    exact Bool.and_true _
  have hrows : rowsTodo s.h.conf (aloneAtHead i s).h = fromTo 0 (s.h.conf.vl / 64) := rowsTodo_whole h0 hfront hvl
  rw [streamRows, hzero, hrows]
  simp only [decide_eq_true_eq]
  rfl

theorem acc_lt_of_wellFormed {i : Instr} {r : Roles} {f : VF} (hw : wellFormed i = true)
    (hroles : rolesOf i = some (r, f)) (hd : r.d = .acc) : f.d.toNat < 4 := by
  rw [wellFormed, hroles, Bool.and_eq_true] at hw
  simp only [rolesOk, hd, roleOk, Bool.and_eq_true, decide_eq_true_eq] at hw
  obtain ⟨-, ⟨⟨⟨⟨hlt, -⟩, -⟩, -⟩, -⟩, -⟩ := hw
  exact hlt

/-- MSTRM adds each row of the vector, multiplied by the plane, into its accumulator (R174). -/
theorem streams_mstrm {s : State} {f : VF} (hown : Owns s) (h0 : s.h.vstart = 0) (hat : AtOnce (.mstrm f) s)
    (hlegal : MstrmLegal s f) (hfmt : fmtOf s = afOf (coreOf s)) (hloaded : (coreOf s).wpa.loaded = true) :
    MakesCore (.mstrm f) s (setAcc (coreOf s) f.d.toNat (streamedAcc s f).1) := by
  have hcheck := checkMstrm_of_legal hlegal
  obtain ⟨⟨-, -, hvl⟩, -⟩ := hlegal
  have hfront : s.h.front = 16384 := by
    obtain ⟨-, -, -, -, -, -, hfront, -⟩ := hat
    exact hfront
  have hok : (confFmt s.h.conf == afOf (coreOf (aloneAtHead (.mstrm f) s)) &&
      (coreOf (aloneAtHead (.mstrm f) s)).wpa.loaded) = true := by
    rw [Bool.and_eq_true]
    exact ⟨beq_iff_eq.mpr hfmt, hloaded⟩
  refine makesCore_of_perf (fl := (streamedAcc s f).2) rfl hat h0 hcheck ?_
  rw [perfMstrm, engineOwned_of_owns _ _ _ _ (owns_aloneAtHead _ hown),
    rowAligned_of_start _ _ _ _ (vstart_aloneAtHead _ h0), engineWhen_of_ok _ _ _ hok,
    streamRows_whole _ f h0 hfront hvl]
  exact rowsEnd_whole h0 hfront hvl

theorem accEntry_streamStart {c : VConf} (f : VF) (acc : Nat) (hvl : c.vl % 64 = 0) {m n : Nat} (hm : m < c.vl / 64)
    (hn : n < 64) : accEntry (streamStart c f acc) m n = if f.imm.toNat % 2 = 1 then 0 else accEntry acc m n := by
  have hwhole : 64 * (c.vl / 64) = c.vl := by omega
  rw [streamStart]
  by_cases hzero : f.imm.toNat % 2 = 1
  · rw [if_pos hzero, if_pos hzero, ← hwhole, accEntry_cleared _ _ hm hn]
  · rw [if_neg hzero, if_neg hzero]

end Sys2Proof.Machine

namespace Sys2Proof

open Machine Claim

/-- Settles O36: each instruction makes its core what its run says; MSTRM's rows go into entries of their own. -/
theorem matrixEngineInstructions : Obligations.MatrixEngineInstructions := by
  unfold Obligations.MatrixEngineInstructions
  intro s f hown h0 k imm
  refine ⟨fun hat hl => makesCore_mcfg hown h0 hat hl, fun hat => makesCore_mswap hown h0 hat,
    fun hat => makesCore_mzero hown h0 hat, fun hat hl hfmt => makesCore_mldw hown h0 hat hl hfmt,
    fun hat hl hfmt hloaded => ?_⟩
  have hd : f.d.toNat < 4 := acc_lt_of_wellFormed hat.1 rfl rfl
  obtain ⟨t, ht, honly, hv, hm, hg, -, hcore, -⟩ := streams_mstrm hown h0 hat hl hfmt hloaded
  obtain ⟨⟨h64, -⟩, -⟩ := hl
  refine ⟨t, ht, honly, hv, hm, hg, ?_, fun n hn => ?_, fun m n hmrow hn => ?_⟩
  · rw [hcore]
    rfl
  · rw [hcore]
    exact acc_setAcc_of_ne _ _ _ hn
  intro start row
  rw [hcore, getAcc_setAcc _ hd, streamedAcc, accEntry_streamSteps _ _ _ _ _ _ hmrow hn, streamRow_getD _ _ _ hn,
    accEntry_streamStart f _ h64 hmrow hn]
  rfl

end Sys2Proof
end

section
/-! Exact values in their order (R190): on finite values the comparison is that of the rational numbers they stand for,
so that the greatest of some columns, the lowest of equal ones, is what a pass over them finds. -/

namespace Sys2Proof.Machine

open Claim

/-- A finite value: neither a NaN nor an infinity. -/
def IsFinite (x : XVal) : Prop := isNanX x = false ∧ isInfX x = false

theorem isFinite_iff {x : XVal} : IsFinite x ↔ ∃ n m e st, x = .fin n m e st := by
  cases x with
  | nan s => simp [IsFinite, isNanX]
  | inf n => simp [IsFinite, isInfX]
  | fin n m e st => simp [IsFinite, isNanX, isInfX]

theorem isFinite_absX {x : XVal} (h : IsFinite x) : IsFinite (absX x) := by
  obtain ⟨n, m, e, st, rfl⟩ := isFinite_iff.mp h
  exact ⟨rfl, rfl⟩

/-- The rational number that a finite value stands for. -/
def ratOf : XVal → ℚ
  | .fin n m e _ => (if n then -(m : ℚ) else m) * 2 ^ e
  | _ => 0

/-- A mantissa taken to a lower exponent. -/
theorem mantAt_mul (n : Bool) (m : Nat) {e e0 : Int} (he : e0 ≤ e) (st : Bool) :
    (mantAt n m e e0 : ℚ) * 2 ^ e0 = ratOf (.fin n m e st) := by
  have hsplit : e = ((e - e0).toNat : Int) + e0 := by omega
  have hshift : ((m <<< (e - e0).toNat : Nat) : ℚ) * 2 ^ e0 = m * 2 ^ e := by
    conv_rhs => rw [hsplit, zpow_add₀ two_ne_zero, zpow_natCast]
    rw [Nat.shiftLeft_eq]
    push_cast
    ring
  cases n with
  | false =>
    simp only [mantAt, ratOf, Bool.false_eq_true, if_false, Int.cast_natCast]
    exact hshift
  | true =>
    simp only [mantAt, ratOf, if_true, Int.cast_neg, Int.cast_natCast, neg_mul]
    rw [hshift]

theorem cmpX_pos_iff {x y : XVal} (hx : IsFinite x) (hy : IsFinite y) : 0 < cmpX x y ↔ ratOf y < ratOf x := by
  obtain ⟨n, m, e, st, rfl⟩ := isFinite_iff.mp hx
  obtain ⟨k, l, g, st', rfl⟩ := isFinite_iff.mp hy
  have hpow : (0 : ℚ) < 2 ^ min e g := zpow_pos two_pos _
  rw [← mantAt_mul n m (min_le_left e g) st, ← mantAt_mul k l (min_le_right e g) st', mul_lt_mul_iff_left₀ hpow,
    Int.cast_lt, cmpX, Int.sign_pos_iff]
  exact Int.sub_pos

theorem aboveX_iff {x y : XVal} (hx : IsFinite x) (hy : IsFinite y) : aboveX x y = true ↔ ratOf y < ratOf x := by
  rw [← cmpX_pos_iff hx hy, aboveX, hx.1, hy.1]
  simp

/-! ## The lowest of the greatest -/

/-- What a pass over columns in rising order finds that goes on to a column only where it lies above the last. -/
structure LowestGreatest (above : Nat → Nat → Bool) (l : List Nat) (r : Nat) : Prop where
  mem : r ∈ l
  greatest : ∀ j ∈ l, above j r = false
  lowest : ∀ j ∈ l, j < r → above r j = true

/-- One more column is passed. -/
theorem LowestGreatest.snoc {above : Nat → Nat → Bool} {q : Nat → ℚ} {l : List Nat} {r k : Nat}
    (hr : LowestGreatest above l r) (hsorted : (l ++ [k]).Pairwise (· < ·))
    (horder : ∀ i ∈ l ++ [k], ∀ j ∈ l ++ [k], (above i j = true ↔ q j < q i)) :
    LowestGreatest above (l ++ [k]) (if above k r then k else r) := by
  obtain ⟨hmem, hgreatest, hlowest⟩ := hr
  have hin {j : Nat} (hj : j ∈ l) : j ∈ l ++ [k] := List.mem_append_left _ hj
  have hk : k ∈ l ++ [k] := List.mem_append_right _ List.mem_cons_self
  have hbelow (j : Nat) (hj : j ∈ l) : j < k := (List.pairwise_append.mp hsorted).2.2 j hj k List.mem_cons_self
  have hle (j : Nat) (hj : j ∈ l) : q j ≤ q r := by
    rw [← not_lt, ← horder j (hin hj) r (hin hmem), hgreatest j hj]
    simp
  have hself : above k k = false := by
    rw [← Bool.not_eq_true, horder k hk k hk]
    exact lt_irrefl _
  by_cases habove : above k r = true
  · have hlt : q r < q k := (horder k hk r (hin hmem)).mp habove
    rw [if_pos habove]
    refine ⟨hk, fun j hj => ?_, fun j hj hjk => ?_⟩
    · rcases List.mem_append.mp hj with hjl | hjk
      · rw [← Bool.not_eq_true, horder j hj k hk]
        exact not_lt.mpr ((hle j hjl).trans hlt.le)
      · rw [List.mem_singleton.mp hjk, hself]
    · rcases List.mem_append.mp hj with hjl | hjk'
      · exact (horder k hk j hj).mpr ((hle j hjl).trans_lt hlt)
      · exact absurd (List.mem_singleton.mp hjk') hjk.ne
  · rw [if_neg habove]
    refine ⟨hin hmem, fun j hj => ?_, fun j hj hjr => ?_⟩
    · rcases List.mem_append.mp hj with hjl | hjk
      · exact hgreatest j hjl
      · rw [List.mem_singleton.mp hjk]
        exact Bool.eq_false_of_not_eq_true habove
    · rcases List.mem_append.mp hj with hjl | hjk
      · exact hlowest j hjl hjr
      · rw [List.mem_singleton.mp hjk] at hjr
        exact absurd (hbelow r hmem) hjr.asymm

theorem lowestGreatest_foldl {above : Nat → Nat → Bool} {q : Nat → ℚ} {l : List Nat} (hne : l ≠ [])
    (hsorted : l.Pairwise (· < ·)) (horder : ∀ i ∈ l, ∀ j ∈ l, (above i j = true ↔ q j < q i)) :
    LowestGreatest above l (l.foldl (fun b j => if above j b then j else b) (l.headD 0)) := by
  induction l using List.reverseRecOn with
  | nil => exact absurd rfl hne
  | append_singleton l k ih =>
    by_cases hl : l = []
    · subst hl
      have hself : above k k = false := by
        rw [← Bool.not_eq_true, horder k List.mem_cons_self k List.mem_cons_self]
        exact lt_irrefl _
      have hfold : ([] ++ [k]).foldl (fun b j => if above j b then j else b) (([] ++ [k]).headD 0) = k := by
        simp [hself]
      rw [hfold]
      refine ⟨List.mem_cons_self, fun j hj => ?_, fun j hj hjk => ?_⟩
      · rw [List.mem_singleton.mp hj, hself]
      · exact absurd (List.mem_singleton.mp hj) hjk.ne
    · have hhead : (l ++ [k]).headD 0 = l.headD 0 := by
        obtain ⟨x, xs, rfl⟩ := List.exists_cons_of_ne_nil hl
        rfl
      rw [hhead, List.foldl_append, List.foldl_cons, List.foldl_nil]
      refine (ih hl (List.pairwise_append.mp hsorted).1 fun i hi j hj => ?_).snoc hsorted horder
      exact horder i (List.mem_append_left _ hi) j (List.mem_append_left _ hj)

end Sys2Proof.Machine
end

section
/-! The projections of a row (R187 to R194): what Michelot's iteration and the pooling of blocks end with, and the
projection and the record of a row for each set. -/

namespace Sys2Proof.Machine

open Claim

/-! ## Sets of columns -/

theorem bitsOf_eq_maskFor (l : List Nat) : bitsOf l = maskFor l := by
  rw [bitsOf, maskFor, List.sum_eq_foldl, List.foldl_map]

/-- Columns in rising order below 64 are at most 64. -/
theorem length_le_of_columns {K : List Nat} (hsorted : K.Pairwise (· < ·)) (hlt : ∀ j ∈ K, j < 64) : K.length ≤ 64 := by
  have hnodup : K.Nodup := hsorted.imp fun h => h.ne
  have hsub : K ⊆ List.range 64 := fun j hj => List.mem_range.mpr (hlt j hj)
  have hlen := (List.subperm_of_subset hnodup hsub).length_le
  rwa [List.length_range] at hlen

/-! ## Michelot's iteration (R190) -/

/-- With as many rounds left as there are columns, the iteration ends as R190 says: each but the last loses some. -/
theorem simplexLoop_ends {x : List XVal} {z : XVal} {K : List Nat} (hsorted : K.Pairwise (· < ·))
    (hfin : ∀ j ∈ K, IsFinite (colVal x j)) (n : Nat) {l : List Nat} {t : XVal × Nat} (hsub : l.Sublist K)
    (hne : l ≠ []) (hlen : l.length ≤ n) (ht : t.1 = (simplexTau x z l).1) :
    SimplexEnds (colVal x) z K (simplexLoop x z n l t).1 (simplexLoop x z n l t).2.1 := by
  induction n generalizing l t with
  | zero => exact absurd (List.length_eq_zero_iff.mp (Nat.le_zero.mp hlen)) hne
  | succ n ih =>
    unfold simplexLoop
    dsimp only
    split
    case h_1 hnone =>
      have hbest := lowestGreatest_foldl (above := fun j b => aboveX (colVal x j) (colVal x b))
        (q := fun j => ratOf (colVal x j)) hne (hsorted.sublist hsub)
        fun i hi j hj => aboveX_iff (hfin i (hsub.subset hi)) (hfin j (hsub.subset hj))
      refine .inr ⟨l, _, hsub, hbest.mem, rfl, rfl, fun j hj => ⟨?_, hbest.greatest j hj, hbest.lowest j hj⟩⟩
      have hbelow : aboveX (colVal x j) t.1 = false :=
        Bool.eq_false_of_not_eq_true (List.filter_eq_nil_iff.mp hnone j hj)
      rwa [ht] at hbelow
    case h_2 k l' hsome =>
      rw [hsome]
      by_cases hsame : k :: l' = l
      · rw [if_pos hsame]
        refine .inl ⟨hsub, hne, ht, fun j hj => ?_⟩
        rw [← hsame, ← hsome] at hj
        exact (List.mem_filter.mp hj).2
      · rw [if_neg hsame]
        have hless : (k :: l').length < l.length := by
          rw [← hsome]
          refine lt_of_le_of_ne (List.length_filter_le _ _) fun heq => hsame ?_
          rw [← hsome]
          exact List.filter_sublist.eq_of_length heq
        refine ih (.trans ?_ hsub) (List.cons_ne_nil _ _) (by omega) rfl
        rw [← hsome]
        exact List.filter_sublist

theorem simplexOf_ends {x : List XVal} {z : XVal} {K : List Nat} (hne : K ≠ []) (hsorted : K.Pairwise (· < ·))
    (hlt : ∀ j ∈ K, j < 64) (hfin : ∀ j ∈ K, IsFinite (colVal x j)) :
    SimplexEnds (colVal x) z K (simplexOf x z K).1 (simplexOf x z K).2.1 :=
  simplexLoop_ends hsorted hfin 64 (.refl K) hne (length_le_of_columns hsorted hlt) rfl

/-! ## Pooling (R194) -/

/-- Whether the last two blocks, q the later one, are merged. -/
def violates (x : Nat → XVal) (down : Bool) (q p : List Nat) : Bool :=
  if down then aboveX (meanOf x q) (meanOf x p) else aboveX (meanOf x p) (meanOf x q)

/-- Neighbouring blocks, the later one first, that do not violate the order. -/
def InOrder (x : Nat → XVal) (down : Bool) (q p : List Nat) : Prop := violates x down q p = false

/-- The blocks, last first, of the columns passed so far. -/
structure Pooled (x : Nat → XVal) (down : Bool) (done : List Nat) (bs : List (List Nat)) : Prop where
  columns : bs.reverse.flatten = done
  nonempty : ∀ b ∈ bs, b ≠ []
  ordered : bs.IsChain (InOrder x down)
  short : bs.length ≤ done.length

theorem poolMerge_two (x : List XVal) (down : Bool) (n : Nat) (q p : List Nat) (bs : List (List Nat)) (fl : Nat) :
    ∃ fl', poolMerge x down (n + 1) (q :: p :: bs) fl =
      if violates (colVal x) down q p then poolMerge x down n ((p ++ q) :: bs) fl' else (q :: p :: bs, fl') :=
  ⟨_, rfl⟩

/-- Blocks are merged until the last two are in order; one block less with each merge bounds the rounds. -/
theorem pooled_poolMerge {x : List XVal} {down : Bool} {done : List Nat} (n : Nat) {bs : List (List Nat)} (fl : Nat)
    (hcols : bs.reverse.flatten = done) (hne : ∀ b ∈ bs, b ≠ []) (htail : bs.tail.IsChain (InOrder (colVal x) down))
    (hshort : bs.length ≤ done.length) (hlen : bs.length ≤ n + 1) :
    Pooled (colVal x) down done (poolMerge x down n bs fl).1 := by
  induction n generalizing bs fl with
  | zero =>
    have hchain : bs.IsChain (InOrder (colVal x) down) := by
      match bs, hlen with
      | [], _ => exact .nil
      | [b], _ => exact .singleton b
    rw [poolMerge]
    exact ⟨hcols, hne, hchain, hshort⟩
  | succ n ih =>
    match bs with
    | [] => exact ⟨hcols, hne, .nil, hshort⟩
    | [b] => exact ⟨hcols, hne, .singleton b, hshort⟩
    | q :: p :: bs =>
      obtain ⟨fl', hmerge⟩ := poolMerge_two x down n q p bs fl
      rw [hmerge]
      by_cases hviolates : violates (colVal x) down q p = true
      · rw [if_pos hviolates]
        refine ih _ ?_ (fun b hb => ?_) htail.tail ?_ ?_
        · rw [← hcols]
          simp
        · rcases List.mem_cons.mp hb with rfl | hb
          · exact List.append_ne_nil_of_left_ne_nil (hne p (by simp)) q
          · exact hne b (List.mem_cons_of_mem _ (List.mem_cons_of_mem _ hb))
        · exact (Nat.le_succ _).trans hshort
        · exact Nat.le_of_succ_le_succ hlen
      · rw [if_neg hviolates]
        exact ⟨hcols, hne, .cons_cons (Bool.eq_false_of_not_eq_true hviolates) htail, hshort⟩

theorem pooled_foldl {x : List XVal} {down : Bool} {K done : List Nat} {acc : List (List Nat) × Nat}
    (hacc : Pooled (colVal x) down done acc.1) (hlen : (done ++ K).length ≤ 64) :
    Pooled (colVal x) down (done ++ K)
      (K.foldl (fun (acc : List (List Nat) × Nat) j => poolMerge x down 64 ([j] :: acc.1) acc.2) acc).1 := by
  induction K generalizing done acc with
  | nil => rwa [List.append_nil]
  | cons j K ih =>
    obtain ⟨hcols, hne, hchain, hshort⟩ := hacc
    have hsplit : done ++ j :: K = done ++ [j] ++ K := by simp
    rw [hsplit] at hlen ⊢
    have hbound : (done ++ [j]).length ≤ 64 := by
      rw [List.length_append] at hlen
      omega
    rw [List.length_append, List.length_singleton] at hbound
    refine ih (pooled_poolMerge 64 acc.2 ?_ ?_ hchain ?_ ?_) hlen
    · rw [List.reverse_cons, List.flatten_append, hcols]
      rfl
    · intro b hb
      rcases List.mem_cons.mp hb with rfl | hb
      · exact List.cons_ne_nil _ _
      · exact hne b hb
    · rw [List.length_append, List.length_cons, List.length_singleton]
      omega
    · rw [List.length_cons]
      omega

/-- The blocks that the considered columns are pooled into, first to last. -/
def pooledColumns (x : List XVal) (down : Bool) (K : List Nat) : List (List Nat) :=
  (K.foldl (fun (acc : List (List Nat) × Nat) j => poolMerge x down 64 ([j] :: acc.1) acc.2) ([], 0)).1.reverse

theorem pooled_pooledColumns (x : List XVal) (down : Bool) {K : List Nat} (hlen : K.length ≤ 64) :
    Pooled (colVal x) down K (pooledColumns x down K).reverse := by
  have h := pooled_foldl (x := x) (down := down) (K := K) (done := []) (acc := ([], 0))
    ⟨rfl, fun _ h => absurd h List.not_mem_nil, .nil, le_refl _⟩ hlen
  rw [List.nil_append] at h
  rwa [pooledColumns, List.reverse_reverse]

theorem pooledBlocks_pooledColumns (x : List XVal) (down : Bool) {K : List Nat} (hlen : K.length ≤ 64) :
    PooledBlocks (colVal x) down K (pooledColumns x down K) := by
  obtain ⟨hcols, hne, hchain, -⟩ := pooled_pooledColumns x down hlen
  rw [List.reverse_reverse] at hcols
  rw [List.isChain_reverse] at hchain
  refine ⟨hcols, fun b hb => hne b (List.mem_reverse.mpr hb), fun i b b' hb hb' => ?_⟩
  obtain ⟨hi, hbi⟩ := List.getElem?_eq_some_iff.mp hb
  obtain ⟨hi', hbi'⟩ := List.getElem?_eq_some_iff.mp hb'
  rw [← hbi, ← hbi']
  exact List.isChain_iff_getElem.mp hchain i hi'

/-! ## Rows that are projected (R187 to R189) -/

/-- The row after R187's conversion to A48. -/
def flushedRow (row : List XVal) : List XVal := row.map fun v => (flushA v).1

/-- The projection that a set names. -/
def projectionOf (set : Nat) (p : Word) (x : List XVal) (K : List Nat) : ProjRow :=
  let z := decodeX 0 (p.toNat % 2 ^ 32)
  match set with
  | 1 => projSimplex x z K
  | 2 => projL1 x z K
  | 3 => projL2 x z K
  | 4 => projBox x z (decodeX 0 (p.toNat / 2 ^ 32)) K
  | 5 => projPool x false K
  | _ => projPool x true K

/-- A column of a row is a NaN, or an infinity outside the box (R189). -/
def badColumn (set : Nat) (row : List XVal) (j : Nat) : Bool :=
  isNanX (column row j) || (set != 4 && isInfX (column row j))

theorem projectRow_of_bad {set : Nat} {p : Word} {K : List Nat} {row : List XVal} (hne : K ≠ [])
    (hbad : (K.any (badColumn set row) || !paramValid set p) = true) :
    ∃ fl, projectRow set p K row = { out := K.map fun j => (j, .nan false), nan := true, fl := fl } := by
  obtain ⟨k, K, rfl⟩ := List.exists_cons_of_ne_nil hne
  rw [projectRow]
  exact ⟨_, if_pos hbad⟩

theorem projectRow_of_good {set : Nat} {p : Word} {K : List Nat} {row : List XVal} (hne : K ≠ [])
    (hgood : (K.any (badColumn set row) || !paramValid set p) = false) :
    ∃ fl, projectRow set p K row = { projectionOf set p (flushedRow row) K with fl := fl } := by
  obtain ⟨k, K, rfl⟩ := List.exists_cons_of_ne_nil hne
  rw [projectRow]
  exact ⟨_, if_neg (Bool.eq_false_iff.mp hgood)⟩

theorem projPool_out (x : List XVal) (down : Bool) (K : List Nat) :
    (projPool x down K).out =
      (pooledColumns x down K).flatMap fun b => b.map fun j => (j, meanOf (colVal x) b) := by
  simp only [projPool, pooledColumns, List.flatMap_map]
  rfl

/-- Each considered column has one value before Out. -/
theorem projectRow_columns (set : Nat) (p : Word) {K : List Nat} (row : List XVal) (hlen : K.length ≤ 64) :
    (projectRow set p K row).out.map Prod.fst = K := by
  have hmap (g : Nat → XVal) : (K.map fun j => (j, g j)).map Prod.fst = K := by
    rw [List.map_map]
    exact List.map_id' K
  have hpool (x : List XVal) (down : Bool) : (projPool x down K).out.map Prod.fst = K := by
    obtain ⟨hcols, -, -, -⟩ := pooled_pooledColumns x down hlen
    rw [List.reverse_reverse] at hcols
    rw [projPool_out]
    conv_rhs => rw [← hcols]
    simp [List.flatMap, List.map_flatten, Function.comp_def]
  by_cases hne : K = []
  · rw [hne]
    rfl
  · cases hbad : K.any (badColumn set row) || !paramValid set p with
    | true =>
      obtain ⟨fl, heq⟩ := projectRow_of_bad hne hbad
      rw [heq]
      exact hmap _
    | false =>
      obtain ⟨fl, heq⟩ := projectRow_of_good hne hbad
      rw [heq]
      dsimp only
      unfold projectionOf
      dsimp only
      split
      · exact hmap _
      · unfold projL1
        dsimp only
        split <;> exact hmap _
      · exact hmap _
      · exact hmap _
      · exact hpool _ _
      · exact hpool _ _

/-! ## What a row is projected to, by set -/

section
variable {p : Word} {K : List Nat} {row : List XVal}

theorem projectRow_of_projectable {set : Nat} (h : Projectable set p K row) :
    ∃ fl, projectRow set p K row = { projectionOf set p (flushedRow row) K with fl := fl } := by
  obtain ⟨hne, -, -, hparam, hcols⟩ := h
  refine projectRow_of_good hne ?_
  rw [hparam, Bool.not_true, Bool.or_false, List.any_eq_false]
  intro j hj
  obtain ⟨hnan, hinf⟩ := hcols j hj
  by_cases hbox : set = 4
  · simp [badColumn, hnan, hbox]
  · simp [badColumn, hnan, hinf hbox]

theorem isFinite_of_projectable {set : Nat} (h : Projectable set p K row) (hbox : set ≠ 4) :
    ∀ j ∈ K, IsFinite (colVal (flushedRow row) j) := by
  obtain ⟨-, -, -, -, hcols⟩ := h
  exact fun j hj => ⟨(hcols j hj).1, (hcols j hj).2 hbox⟩

end

/-- The values of a row's absolute values are the absolute values of its columns. -/
theorem colVal_absX (x : List XVal) (j : Nat) : colVal (x.map absX) j = absX (colVal x j) := by
  have hzero : absX (xZero false) = xZero false := rfl
  rw [colVal, colVal, ← hzero, List.getD_map, hzero]

/-- What a projection gives, as the statements say it: the values of the considered columns and the record. -/
def RowGives (r : ProjRow) (out : List (Nat × XVal)) (tau : Nat) (S signs : List Nat) (active : Bool) : Prop :=
  r.out = out ∧ r.tau = tau ∧ r.mask = maskFor S ∧ r.size = S.length ∧ r.signs = maskFor signs ∧ r.active = active ∧
    r.nan = false

theorem projSimplex_gives (x : List XVal) (z : XVal) (K : List Nat) :
    RowGives (projSimplex x z K)
      (K.map fun j => (j, if j ∈ (simplexOf x z K).1 then minus (colVal x j) (simplexOf x z K).2.1 else xZero false))
      (codeA (simplexOf x z K).2.1) (simplexOf x z K).1 [] true := by
  refine ⟨?_, rfl, bitsOf_eq_maskFor _, rfl, rfl, rfl, rfl⟩
  simp [projSimplex, minus]

theorem projL1_gives_inside {x : List XVal} {z : XVal} {K : List Nat}
    (hin : cmpX (sumA48 (fun j => absX (colVal x j)) K) z ≤ 0) :
    RowGives (projL1 x z K) (K.map fun j => (j, colVal x j)) 0 (K.filter fun j => !isZeroX (colVal x j)) [] false := by
  have hsum : cmpX (sumA (K.map fun j => (colVal (x.map absX) j, 0))).1 z ≤ 0 := by
    simp only [colVal_absX]
    exact hin
  unfold projL1
  dsimp only
  rw [if_pos hsum]
  exact ⟨rfl, rfl, bitsOf_eq_maskFor _, rfl, rfl, rfl, rfl⟩

theorem projL1_gives_outside {x : List XVal} {z : XVal} {K : List Nat}
    (hout : 0 < cmpX (sumA48 (fun j => absX (colVal x j)) K) z) :
    let S := (simplexOf (x.map absX) z K).1
    let tau := (simplexOf (x.map absX) z K).2.1
    RowGives (projL1 x z K)
      (K.map fun j => (j, if j ∈ S then
        (if signX (colVal x j) then negX (minus (absX (colVal x j)) tau) else minus (absX (colVal x j)) tau)
        else xZero false))
      (codeA tau) S (S.filter fun j => signX (colVal x j)) true := by
  have hsum : ¬ cmpX (sumA (K.map fun j => (colVal (x.map absX) j, 0))).1 z ≤ 0 := by
    simp only [colVal_absX]
    exact not_le.mpr hout
  unfold projL1
  dsimp only
  rw [if_neg hsum]
  refine ⟨?_, rfl, bitsOf_eq_maskFor _, rfl, bitsOf_eq_maskFor _, rfl, rfl⟩
  simp [colVal_absX, minus]

/-- The norm of R192. -/
def normOf (x : List XVal) (K : List Nat) : XVal :=
  (rndA (sqrtX (sumA (K.map fun j => mulX (colVal x j) (colVal x j))).1)).1

theorem projL2_gives_inside {x : List XVal} {z : XVal} {K : List Nat} (hin : cmpX (normOf x K) z ≤ 0) :
    RowGives (projL2 x z K) (K.map fun j => (j, colVal x j)) (codeA (normOf x K))
      (K.filter fun j => !isZeroX (colVal x j)) [] false := by
  have hin' : decide (cmpX (rndA (sqrtX (sumA (K.map fun j => mulX (colVal x j) (colVal x j))).1)).1 z ≤ 0) = true :=
    decide_eq_true hin
  unfold projL2
  dsimp only
  rw [hin']
  exact ⟨rfl, rfl, bitsOf_eq_maskFor _, rfl, rfl, rfl, rfl⟩

theorem projL2_gives_outside {x : List XVal} {z : XVal} {K : List Nat} (hout : 0 < cmpX (normOf x K) z) :
    RowGives (projL2 x z K) (K.map fun j => (j, times (colVal x j) (rndA (divX z (normOf x K))).1))
      (codeA (normOf x K)) (K.filter fun j => !isZeroX (colVal x j)) [] true := by
  have hout' : decide (cmpX (rndA (sqrtX (sumA (K.map fun j => mulX (colVal x j) (colVal x j))).1)).1 z ≤ 0) = false :=
    decide_eq_false (not_le.mpr hout)
  unfold projL2
  dsimp only
  rw [hout']
  exact ⟨rfl, rfl, bitsOf_eq_maskFor _, rfl, rfl, rfl, rfl⟩

theorem projBox_gives (x : List XVal) (lo hi : XVal) (K : List Nat) :
    RowGives (projBox x lo hi K)
      (K.map fun j => (j, if aboveX lo (colVal x j) then lo else if aboveX (colVal x j) hi then hi else colVal x j))
      0 (K.filter fun j => aboveX (colVal x j) lo && aboveX hi (colVal x j)) []
      (K.any fun j => aboveX lo (colVal x j) || aboveX (colVal x j) hi) :=
  ⟨rfl, rfl, bitsOf_eq_maskFor _, rfl, rfl, rfl, rfl⟩

theorem projPool_gives (x : List XVal) (down : Bool) (K : List Nat) :
    RowGives (projPool x down K)
      ((pooledColumns x down K).flatMap fun b => b.map fun j => (j, meanOf (colVal x) b)) 0
      ((pooledColumns x down K).map fun b => b.headD 0) [] (decide ((pooledColumns x down K).length < K.length)) :=
  ⟨projPool_out x down K, rfl, bitsOf_eq_maskFor _, (List.length_map _).symm, rfl, rfl, rfl⟩

end Sys2Proof.Machine

namespace Sys2Proof

open Machine Claim

/-- What a row is projected to: the row without columns, the row that is refused, and the six sets. -/
theorem projectionsFollowTheirRules : ProjectionsFollowTheirRules := by
  intro set p K row x z hi r values record
  refine ⟨fun hnil => ?_, fun hne hbad => ?_, fun hproj => ?_⟩
  · subst hnil
    exact ⟨rfl, rfl, rfl, rfl, rfl, rfl, rfl⟩
  · have hrefused : (K.any (badColumn set row) || !paramValid set p) = true := by
      rcases hbad with hparam | ⟨j, hj, hcol⟩
      · rw [hparam, Bool.not_false, Bool.or_true]
      · rw [Bool.or_eq_true, List.any_eq_true]
        refine .inl ⟨j, hj, ?_⟩
        rcases hcol with hnan | ⟨hset, hinf⟩
        · exact (congrArg (· || _) hnan).trans (Bool.true_or _)
        · have hinf' : isInfX (column row j) = true := hinf
          simp [badColumn, hset, hinf']
    obtain ⟨fl, heq⟩ := projectRow_of_bad hne hrefused
    have hr : r = { out := K.map fun j => (j, .nan false), nan := true, fl := fl } := heq
    rw [hr]
    exact ⟨congrArg ProjRow.out hr, rfl, rfl, rfl, rfl⟩
  · obtain ⟨fl, heq⟩ := projectRow_of_projectable hproj
    have hfinite := isFinite_of_projectable hproj
    obtain ⟨hne, hsorted, hlt, -⟩ := hproj
    have hlen := length_le_of_columns hsorted hlt
    have of_gives {out : List (Nat × XVal)} {tau : Nat} {S signs : List Nat} {active : Bool}
        (h : RowGives (projectionOf set p (flushedRow row) K) out tau S signs active) :
        r.out = out ∧ record tau S signs active := by
      have hr : r = { projectionOf set p (flushedRow row) K with fl := fl } := heq
      obtain ⟨hout, htau, hmask, hsize, hsigns, hactive, hnan⟩ := h
      simp only [record, hr]
      exact ⟨hout, htau, hmask, hsize, hsigns, hactive, hnan⟩
    refine ⟨?_, ?_, ?_, ?_, ?_⟩
    · rintro rfl
      obtain ⟨hout, hrec⟩ := of_gives (projSimplex_gives (flushedRow row) z K)
      exact ⟨_, _, simplexOf_ends hne hsorted hlt (hfinite (by decide)), hrec, hout⟩
    · rintro rfl
      refine ⟨fun hin => of_gives (projL1_gives_inside hin), fun hout => ?_⟩
      obtain ⟨hout, hrec⟩ := of_gives (projL1_gives_outside hout)
      have habs : (fun j => absX (x j)) = colVal ((flushedRow row).map absX) := funext fun j => (colVal_absX _ j).symm
      refine ⟨_, _, ?_, hrec, hout⟩
      rw [habs]
      refine simplexOf_ends hne hsorted hlt fun j hj => ?_
      rw [colVal_absX]
      exact isFinite_absX (hfinite (by decide) j hj)
    · rintro rfl
      exact ⟨fun hin => of_gives (projL2_gives_inside hin), fun hout => of_gives (projL2_gives_outside hout)⟩
    · rintro rfl
      exact of_gives (projBox_gives (flushedRow row) z hi K)
    · rintro (rfl | rfl)
      · obtain ⟨hout, hrec⟩ := of_gives (projPool_gives (flushedRow row) false K)
        exact ⟨_, pooledBlocks_pooledColumns _ _ hlen, hout, hrec⟩
      · obtain ⟨hout, hrec⟩ := of_gives (projPool_gives (flushedRow row) true K)
        exact ⟨_, pooledBlocks_pooledColumns _ _ hlen, hout, hrec⟩

end Sys2Proof
end

section
/-! The gradient of a row (R198), by the set and the fields of its record. -/

namespace Sys2Proof.Machine

open Claim

/-! ## The blocks of a monotone record -/

/-- The blocks, last first, that the columns passed so far make: a marked column begins one, others join the last. -/
structure BlocksFrom (mask : Nat) (done : List Nat) (bs : List (List Nat)) : Prop where
  columns : bs.reverse.flatten = done
  nonempty : ∀ b ∈ bs, b ≠ []
  joined : ∀ b ∈ bs, ∀ j ∈ b.drop 1, bitAt mask j = false
  begun : ∀ b ∈ bs.dropLast, bitAt mask (b.headD 0) = true

/-- The blocks after one more column. -/
def nextColumn (mask : Nat) (bs : List (List Nat)) (j : Nat) : List (List Nat) :=
  match bs with
  | b :: bs => if bitAt mask j then [j] :: b :: bs else (b ++ [j]) :: bs
  | [] => [[j]]

theorem blocksFrom_nextColumn {mask : Nat} {done : List Nat} {bs : List (List Nat)} (h : BlocksFrom mask done bs)
    (j : Nat) : BlocksFrom mask (done ++ [j]) (nextColumn mask bs j) := by
  obtain ⟨hcols, hne, hjoined, hbegun⟩ := h
  match bs with
  | [] =>
    have hdone : done = [] := hcols.symm
    subst hdone
    refine ⟨rfl, fun b hb => ?_, fun b hb => ?_, fun b hb => absurd hb List.not_mem_nil⟩
    · rw [List.mem_singleton.mp hb]
      exact List.cons_ne_nil _ _
    · rw [List.mem_singleton.mp hb]
      exact fun i hi => absurd hi List.not_mem_nil
  | b :: bs =>
    unfold nextColumn
    dsimp only
    by_cases hmark : bitAt mask j = true
    · rw [if_pos hmark]
      refine ⟨?_, fun b' hb => ?_, fun b' hb => ?_, fun b' hb => ?_⟩
      · rw [List.reverse_cons, List.flatten_append, hcols]
        rfl
      · rcases List.mem_cons.mp hb with rfl | hb
        · exact List.cons_ne_nil _ _
        · exact hne b' hb
      · rcases List.mem_cons.mp hb with rfl | hb
        · exact fun i hi => absurd hi List.not_mem_nil
        · exact hjoined b' hb
      · rw [List.dropLast_cons_cons] at hb
        rcases List.mem_cons.mp hb with rfl | hb
        · exact hmark
        · exact hbegun b' hb
    · rw [if_neg hmark]
      obtain ⟨k, b, rfl⟩ := List.exists_cons_of_ne_nil (hne b List.mem_cons_self)
      refine ⟨?_, fun b' hb => ?_, fun b' hb => ?_, fun b' hb => ?_⟩
      · rw [← hcols]
        simp
      · rcases List.mem_cons.mp hb with rfl | hb
        · exact List.cons_ne_nil _ _
        · exact hne b' (List.mem_cons_of_mem _ hb)
      · rcases List.mem_cons.mp hb with rfl | hb
        · intro i hi
          rcases List.mem_append.mp hi with hi | hi
          · exact hjoined (k :: b) List.mem_cons_self i hi
          · rw [List.mem_singleton.mp hi]
            exact Bool.eq_false_of_not_eq_true hmark
        · exact hjoined b' (List.mem_cons_of_mem _ hb)
      · match bs with
        | [] => exact absurd hb List.not_mem_nil
        | b₂ :: bs =>
          rw [List.dropLast_cons_cons] at hb hbegun
          rcases List.mem_cons.mp hb with rfl | hb
          · exact hbegun (k :: b) List.mem_cons_self
          · exact hbegun b' (List.mem_cons_of_mem _ hb)

theorem blocksFrom_foldl {mask : Nat} {done : List Nat} {bs : List (List Nat)} (h : BlocksFrom mask done bs)
    (K : List Nat) : BlocksFrom mask (done ++ K) (K.foldl (nextColumn mask) bs) := by
  induction K generalizing done bs with
  | nil => rwa [List.append_nil]
  | cons j K ih =>
    have hsplit : done ++ j :: K = done ++ [j] ++ K := by simp
    rw [hsplit]
    exact ih (blocksFrom_nextColumn h j)

theorem adjBlocks_eq (K : List Nat) (mask : Nat) : adjBlocks K mask = (K.foldl (nextColumn mask) []).reverse := rfl

theorem blocksFrom_adjBlocks (K : List Nat) (mask : Nat) : BlocksFrom mask K (adjBlocks K mask).reverse := by
  rw [adjBlocks_eq, List.reverse_reverse]
  exact blocksFrom_foldl (done := []) ⟨rfl, fun _ h => absurd h List.not_mem_nil, fun _ h => absurd h List.not_mem_nil,
    fun _ h => absurd h List.not_mem_nil⟩ K

/-! ## Signs and supports -/

/-- A value with the sign that a record of set 2 gives column j; the other sets have none (R198). -/
def signedBy (set r : Nat) (v : XVal) (j : Nat) : XVal := if set = 2 ∧ bitAt (bitsGet r 192 64) j then negX v else v

theorem signedBy_one (r : Nat) (v : XVal) (j : Nat) : signedBy 1 r v j = v := if_neg fun h => absurd h.1 (by decide)

theorem signedBy_two (r : Nat) (v : XVal) (j : Nat) :
    signedBy 2 r v j = if bitAt (bitsGet r 192 64) j then negX v else v := if_congr (and_iff_right rfl) rfl rfl

/-- The columns of K that the record's mask names. -/
def maskedColumns (K : List Nat) (r : Nat) : List Nat := K.filter fun j => bitAt (bitsGet r 128 64) j

/-- The factor z / ν of R198, infinite for a zero ν. -/
def ballFactor (z nu : XVal) : XVal := if isZeroX nu then .inf false else (rndA (divX z nu)).1

/-! ## The gradient by set -/

section
variable {set r : Nat} {K : List Nat} {g0 y0 : List XVal} (hne : K ≠ [])

include hne in
theorem adjointRow_nan_row (hnan : bitAt r 19 = true) :
    (adjointRow set K g0 y0 r).1 = K.map fun j => (j, .nan false) := by
  have hfull : ¬ K.isEmpty = true := by simpa using hne
  unfold adjointRow
  dsimp only
  rw [if_neg hfull, if_pos hnan]

variable (hnan : bitAt r 19 = false)

include hne hnan in
theorem adjointRow_inactive (hset : set = 2 ∨ set = 3) (hinactive : bitAt r 18 = false) :
    (adjointRow set K g0 y0 r).1 = K.map fun j => (j, column g0 j) := by
  have hfull : ¬ K.isEmpty = true := by simpa using hne
  have hinner : (set = 2 ∨ set = 3) ∧ (!bitAt r 18) = true := ⟨hset, by rw [hinactive]; rfl⟩
  unfold adjointRow
  dsimp only
  rw [if_neg hfull, if_neg (by simp [hnan]), if_pos hinner]
  rfl

include hne hnan in
/-- Sets 1 and 2, where they subtract a mean: the gradient less the mean over the support, with the record's signs. -/
theorem adjointRow_mean (hset : set = 1 ∨ set = 2) (hactive : set = 2 → bitAt r 18 = true) :
    (adjointRow set K g0 y0 r).1 = K.map fun j => (j,
      if j ∈ maskedColumns K r then
        minus (column g0 j)
          (signedBy set r (meanOf (fun k => signedBy set r (column g0 k) k) (maskedColumns K r)) j)
      else xZero false) := by
  have hfull : ¬ K.isEmpty = true := by simpa using hne
  have hinner : ¬ ((set = 2 ∨ set = 3) ∧ (!bitAt r 18) = true) := by
    rintro ⟨h2 | h3, hinactive⟩
    · simp [hactive h2] at hinactive
    · omega
  unfold adjointRow
  dsimp only
  rw [if_neg hfull, if_neg (by simp [hnan]), if_neg hinner, if_pos (by omega), ← maskedColumns]
  by_cases hempty : maskedColumns K r = []
  · rw [if_pos (List.isEmpty_iff.mpr hempty), hempty]
    simp
  · rw [if_neg fun h => hempty (List.isEmpty_iff.mp h)]
    simp only [List.map_map]
    refine List.map_congr_left fun j _ => congrArg (Prod.mk j) ?_
    dsimp only
    by_cases hj : j ∈ maskedColumns K r
    · rw [if_pos (List.contains_iff_mem.mpr hj), if_pos hj]
      rfl
    · rw [if_neg fun h => hj (List.contains_iff_mem.mp h), if_neg hj]

include hne hnan in
/-- Set 3, where it is active. -/
theorem adjointRow_ball (hactive : bitAt r 18 = true) :
    let z := decodeX 0 (bitsGet r 96 32)
    let c := (rndA (divF ((sumA (K.map fun j => mulX (column y0 j) (column g0 j))).1, 0) (mulX z z))).1
    (adjointRow 3 K g0 y0 r).1 =
      if posFinite z then K.map fun j => (j, times (ballFactor z (a48 (bitsGet r 32 48)))
        (rndA (subF (column g0 j, 0) (mulX c (column y0 j)))).1)
      else K.map fun j => (j, .nan false) := by
  intro z c
  have hfull : ¬ K.isEmpty = true := by simpa using hne
  unfold adjointRow
  dsimp only
  rw [if_neg hfull, if_neg (by simp [hnan]), if_neg (by simp [hactive]), if_neg (by omega), if_pos rfl, adjL2]
  by_cases hz : posFinite z = true
  · rw [if_pos hz, if_neg (by simp [z, hz])]
    have hfactor : (if isZeroX (a48 (bitsGet r 32 48)) then ((.inf false, fDZ) : XVal × Nat)
        else rndA (divX z (a48 (bitsGet r 32 48)))).1 = ballFactor z (a48 (bitsGet r 32 48)) := by
      rw [ballFactor]
      split <;> rfl
    simp only [List.map_map]
    refine List.map_congr_left fun j _ => congrArg (Prod.mk j) ?_
    rw [← hfactor]
    rfl
  · rw [if_neg hz, if_pos (by simpa using hz)]

include hne hnan in
theorem adjointRow_box :
    (adjointRow 4 K g0 y0 r).1 =
      K.map fun j => (j, if j ∈ maskedColumns K r then column g0 j else xZero false) := by
  have hfull : ¬ K.isEmpty = true := by simpa using hne
  unfold adjointRow
  dsimp only
  rw [if_neg hfull, if_neg (by simp [hnan]), if_neg (by simp), if_neg (by omega), if_neg (by omega), if_pos rfl]
  refine List.map_congr_left fun j hj => ?_
  simp [maskedColumns, hj, column]

include hne hnan in
theorem adjointRow_monotone (hset : 5 ≤ set) :
    (adjointRow set K g0 y0 r).1 =
      (adjBlocks K (bitsGet r 128 64)).flatMap fun b => b.map fun j => (j, meanOf (column g0) b) := by
  have hfull : ¬ K.isEmpty = true := by simpa using hne
  unfold adjointRow
  dsimp only
  rw [if_neg hfull, if_neg (by simp [hnan]), if_neg (by omega), if_neg (by omega), if_neg (by omega), if_neg (by omega)]
  simp only [List.flatMap_map]
  rfl

end

/-- Each considered column has one gradient before Out. -/
theorem adjointRow_columns {set : Nat} (hset : set ≠ 0) (K : List Nat) (g0 y0 : List XVal) (r : Nat) :
    (adjointRow set K g0 y0 r).1.map Prod.fst = K := by
  have hmap (g : Nat → XVal) : (K.map fun j => (j, g j)).map Prod.fst = K := by
    rw [List.map_map]
    exact List.map_id' K
  by_cases hne : K = []
  · subst hne
    rfl
  cases hnan : bitAt r 19 with
  | true => rw [adjointRow_nan_row hne hnan, hmap]
  | false =>
    by_cases hinner : (set = 2 ∨ set = 3) ∧ bitAt r 18 = false
    · rw [adjointRow_inactive hne hnan hinner.1 hinner.2, hmap]
    have hactive (h : set = 2 ∨ set = 3) : bitAt r 18 = true := by
      rw [← Bool.not_eq_false]
      exact fun hr => hinner ⟨h, hr⟩
    rcases Nat.lt_or_ge set 3 with hmean | hset
    · rw [adjointRow_mean hne hnan (by omega) fun h => hactive (.inl h), hmap]
    rcases Nat.lt_or_ge set 5 with hset | hmonotone
    · obtain rfl | rfl : set = 3 ∨ set = 4 := by omega
      · rw [adjointRow_ball hne hnan (hactive (.inr rfl))]
        split <;> exact hmap _
      · rw [adjointRow_box hne hnan, hmap]
    · obtain ⟨hcols, -, -, -⟩ := blocksFrom_adjBlocks K (bitsGet r 128 64)
      rw [List.reverse_reverse] at hcols
      rw [adjointRow_monotone hne hnan hmonotone]
      conv_rhs => rw [← hcols]
      simp [List.flatMap, List.map_flatten, Function.comp_def]

end Sys2Proof.Machine

namespace Sys2Proof

open Machine Claim

/-- The gradient of a row, by its set. -/
theorem gradientsFollowTheirRules : GradientsFollowTheirRules := by
  intro set K g0 y0 r hne g y S values sign
  refine ⟨fun hnan => adjointRow_nan_row hne hnan, fun hnan => ⟨?_, ?_, fun hset hinner => ?_, ?_, ?_, ?_, ?_⟩⟩
  · rintro rfl _
    refine (adjointRow_mean hne hnan (.inl rfl) fun h => absurd h (by decide)).trans ?_
    simp only [signedBy_one]
    rfl
  · rintro rfl hempty
    refine (adjointRow_mean hne hnan (.inl rfl) fun h => absurd h (by decide)).trans ?_
    have hempty' : maskedColumns K r = [] := hempty
    simp [hempty']
  · exact adjointRow_inactive hne hnan hset hinner
  · rintro rfl hactive _
    refine (adjointRow_mean hne hnan (.inr rfl) fun _ => hactive).trans ?_
    simp only [signedBy_two]
    rfl
  · rintro rfl hactive z nu h c q
    have hball := adjointRow_ball (g0 := g0) (y0 := y0) hne hnan hactive
    refine ⟨fun hz => ?_, fun hz => ?_⟩
    · refine hball.trans (if_neg ?_)
      rw [hz]
      decide
    · exact hball.trans (if_pos hz)
  · rintro rfl
    exact adjointRow_box hne hnan
  · intro hset
    obtain ⟨hcols, hblocks, hjoined, hbegun⟩ := blocksFrom_adjBlocks K (bitsGet r 128 64)
    rw [List.reverse_reverse] at hcols
    refine ⟨adjBlocks K (bitsGet r 128 64), hcols, fun b hb => hblocks b (List.mem_reverse.mpr hb),
      fun b hb => hjoined b (List.mem_reverse.mpr hb), fun b hb => hbegun b ?_, adjointRow_monotone hne hnan (by omega)⟩
    rwa [List.dropLast_reverse, List.mem_reverse, ← List.drop_one]

end Sys2Proof
end

section
/-! Rows of a vector register and the records of the Facet unit (R187, R195): what the registers hold after some rows
have been written, with their records. -/

namespace Sys2Proof.Machine

open Claim

/-! ## Writing one row -/

/-- What Out leaves of a row's values in column j: the code of the column's value, or +0. -/
def outOf (out : Nat → XVal → Nat × Nat) (vals : List (Nat × XVal)) (j : Nat) : Nat :=
  match vals.find? fun q => q.1 == j with
  | some q => (out q.1 q.2).1
  | none => 0

section
variable {c : VConf} {d fmt m : Nat} (hd : d < 64) (hreg : ∀ j, j < 64 → (64 * m + j) / regElems c (fmtWidth fmt) = 0)

/-- Elements of row m, each at a column of its own. -/
def writeColumns {α : Type} (c : VConf) (d fmt m : Nat) (key val : α → Nat) (l : List α) (h : Hart) : Hart :=
  l.foldl (fun h q => vset c d fmt (64 * m + key q) (val q) h) h

theorem vectorsOnly_writeColumns {α : Type} (key val : α → Nat) (l : List α) (h : Hart) :
    VectorsOnly h (writeColumns c d fmt m key val l h) := by
  induction l generalizing h with
  | nil => exact .refl h
  | cons q l ih => exact ((VectorsOnly.refl h).vset ..).trans (ih _)

include hd hreg in
theorem vreg_writeColumns {α : Type} {key : α → Nat} (val : α → Nat) {l : List α} (hkey : ∀ q ∈ l, key q < 64)
    (h : Hart) {r : Nat} (hr : r ≠ d) : vreg (writeColumns c d fmt m key val l h) r = vreg h r := by
  induction l generalizing h with
  | nil => rfl
  | cons q l ih =>
    have hplace := hreg (key q) (hkey q List.mem_cons_self)
    refine (ih (fun q hq => hkey q (List.mem_cons_of_mem _ hq)) _).trans (vreg_vset_of_ne _ _ _ _ ?_ ?_)
    · rw [hplace]; exact hd
    · rw [hplace]; exact hr

include hd hreg in
/-- An element that none of the writes names. -/
theorem vget_writeColumns_of_ne {α : Type} {key : α → Nat} (val : α → Nat) {l : List α} (hkey : ∀ q ∈ l, key q < 64)
    (h : Hart) {i : Nat} (hi : ∀ q ∈ l, i ≠ 64 * m + key q) :
    vget c (writeColumns c d fmt m key val l h) d fmt i = vget c h d fmt i := by
  induction l generalizing h with
  | nil => rfl
  | cons q l ih =>
    have hplace := hreg (key q) (hkey q List.mem_cons_self)
    refine (ih (fun q hq => hkey q (List.mem_cons_of_mem _ hq)) _ fun q hq => hi q (List.mem_cons_of_mem _ hq)).trans
      (vget_vset_of_ne _ _ _ _ ?_ (hi q List.mem_cons_self))
    rw [hplace]; exact hd

include hd hreg in
/-- A column that is written once holds what was written. -/
theorem vget_writeColumns {α : Type} {key : α → Nat} (val : α → Nat) {l : List α} (hkey : ∀ q ∈ l, key q < 64)
    (hnodup : (l.map key).Nodup) (h : Hart) (j : Nat) :
    vget c (writeColumns c d fmt m key val l h) d fmt (64 * m + j) =
      match l.find? fun q => key q == j with
      | some q => val q % 2 ^ fmtWidth fmt
      | none => vget c h d fmt (64 * m + j) := by
  induction l generalizing h with
  | nil => rfl
  | cons q l ih =>
    rw [List.map_cons, List.nodup_cons] at hnodup
    obtain ⟨hq, hnodup⟩ := hnodup
    have hplace := hreg (key q) (hkey q List.mem_cons_self)
    have hkeys : ∀ q ∈ l, key q < 64 := fun q hq => hkey q (List.mem_cons_of_mem _ hq)
    have hbound : d + (64 * m + key q) / regElems c (fmtWidth fmt) < 64 := by rw [hplace]; exact hd
    by_cases hj : key q = j
    · subst hj
      have hrest : ∀ p ∈ l, 64 * m + key q ≠ 64 * m + key p := fun p hp heq =>
        hq (List.mem_map.mpr ⟨p, hp, by omega⟩)
      rw [List.find?_cons_of_pos (by simp)]
      exact (vget_writeColumns_of_ne hd hreg val hkeys _ hrest).trans (vget_vset_self _ _ _ _ hbound)
    · rw [List.find?_cons_of_neg (by simpa using hj)]
      have hkeep : vget c (vset c d fmt (64 * m + key q) (val q) h) d fmt (64 * m + j) = vget c h d fmt (64 * m + j) :=
        vget_vset_of_ne _ _ _ _ hbound (by omega)
      rw [← hkeep]
      exact ih hkeys hnodup _

end

/-- A list finds each member by its value. -/
theorem find?_id_of_mem {l : List Nat} {j : Nat} (hj : j ∈ l) : (l.find? fun q => id q == j) = some j := by
  cases hfind : l.find? fun q => id q == j with
  | none => exact absurd (beq_self_eq_true j) (List.find?_eq_none.mp hfind j hj)
  | some q =>
    have hq : (id q == j) = true := List.find?_some (p := fun q => id q == j) hfind
    exact congrArg some (eq_of_beq hq)

theorem writeColumns_zero (c : VConf) (d m : Nat) (l : List Nat) (h : Hart) :
    l.foldl (fun h j => vset c d (confFmt c) (64 * m + j) 0 h) h =
      writeColumns c d (confFmt c) m id (fun _ => 0) l h := rfl

/-- The registers after a row was put: zeros, then the values. -/
theorem putRow_fst (c : VConf) (d m : Nat) (out : Nat → XVal → Nat × Nat) (vals : List (Nat × XVal)) (h : Hart) :
    (putRow c d m out vals h).1 =
      writeColumns c d (confFmt c) m Prod.fst (fun q => (out q.1 q.2).1) vals
        (writeColumns c d (confFmt c) m id (fun _ => 0) (upTo 64) h) := by
  have hpair (vals : List (Nat × XVal)) (acc : Hart × Nat) :
      (vals.foldl (fun (acc : Hart × Nat) p =>
        (vset c d (confFmt c) (64 * m + p.1) (out p.1 p.2).1 acc.1, acc.2 ||| (out p.1 p.2).2)) acc).1 =
      writeColumns c d (confFmt c) m Prod.fst (fun q => (out q.1 q.2).1) vals acc.1 := by
    induction vals generalizing acc with
    | nil => rfl
    | cons p vals ih => exact ih _
  unfold putRow
  dsimp only
  rw [writeColumns_zero]
  exact hpair vals _

section
variable {c : VConf} {d m : Nat} (hd : d < 64) (hreg : ∀ j, j < 64 → (64 * m + j) / regElems c (confW c) = 0)
  {vals : List (Nat × XVal)} (hkeys : ∀ q ∈ vals, q.1 < 64) (out : Nat → XVal → Nat × Nat) (h : Hart)

theorem vectorsOnly_putRow (c : VConf) (d m : Nat) (out : Nat → XVal → Nat × Nat) (vals : List (Nat × XVal))
    (h : Hart) : VectorsOnly h (putRow c d m out vals h).1 := by
  rw [putRow_fst]
  exact (vectorsOnly_writeColumns ..).trans (vectorsOnly_writeColumns ..)

include hd hreg hkeys in
theorem vreg_putRow {r : Nat} (hr : r ≠ d) : vreg (putRow c d m out vals h).1 r = vreg h r := by
  have hzeros : ∀ j ∈ upTo 64, id j < 64 := fun j hj => List.mem_range.mp hj
  rw [putRow_fst, vreg_writeColumns hd hreg _ hkeys _ hr, vreg_writeColumns hd hreg _ hzeros _ hr]

include hd hreg hkeys in
/-- The elements of the other rows. -/
theorem vget_putRow_of_ne {i : Nat} (hi : ∀ j, j < 64 → i ≠ 64 * m + j) :
    vget c (putRow c d m out vals h).1 d (confFmt c) i = vget c h d (confFmt c) i := by
  have hzeros : ∀ j ∈ upTo 64, id j < 64 := fun j hj => List.mem_range.mp hj
  rw [putRow_fst, vget_writeColumns_of_ne hd hreg _ hkeys _ fun q hq => hi _ (hkeys q hq),
    vget_writeColumns_of_ne hd hreg _ hzeros _ fun j hj => hi _ (hzeros j hj)]

include hd hreg hkeys in
/-- A row that was put holds its values through Out, and +0 beside them. -/
theorem vget_putRow (hnodup : (vals.map Prod.fst).Nodup) {j : Nat} (hj : j < 64) :
    vget c (putRow c d m out vals h).1 d (confFmt c) (64 * m + j) = outOf out vals j % 2 ^ confW c := by
  have hzeros : ∀ j ∈ upTo 64, id j < 64 := fun j hj => List.mem_range.mp hj
  have hnodup0 : ((upTo 64).map id).Nodup := by
    rw [List.map_id]
    exact List.nodup_range
  have hmem : j ∈ upTo 64 := List.mem_range.mpr hj
  have hzero : vget c (writeColumns c d (confFmt c) m id (fun _ => 0) (upTo 64) h) d (confFmt c) (64 * m + j) = 0 := by
    rw [vget_writeColumns hd hreg _ hzeros hnodup0, find?_id_of_mem hmem]
    exact Nat.zero_mod _
  rw [putRow_fst, vget_writeColumns hd hreg _ hkeys hnodup, hzero, outOf]
  cases vals.find? fun q => q.1 == j with
  | none => exact (Nat.zero_mod _).symm
  | some q => rfl

end

/-! ## Rows written so far -/

/-- Rows 0 to i − 1 of register d hold `want`, those from i to M − 1 what they held, and beside d only the registers
that `other` names may have changed. -/
structure RowsWritten (c : VConf) (d M : Nat) (want : Nat → Nat → Nat) (other : Nat → Prop) (h h' : Hart) (i : Nat) :
    Prop where
  only : VectorsOnly h h'
  same : ∀ r, r ≠ d → ¬ other r → vreg h' r = vreg h r
  done : ∀ m j, m < i → j < 64 → vget c h' d (confFmt c) (64 * m + j) = want m j
  ahead : ∀ m j, i ≤ m → m < M → j < 64 → vget c h' d (confFmt c) (64 * m + j) = vget c h d (confFmt c) (64 * m + j)

theorem RowsWritten.start (c : VConf) (d M : Nat) (want : Nat → Nat → Nat) (other : Nat → Prop) (h : Hart) :
    RowsWritten c d M want other h h 0 where
  only := .refl h
  same _ _ _ := rfl
  done _ _ hm := absurd hm (Nat.not_lt_zero _)
  ahead _ _ _ _ _ := rfl

section
variable {c : VConf} {d M i : Nat} {want : Nat → Nat → Nat} {other : Nat → Prop} {h h' : Hart}
  (hf : RowsWritten c d M want other h h' i)

include hf in
/-- One more row is put. -/
theorem RowsWritten.put (hd : d < 64) (hreg : ∀ m j, m < M → j < 64 → (64 * m + j) / regElems c (confW c) = 0)
    (hi : i < M) {out : Nat → XVal → Nat × Nat} {vals : List (Nat × XVal)} (hkeys : ∀ q ∈ vals, q.1 < 64)
    (hnodup : (vals.map Prod.fst).Nodup) (hwant : ∀ j, j < 64 → want i j = outOf out vals j % 2 ^ confW c) :
    RowsWritten c d M want other h (putRow c d i out vals h').1 (i + 1) := by
  have hrow : ∀ j, j < 64 → (64 * i + j) / regElems c (confW c) = 0 := fun j hj => hreg i j hi hj
  have hother (m j : Nat) (hm : m ≠ i) (hj : j < 64) :
      vget c (putRow c d i out vals h').1 d (confFmt c) (64 * m + j) = vget c h' d (confFmt c) (64 * m + j) :=
    vget_putRow_of_ne hd hrow hkeys out h' fun k hk => by omega
  refine ⟨hf.only.trans (vectorsOnly_putRow ..), fun r hr hrest => ?_, fun m j hm hj => ?_, fun m j hm hM hj => ?_⟩
  · rw [vreg_putRow hd hrow hkeys out h' hr, hf.same r hr hrest]
  · by_cases hmi : m = i
    · rw [hmi, vget_putRow hd hrow hkeys out h' hnodup hj, hwant j hj]
    · rw [hother m j hmi hj, hf.done m j (by omega) hj]
  · rw [hother m j (by omega) hj, hf.ahead m j (by omega) hM hj]

include hf in
/-- A write to another register. -/
theorem RowsWritten.writeOther {r : Nat} (hr : r ≠ d) (hr64 : r < 64) (hrest : other r)
    (hreg : ∀ m j, m < M → j < 64 → (64 * m + j) / regElems c (confW c) = 0) (hi : i ≤ M) (pos w x : Nat) :
    RowsWritten c d M want other h (vsetBits r pos w x h') i := by
  have hkeep {q : Nat} (hq : q ≠ r) : vreg (vsetBits r pos w x h') q = vreg h' q := by
    rw [vreg_vsetBits _ _ _ _ _ hr64, if_neg hq]
  have helem (m j : Nat) (hm : m < M) (hj : j < 64) :
      vget c (vsetBits r pos w x h') d (confFmt c) (64 * m + j) = vget c h' d (confFmt c) (64 * m + j) :=
    vget_of_vreg_eq (hreg m j hm hj) (hkeep hr.symm)
  refine ⟨hf.only.vsetBits .., fun q hq hq' => ?_, fun m j hm hj => ?_, fun m j hm hM hj => ?_⟩
  · have hne : q ≠ r := fun heq => hq' (heq ▸ hrest)
    rw [hkeep hne, hf.same q hq hq']
  · rw [helem m j (by omega) hj, hf.done m j hm hj]
  · rw [helem m j hM hj, hf.ahead m j hm hM hj]

include hf in
/-- A row that is still to come, or of a register that no row is written to, reads as before. -/
theorem RowsWritten.rowOf_eq {r m : Nat} (hr : r = d ∨ r ≠ d ∧ ¬ other r)
    (hreg : ∀ m j, m < M → j < 64 → (64 * m + j) / regElems c (confW c) = 0) (hm : i ≤ m) (hM : m < M) :
    rowOf c h' r m = rowOf c h r m := by
  refine List.map_congr_left fun j hj => congrArg (decodeX (confFmt c)) ?_
  have hj : j < 64 := List.mem_range.mp hj
  rcases hr with rfl | ⟨hne, hrest⟩
  · exact hf.ahead m j hm hM hj
  · exact vget_of_vreg_eq (hreg m j hM hj) (hf.same r hne hrest)

end

/-! ## Records (R195) -/

theorem getRecord_congr {c : VConf} {r m : Nat} {h h' : Hart}
    (hr : vreg h' (recordAt c r m).1 = vreg h (recordAt c r m).1) : getRecord c r m h' = getRecord c r m h := by
  unfold getRecord
  dsimp only
  rw [hr]

/-- A record of a group whose first register holds it. -/
theorem recordAt_of_lt {c : VConf} {r m : Nat} (hm : 32 * m < regBits c / 8) : recordAt c r m = (r, 256 * m) := by
  have hplace : 8 * (32 * m) = 256 * m := by omega
  unfold recordAt
  dsimp only
  rw [Nat.div_eq_of_lt hm, Nat.mod_eq_of_lt hm, hplace, Nat.add_zero]

theorem getRecord_putRecord {c : VConf} {r m m' : Nat} (hr : r < 64) (hm : 32 * m < regBits c / 8)
    (hm' : 32 * m' < regBits c / 8) (x : Nat) (h : Hart) :
    getRecord c r m (putRecord c r m' x h) = if m = m' then x % 2 ^ 256 else getRecord c r m h := by
  unfold getRecord putRecord
  dsimp only
  rw [recordAt_of_lt hm, recordAt_of_lt hm', vreg_vsetBits _ _ _ _ _ hr, if_pos rfl]
  by_cases hmm : m = m'
  · subst hmm
    rw [if_pos rfl, bitsGet_bitsSet_self]
  · rw [if_neg hmm, bitsGet_bitsSet_of_disjoint _ _ (by omega)]

/-! ## Rows with their records -/

/-- Rows written to register d, with a record of each in register cr. -/
structure RecordedRows (c : VConf) (d cr M : Nat) (want : Nat → Nat → Nat) (record : Nat → Nat) (h h' : Hart)
    (i : Nat) : Prop where
  rows : RowsWritten c d M want (· = cr) h h' i
  records : ∀ m, m < i → getRecord c cr m h' = record m % 2 ^ 256

theorem RecordedRows.start (c : VConf) (d cr M : Nat) (want : Nat → Nat → Nat) (record : Nat → Nat) (h : Hart) :
    RecordedRows c d cr M want record h h 0 where
  rows := .start ..
  records _ hm := absurd hm (Nat.not_lt_zero _)

/-- One more row, and its record. -/
theorem RecordedRows.put {c : VConf} {d cr M i : Nat} {want : Nat → Nat → Nat} {record : Nat → Nat} {h h' : Hart}
    (hf : RecordedRows c d cr M want record h h' i) (hd : d < 64) (hcr : cr < 64) (hne : cr ≠ d)
    (hreg : ∀ m j, m < M → j < 64 → (64 * m + j) / regElems c (confW c) = 0)
    (hrec : ∀ m, m < M → 32 * m < regBits c / 8) (hi : i < M) {out : Nat → XVal → Nat × Nat}
    {vals : List (Nat × XVal)} (hkeys : ∀ q ∈ vals, q.1 < 64) (hnodup : (vals.map Prod.fst).Nodup)
    (hwant : ∀ j, j < 64 → want i j = outOf out vals j % 2 ^ confW c) :
    RecordedRows c d cr M want record h (putRecord c cr i (record i) (putRow c d i out vals h').1) (i + 1) := by
  have hrow : ∀ j, j < 64 → (64 * i + j) / regElems c (confW c) = 0 := fun j hj => hreg i j hi hj
  have hplace : recordAt c cr i = (cr, 256 * i) := recordAt_of_lt (hrec i hi)
  refine ⟨?_, fun m hm => ?_⟩
  · rw [putRecord, hplace]
    exact (hf.rows.put hd hreg hi hkeys hnodup hwant).writeOther hne hcr rfl hreg hi _ _ _
  · rw [getRecord_putRecord hcr (hrec m (by omega)) (hrec i hi)]
    by_cases hmi : m = i
    · rw [if_pos hmi, hmi]
    · rw [if_neg hmi, ← hf.records m (by omega)]
      refine getRecord_congr (vreg_putRow hd hrow hkeys out h' ?_)
      rw [recordAt_of_lt (hrec m (by omega))]
      exact hne

end Sys2Proof.Machine
end

section
/-! MDRN, VPROJ and VPJADJ (R177, R178, R196 to R198): the rows and records that each leaves in its registers, and what
MDRN leaves in its accumulator. -/

namespace Sys2Proof.Machine

open Claim

/-! ## Vectors that one register holds -/

section
variable {s : State} (hfits : Fits s) (hrows : RowsLegal s)

include hfits in
theorem row_in_register {m j : Nat} (hm : m < s.h.conf.vl / 64) (hj : j < 64) :
    (64 * m + j) / regElems s.h.conf (confW s.h.conf) = 0 := by
  obtain ⟨-, hvl⟩ := hfits
  refine Nat.div_eq_of_lt (lt_of_lt_of_le ?_ hvl)
  omega

/-- A group whose elements or bytes are at most those of a register is that register. -/
theorem groupCount_eq_one {n size : Nat} (hn : n ≠ 0) (hle : n ≤ size) : (n + size - 1) / max 1 size = 1 := by
  rw [Nat.max_eq_right (by omega)]
  exact Nat.div_eq_of_lt_le (by omega) (by omega)

include hfits hrows in
theorem registersFor_eq_one : registersFor s s.h.conf.vl = 1 := by
  obtain ⟨-, hne, -⟩ := hrows
  exact groupCount_eq_one hne hfits.2

include hfits in
/-- A register has more bytes than the elements of a vector of bytes or wider (R112). -/
theorem vl_le_registerBytes (hwidth : 8 ≤ widthOf s) : s.h.conf.vl ≤ regBits s.h.conf / 8 := by
  obtain ⟨-, hvl⟩ := hfits
  have hbits : s.h.conf.vl * widthOf s ≤ regBits s.h.conf :=
    (Nat.le_div_iff_mul_le (by omega)).mp hvl
  rw [Nat.le_div_iff_mul_le (by decide)]
  exact (Nat.mul_le_mul_left _ hwidth).trans hbits

include hfits in
/-- The records of the rows lie in one register (R186). -/
theorem record_in_register (hwidth : 8 ≤ widthOf s) {m : Nat} (hm : m < s.h.conf.vl / 64) :
    32 * m < regBits s.h.conf / 8 := by
  have hbytes := vl_le_registerBytes hfits hwidth
  omega

include hfits hrows in
theorem recordRegisters_eq_one (hwidth : 8 ≤ widthOf s) : recordRegisters s = 1 := by
  obtain ⟨h64, hne, -⟩ := hrows
  have hbytes := vl_le_registerBytes hfits hwidth
  exact groupCount_eq_one (by omega) (by omega)

end

theorem eight_le_width {s : State} (hfmt : fmtOf s ≤ 4) : 8 ≤ widthOf s := by
  have hall : ∀ fmt, fmt ≤ 4 → 8 ≤ fmtWidth fmt := by decide
  exact hall _ hfmt

/-! ## Considered columns (R187) -/

theorem consideredCols_nodup (c : VConf) (n m : Nat) : (consideredCols c n m).Nodup := List.nodup_range.filter _

theorem consideredCols_lt {c : VConf} {n m j : Nat} (hn : n ≤ 64) (hj : j ∈ consideredCols c n m) : j < 64 :=
  (List.mem_range.mp (List.mem_filter.mp hj).1).trans_le hn

theorem consideredCols_length {c : VConf} {n m : Nat} (hn : n ≤ 64) : (consideredCols c n m).length ≤ 64 :=
  (List.length_filter_le _ _).trans ((List.length_range (n := n)).trans_le hn)

section
variable {c : VConf} {n m : Nat} {vals : List (Nat × XVal)} (hvals : vals.map Prod.fst = consideredCols c n m)

include hvals in
theorem columns_nodup : (vals.map Prod.fst).Nodup := hvals ▸ consideredCols_nodup c n m

include hvals in
theorem columns_lt (hn : n ≤ 64) : ∀ q ∈ vals, q.1 < 64 := fun _ hq =>
  consideredCols_lt hn (hvals ▸ List.mem_map_of_mem hq)

end

/-! ## Out (R187) -/

/-- Out of the committed configuration, saturating or not. -/
def outRounded (c : VConf) (h : Hart) (sat : Bool) (_ : Nat) (x : XVal) : Nat × Nat :=
  roundX x (confFmt c) h.frm.toNat 0 sat

theorem outRounded_congr {h h' : Hart} (hv : VectorsOnly h h') (c : VConf) (sat : Bool) :
    outRounded c h' sat = outRounded c h sat := by
  obtain ⟨v, vdirty, marks, rfl⟩ := hv
  rfl

/-- A row of the next state that holds its values through Out. -/
theorem rowBecomes_of_outOf {s t : State} {d : BitVec 6} {m : Nat} {sat : Bool} {vals : List (Nat × XVal)}
    (hrow : ∀ j, j < 64 → element t d (fmtOf s) (64 * m + j) =
      outOf (outRounded s.h.conf s.h sat) vals j % 2 ^ confW s.h.conf) : RowBecomes s t d m sat vals := by
  intro j hj
  rw [hrow j hj, outOf]
  cases vals.find? fun q => q.1 == j with
  | none => exact Nat.zero_mod _
  | some q => rfl

/-! ## The rows that MDRN drains -/

/-- Row m of an accumulator. -/
def accRowValues (acc m : Nat) : List XVal := (upTo 64).map fun j => a48 (accEntry acc m j)

theorem accRowValues_congr {acc acc' m : Nat} (h : ∀ n, n < 64 → accEntry acc' m n = accEntry acc m n) :
    accRowValues acc' m = accRowValues acc m :=
  List.map_congr_left fun j hj => congrArg a48 (h j (List.mem_range.mp hj))

/-- The accumulator after row m was drained: the row is zeros where the immediate says so. -/
def drainedEntries (f : VF) (acc m : Nat) : Nat := if bitAt f.imm.toNat 0 then accRow acc m [] else acc

/-- The entries after the first i rows were drained. -/
def EntriesDrained (f : VF) (acc acc' i : Nat) : Prop :=
  ∀ m n, n < 64 → accEntry acc' m n = if m < i ∧ bitAt f.imm.toNat 0 = true then 0 else accEntry acc m n

theorem EntriesDrained.start (f : VF) (acc : Nat) : EntriesDrained f acc acc 0 :=
  fun m _ _ => (if_neg fun h => absurd h.1 (Nat.not_lt_zero m)).symm

theorem EntriesDrained.next {f : VF} {acc acc' i : Nat} (h : EntriesDrained f acc acc' i) :
    EntriesDrained f acc (drainedEntries f acc' i) (i + 1) := by
  intro m n hn
  rw [drainedEntries]
  by_cases hzero : bitAt f.imm.toNat 0 = true
  · rw [if_pos hzero, accEntry_accRow _ _ _ _ hn, h m n hn]
    by_cases hm : m = i
    · rw [if_pos hm, if_pos ⟨by omega, hzero⟩]
      rfl
    · rw [if_neg hm]
      exact if_congr (and_congr_left fun _ => by omega) rfl rfl
  · rw [if_neg hzero, h m n hn, if_neg fun h => hzero h.2, if_neg fun h => hzero h.2]

/-- A row that is still to come holds what it held. -/
theorem EntriesDrained.row_eq {f : VF} {acc acc' i : Nat} (h : EntriesDrained f acc acc' i) :
    accRowValues acc' i = accRowValues acc i :=
  accRowValues_congr fun n hn => (h i n hn).trans (if_neg fun h => absurd h.1 (Nat.lt_irrefl i))

section
variable (c : VConf) (f : VF) (p : Word)

/-- The values of row m that a plain drain delivers. -/
def plainValues (c : VConf) (acc m : Nat) : List (Nat × XVal) :=
  (consideredCols c 64 m).map fun j => (j, colVal (accRowValues acc m) j)

/-- The projection of row m that a drain with a set delivers. -/
def drainedProjection (acc m : Nat) : ProjRow :=
  projectRow (drainSet f) p (consideredCols c (drainN f) m) (accRowValues acc m)

theorem drainRow_plain (hset : drainSet f = 0) (h : Hart) (fl acc m : Nat) :
    ∃ fl', drainRow c f p (h, fl, acc) m =
      ((putRow c f.d.toNat m (outRounded c h (bitAt f.imm.toNat 10)) (plainValues c acc m) h).1, fl',
        drainedEntries f acc m) := by
  unfold drainRow
  exact ⟨_, if_pos hset⟩

theorem drainRow_projected (hset : drainSet f ≠ 0) (h : Hart) (fl acc m : Nat) :
    ∃ fl', drainRow c f p (h, fl, acc) m =
      (putRecord c f.c.toNat m (recordOf (drainSet f) (drainN f) p (drainedProjection c f p acc m))
        (putRow c f.d.toNat m (outRounded c h (bitAt f.imm.toNat 10)) (drainedProjection c f p acc m).out h).1, fl',
        drainedEntries f acc m) := by
  unfold drainRow
  exact ⟨_, if_neg hset⟩

end

theorem drainN_le (f : VF) : drainN f ≤ 64 := by
  have hlt : bitsGet f.imm.toNat 4 6 < 64 := bitsGet_lt _ 4 6
  rw [drainN]
  split <;> omega

/-- Rows drained from an accumulator: rows, flags and entries. -/
def drainRows (c : VConf) (f : VF) (p : Word) (M : Nat) (h : Hart) (acc : Nat) : Hart × Nat × Nat :=
  (fromTo 0 M).foldl (drainRow c f p) (h, 0, acc)

section
variable {c : VConf} {f : VF} {M : Nat}
  (hreg : ∀ m j, m < M → j < 64 → (64 * m + j) / regElems c (confW c) = 0)

include hreg in
theorem drainRows_plain (hset : drainSet f = 0) (p : Word) (h : Hart) (acc : Nat) :
    RowsWritten c f.d.toNat M
        (fun m j => outOf (outRounded c h (bitAt f.imm.toNat 10)) (plainValues c acc m) j % 2 ^ confW c)
        (fun _ => False) h (drainRows c f p M h acc).1 M ∧
      EntriesDrained f acc (drainRows c f p M h acc).2.2 M := by
  have hloop := foldl_fromTo (p := 0) (q := M) (a := (h, 0, acc)) (g := drainRow c f p)
    (motive := fun i st => RowsWritten c f.d.toNat M
        (fun m j => outOf (outRounded c h (bitAt f.imm.toNat 10)) (plainValues c acc m) j % 2 ^ confW c)
        (fun _ => False) h st.1 i ∧ EntriesDrained f acc st.2.2 i)
    ⟨.start .., EntriesDrained.start f acc⟩ fun i ⟨h', fl, acc'⟩ _ hi ⟨hrows, hentries⟩ => ?_
  · rwa [Nat.zero_max] at hloop
  · have hcols : (plainValues c acc i).map Prod.fst = consideredCols c 64 i := by
      rw [plainValues, List.map_map]
      exact List.map_id' _
    obtain ⟨fl', hstep⟩ := drainRow_plain c f p hset h' fl acc' i
    rw [hstep, outRounded_congr hrows.only, plainValues, hentries.row_eq, ← plainValues]
    exact ⟨hrows.put f.d.isLt hreg hi (columns_lt hcols (le_refl _)) (columns_nodup hcols) fun _ _ => rfl,
      hentries.next⟩

include hreg in
theorem drainRows_projected (hset : drainSet f ≠ 0) (hne : f.c.toNat ≠ f.d.toNat)
    (hrec : ∀ m, m < M → 32 * m < regBits c / 8) (p : Word) (h : Hart) (acc : Nat) :
    RecordedRows c f.d.toNat f.c.toNat M
        (fun m j => outOf (outRounded c h (bitAt f.imm.toNat 10)) (drainedProjection c f p acc m).out j % 2 ^ confW c)
        (fun m => recordOf (drainSet f) (drainN f) p (drainedProjection c f p acc m)) h (drainRows c f p M h acc).1 M ∧
      EntriesDrained f acc (drainRows c f p M h acc).2.2 M := by
  have hloop := foldl_fromTo (p := 0) (q := M) (a := (h, 0, acc)) (g := drainRow c f p)
    (motive := fun i st => RecordedRows c f.d.toNat f.c.toNat M
        (fun m j => outOf (outRounded c h (bitAt f.imm.toNat 10)) (drainedProjection c f p acc m).out j % 2 ^ confW c)
        (fun m => recordOf (drainSet f) (drainN f) p (drainedProjection c f p acc m)) h st.1 i ∧
      EntriesDrained f acc st.2.2 i)
    ⟨.start .., EntriesDrained.start f acc⟩ fun i ⟨h', fl, acc'⟩ _ hi ⟨hrows, hentries⟩ => ?_
  · rwa [Nat.zero_max] at hloop
  · have hcols : (drainedProjection c f p acc i).out.map Prod.fst = consideredCols c (drainN f) i :=
      projectRow_columns _ _ _ (consideredCols_length (drainN_le f))
    have hproj : drainedProjection c f p acc' i = drainedProjection c f p acc i := by
      rw [drainedProjection, hentries.row_eq, ← drainedProjection]
    obtain ⟨fl', hstep⟩ := drainRow_projected c f p hset h' fl acc' i
    rw [hstep, outRounded_congr hrows.rows.only, hproj]
    exact ⟨hrows.put f.d.isLt f.c.isLt hne hreg hrec hi (columns_lt hcols (drainN_le f)) (columns_nodup hcols)
      fun _ _ => rfl, hentries.next⟩

/-! ## The rows that VPROJ projects -/

/-- The projection of row m of the source. -/
def sourceProjection (c : VConf) (f : VF) (p : Word) (h : Hart) (m : Nat) : ProjRow :=
  projectRow (projSet f) p (consideredCols c (projN f) m) (rowOf c h f.a.toNat m)

/-- Rows projected: registers and flags. -/
def projectRows (c : VConf) (f : VF) (p : Word) (M : Nat) (h : Hart) : Hart × Nat :=
  (fromTo 0 M).foldl (vprojRow c f p) (h, 0)

theorem vprojRow_fst (c : VConf) (f : VF) (p : Word) (h : Hart) (fl m : Nat) :
    (vprojRow c f p (h, fl) m).1 =
      putRecord c f.c.toNat m (recordOf (projSet f) (projN f) p (sourceProjection c f p h m))
        (putRow c f.d.toNat m (outRounded c h false) (sourceProjection c f p h m).out h).1 := rfl

include hreg in
theorem projectRows_written (hn : projN f ≤ 64) (hne : f.c.toNat ≠ f.d.toNat) (hsrc : f.a.toNat ≠ f.c.toNat)
    (hrec : ∀ m, m < M → 32 * m < regBits c / 8) (p : Word) (h : Hart) :
    RecordedRows c f.d.toNat f.c.toNat M
      (fun m j => outOf (outRounded c h false) (sourceProjection c f p h m).out j % 2 ^ confW c)
      (fun m => recordOf (projSet f) (projN f) p (sourceProjection c f p h m)) h (projectRows c f p M h).1 M := by
  have hloop := foldl_fromTo (p := 0) (q := M) (a := (h, 0)) (g := vprojRow c f p)
    (motive := fun i st => RecordedRows c f.d.toNat f.c.toNat M
      (fun m j => outOf (outRounded c h false) (sourceProjection c f p h m).out j % 2 ^ confW c)
      (fun m => recordOf (projSet f) (projN f) p (sourceProjection c f p h m)) h st.1 i)
    (.start ..) fun i ⟨h', fl⟩ _ hi hrows => ?_
  · rwa [Nat.zero_max] at hloop
  · have hcols : (sourceProjection c f p h i).out.map Prod.fst = consideredCols c (projN f) i :=
      projectRow_columns _ _ _ (consideredCols_length hn)
    have hread : f.a.toNat = f.d.toNat ∨ f.a.toNat ≠ f.d.toNat ∧ ¬ f.a.toNat = f.c.toNat := by
      by_cases h : f.a.toNat = f.d.toNat
      · exact .inl h
      · exact .inr ⟨h, hsrc⟩
    have hproj : sourceProjection c f p h' i = sourceProjection c f p h i := by
      rw [sourceProjection, hrows.rows.rowOf_eq hread hreg (le_refl i) hi, ← sourceProjection]
    rw [vprojRow_fst, outRounded_congr hrows.rows.only, hproj]
    exact hrows.put f.d.isLt f.c.isLt hne hreg hrec hi (columns_lt hcols hn) (columns_nodup hcols) fun _ _ => rfl

/-! ## The rows of VPJADJ -/

/-- The gradient of row m, by its record. -/
def rowGradient (c : VConf) (f : VF) (h : Hart) (m : Nat) : List (Nat × XVal) :=
  (adjointRow (projSet f) (consideredCols c (projN f) m) (rowOf c h f.a.toNat m) (rowOf c h f.b.toNat m)
    (getRecord c f.c.toNat m h)).1

theorem adjointRows_cons_refused {c : VConf} {f : VF} {m : Nat} {h : Hart}
    (hbad : recordBad f (getRecord c f.c.toNat m h) = true) (ms : List Nat) (fl : Nat) :
    adjointRows c f (m :: ms) (h, fl) = (h, fl, some m) := if_pos hbad

theorem adjointRows_cons {c : VConf} {f : VF} {m : Nat} {h : Hart}
    (hgood : recordBad f (getRecord c f.c.toNat m h) = false) (ms : List Nat) (fl : Nat) :
    ∃ fl', adjointRows c f (m :: ms) (h, fl) =
      adjointRows c f ms ((putRow c f.d.toNat m (outRounded c h false) (rowGradient c f h m) h).1, fl') :=
  ⟨_, if_neg (Bool.eq_false_iff.mp hgood)⟩

theorem fromTo_cons {p q : Nat} (h : p < q) : fromTo p q = p :: fromTo (p + 1) q := by
  have hlen : q - p = (q - (p + 1)) + 1 := by omega
  rw [fromTo, fromTo, hlen, List.range_succ_eq_map, List.map_cons, List.map_map, Nat.zero_add]
  refine congrArg (p :: ·) (List.map_congr_left fun j _ => ?_)
  exact (Nat.succ_add_eq_add_succ j p)

include hreg in
/-- Up to a row e the rows go on while their records are taken. -/
theorem adjointRows_upTo (hset : projSet f ≠ 0) (hn : projN f ≤ 64) (hcd : f.c.toNat ≠ f.d.toNat)
    (hrec : ∀ m, m < M → 32 * m < regBits c / 8) (h : Hart) {e : Nat} (he : e ≤ M)
    (hgood : ∀ m, m < e → recordBad f (getRecord c f.c.toNat m h) = false) :
    ∃ h' fl, adjointRows c f (fromTo 0 M) (h, 0) = adjointRows c f (fromTo e M) (h', fl) ∧
      RowsWritten c f.d.toNat M (fun m j => outOf (outRounded c h false) (rowGradient c f h m) j % 2 ^ confW c)
        (fun _ => False) h h' e := by
  induction e with
  | zero => exact ⟨h, 0, rfl, .start ..⟩
  | succ e ih =>
    obtain ⟨h', fl, hrun, hrows⟩ := ih (Nat.le_of_succ_le he) fun m hm => hgood m (Nat.lt_succ_of_lt hm)
    have hrecord : getRecord c f.c.toNat e h' = getRecord c f.c.toNat e h := by
      refine getRecord_congr ?_
      rw [recordAt_of_lt (hrec e he)]
      exact hrows.same _ hcd not_false
    have hread {r : Nat} : r = f.d.toNat ∨ r ≠ f.d.toNat ∧ ¬ False := by
      by_cases h : r = f.d.toNat
      · exact .inl h
      · exact .inr ⟨h, not_false⟩
    have hgradient : rowGradient c f h' e = rowGradient c f h e := by
      rw [rowGradient, hrecord, hrows.rowOf_eq hread hreg (le_refl e) he, hrows.rowOf_eq hread hreg (le_refl e) he,
        ← rowGradient]
    have hcols : (rowGradient c f h e).map Prod.fst = consideredCols c (projN f) e := adjointRow_columns hset _ _ _ _
    obtain ⟨fl', hstep⟩ := adjointRows_cons (hrecord ▸ hgood e (Nat.lt_succ_self e)) (fromTo (e + 1) M) fl
    rw [hgradient, outRounded_congr hrows.only] at hstep
    refine ⟨_, fl', hrun.trans ((fromTo_cons he).symm ▸ hstep), ?_⟩
    exact hrows.put f.d.isLt hreg he (columns_lt hcols hn) (columns_nodup hcols) fun _ _ => rfl

end

end Sys2Proof.Machine
end

section
/-! MDRN, VPROJ and VPJADJ of the hart that owns the engine (R177, R178, R196 to R198): their next states, and the
refused record that ends VPJADJ. -/

namespace Sys2Proof.Machine

open Claim

/-! ## The next state -/

theorem front_aloneAtHead {i : Instr} {s : State} (hat : AtOnce i s) : (aloneAtHead i s).h.front = 16384 := by
  obtain ⟨-, -, -, -, -, -, hfront, -⟩ := hat
  exact hfront

theorem rowsTodo_aloneAtHead {i : Instr} {s : State} (hat : AtOnce i s) (h0 : s.h.vstart = 0)
    (hvl : s.h.conf.vl ≤ 4096) : rowsTodo s.h.conf (aloneAtHead i s).h = fromTo 0 (s.h.conf.vl / 64) :=
  rowsTodo_whole h0 (front_aloneAtHead hat) hvl

/-- Rows that have all been written end the instruction. -/
theorem rowsEnd_rows {i : Instr} {s : State} {h' : Hart} (hat : AtOnce i s) (h0 : s.h.vstart = 0)
    (hvl : s.h.conf.vl ≤ 4096) (hv : VectorsOnly (aloneAtHead i s).h h') (fl : Nat) (cores : Table Core) :
    rowsEnd s.h.conf { aloneAtHead i s with h := orMx fl h', cores := cores } =
      .done { aloneAtHead i s with h := orMx fl h', cores := cores } := by
  have hfront := front_aloneAtHead hat
  obtain ⟨v, vdirty, marks, rfl⟩ := hv
  exact rowsEnd_whole h0 hfront hvl

theorem coreOf_tset (s : State) (k : Core) : coreOf { s with cores := tset s.cores (curCore s) k } = k :=
  getCore_setCore (curCore s) k s

theorem conf_of_onlyVectorCore {s t : State} (h : OnlyVectorCore s t) : t.h.conf = s.h.conf := by
  obtain ⟨-, heq⟩ := h
  rw [heq]

/-- What an instruction leaves whose run writes vector registers, joins flags of the engine, and changes cores. -/
theorem quiet_of_leavesCores {i : Instr} {s : State} {h' : Hart} {fl : Nat} {cores : Table Core}
    (hleaves : LeavesCores i s (orMx fl h') cores) (hv : VectorsOnly (aloneAtHead i s).h h') :
    ∃ t, exec i s = .next t ∧ OnlyVectorCore s t ∧ t.h.m = s.h.m ∧ t.h.g = s.h.g ∧ t.h.fflags = s.h.fflags ∧
      t.h.v = h'.v ∧ t.h.conf = s.h.conf ∧ coreOf t = coreOf { s with cores := cores } := by
  obtain ⟨t, ht, honly, htv, htm, htg, htf, hcore, -⟩ := hleaves
  have hconf : t.h.conf = s.h.conf := conf_of_onlyVectorCore honly
  obtain ⟨v, vdirty, marks, rfl⟩ := hv
  exact ⟨t, ht, honly, htm, htg, htf, htv, hconf, hcore⟩

/-- An element of a register that holds what h' holds. -/
theorem element_eq {s t : State} {h' : Hart} (hv : t.h.v = h'.v) (hconf : t.h.conf = s.h.conf) (d : BitVec 6)
    (i : Nat) : element t d (fmtOf s) i = vget s.h.conf h' d.toNat (fmtOf s) i := by
  rw [element, hconf, vget_congr hv]

/-! ## MDRN -/

/-- The core after MDRN: of its accumulators the one that was drained may have changed, as the immediate says. -/
def CoreDrained (s t : State) (f : VF) : Prop :=
  coreOf t = { coreOf s with acc := (coreOf t).acc } ∧
    (∀ n : Fin 4, n.val ≠ f.a.toNat → (coreOf t).acc[n] = (coreOf s).acc[n]) ∧
    ∀ m n, m < 64 → n < 64 → accEntry (getAcc (coreOf t) f.a.toNat) m n =
      if m < s.h.conf.vl / 64 ∧ f.imm.toNat % 2 = 1 then 0 else accEntry (getAcc (coreOf s) f.a.toNat) m n

/-- The rows that MDRN drains, from its first to its last: registers, flags and entries. -/
def drainedBy (s : State) (f : VF) : Hart × Nat × Nat :=
  drainRows s.h.conf f (readS s (sregOf f.b)) (s.h.conf.vl / 64) (aloneAtHead (.mdrn f) s).h
    (getAcc (coreOf s) f.a.toNat)

section
variable {s : State} {f : VF} (hown : Owns s) (h0 : s.h.vstart = 0) (hfrm : s.h.frm ≠ 6)

include hown h0 hfrm in
theorem leavesCores_mdrn (hat : AtOnce (.mdrn f) s) (hlegal : MdrnLegal s f)
    (hv : VectorsOnly (aloneAtHead (.mdrn f) s).h (drainedBy s f).1) :
    LeavesCores (.mdrn f) s (orMx (drainedBy s f).2.1 (drainedBy s f).1)
      (tset s.cores (curCore s) (setAcc (coreOf s) f.a.toNat (drainedBy s f).2.2)) := by
  have hcheck := checkMdrn_of_legal hlegal
  obtain ⟨⟨-, -, hvl⟩, -⟩ := hlegal
  have hfrm' : (aloneAtHead (.mdrn f) s).h.frm ≠ 6 := hfrm
  refine leavesCores_of_perf rfl hat hcheck ?_ (registersOnly_orMx _ hv h0)
  rw [perfMdrn, engineOwned_of_owns _ _ _ _ (owns_aloneAtHead _ hown),
    rowAligned_of_start _ _ _ _ (vstart_aloneAtHead _ h0), frmPlain_of_ne _ _ _ _ hfrm',
    rowsTodo_aloneAtHead hat h0 hvl]
  exact rowsEnd_rows hat h0 hvl hv _ _

theorem coreDrained_of_entries {t : State} {acc : Nat} (hd : f.a.toNat < 4)
    (hcore : coreOf t = setAcc (coreOf s) f.a.toNat acc)
    (hentries : EntriesDrained f (getAcc (coreOf s) f.a.toNat) acc (s.h.conf.vl / 64)) : CoreDrained s t f := by
  have hbit : bitAt f.imm.toNat 0 = true ↔ f.imm.toNat % 2 = 1 := by
    rw [bitAt, Nat.testBit_zero, decide_eq_true_eq]
  refine ⟨?_, fun n hn => ?_, fun m n _ hn => ?_⟩
  · rw [hcore]
    rfl
  · rw [hcore]
    exact acc_setAcc_of_ne _ _ _ hn
  · rw [hcore, getAcc_setAcc _ hd, hentries m n hn]
    exact if_congr (and_congr_right fun _ => hbit) rfl rfl

end

theorem accSource_lt_of_wellFormed {i : Instr} {r : Roles} {f : VF} (hw : wellFormed i = true)
    (hroles : rolesOf i = some (r, f)) (ha : r.a = .acc) (hsa : r.sa = .no) : f.a.toNat < 4 := by
  rw [wellFormed, hroles, Bool.and_eq_true] at hw
  simp only [rolesOk, ha, hsa, roleOk, Bool.and_eq_true, decide_eq_true_eq] at hw
  obtain ⟨-, ⟨⟨-, -, hlt⟩, -⟩, -⟩ := hw
  exact hlt

/-- A column that has a value is found with it. -/
theorem find?_columns (K : List Nat) (g : Nat → XVal) (j : Nat) :
    ((K.map fun j => (j, g j)).find? fun q => q.1 == j) = if j ∈ K then some (j, g j) else none := by
  rw [List.find?_map]
  by_cases hj : j ∈ K
  · rw [if_pos hj]
    exact congrArg (Option.map _) (find?_id_of_mem hj)
  · rw [if_neg hj, Option.map_eq_none_iff, List.find?_eq_none]
    intro k hk
    have hne : k ≠ j := fun heq => hj (heq ▸ hk)
    simpa using hne

/-- A plain drain delivers each entry through Out, +0 at the pads (R177). -/
theorem outOf_plainValues (c : VConf) (h : Hart) (sat : Bool) (acc m : Nat) {j : Nat} (hj : j < 64) :
    outOf (outRounded c h sat) (plainValues c acc m) j % 2 ^ confW c =
      if isPad c (64 * m + j) then 0
      else (roundX (a48 (accEntry acc m j)) (confFmt c) h.frm.toNat 0 sat).1 % 2 ^ confW c := by
  have hvalue : colVal (accRowValues acc m) j = a48 (accEntry acc m j) := by
    simp [colVal, accRowValues, upTo, List.getD_eq_getElem?_getD, hj]
  rw [outOf, plainValues, find?_columns]
  by_cases hpad : isPad c (64 * m + j) = true
  · have hout : j ∉ consideredCols c 64 m := fun hmem => by
      simpa [hpad] using (List.mem_filter.mp hmem).2
    rw [if_neg hout, if_pos hpad]
    exact Nat.zero_mod _
  · have hin : j ∈ consideredCols c 64 m := List.mem_filter.mpr ⟨List.mem_range.mpr hj, by simpa using hpad⟩
    rw [if_pos hin, if_neg hpad, hvalue]
    rfl

/-! ## VPROJ -/

/-- The rows that VPROJ projects, from its first to its last: registers and flags. -/
def projectedBy (s : State) (f : VF) : Hart × Nat :=
  projectRows s.h.conf f (readS s (sregOf f.b)) (s.h.conf.vl / 64) (aloneAtHead (.vproj f) s).h

section
variable {s : State} {f : VF} (hown : Owns s) (h0 : s.h.vstart = 0) (hfrm : s.h.frm ≠ 6)

include hown h0 hfrm in
theorem leavesCores_vproj (hat : AtOnce (.vproj f) s) (hlegal : VprojLegal s f)
    (hv : VectorsOnly (aloneAtHead (.vproj f) s).h (projectedBy s f).1) :
    LeavesCores (.vproj f) s (orMx (projectedBy s f).2 (projectedBy s f).1) s.cores := by
  have hcheck := checkVproj_of_legal hlegal
  obtain ⟨⟨-, -, -, -, -, ⟨-, -, hvl⟩, -⟩, -⟩ := hlegal
  have hfrm' : (aloneAtHead (.vproj f) s).h.frm ≠ 6 := hfrm
  refine leavesCores_of_perf rfl hat hcheck ?_ (registersOnly_orMx _ hv h0)
  rw [perfVproj, engineOwned_of_owns _ _ _ _ (owns_aloneAtHead _ hown),
    rowAligned_of_start _ _ _ _ (vstart_aloneAtHead _ h0), frmPlain_of_ne _ _ _ _ hfrm',
    rowsTodo_aloneAtHead hat h0 hvl]
  exact rowsEnd_rows hat h0 hvl hv _ _

end

/-! ## VPJADJ -/

/-- How VPJADJ ends: with its last row, or at a row whose record it refuses. -/
def adjointEnd (c : VConf) (s : State) : Hart × Nat × Option Nat → Perf
  | (h, fl, none) => rowsEnd c { s with h := orMx fl h }
  | (h, fl, some m) => .trap 0x04 none { s with h := { orMx fl h with vstart := 64 * m } }

section
variable {s : State} {f : VF} (hown : Owns s) (h0 : s.h.vstart = 0) (hfrm : s.h.frm ≠ 6)

include hown h0 hfrm in
theorem perfVpjadj_eq (hat : AtOnce (.vpjadj f) s) (hvl : s.h.conf.vl ≤ 4096) (a b : Word) :
    perfVpjadj f s.h.conf a b (aloneAtHead (.vpjadj f) s) =
      adjointEnd s.h.conf (aloneAtHead (.vpjadj f) s)
        (adjointRows s.h.conf f (fromTo 0 (s.h.conf.vl / 64)) ((aloneAtHead (.vpjadj f) s).h, 0)) := by
  have hfrm' : (aloneAtHead (.vpjadj f) s).h.frm ≠ 6 := hfrm
  rw [perfVpjadj, engineOwned_of_owns _ _ _ _ (owns_aloneAtHead _ hown),
    rowAligned_of_start _ _ _ _ (vstart_aloneAtHead _ h0), frmPlain_of_ne _ _ _ _ hfrm',
    rowsTodo_aloneAtHead hat h0 hvl]
  generalize adjointRows s.h.conf f (fromTo 0 (s.h.conf.vl / 64)) ((aloneAtHead (.vpjadj f) s).h, 0) = r
  obtain ⟨h, fl, stop⟩ := r
  cases stop <;> rfl

end

/-- A trap at the head of the queue that leaves vector registers as the run made them (R340, R367). -/
theorem exec_eq_trapAtHead {i : Instr} {check : CheckFn} {perf : PerfFn} {s : State} {h' : Hart} {cause : Nat}
    (hexec : exec i s = commitVector i check perf s) (hat : AtOnce i s) (hc : check s.h.conf = 0)
    (hperf : perf s.h.conf (captureA i s) (captureB i s) (aloneAtHead i s) =
      .trap cause none { aloneAtHead i s with h := h' }) :
    exec i s = .next (takeTrap false cause (parcelsOf i) h'.pc (BitVec.ofNat 6 s.h.qhead)
      { aloneAtHead i s with h := { h' with performing := none } }) := by
  obtain ⟨-, hfrozen, hq, -, -, -, -, -, -, -, hfree, hrb⟩ := hat
  have hlen : s.h.queue.length < 32 := by rw [hq]; decide
  have hused : readbackUsed s.h < 8 := by rw [readbackUsed, hq]; exact hrb
  rw [hexec, commitVector_alone perf hfrozen hc hfree hlen hused hq, hperf, finishHead_trap]
  rfl

/-- The gradient's rows, up to row e, in h'. -/
abbrev GradientRows (s : State) (f : VF) (h' : Hart) (e : Nat) : Prop :=
  RowsWritten s.h.conf f.d.toNat (s.h.conf.vl / 64)
    (fun m j => outOf (outRounded s.h.conf s.h false) (rowGradient s.h.conf f s.h m) j % 2 ^ confW s.h.conf)
    (fun _ => False) (aloneAtHead (.vpjadj f) s).h h' e

section
variable {s : State} {f : VF} (hown : Owns s) (h0 : s.h.vstart = 0) (hfrm : s.h.frm ≠ 6) (hfits : Fits s)
  (hlegal : VpjadjLegal s f) (hapart : f.c.toNat ≠ f.d.toNat)

include hfits hlegal hapart in
theorem adjointRows_upTo_row {e : Nat} (he : e ≤ s.h.conf.vl / 64)
    (hgood : ∀ m, m < e → recordBad f (getRecord s.h.conf f.c.toNat m s.h) = false) :
    ∃ h' fl, adjointRows s.h.conf f (fromTo 0 (s.h.conf.vl / 64)) ((aloneAtHead (.vpjadj f) s).h, 0) =
      adjointRows s.h.conf f (fromTo e (s.h.conf.vl / 64)) (h', fl) ∧ GradientRows s f h' e := by
  obtain ⟨⟨hset, -, hn, hfmt, -⟩, -⟩ := hlegal
  have hwidth : 8 ≤ widthOf s := eight_le_width (hfmt.trans (by decide))
  exact adjointRows_upTo (fun m j hm hj => row_in_register hfits hm hj) hset hn hapart
    (fun m hm => record_in_register hfits hwidth hm) _ he hgood

include hown h0 hfrm hfits hlegal hapart in
/-- Records that are all taken: every row is written (R198). -/
theorem leavesCores_vpjadj (hat : AtOnce (.vpjadj f) s)
    (hgood : ∀ m, m < s.h.conf.vl / 64 → recordBad f (getRecord s.h.conf f.c.toNat m s.h) = false) :
    ∃ h' fl, LeavesCores (.vpjadj f) s (orMx fl h') s.cores ∧ GradientRows s f h' (s.h.conf.vl / 64) := by
  obtain ⟨h', fl, hrun, hrows⟩ := adjointRows_upTo_row hfits hlegal hapart (le_refl _) hgood
  have hend : fromTo (s.h.conf.vl / 64) (s.h.conf.vl / 64) = [] := by rw [fromTo, Nat.sub_self]; rfl
  have hcheck := checkVpjadj_of_legal hlegal
  obtain ⟨⟨-, -, -, -, -, ⟨-, -, hvl⟩, -⟩, -⟩ := hlegal
  refine ⟨h', fl, leavesCores_of_perf rfl hat hcheck ?_ (registersOnly_orMx _ hrows.only h0), hrows⟩
  rw [perfVpjadj_eq hown h0 hfrm hat hvl, hrun, hend]
  exact rowsEnd_rows hat h0 hvl hrows.only _ _

include hown h0 hfrm hfits hlegal hapart in
/-- A record that is refused: the rows before its own are written, and the instruction traps there (R198). -/
theorem exec_vpjadj_refused (hat : AtOnce (.vpjadj f) s) {e : Nat} (he : e < s.h.conf.vl / 64)
    (hgood : ∀ m, m < e → recordBad f (getRecord s.h.conf f.c.toNat m s.h) = false)
    (hbad : recordBad f (getRecord s.h.conf f.c.toNat e s.h) = true) :
    ∃ t h', exec (.vpjadj f) s = .next t ∧ t.h.trapcause = 0x04 ∧ t.h.vstart = 64 * e ∧ t.h.frozen = true ∧
      t.h.v = h'.v ∧ t.h.conf = s.h.conf ∧ GradientRows s f h' e := by
  obtain ⟨h', fl, hrun, hrows⟩ := adjointRows_upTo_row hfits hlegal hapart he.le hgood
  have hcheck := checkVpjadj_of_legal hlegal
  obtain ⟨⟨-, -, -, hfmt, -, ⟨-, -, hvl⟩, -⟩, -⟩ := hlegal
  have hwidth : 8 ≤ widthOf s := eight_le_width (hfmt.trans (by decide))
  have hrecord : getRecord s.h.conf f.c.toNat e h' = getRecord s.h.conf f.c.toNat e s.h := by
    refine getRecord_congr ?_
    rw [recordAt_of_lt (record_in_register hfits hwidth he)]
    exact hrows.same _ hapart not_false
  rw [fromTo_cons he, adjointRows_cons_refused (hrecord ▸ hbad)] at hrun
  have hperf : perfVpjadj f s.h.conf (captureA (.vpjadj f) s) (captureB (.vpjadj f) s) (aloneAtHead (.vpjadj f) s) =
      .trap 0x04 none { aloneAtHead (.vpjadj f) s with h := { orMx fl h' with vstart := 64 * e } } := by
    rw [perfVpjadj_eq hown h0 hfrm hat hvl, hrun]
    rfl
  have hexec := exec_eq_trapAtHead rfl hat hcheck hperf
  have hqueue : h'.queue = s.h.queue ++ [capturedEntry (.vpjadj f) s] ∧ h'.conf = s.h.conf := by
    obtain ⟨v, vdirty, marks, rfl⟩ := hrows.only
    exact ⟨rfl, rfl⟩
  refine ⟨_, h', hexec, ?_⟩
  rw [takeTrap_h]
  refine ⟨rfl, rfl, ?_, rfl, hqueue.2, hrows⟩
  show (!h'.queue.isEmpty) = true
  rw [hqueue.1]
  simp

end

/-! ## Registers that are no destination -/

/-- A register outside the destinations, in the next state. -/
theorem vreg_of_rowsWritten {i : Instr} {s t : State} {c : VConf} {d M e : Nat} {want : Nat → Nat → Nat}
    {other : Nat → Prop} {h' : Hart} (hrows : RowsWritten c d M want other (aloneAtHead i s).h h' e)
    (hv : t.h.v = h'.v) {r : Nat} (hr : r ≠ d) (hrest : ¬ other r) : vreg t.h r = vreg s.h r :=
  (vreg_congr hv r).trans (hrows.same r hr hrest)

/-- A row of the next state through Out. -/
theorem rowBecomes_of_rowsWritten {s t : State} {h₀ h' : Hart} {d : BitVec 6} {M e m : Nat} {sat : Bool}
    {vals : Nat → List (Nat × XVal)} {other : Nat → Prop}
    (hrows : RowsWritten s.h.conf d.toNat M
      (fun m j => outOf (outRounded s.h.conf s.h sat) (vals m) j % 2 ^ confW s.h.conf) other h₀ h' e)
    (hv : t.h.v = h'.v) (hconf : t.h.conf = s.h.conf) (hm : m < e) : RowBecomes s t d m sat (vals m) :=
  rowBecomes_of_outOf fun j hj => (element_eq hv hconf d _).trans (hrows.done m j hm hj)

/-- A record of the next state. -/
theorem getRecord_of_recordedRows {t : State} {c : VConf} {d cr M e m : Nat} {want : Nat → Nat → Nat}
    {record : Nat → Nat} {h h' : Hart} (hrows : RecordedRows c d cr M want record h h' e) (hv : t.h.v = h'.v)
    (hm : m < e) : getRecord c cr m t.h = record m % 2 ^ 256 :=
  (getRecord_congr (vreg_congr hv _)).trans (hrows.records m hm)

/-! ## What each instruction leaves -/

/-- An instruction of the Facet unit completes: of its hart only the registers named, the flags of the engine and what
every vector instruction changes have changed. -/
def Quietly (i : Instr) (s : State) (changed : Nat → Prop) (p : State → Prop) : Prop :=
  ∃ t, exec i s = .next t ∧ OnlyVectorCore s t ∧ t.h.m = s.h.m ∧ t.h.g = s.h.g ∧ t.h.fflags = s.h.fflags ∧
    (∀ r, ¬ changed r → vreg t.h r = vreg s.h r) ∧ p t

theorem Quietly.mono {i : Instr} {s : State} {changed changed' : Nat → Prop} {p : State → Prop}
    (h : Quietly i s changed p) (hsub : ∀ r, changed r → changed' r) : Quietly i s changed' p := by
  obtain ⟨t, ht, honly, hm, hg, hfl, hsame, hp⟩ := h
  exact ⟨t, ht, honly, hm, hg, hfl, fun r hr => hsame r fun hc => hr (hsub r hc), hp⟩

section
variable {s : State} {f : VF} (hown : Owns s) (h0 : s.h.vstart = 0) (hfrm : s.h.frm ≠ 6) (hfits : Fits s)

include hown h0 hfrm hfits in
theorem quietly_mdrn_plain (hat : AtOnce (.mdrn f) s) (hlegal : MdrnLegal s f) (hset : drainSet f = 0) :
    Quietly (.mdrn f) s (· = f.d.toNat) fun t =>
      (∀ m n, m < s.h.conf.vl / 64 → n < 64 → element t f.d (fmtOf s) (64 * m + n) =
        if isPad s.h.conf (64 * m + n) then 0
        else (roundX (a48 (accEntry (getAcc (coreOf s) f.a.toNat) m n)) (fmtOf s) s.h.frm.toNat 0
          (bitAt f.imm.toNat 10)).1 % 2 ^ widthOf s) ∧ CoreDrained s t f := by
  have ha : f.a.toNat < 4 := accSource_lt_of_wellFormed hat.1 rfl rfl rfl
  obtain ⟨hwritten, hentries⟩ := drainRows_plain (fun m j hm hj => row_in_register hfits hm hj) hset
    (readS s (sregOf f.b)) (aloneAtHead (.mdrn f) s).h (getAcc (coreOf s) f.a.toNat)
  obtain ⟨t, ht, honly, hm, hg, hfl, hv, hconf, hcore⟩ :=
    quiet_of_leavesCores (leavesCores_mdrn hown h0 hfrm hat hlegal hwritten.only) hwritten.only
  rw [coreOf_tset] at hcore
  refine ⟨t, ht, honly, hm, hg, hfl, fun r hr => vreg_of_rowsWritten hwritten hv hr not_false,
    fun m n hm hn => ?_, coreDrained_of_entries ha hcore hentries⟩
  exact ((element_eq hv hconf f.d _).trans (hwritten.done m n hm hn)).trans (outOf_plainValues _ s.h _ _ m hn)

include hown h0 hfrm hfits in
theorem quietly_mdrn_projected (hat : AtOnce (.mdrn f) s) (hlegal : MdrnLegal s f) (hset : drainSet f ≠ 0) :
    Quietly (.mdrn f) s (fun r => r = f.d.toNat ∨ r = f.c.toNat) fun t =>
      (∀ m, m < s.h.conf.vl / 64 → ProjectedRow s t f (drainSet f) (drainN f) m (bitAt f.imm.toNat 10)
        (readS s (sregOf f.b)) (accRowValues (getAcc (coreOf s) f.a.toNat) m)) ∧ CoreDrained s t f := by
  have ha : f.a.toNat < 4 := accSource_lt_of_wellFormed hat.1 rfl rfl rfl
  have hset' : f.imm.toNat / 2 % 8 ≠ 0 := fun h => hset ((bitsGet_eq_div_mod _ 1 3).trans h)
  obtain ⟨hrows, hfmt, -, -, -, hproj, -⟩ := id hlegal
  obtain ⟨-, hapart, -⟩ := hproj hset'
  have hwidth := eight_le_width hfmt
  rw [registersFor_eq_one hfits hrows, recordRegisters_eq_one hfits hrows hwidth] at hapart
  obtain ⟨hwritten, hentries⟩ := drainRows_projected (fun m j hm hj => row_in_register hfits hm hj) hset (by omega)
    (fun m hm => record_in_register hfits hwidth hm) (readS s (sregOf f.b)) (aloneAtHead (.mdrn f) s).h
    (getAcc (coreOf s) f.a.toNat)
  obtain ⟨t, ht, honly, hm, hg, hfl, hv, hconf, hcore⟩ :=
    quiet_of_leavesCores (leavesCores_mdrn hown h0 hfrm hat hlegal hwritten.rows.only) hwritten.rows.only
  rw [coreOf_tset] at hcore
  refine ⟨t, ht, honly, hm, hg, hfl, fun r hr => ?_, fun m hm => ?_, coreDrained_of_entries ha hcore hentries⟩
  · obtain ⟨hd, hc⟩ := not_or.mp hr
    exact vreg_of_rowsWritten hwritten.rows hv hd hc
  · exact ⟨rowBecomes_of_rowsWritten hwritten.rows hv hconf hm, getRecord_of_recordedRows hwritten hv hm⟩

include hown h0 hfrm hfits in
theorem quietly_vproj (hat : AtOnce (.vproj f) s) (hlegal : VprojLegal s f) :
    Quietly (.vproj f) s (fun r => r = f.d.toNat ∨ r = f.c.toNat) fun t =>
      (∀ m, m < s.h.conf.vl / 64 → ProjectedRow s t f (projSet f) (projN f) m false (readS s (sregOf f.b))
        (rowAt s f.a m)) ∧ coreOf t = coreOf s := by
  obtain ⟨⟨-, -, hn, hfmt, -, hrows, hrec, -⟩, hsrc⟩ := id hlegal
  have hwidth : 8 ≤ widthOf s := eight_le_width (hfmt.trans (by decide))
  rw [registersFor_eq_one hfits hrows, recordRegisters_eq_one hfits hrows hwidth] at hrec hsrc
  have hwritten := projectRows_written (fun m j hm hj => row_in_register hfits hm hj) hn (by omega) (by omega)
    (fun m hm => record_in_register hfits hwidth hm) (readS s (sregOf f.b)) (aloneAtHead (.vproj f) s).h
  obtain ⟨t, ht, honly, hm, hg, hfl, hv, hconf, hcore⟩ :=
    quiet_of_leavesCores (leavesCores_vproj hown h0 hfrm hat hlegal hwritten.rows.only) hwritten.rows.only
  refine ⟨t, ht, honly, hm, hg, hfl, fun r hr => ?_, fun m hm => ?_, hcore⟩
  · obtain ⟨hd, hc⟩ := not_or.mp hr
    exact vreg_of_rowsWritten hwritten.rows hv hd hc
  · exact ⟨rowBecomes_of_rowsWritten hwritten.rows hv hconf hm, getRecord_of_recordedRows hwritten hv hm⟩

include hown h0 hfrm hfits in
theorem quietly_vpjadj (hat : AtOnce (.vpjadj f) s) (hlegal : VpjadjLegal s f) (hcd : f.c.toNat ≠ f.d.toNat)
    (hgood : ∀ m, m < s.h.conf.vl / 64 → recordBad f (getRecord s.h.conf f.c.toNat m s.h) = false) :
    Quietly (.vpjadj f) s (· = f.d.toNat) fun t =>
      (∀ m, m < s.h.conf.vl / 64 → RowBecomes s t f.d m false (rowGradient s.h.conf f s.h m)) ∧
        coreOf t = coreOf s := by
  obtain ⟨h', fl, hleaves, hwritten⟩ := leavesCores_vpjadj hown h0 hfrm hfits hlegal hcd hat hgood
  obtain ⟨t, ht, honly, hm, hg, hfl, hv, hconf, hcore⟩ := quiet_of_leavesCores hleaves hwritten.only
  exact ⟨t, ht, honly, hm, hg, hfl, fun r hr => vreg_of_rowsWritten hwritten hv hr not_false,
    fun m hm => rowBecomes_of_rowsWritten hwritten hv hconf hm, hcore⟩

end

theorem mem_group_of_eq {d n r : Nat} (hn : n = 1) (h : r = d) : d ≤ r ∧ r < d + n := by omega

end Sys2Proof.Machine

namespace Sys2Proof

open Machine Claim

/-- Settles O38: what a row is projected to and its gradient, and the rows and records that the three instructions write
one after the other, each into a place of its own. -/
theorem facetInstructionsComplete : Obligations.FacetInstructionsComplete := by
  unfold Obligations.FacetInstructionsComplete
  refine ⟨projectionsFollowTheirRules, gradientsFollowTheirRules, ?_⟩
  intro s f hown h0 hfrm hfits c k param groupD records drained quiet
  have in_d (hrows : RowsLegal s) (r : Nat) (hr : r = f.d.toNat) : groupD r :=
    mem_group_of_eq (registersFor_eq_one hfits hrows) hr
  have in_c (hrows : RowsLegal s) (hwidth : 8 ≤ widthOf s) (r : Nat) (hr : r = f.c.toNat) : records r :=
    mem_group_of_eq (recordRegisters_eq_one hfits hrows hwidth) hr
  refine ⟨fun hat hlegal => ⟨fun hset => ?_, fun hset => ?_⟩, fun hat hlegal => ?_, fun hat hlegal hgroups => ?_⟩
  · exact (quietly_mdrn_plain hown h0 hfrm hfits hat hlegal hset).mono (in_d hlegal.1)
  · obtain ⟨hrows, hfmt, -⟩ := id hlegal
    exact (quietly_mdrn_projected hown h0 hfrm hfits hat hlegal hset).mono fun r hr =>
      hr.imp (in_d hrows r) (in_c hrows (eight_le_width hfmt) r)
  · obtain ⟨⟨-, -, -, hfmt, -, hrows, -⟩, -⟩ := id hlegal
    exact (quietly_vproj hown h0 hfrm hfits hat hlegal).mono fun r hr =>
      hr.imp (in_d hrows r) (in_c hrows (eight_le_width (hfmt.trans (by decide))) r)
  · obtain ⟨⟨-, -, -, hfmt, -, hrows, -⟩, -⟩ := id hlegal
    have hcd : f.c.toNat ≠ f.d.toNat := fun heq =>
      hgroups _ (in_c hrows (eight_le_width (hfmt.trans (by decide))) _ rfl) (in_d hrows _ heq)
    refine ⟨fun hgood => (quietly_vpjadj hown h0 hfrm hfits hat hlegal hcd hgood).mono (in_d hrows),
      fun e he hbad hgood => ?_⟩
    obtain ⟨t, h', ht, hcause, hstart, hfrozen, hv, hconf, hwritten⟩ :=
      exec_vpjadj_refused hown h0 hfrm hfits hlegal hcd hat he hgood hbad
    exact ⟨t, ht, hcause, hstart, hfrozen, fun m hm => rowBecomes_of_rowsWritten hwritten hv hconf hm,
      fun r hr => vreg_of_rowsWritten hwritten hv (fun hd => hr (in_d hrows r hd)) not_false⟩

end Sys2Proof
end

section
/-! Trap entry, the scheduler entry, TRAP and ERET (R206, R212, R213, R343), and the state after reset. -/

namespace Sys2Proof.Machine

open Claim

/-! ## What a hart that stops abandons -/

@[simp] theorem leaveFifos_others (c w : Nat) (s : State) : (leaveFifos c w s).others = s.others := by
  unfold leaveFifos; dsimp only; split <;> rfl

@[simp] theorem leaveFifos_dies (c w : Nat) (s : State) : (leaveFifos c w s).dies = s.dies := by
  unfold leaveFifos; dsimp only; split <;> rfl

@[simp] theorem leaveHomes_others (a : Nat) (s : State) : (leaveHomes a s).others = s.others := by
  unfold leaveHomes; split <;> rfl

@[simp] theorem leaveHomes_dies (a : Nat) (s : State) : (leaveHomes a s).dies = s.dies := by
  unfold leaveHomes; split <;> rfl

theorem dropLoads_others (s : State) : (dropLoads s).others = s.others :=
  (leaveFifos_others _ _ _).trans (leaveHomes_others _ _)

theorem dropLoads_dies (s : State) : (dropLoads s).dies = s.dies := (leaveFifos_dies _ _ _).trans (leaveHomes_dies _ _)

theorem dropLoads_cur (s : State) : (dropLoads s).cur = s.cur := (leaveFifos_cur _ _ _).trans (leaveHomes_cur _ _)

theorem takeTrap_others (intr : Bool) (cause : Nat) (val epc : Word) (qpos : BitVec 6) (s : State) :
    (takeTrap intr cause val epc qpos s).others = s.others := dropLoads_others s

theorem takeTrap_dies (intr : Bool) (cause : Nat) (val epc : Word) (qpos : BitVec 6) (s : State) :
    (takeTrap intr cause val epc qpos s).dies = s.dies := dropLoads_dies s

/-! ## Trap entry (R206) -/

/-- Without a read-back value that was produced before, no scalar register changes (R335). -/
theorem deliverAll_x_of_none {h : Hart} (hrb : h.readback = []) : (deliverAll h).x = h.x := by
  simp [deliverAll, hrb]

/-- The cause of a trap as a word: bit 63 for an interrupt, above the number of the cause. -/
theorem word_cause (intr : Bool) (cause : BitVec 8) :
    word (cause.toNat % 256 + if intr then 2 ^ 63 else 0) =
      (cause.zeroExtend 64 ||| (if intr then 1 <<< 63 else 0)) := by
  have hlt : cause.toNat < 2 ^ 63 := by omega
  have hmod : cause.toNat % 256 = cause.toNat := Nat.mod_eq_of_lt cause.isLt
  have hmod64 : cause.toNat % 2 ^ 64 = cause.toNat := Nat.mod_eq_of_lt (by omega)
  refine BitVec.eq_of_toNat_eq ?_
  rw [BitVec.toNat_or, BitVec.toNat_setWidth, hmod64, word, BitVec.toNat_ofNat, hmod, BitVec.natCast_eq_ofNat,
    BitVec.toNat_ofNat]
  cases intr with
  | false => simp; omega
  | true =>
    have hor : 2 ^ 63 + cause.toNat = 2 ^ 63 ||| cause.toNat := by simpa using Nat.two_pow_add_eq_or_of_lt hlt 1
    have hbit : (if true = true then 1 <<< 63 else 0) % 2 ^ 64 = 2 ^ 63 := rfl
    rw [hbit, Nat.or_comm, ← hor, if_pos rfl]
    omega

/-- The status after trap entry, field by field (R206). -/
theorem trapEntry_status (intr : Bool) (cause : Nat) (val epc : Word) (qpos : BitVec 6) (h : Hart) :
    let w := (trapEntry intr cause val epc qpos h).status
    w.getLsbD 0 = (isSuper h || rprivBit h) ∧ w.getLsbD 1 = false ∧ w.getLsbD 2 = ieBit h ∧ w.getLsbD 3 = isSuper h ∧
    w.getLsbD 4 = partialBit h ∧ w.getLsbD 5 = (hndBit h || !rprivBit h) ∧ w.getLsbD 6 = rprivBit h ∧
    w.getLsbD 7 = schedBit h :=
  mkStatus_bits _ _ _ _ _ _ _ _

/-- What trap entry saves, the mode it enters, and what it leaves as it was. -/
theorem trapEntrySavesAndEnters : TrapEntrySavesAndEnters := by
  intro s intr cause val epc qpos
  obtain ⟨hpriv, hie, hpie, hppriv, hpartial, hhnd, hrpriv, hsched⟩ := trapEntry_status intr cause.toNat val epc qpos s.h
  simp only [takeTrap_h, takeTrap_mem, takeTrap_others, takeTrap_dies]
  exact ⟨rfl, word_cause intr cause, rfl, rfl, rfl, hppriv, hpie, hie, hpriv, hhnd, hpartial, hrpriv, hsched, rfl, rfl, rfl,
    deliverAll_x_of_none, rfl, rfl, rfl, rfl, rfl, rfl, trivial, trivial, trivial⟩

/-! ## The scheduler entry (R343) -/

/-- What the scheduler's entry makes of the hart, at the SCHEDENT given. -/
def schedulerHart (entry : Word) (h : Hart) : Hart :=
  { deliverAll h with
    epc := h.pc
    trapcause := word (0x11 + 2 ^ 63)
    trapqpos := headSlot h
    trapval := word h.saveBlock
    status := mkStatus true (rprivBit h) (hndBit h) (partialBit h) (isSuper h) (ieBit h) false true
    pc := entry
    frozen := !h.queue.isEmpty
    loadData := Vector.replicate 2 []
    preempt := false
    stalled := false
    full := false
    replay := false
    pass := {}
    front := 16384
    memberPass := []
    wfaWait := false
    waitT0 := none }

theorem schedulerEntry_h (s : State) :
    (schedulerEntry s).h = schedulerHart (getDie s (curDie s)).schedent s.h := by
  have hdie : (getDie (dropLoads s) (curDie (dropLoads s))) = getDie s (curDie s) := by
    simp only [getDie, curDie, curCore, dropLoads_dies, dropLoads_cur]
  show schedulerHart (getDie (dropLoads s) (curDie (dropLoads s))).schedent (dropLoads s).h = _
  rw [hdie, dropLoads_h]

/-- What the scheduler's entry saves, the mode it enters, and what it leaves as it was. -/
theorem schedulerEntrySavesAndEnters : SchedulerEntrySavesAndEnters := by
  intro s
  obtain ⟨hpriv, hie, hpie, hppriv, hpartial, hhnd, hrpriv, hsched⟩ := mkStatus_bits true (rprivBit s.h) (hndBit s.h)
    (partialBit s.h) (isSuper s.h) (ieBit s.h) false true
  have hothers : (schedulerEntry s).others = s.others := dropLoads_others s
  simp only [schedulerEntry_h, schedulerEntry_mem, hothers]
  exact ⟨rfl, rfl, rfl, rfl, rfl, hsched, hpriv, hie, hpie, hppriv, hpartial, hhnd, hrpriv, rfl, rfl, rfl, rfl, rfl, rfl,
    deliverAll_x_of_none, trivial, trivial⟩

/-! ## TRAP (R212) -/

/-- The bits of TRAP: its code at [21:12] of a parcel of SYS. -/
theorem encodeBits_trap (code : BitVec 10) :
    encodeBits (.trap code) = some (code.toNat * 2 ^ 12 + 0x2C * 2, 1) := by
  have hjoin : join32 0 (code.toNat / 32) (code.toNat % 32) 0 44 = code.toNat * 2 ^ 12 + 0x2C * 2 := by
    unfold join32; omega
  show some (join32 0 (code.toNat / 32) (code.toNat % 32) 0 44, 1) = _
  rw [hjoin]

/-! ## ERET (R213) -/

/-- What a return leaves: the return of the scheduler's entry has acquired (R324). -/
def returned (s : State) : State :=
  perfAdd 0 1 { (if schedBit s.h then acquire (curCore s) s else s) with
    h := { trapReturn s.h with replay := partialBit s.h, waitT0 := none } }

theorem returned_mem (s : State) : (returned s).mem = s.mem := by
  show (if schedBit s.h then acquire (curCore s) s else s).mem = s.mem
  split <;> rfl

/-- The status after the return, field by field (R213). -/
theorem returned_status (s : State) :
    let w := (returned s).h.status
    w.getLsbD 0 = pprivBit s.h ∧ w.getLsbD 1 = pieBit s.h ∧ w.getLsbD 2 = pieBit s.h ∧ w.getLsbD 3 = pprivBit s.h ∧
    w.getLsbD 4 = partialBit s.h ∧ w.getLsbD 5 = false ∧ w.getLsbD 6 = rprivBit s.h ∧ w.getLsbD 7 = false :=
  mkStatus_bits _ _ _ _ _ _ _ _

/-- A hart that may return does: a replay names the head's entry, or a member of its convoy (R370). -/
theorem exec_eret {s : State} (hmode : isSuper s.h = true ∨ hndBit s.h = true)
    (hreplay : partialBit s.h = true → s.h.trapqpos.toNat ∈ replaySlots s.h) : exec .eret s = .next (returned s) := by
  have hallowed : ¬ (!isSuper s.h && !hndBit s.h) = true := by rcases hmode with h | h <;> simp [h]
  have hslot : ¬ (partialBit s.h && !(replaySlots s.h).contains s.h.trapqpos.toNat) = true := by
    simpa using hreplay
  show execEret s = _
  rw [execEret, if_neg hallowed, if_neg hslot, returned]
  split <;> rfl

/-- The return, and the trap of a hart that may not return. -/
theorem eretReturns : EretReturns := by
  intro s
  refine ⟨fun hmode hreplay => ⟨returned s, exec_eret hmode hreplay, ?_⟩, fun hpriv hhnd hbusy => ?_⟩
  · obtain ⟨hpriv, hie, -, -, hpartial, hhnd, hrpriv, hsched⟩ := returned_status s
    exact ⟨hpriv, hie, hhnd, hsched, hrpriv, hpartial, rfl, rfl, rfl, rfl, rfl, rfl, returned_mem s⟩
  · have hrefused : (!isSuper s.h && !hndBit s.h) = true := by
      rw [isSuper, hndBit, hpriv, hhnd]; rfl
    show execEret s = _
    rw [execEret, if_pos hrefused, scalarTrap_of_not_busy _ _ hbusy]
    rfl

/-- An aligned PC stays as it is when its low two bits are cleared. -/
theorem clearLowBits_of_aligned {pc : Word} (h : pc &&& 3 = 0) : pc &&& ~~~3 = pc := by
  refine BitVec.eq_of_getLsbD_eq fun k hk => ?_
  have hbit : (pc.getLsbD k && (3 : Word).getLsbD k) = false := by
    rw [← BitVec.getLsbD_and, h]; exact BitVec.getLsbD_zero
  rw [BitVec.getLsbD_and, BitVec.getLsbD_not, decide_eq_true hk, Bool.true_and]
  cases hp : pc.getLsbD k with
  | false => rfl
  | true => rw [hp, Bool.true_and] at hbit; rw [hbit]; rfl

/-- Trap entry followed by the return: one of the two modes of the entry allows it, and no replay is asked for. -/
theorem returnUndoesTrapEntry : ReturnUndoesTrapEntry := by
  intro s intr cause val qpos hhnd hpartial hsched hpc hrb
  have hh := takeTrap_h intr cause val s.h.pc qpos s
  obtain ⟨epriv, -, epie, eppriv, epartial, ehnd, -, -⟩ := trapEntry_status intr cause val s.h.pc qpos s.h
  obtain ⟨hpriv, hie, -, -, -, hhnd', -, -⟩ := returned_status (takeTrap intr cause val s.h.pc qpos s)
  rw [← hh] at epriv epie eppriv epartial ehnd
  have hmode : isSuper (takeTrap intr cause val s.h.pc qpos s).h = true ∨
      hndBit (takeTrap intr cause val s.h.pc qpos s).h = true := by
    rw [isSuper, hndBit, epriv, ehnd]
    cases rprivBit s.h <;> simp
  have hwhole : partialBit (takeTrap intr cause val s.h.pc qpos s).h = false := epartial.trans hpartial
  refine ⟨_, exec_eret hmode (by simp [hwhole]), hpriv.trans eppriv, hie.trans epie, hhnd', ?_, ?_, ?_, ?_, rfl, ?_⟩
  · show (takeTrap intr cause val s.h.pc qpos s).h.epc &&& ~~~3 = s.h.pc
    rw [hh]
    exact clearLowBits_of_aligned hpc
  · show (takeTrap intr cause val s.h.pc qpos s).h.x = s.h.x
    rw [hh]
    exact deliverAll_x_of_none hrb
  · show (takeTrap intr cause val s.h.pc qpos s).h.v = s.h.v
    rw [hh]; rfl
  · show (takeTrap intr cause val s.h.pc qpos s).h.queue = s.h.queue
    rw [hh]; rfl
  · rw [returned_mem, takeTrap_mem]

end Sys2Proof.Machine

namespace Sys2Proof

open Machine Claim

/-- Settles O42: both entries, each by what it makes of the hart. -/
theorem trapAndSchedulerEntry : Obligations.TrapAndSchedulerEntry := by
  unfold Obligations.TrapAndSchedulerEntry
  exact ⟨trapEntrySavesAndEnters, schedulerEntrySavesAndEnters⟩

/-- Settles O10: the encoding, and a trap of the hart that has counted the instruction. -/
theorem trapInstructionTraps : Obligations.TrapInstructionTraps := by
  unfold Obligations.TrapInstructionTraps
  intro s code
  refine ⟨encodeBits_trap code, fun hbusy => ?_⟩
  have hexec : exec (.trap code) s =
      .next (takeTrap false 0x10 (code.zeroExtend 64) (s.h.pc + 4) 32 (perfAdd 0 1 s)) := by
    show execTrap code s = _
    rw [execTrap, hbusy]
    rfl
  refine ⟨_, hexec, ?_⟩
  simp only [takeTrap_h, takeTrap_mem]
  exact ⟨rfl, rfl, rfl, rfl, rfl, rfl, fun hrb => deliverAll_x_of_none (h := (perfAdd 0 1 s).h) hrb⟩

/-- Settles O11: the return, and that it undoes a trap entry. -/
theorem eretReturnsFromTraps : Obligations.EretReturnsFromTraps := by
  unfold Obligations.EretReturnsFromTraps
  exact ⟨eretReturns, returnUndoesTrapEntry⟩

/-- Settles O60: each value as the reset state lists it. -/
theorem resetState : Obligations.ResetState := by
  unfold Obligations.ResetState
  exact ⟨rfl, rfl, rfl, rfl, rfl, rfl, rfl, rfl, rfl, fun _ => rfl, fun _ => rfl, rfl, rfl, rfl, rfl, rfl, rfl, rfl, rfl⟩

end Sys2Proof
end

section
/-! VCFG and SETVL on an empty queue (R207 to R210): what a configuration entry that runs at once leaves of the registers
(R113, log 52), and the configuration that SETVL grants. -/

namespace Sys2Proof.Machine

open Claim

/-! ## The effect of a configuration on the registers -/

/-- What a configuration makes of the hart, with its vector registers cleared or not (R113, log 52). -/
def reconfigured (cleared : Bool) (c : VConf) (h : Hart) : Hart :=
  let h' :=
    if cleared then { h with v := Vector.replicate 64 0, vdirty := 0, marks := Vector.replicate 64 0 }
    else if c.lanes ≠ h.headConf.lanes then
      { h with v := h.v.map (· % 2 ^ regBits c), marks := h.marks.map fun x => min x (regBits c) }
    else h
  { h' with
    g := if c.lanes ≠ h.headConf.lanes then h.g.map (· % 2 ^ (1152 * c.lanes)) else h.g, headConf := c, vstart := 0 }

theorem applyConfig_vcfg (f : VF) (c : VConf) (h : Hart) :
    applyConfig (.vcfg f) c h = reconfigured (confNreg c != confNreg h.headConf) c h := rfl

theorem applyConfig_setvl (f : VF) (c : VConf) (h : Hart) : applyConfig (.setvl f) c h = reconfigured false c h := rfl

section
variable (cleared : Bool) (c : VConf) (h : Hart)

/-- What a configuration keeps of the hart beside its vector and matrix registers. -/
theorem reconfigured_fields :
    (reconfigured cleared c h).conf = h.conf ∧ (reconfigured cleared c h).queue = h.queue ∧
    (reconfigured cleared c h).pc = h.pc ∧ (reconfigured cleared c h).x = h.x ∧ (reconfigured cleared c h).m = h.m := by
  unfold reconfigured
  dsimp only
  split
  · exact ⟨rfl, rfl, rfl, rfl, rfl⟩
  · split <;> exact ⟨rfl, rfl, rfl, rfl, rfl⟩

/-- The matrix registers keep what the lanes hold. -/
theorem reconfigured_g : (reconfigured cleared c h).g =
    if c.lanes ≠ h.headConf.lanes then h.g.map (· % 2 ^ (1152 * c.lanes)) else h.g := rfl

variable {c h}

/-- Under the same lanes registers that are not cleared stay as they are. -/
theorem reconfigured_same_lanes (hl : c.lanes = h.headConf.lanes) :
    (reconfigured false c h).v = h.v ∧ (reconfigured false c h).marks = h.marks ∧
    (reconfigured false c h).vdirty = h.vdirty := by
  simp [reconfigured, hl]

/-- Under other lanes they keep what those hold. -/
theorem reconfigured_new_lanes (hl : c.lanes ≠ h.headConf.lanes) :
    (reconfigured false c h).v = h.v.map (· % 2 ^ regBits c) ∧
    (reconfigured false c h).marks = h.marks.map (fun x => min x (regBits c)) ∧
    (reconfigured false c h).vdirty = h.vdirty := by
  simp [reconfigured, hl]

end

/-! ## A configuration entry at the head -/

/-- What leaving the head slot keeps of the hart. -/
theorem popSlots_fields (n : Nat) (h : Hart) :
    (popSlots n h).conf = h.conf ∧ (popSlots n h).headConf = h.headConf ∧ (popSlots n h).vstart = h.vstart ∧
    (popSlots n h).pc = h.pc ∧ (popSlots n h).x = h.x ∧ (popSlots n h).marks = h.marks := by
  unfold popSlots endReplay
  split <;> exact ⟨rfl, rfl, rfl, rfl, rfl, rfl⟩

theorem popSlots_registers (n : Nat) (h : Hart) :
    (popSlots n h).v = h.v ∧ (popSlots n h).vdirty = h.vdirty ∧ (popSlots n h).m = h.m ∧ (popSlots n h).g = h.g :=
  ⟨endReplay_v h, endReplay_vdirty h, endReplay_m h, endReplay_g h⟩

/-- The state right after the commit of a configuration (R209). -/
def pushedConfig (i : Instr) (c : VConf) (s : State) : State :=
  pushEntry (.config i c) { s with h := { s.h with conf := c } }

/-- The next state of a configuration that is committed on an empty queue: its entry is the head's and runs. -/
def configured (cleared : Bool) (i : Instr) (c : VConf) (s : State) : State :=
  { pushedConfig i c s with h := popSlots 1 (reconfigured cleared c (pushedConfig i c s).h) }

section
variable {s : State} (hf : s.h.frozen = false) (hq : s.h.queue = [])

include hf hq in
/-- On an empty queue a configuration takes effect on the registers at once. -/
theorem commitConfig_alone (i : Instr) (c : VConf) : commitConfig i c s =
    { pushedConfig i c s with h := popSlots 1 (applyConfig i c (pushedConfig i c s).h) } := by
  have hempty : s.h.queue.isEmpty = true := by simp [hq]
  have hfrozen : ¬ (pushedConfig i c s).h.frozen = true := by
    show ¬ s.h.frozen = true
    simp [hf]
  have hqueue : (pushedConfig i c s).h.queue = [.config i c] := congrArg (· ++ [Entry.config i c]) hq
  have hrun : commitConfig i c s = runHead (pushedConfig i c s) := if_pos hempty
  rw [hrun, runHead, runHeadTo, if_neg hfrozen, hqueue]

include hf hq in
theorem commitConfig_vcfg (f : VF) (c : VConf) :
    commitConfig (.vcfg f) c s = configured (confNreg c != confNreg s.h.headConf) (.vcfg f) c s :=
  commitConfig_alone hf hq (.vcfg f) c

include hf hq in
theorem commitConfig_setvl (f : VF) (c : VConf) : commitConfig (.setvl f) c s = configured false (.setvl f) c s :=
  commitConfig_alone hf hq (.setvl f) c

end

section
variable (cleared : Bool) (i : Instr) {c : VConf} {s : State}

/-- What the committed configuration leaves beside the vector and matrix registers. -/
theorem configured_fields (hq : s.h.queue = []) :
    let t := configured cleared i c s
    t.h.conf = c ∧ t.h.headConf = c ∧ t.h.vstart = 0 ∧ t.h.queue = [] ∧ t.h.pc = s.h.pc + 8 ∧ t.h.x = s.h.x ∧
    t.h.m = s.h.m ∧ t.mem = s.mem := by
  obtain ⟨pconf, phead, pvstart, ppc, px, -⟩ := popSlots_fields 1 (reconfigured cleared c (pushedConfig i c s).h)
  obtain ⟨rconf, rqueue, rpc, rx, rm⟩ := reconfigured_fields cleared c (pushedConfig i c s).h
  obtain ⟨-, -, pm, -⟩ := popSlots_registers 1 (reconfigured cleared c (pushedConfig i c s).h)
  have hqueue : (reconfigured cleared c (pushedConfig i c s).h).queue = [.config i c] :=
    rqueue.trans (congrArg (· ++ [Entry.config i c]) hq)
  exact ⟨pconf.trans rconf, phead, pvstart, congrArg (List.drop 1) hqueue, ppc.trans rpc, px.trans rx, pm.trans rm, rfl⟩

/-- The matrix registers keep what the lanes hold. -/
theorem configured_g : (configured cleared i c s).h.g =
    if c.lanes ≠ s.h.headConf.lanes then s.h.g.map (· % 2 ^ (1152 * c.lanes)) else s.h.g :=
  (popSlots_registers 1 _).2.2.2

/-- Cleared registers are zero, without a mark. -/
theorem configured_cleared :
    (configured true i c s).h.v = Vector.replicate 64 0 ∧ (configured true i c s).h.marks = Vector.replicate 64 0 ∧
    (configured true i c s).h.vdirty = 0 := by
  obtain ⟨pv, pdirty, -, -⟩ := popSlots_registers 1 (reconfigured true c (pushedConfig i c s).h)
  obtain ⟨-, -, -, -, -, pmarks⟩ := popSlots_fields 1 (reconfigured true c (pushedConfig i c s).h)
  exact ⟨pv, pmarks, pdirty⟩

/-- Registers that are not cleared are those of the lanes that the hart has (R113). -/
theorem adopted_configured (hq : s.h.queue = []) (hlanes : c.lanes = lanesOf s s.cur) :
    Adopted s (configured false i c s) (regBits c) := by
  obtain ⟨-, -, -, -, -, -, hm, -⟩ := configured_fields false i (c := c) hq
  obtain ⟨pv, pdirty, -, -⟩ := popSlots_registers 1 (reconfigured false c (pushedConfig i c s).h)
  obtain ⟨-, -, -, -, -, pmarks⟩ := popSlots_fields 1 (reconfigured false c (pushedConfig i c s).h)
  have hg := configured_g false i (c := c) (s := s)
  unfold Adopted
  rw [← hlanes]
  by_cases hl : c.lanes = s.h.headConf.lanes
  · obtain ⟨rv, rmarks, rdirty⟩ := reconfigured_same_lanes (h := (pushedConfig i c s).h) hl
    rw [if_neg (not_not_intro hl)] at hg
    exact ⟨pdirty.trans rdirty, hm, fun h => absurd hl h, fun _ => ⟨pv.trans rv, pmarks.trans rmarks, hg⟩⟩
  · obtain ⟨rv, rmarks, rdirty⟩ := reconfigured_new_lanes (h := (pushedConfig i c s).h) hl
    rw [if_pos hl] at hg
    have hv : (configured false i c s).h.v = s.h.v.map (· % 2 ^ regBits c) := pv.trans rv
    have hmarks : (configured false i c s).h.marks = s.h.marks.map fun x => min x (regBits c) := pmarks.trans rmarks
    refine ⟨pdirty.trans rdirty, hm, fun _ => ⟨fun r => ?_, fun k => ?_⟩, fun h => absurd hl h⟩
    · simp [hv, hmarks]
    · simp [hg]

end

/-! ## What SETVL grants (R210) -/

/-- A field inside a register reads as in the number written to it. -/
theorem bitsGet_ofNat (x : Nat) {w pos len : Nat} (h : pos + len ≤ w) :
    bitsGet (BitVec.ofNat w x).toNat pos len = bitsGet x pos len := by
  refine Nat.eq_of_testBit_eq fun k => ?_
  rw [testBit_bitsGet, testBit_bitsGet, BitVec.toNat_ofNat, Nat.testBit_mod_two_pow]
  by_cases hk : k < len
  · simp [hk, show pos + k < w by omega]
  · simp [hk]

/-- The length of which SETVL grants multiples: a block, else one element, and a whole byte of the narrowest format. -/
def grantStep (fmt blk : Nat) : Nat := if blk ≠ 0 then 4 * 2 ^ blk else if fmt = 12 then 8 else 1

theorem grantStep_pos (fmt blk : Nat) : 0 < grantStep fmt blk := by
  unfold grantStep
  split
  · positivity
  · split <;> decide

theorem grantStep_eq (blk fmt : Nat) :
    (if blk = 0 then (if fmt = 12 then 8 else 1) else blockLen blk) = grantStep fmt blk := by
  unfold grantStep blockLen
  by_cases h : blk = 0
  · simp [h]
  · simp [h]

section
variable (imm r lanes : Nat) (c : VConf)

/-- The number of registers stays, the format is that of the operand (R54, R210). -/
theorem setvlGrant_vcfg : confNreg (setvlGrant imm r lanes c) = confNreg c ∧
    confFmt (setvlGrant imm r lanes c) = bitsGet imm 0 4 := by
  constructor
  · show bitsGet (BitVec.ofNat 16 _).toNat 0 2 = _
    rw [bitsGet_ofNat _ (by decide), bitsGet_bitsSet_of_disjoint _ _ (.inl (by decide)),
      bitsGet_bitsSet_of_disjoint _ _ (.inl (by decide))]
    rfl
  · show bitsGet (BitVec.ofNat 16 _).toNat 2 4 = _
    rw [bitsGet_ofNat _ (by decide), bitsGet_bitsSet_of_disjoint _ _ (.inl (by decide)), bitsGet_bitsSet_self]
    rfl

/-- The length granted: the multiple of the block length that holds the request, cut to the largest in VLmax. -/
theorem setvlGrant_vl : (setvlGrant imm r lanes c).vl =
    min ((r + grantStep (bitsGet imm 0 4) (bitsGet imm 4 3) - 1) / grantStep (bitsGet imm 0 4) (bitsGet imm 4 3) *
        grantStep (bitsGet imm 0 4) (bitsGet imm 4 3))
      (vlmaxOf lanes (confNreg c) (bitsGet imm 0 4) / grantStep (bitsGet imm 0 4) (bitsGet imm 4 3) *
        grantStep (bitsGet imm 0 4) (bitsGet imm 4 3)) := by
  rw [← grantStep_eq]
  rfl

end

/-- The smallest multiple of b that holds r, at most the largest in `most`. -/
theorem grant_bounds {b r most vl : Nat} (hb : 0 < b) (hvl : vl = min ((r + b - 1) / b * b) (most / b * b)) :
    vl % b = 0 ∧ vl ≤ most ∧ (vl < r → most < vl + b) ∧ (r ≤ vl → vl < r + b) := by
  have hup := Nat.div_add_mod (r + b - 1) b
  have hupmod := Nat.mod_lt (r + b - 1) hb
  have hmost := Nat.div_add_mod most b
  have hmostmod := Nat.mod_lt most hb
  rw [Nat.mul_comm] at hup hmost
  refine ⟨?_, by omega, by omega, by omega⟩
  rw [hvl]
  rcases min_choice ((r + b - 1) / b * b) (most / b * b) with h | h <;> rw [h] <;> exact Nat.mul_mod_left _ _

/-- The configuration that SETVL grants to its hart. -/
abbrev granted (f : VF) (s : State) : VConf :=
  setvlGrant f.imm.toNat (readS s (sregOf f.a)).toNat (lanesOf s s.cur) s.h.conf

/-- The length granted in its register. -/
abbrev grantWritten (f : VF) (s : State) : State := writeS (sregOf f.d) (word (granted f s).vl) s

theorem lanesOf_writeS (d : SReg) (v : Word) (s : State) :
    lanesOf (writeS d v s) (writeS d v s).cur = lanesOf s s.cur := by
  rw [writeS_frame]
  rfl

/-- The write of a scalar register is nothing to the lanes that a configuration adopts. -/
theorem adopted_writeS {d : SReg} {v : Word} {s t : State} {cap : Nat} (h : Adopted (writeS d v s) t cap) :
    Adopted s t cap := by
  rw [writeS_frame] at h
  exact h

/-! ## The two instructions on an empty queue -/

/-- The configuration that VCFG gives its hart (R208). -/
abbrev vcfgGiven (f : VF) (s : State) : VConf := { vcfg := f.imm, vl := 0, vlpad := 0, lanes := lanesOf s s.cur }

section
variable {s : State} {f : VF} (hf : s.h.frozen = false) (hq : s.h.queue = [])

include hf hq

theorem exec_vcfg (hlegal : vcfgIllegal f.imm.toNat = false) : exec (.vcfg f) s =
    .next (configured (bitsGet f.imm.toNat 0 2 != confNreg s.h.headConf) (.vcfg f) (vcfgGiven f s) s) := by
  show execVcfg f s = _
  rw [execVcfg, if_neg (by simp [hf, hlegal]), if_neg (by simp [hq]), commitConfig_vcfg hf hq]
  rfl

theorem exec_setvl (hlegal : setvlIllegal f.imm.toNat = false) (hfree : Free s [sregOf f.a, sregOf f.d]) :
    exec (.setvl f) s = .next (configured false (.setvl f) (granted f s) (grantWritten f s)) := by
  show execSetvl f s = _
  rw [execSetvl, if_neg (by simp [hf, hlegal]), whenReady_ready _ _ _ hfree, if_neg (by simp [hq])]
  exact congrArg Host.Outcome.next (commitConfig_setvl (s := grantWritten f s) ((writeS_h_frozen _ _ _).trans hf)
    ((writeS_h_queue _ _ _).trans hq) f (granted f s))

end

end Sys2Proof.Machine

namespace Sys2Proof

open Machine Claim

/-- Settles O22: both commit a configuration entry, which runs at once; what SETVL grants is bounded by `grant_bounds`. -/
theorem configurationIsCommitted : Obligations.ConfigurationIsCommitted := by
  unfold Obligations.ConfigurationIsCommitted
  intro s f hf hq
  refine ⟨fun hlegal => ⟨_, exec_vcfg hf hq hlegal, ?vcfg⟩,
    fun hlegal hfree b most hb hmost => ⟨_, exec_setvl hf hq hlegal hfree, ?setvl⟩⟩
  case vcfg =>
    obtain ⟨hconf, hhead, hvstart, hqueue, hpc, hx, hm, hmem⟩ := configured_fields
      (bitsGet f.imm.toNat 0 2 != confNreg s.h.headConf) (.vcfg f) (c := vcfgGiven f s) hq
    refine ⟨hconf, hhead.trans hconf.symm, hvstart, hqueue, hpc, hx, hm, hmem, fun hn => ?_, fun hn => ?_⟩
    · have hkept : (bitsGet f.imm.toNat 0 2 != confNreg s.h.headConf) = false := bne_eq_false_iff_eq.2 hn
      rw [hkept]
      exact adopted_configured (.vcfg f) (c := vcfgGiven f s) hq rfl
    · have hcleared : (bitsGet f.imm.toNat 0 2 != confNreg s.h.headConf) = true := bne_iff_ne.2 hn
      rw [hcleared]
      obtain ⟨hv, hmarks, hdirty⟩ := configured_cleared (.vcfg f) (c := vcfgGiven f s) (s := s)
      refine ⟨hv, hmarks, hdirty, fun k => ?_⟩
      rw [configured_g]
      by_cases hl : lanesOf s s.cur = s.h.headConf.lanes
      · simp [hl]
      · simp [hl]
  case setvl =>
    have hq' : (grantWritten f s).h.queue = [] := (writeS_h_queue _ _ _).trans hq
    obtain ⟨hconf, -, -, hqueue, hpc, hx, -, hmem⟩ := configured_fields false (.setvl f) (c := granted f s) hq'
    obtain ⟨hnreg, hfmt⟩ := setvlGrant_vcfg f.imm.toNat (readS s (sregOf f.a)).toNat (lanesOf s s.cur) s.h.conf
    have hN : confN (granted f s) = confN s.h.conf := congrArg (8 * 2 ^ ·) hnreg
    have hvl : (granted f s).vl = min (((readS s (sregOf f.a)).toNat + b - 1) / b * b) (most / b * b) := by
      rw [setvlGrant_vl, hmost, show b = grantStep _ _ from hb]
      rfl
    obtain ⟨hmod, hle, hcut, hholds⟩ := grant_bounds (hb ▸ grantStep_pos _ _) hvl
    have hadopted := adopted_writeS (adopted_configured (.setvl f) (c := granted f s) hq' (lanesOf_writeS _ _ s).symm)
    have hread (r : SReg) : readS (configured false (.setvl f) (granted f s) (grantWritten f s)) r =
        readS (grantWritten f s) r := by
      simp only [readS, hx]
    simp only [hconf]
    refine ⟨hmod, hle, hcut, hholds, rfl, rfl, hN, hfmt, ?_, fun r hr => ?_, hqueue, ?_, ?_, hmem.trans (writeS_mem _ _ _)⟩
    · rw [hread, readS_writeS]
      by_cases hd : sregOf f.d = 0
      · rw [if_neg (fun h => h.2 hd), if_pos hd, hd, readS_zero]
      · rw [if_pos ⟨rfl, hd⟩, if_neg hd]
        rfl
    · rw [hread, readS_writeS, if_neg fun h => hr h.1]
    · rw [hpc, writeS_h_pc]
    · rwa [regBits, hN] at hadopted

end Sys2Proof
end

section
/-! An outstanding read-back value for s0 (R19, R335, R109): an MPOPC, MFIRST or VMVS may name s0, and the CSR instructions,
whose field a is s0 where they only read, then wait for it. -/

namespace Sys2Proof.Machine

open Claim

/-- A supervisor with an empty queue, for which a value for s0 has been produced and not yet written. -/
def zeroOutstanding : State := { State.reset with h := { readback := [(0, 0)] } }

theorem csrQuiet_zeroOutstanding : CsrQuiet zeroOutstanding := ⟨rfl, rfl⟩

/-- A read-back value for s0 holds no other register back. -/
theorem free_zeroOutstanding : Free zeroOutstanding [1, 1] := by
  unfold Free
  decide

/-- A read of a register that any mode may read waits while a register that it names is outstanding. -/
theorem csrOp_waits {i : Instr} {d a : SReg} {csr : BitVec 12} {f : Word → Word} {s : State}
    (hacc : csrAccess csr.toNat = some .userRo) (hpend : ∃ r ∈ [d, a], isPending s.h r = true) :
    csrOp i d a csr false f s = stall s := by
  obtain ⟨r, hr, hp⟩ := hpend
  simp [csrOp, hacc, csrDenied, whenReady_waits _ _ _ r hr hp]

theorem exec_cfgrd (d : SReg) (csr : BitVec 12) (s : State) :
    exec (.cfgrd d csr) s = csrOp (.cfgrd d csr) d 0 csr false (fun x => x) s := rfl

/-- With a = 0 CFGSET only reads (R203). -/
theorem exec_cfgset_zero (d : SReg) (csr : BitVec 12) (s : State) :
    exec (.cfgset d 0 csr) s = csrOp (.cfgset d 0 csr) d 0 csr false (fun x => x ||| readS s 0) s := rfl

/-- CFGRD has s0 in its field a, and so does a CFGSET that only reads. -/
theorem csrReads_wait_for_zero {s : State} (d : SReg) (hpend : isPending s.h 0 = true) :
    exec (.cfgrd d 0x000) s = .next (Waiting s) ∧ exec (.cfgset d 0 0x000) s = .next (Waiting s) :=
  have hnames : ∃ r ∈ [d, 0], isPending s.h r = true := ⟨0, by simp, hpend⟩
  ⟨(exec_cfgrd d 0x000 s).trans (csrOp_waits rfl hnames), (exec_cfgset_zero d 0x000 s).trans (csrOp_waits rfl hnames)⟩

/-- An instruction that waits gives nothing: it stays at its PC. -/
theorem not_gives_of_waits {i : Instr} {s : State} {d : SReg} {v : Word} (h : exec i s = .next (Waiting s)) :
    ¬ Gives i s d v := by
  rintro ⟨t, ht, -, -, hpc, -⟩
  obtain rfl : Waiting s = t := Host.Outcome.next.inj (h.symm.trans ht)
  have hstays : s.h.pc = s.h.pc + 4 := hpc
  bv_omega

end Sys2Proof.Machine

namespace Sys2Proof

open Machine Claim

/-- Refutes O14: CFGRD waits while a read-back value for s0 is outstanding, since it names s0 in its field a; the statement
asks for d alone to be free. -/
theorem not_csrReadsAndGuards : ¬ Obligations.CsrReadsAndGuards := by
  unfold Obligations.CsrReadsAndGuards
  rintro ⟨hreads, -⟩
  exact not_gives_of_waits (csrReads_wait_for_zero 1 rfl).1
    (hreads zeroOutstanding 1 0x000 _ (free_of_subset free_zeroOutstanding (by simp)) csrQuiet_zeroOutstanding rfl (.inl rfl))

/-- Refutes O13: CFGSET with a = 0 waits while a read-back value for s0 is outstanding; the statement has it read, and asks
for d and the other a alone to be free. -/
theorem not_csrWritesReachTheirRegister : ¬ Obligations.CsrWritesReachTheirRegister := by
  unfold Obligations.CsrWritesReachTheirRegister
  rintro ⟨hwrites, -, -⟩
  obtain ⟨-, -, hset, -⟩ := hwrites zeroOutstanding 1 1 0x000 _ free_zeroOutstanding csrQuiet_zeroOutstanding rfl rfl
  exact not_gives_of_waits (csrReads_wait_for_zero 1 rfl).2 hset

end Sys2Proof
end

section
/-! VSAVE under `mo` = 2 while a remote write of its hart is outstanding (R317, R326): the first part of the block performs
after the hart's earlier accesses, at every scope, so the instruction waits. -/

namespace Sys2Proof.Machine

open Claim

/-- The save area at the address in s1. -/
def areaInS1 : VF := { d := 0, a := 1, b := 0, c := 0, sa := true, m := 0, mz := false, imm := 0 }

/-- The save area lies in banks 8 to 32. -/
theorem scratch_area_storeOutstanding : Scratch storeOutstanding 0xFFFFF00000010000 0x31800 := by
  refine ⟨rfl, by decide, by decide, by decide, fun b hlo hhi => ?_⟩
  have hb : 8 ≤ b := hlo
  have hb' : b ≤ 32 := hhi
  interval_cases b <;> rfl

theorem areaReady_storeOutstanding : AreaReady storeOutstanding areaInS1 := by
  refine ⟨rfl, ?_, by decide, noCopies_storeOutstanding, orderReady_storeOutstanding, rfl, rfl,
    scratch_area_storeOutstanding⟩
  unfold Free
  decide

/-- The PC of the next state. -/
def pcAfter : Result → Option Word
  | .next t => some t.h.pc
  | _ => none

/-- VSAVE stays at its PC. -/
theorem pcAfter_vsave : pcAfter (exec (.vsave areaInS1) storeOutstanding) = some 0 := by decide +kernel

end Sys2Proof.Machine

namespace Sys2Proof

open Machine Claim

/-- Refutes O40: under `mo` = 2 at a scope below system a VSAVE waits for the hart's outstanding remote writes before its
first part (R326), which `OrderReady` asks to be none at system scope alone. -/
theorem not_contextInstructions : ¬ Obligations.ContextInstructions := by
  unfold Obligations.ContextInstructions
  rintro ⟨hsave, -⟩
  obtain ⟨t, ht, hpc, -⟩ := hsave storeOutstanding areaInS1 areaReady_storeOutstanding rfl (by decide) (by decide)
  have hstays := pcAfter_vsave
  rw [ht, pcAfter, hpc] at hstays
  exact absurd hstays (by decide)

end Sys2Proof
end

section
/-! Frames of the service steps: what an error record, a rerouting and the retirement of a port or a lane group leave as
it was, and the writes of the host that nothing holds back. -/

namespace Sys2Proof.Machine

/-! ## Operands -/

theorem arg_zero {s : State} {x : Nat} {l : List Nat} (h : s.args = x :: l) : arg s 0 = x := by rw [arg, h]; rfl

theorem arg_succ {s : State} {x : Nat} {l : List Nat} (h : s.args = x :: l) (n : Nat) : arg s (n + 1) = l.getD n 0 := by
  rw [arg, h]; rfl

/-! ## Writes of the host in their order (R222, R426) -/

theorem inHostOrder_of_no_link {s : State} (h : s.bootPhase = 0) (off n val : Nat) (effect : State → State) :
    inHostOrder off n val effect s = s := by
  simp [inHostOrder, hostLink, h]

theorem inHostOrder_of_none_posted {s : State} (hboot : s.bootPhase ≠ 0) (hposted : s.posted = []) (off n val : Nat)
    (effect : State → State) : inHostOrder off n val effect s = effect s := by
  simp [inHostOrder, hostLink, hboot, hposted]

/-! ## Error records (R374) -/

/-- A record changes its die's queue, and what a snapshot, an interrupt or an MSI-X changes. -/
theorem postErr_frame (d cls unit place syndrome : Nat) (element lane : Option Nat) (s : State) :
    let t := postErr d cls unit place syndrome element lane s
    t = { s with dies := t.dies, h := t.h, others := t.others, snapId := t.snapId, snapPending := t.snapPending,
                 snapLow := t.snapLow, msix := t.msix } := by
  unfold postErr raiseIrq setHart
  dsimp only
  (repeat' split) <;> rfl

section
variable (d cls unit place syndrome : Nat) (element lane : Option Nat) (s : State)

@[simp] theorem postErr_ports : (postErr d cls unit place syndrome element lane s).ports = s.ports :=
  (congrArg State.ports (postErr_frame d cls unit place syndrome element lane s) :)

@[simp] theorem postErr_cores : (postErr d cls unit place syndrome element lane s).cores = s.cores :=
  (congrArg State.cores (postErr_frame d cls unit place syndrome element lane s) :)

@[simp] theorem postErr_poison : (postErr d cls unit place syndrome element lane s).poison = s.poison :=
  (congrArg State.poison (postErr_frame d cls unit place syndrome element lane s) :)

@[simp] theorem postErr_correctable : (postErr d cls unit place syndrome element lane s).correctable = s.correctable :=
  (congrArg State.correctable (postErr_frame d cls unit place syndrome element lane s) :)

@[simp] theorem postErr_retiredRows : (postErr d cls unit place syndrome element lane s).retiredRows = s.retiredRows :=
  (congrArg State.retiredRows (postErr_frame d cls unit place syndrome element lane s) :)

end

/-! ## Ports that go down or retire (R233, R430, R433) -/

/-- The ports and the memory are as they were: what travels on, or is lost, as a port goes changes neither. -/
def KeepsPortsAndMem (s t : State) : Prop := t.ports = s.ports ∧ t.mem = s.mem

theorem remoteWriteDone_keeps (r : Remote) (s : State) : KeepsPortsAndMem s (remoteWriteDone r s) := by
  unfold remoteWriteDone
  dsimp only
  (repeat' split) <;> simp [KeepsPortsAndMem]

theorem rerouteOne_keeps (r : Remote) (s : State) : KeepsPortsAndMem s (rerouteOne r s) := by
  obtain ⟨hports, hmem⟩ := remoteWriteDone_keeps r { s with remotes := s.remotes.filter (·.id != r.id) }
  unfold rerouteOne
  dsimp only
  (repeat' split) <;> simp [KeepsPortsAndMem, postErr_mem, hports, hmem]

theorem reroute_keeps (p : Nat) (s : State) : KeepsPortsAndMem s (reroute p s) :=
  List.foldlRecOn (motive := KeepsPortsAndMem s) _ _ ⟨rfl, rfl⟩ fun t ht r _ =>
    ⟨(rerouteOne_keeps r t).1.trans ht.1, (rerouteOne_keeps r t).2.trans ht.2⟩

theorem retirePort_mem (p : Nat) (s : State) : (retirePort p s).mem = s.mem := by
  unfold retirePort
  dsimp only
  split
  · rfl
  · rw [postErr_mem, countErr_mem, (reroute_keeps p _).2, setPort_mem]

theorem retirePort_state {p : Nat} (hp : p < 72) (s : State) : (getPort (retirePort p s) p).state = 3 := by
  unfold retirePort
  dsimp only
  split
  next h => exact h.resolve_right (by omega)
  next =>
    rw [getPort, postErr_ports, countErr_ports, (reroute_keeps p _).1]
    exact congrArg Port.state (getPort_setPort ..)

/-! ## Lane groups that retire (R375) -/

theorem stopEmptySlots_cores (c : Nat) (s : State) : (stopEmptySlots c s).cores = s.cores := by
  unfold stopEmptySlots
  refine List.foldlRecOn (motive := fun t : State => t.cores = s.cores) _ _ rfl fun t ht slot _ => ?_
  dsimp only
  split
  · exact (setHart_cores ..).trans ht
  · exact ht

theorem retireGroup_retires {g : Nat} (hg : g < 8) (c : Nat) (s : State) :
    (getCore (retireGroup c g s) c).retiredGroups.getLsbD g = true := by
  unfold retireGroup
  dsimp only
  split
  next h => simpa [Nat.not_le.mpr hg] using h
  next =>
    rw [getCore, stopEmptySlots_cores, postErr_cores, countErr_cores]
    change (getCore (setCore c _ s) c).retiredGroups.getLsbD g = true
    rw [getCore_setCore]
    rw [BitVec.getLsbD_or, BitVec.getLsbD_ofNat, Nat.testBit_two_pow_self]
    simp [hg]

end Sys2Proof.Machine
end

section
/-! SCRUB_ROW (R432, R394): corrections and poison syndromes keep what they do not write, and each granule of the row is
corrected or poisoned. -/

namespace Sys2Proof.Machine

/-! ## What a scrubbed row leaves -/

/-- What corrections and poison syndromes of a row's granules leave of a state: memory, the poisoned granules, and no
new correctable one; those of other rows stay, unless a row has been retired, whose copy is correct. -/
structure Scrubs (inRow : Nat → Prop) (s t : State) : Prop where
  mem : t.mem = s.mem
  poison : s.poison ⊆ t.poison
  correctable : t.correctable ⊆ s.correctable
  retired : s.retiredRows <+: t.retiredRows
  others : t.retiredRows = s.retiredRows → ∀ g ∈ s.correctable, ¬ inRow g → g ∈ t.correctable

variable {inRow : Nat → Prop} {s t u : State}

theorem Scrubs.refl (inRow : Nat → Prop) (s : State) : Scrubs inRow s s :=
  ⟨rfl, List.Subset.refl _, List.Subset.refl _, List.prefix_rfl, fun _ _ hg _ => hg⟩

/-- Rows that are retired stay retired, so a state between two that have retired the same rows has retired those too. -/
theorem Scrubs.trans (hst : Scrubs inRow s t) (htu : Scrubs inRow t u) : Scrubs inRow s u where
  mem := htu.mem.trans hst.mem
  poison := List.Subset.trans hst.poison htu.poison
  correctable := List.Subset.trans htu.correctable hst.correctable
  retired := hst.retired.trans htu.retired
  others heq g hg hrow := by
    have hmid : t.retiredRows = s.retiredRows :=
      (hst.retired.eq_of_length_le (heq ▸ htu.retired.length_le)).symm
    exact htu.others (heq.trans hmid.symm) g (hst.others hmid g hg hrow) hrow

theorem Scrubs.foldl {f : State → Nat → State} {l : List Nat} (hf : ∀ s, ∀ g ∈ l, Scrubs inRow s (f s g)) (s : State) :
    Scrubs inRow s (l.foldl f s) :=
  List.foldlRecOn (motive := Scrubs inRow s) _ _ (.refl _ _) fun t ht g hg => ht.trans (hf t g hg)

/-- A record changes none of it. -/
theorem Scrubs.postErr (h : Scrubs inRow s t) (d cls unit place syndrome : Nat) :
    Scrubs inRow s (Machine.postErr d cls unit place syndrome none none t) where
  mem := (postErr_mem ..).trans h.mem
  poison := by rw [postErr_poison]; exact h.poison
  correctable := by rw [postErr_correctable]; exact h.correctable
  retired := by rw [postErr_retiredRows]; exact h.retired
  others := by rw [postErr_retiredRows, postErr_correctable]; exact h.others

/-- A row that retires is one more. -/
theorem retireRow_scrubs (inRow : Nat → Prop) (key : Nat) (s : State) : Scrubs inRow s (retireRow key s) := by
  unfold retireRow
  dsimp only
  split
  · exact .refl _ _
  · refine Scrubs.postErr ?_ _ _ _ _ _
    exact ⟨rfl, List.Subset.refl _, List.filter_sublist.subset, List.prefix_append .., fun h =>
      absurd (congrArg List.length h) (by simp [copyRow])⟩

theorem scoreRow_scrubs (inRow : Nat → Prop) (key base : Nat) (s : State) : Scrubs inRow s (scoreRow key base s) := by
  have hscored : Scrubs inRow s { s with hotRows := hotAfter key base (timerOf s (rowStack key / 2)) s.hotRows } :=
    ⟨rfl, List.Subset.refl _, List.Subset.refl _, List.prefix_rfl, fun _ _ hg _ => hg⟩
  unfold scoreRow
  dsimp only
  split
  · exact hscored.trans (retireRow_scrubs ..)
  · exact hscored

/-- An error that is counted, recorded and scored, after what was done to its granule. -/
theorem Scrubs.error {key base i d cls unit place syndrome : Nat} (h : Scrubs inRow s t) :
    Scrubs inRow s (scoreRow key base (Machine.postErr d cls unit place syndrome none none (countErr i t))) := by
  have hcounted : Scrubs inRow s (countErr i t) := ⟨h.mem, h.poison, h.correctable, h.retired, h.others⟩
  exact (hcounted.postErr ..).trans (scoreRow_scrubs ..)

/-! ## One granule -/

theorem scrubCorrect_scrubs {g : Nat} (hg : inRow g) (s : State) : Scrubs inRow s (scrubCorrect g s) := by
  refine Scrubs.error ⟨rfl, List.Subset.refl _, List.filter_sublist.subset, List.prefix_rfl, fun _ y hy hrow => ?_⟩
  exact List.mem_filter.2 ⟨hy, by simpa using fun h : y = g => hrow (h ▸ hg)⟩

theorem not_mem_scrubCorrect (g : Nat) (s : State) : g ∉ (scrubCorrect g s).correctable := by
  intro hmem
  have hkept : g ∈ s.correctable.filter (· != g) :=
    (Scrubs.refl (fun _ => True) { s with correctable := s.correctable.filter (· != g) }).error.correctable hmem
  simp at hkept

theorem mem_insertNat (x y : Nat) (l : List Nat) : y ∈ insertNat x l ↔ y = x ∨ y ∈ l := by
  induction l with
  | nil => simp [insertNat]
  | cons z l ih =>
    unfold insertNat
    split
    next h => simp [h]
    next =>
      split
      · simp
      · rw [List.mem_cons, ih, List.mem_cons]; exact or_left_comm

theorem scrubPoison_scrubs {g : Nat} (hg : inRow g) (s : State) : Scrubs inRow s (scrubPoison g s) := by
  refine Scrubs.error ⟨rfl, fun y hy => (mem_insertNat ..).2 (.inr hy), List.filter_sublist.subset, List.prefix_rfl,
    fun _ y hy hrow => ?_⟩
  exact List.mem_filter.2 ⟨hy, by simpa using fun h : y = g => hrow (h ▸ hg)⟩

theorem mem_scrubPoison (g : Nat) (s : State) : g ∈ (scrubPoison g s).poison :=
  (Scrubs.refl (fun _ => True) (setPoison g s)).error.poison ((mem_insertNat ..).2 (.inl rfl))

/-! ## All granules -/

/-- What each step of a fold makes true of its own element, and every step keeps, holds of all elements in the end. -/
theorem foldl_holds_of_mem {α : Type} {f : State → α → State} {p : α → State → Prop} (hset : ∀ s x, p x (f s x))
    (hkeep : ∀ s x y, p x s → p x (f s y)) {l : List α} {x : α} (hx : x ∈ l) (s : State) : p x (l.foldl f s) := by
  induction l generalizing s with
  | nil => exact absurd hx List.not_mem_nil
  | cons y l ih =>
    rcases List.mem_cons.1 hx with rfl | hx
    · exact List.foldlRecOn (motive := p x) l f (hset s x) fun t ht y _ => hkeep t x y ht
    · exact ih hx _

/-- The row whose granules are scrubbed, as the key under which the scrubber finds them. -/
def scrubbedRow (stack row : Nat) : Nat := stack * 2 ^ 45 + row % 2 ^ 45

/-- SCRUBCTL of a stack (R230). -/
def scrubControl (s : State) (stack : Nat) : Nat :=
  if stack % 2 = 0 then (getDie s (stack / 2)).scrub0 else (getDie s (stack / 2)).scrub1

/-- The granules of a row, corrected and then poisoned. -/
def rowScrubbed (key : Nat) (s : State) : State :=
  ((s.detected.map fun p => p.1).filter (rowKey s · == key)).foldl (fun s g => scrubPoison g s)
    ((s.correctable.filter (rowKey s · == key)).foldl (fun s g => scrubCorrect g s) s)

/-- A correctable granule of the row is corrected, an uncorrectable one is poisoned, and the rest is kept. -/
theorem rowScrubbed_scrubs (key : Nat) (s : State) :
    Scrubs (rowKey s · = key) s (rowScrubbed key s) ∧
    (∀ g, rowKey s g = key → g ∉ (rowScrubbed key s).correctable) ∧
    (∀ g y, (g, y) ∈ s.detected → rowKey s g = key → g ∈ (rowScrubbed key s).poison) := by
  have hcorrect : Scrubs (rowKey s · = key) s
      ((s.correctable.filter (rowKey s · == key)).foldl (fun s g => scrubCorrect g s) s) :=
    .foldl (fun t g hg => scrubCorrect_scrubs (by simpa using (List.mem_filter.1 hg).2) t) s
  have hpoison (t : State) : Scrubs (rowKey s · = key) t
      (((s.detected.map fun p => p.1).filter (rowKey s · == key)).foldl (fun s g => scrubPoison g s) t) :=
    .foldl (fun t g hg => scrubPoison_scrubs (by simpa using (List.mem_filter.1 hg).2) t) t
  refine ⟨hcorrect.trans (hpoison _), fun g hrow hg => ?_, fun g y hg hrow => ?_⟩
  · have hlisted : g ∈ s.correctable.filter (rowKey s · == key) :=
      List.mem_filter.2 ⟨hcorrect.correctable ((hpoison _).correctable hg), by simpa using hrow⟩
    exact foldl_holds_of_mem (p := fun g t => g ∉ t.correctable) (fun t g => not_mem_scrubCorrect g t)
      (fun t _ g hnot hmem => hnot ((scrubCorrect_scrubs (inRow := fun _ => True) (g := g) trivial t).correctable hmem))
      hlisted s ((hpoison _).correctable hg)
  · have hlisted : g ∈ (s.detected.map fun p => p.1).filter (rowKey s · == key) :=
      List.mem_filter.2 ⟨List.mem_map.2 ⟨_, hg, rfl⟩, by simpa using hrow⟩
    exact foldl_holds_of_mem (p := fun g t => g ∈ t.poison) (fun t g => mem_scrubPoison g t)
      (fun t _ g hmem => (scrubPoison_scrubs (inRow := fun _ => True) (g := g) trivial t).poison hmem) hlisted _

/-- The step is the row's scrubbing when its stack's scrubber is enabled, and nothing otherwise. -/
theorem exec_scrubRow {stack row : Nat} (hargs : s.args = [stack, row]) : exec .scrubRow s =
    .next (if scrubControl s stack % 2 = 1 then rowScrubbed (scrubbedRow stack row) s else s) := by
  show execScrubRow s = _
  unfold execScrubRow
  rw [arg_zero hargs, arg_succ hargs]
  simp only [bitAt, Nat.testBit_zero, decide_eq_true_eq]
  rfl

end Sys2Proof.Machine
end

section
/-! The other steps of service: scores (R230, R394), self-test (R229), retirement (R231, R375, R433) and ports (R233, R430). -/

namespace Sys2Proof.Machine

variable {s : State} {x : Nat} {l : List Nat}

/-! ## The go bit of a write -/

/-- Bits below bit 63 are those of the value without go. -/
theorem bitsGet_or_go (v : Nat) {pos len : Nat} (h : pos + len ≤ 63) :
    bitsGet (v ||| 2 ^ 63) pos len = bitsGet v pos len := by
  refine Nat.eq_of_testBit_eq fun k => ?_
  rw [testBit_bitsGet, testBit_bitsGet, Nat.testBit_or, Nat.testBit_two_pow]
  by_cases hk : k < len
  · simp [show ¬ 63 = pos + k by omega]
  · simp [hk]

theorem or_go_mod (v : Nat) {n : Nat} (h : n ≤ 63) : (v ||| 2 ^ 63) % 2 ^ n = v % 2 ^ n :=
  bitsGet_or_go v (pos := 0) (by omega)

theorem bitAt_or_go (v : Nat) : bitAt (v ||| 2 ^ 63) 63 = true := by
  rw [bitAt, Nat.testBit_or, Nat.testBit_two_pow_self, Bool.or_true]

/-! ## Scores (R230, R394) -/

theorem exec_scoreHalving (hargs : s.args = x :: l) (hx : x < 8) : exec .scoreHalving s = .next (halveScores x s) := by
  show execScoreHalving s = _
  rw [execScoreHalving, arg_zero hargs, if_pos hx]

theorem halveScores_of_none_due (h : halvingsDue s x = 0) : halveScores x s = s := if_pos h

theorem halveScores_of_due (h : halvingsDue s x ≠ 0) : halveScores x s =
    { setDie x { getDie s x with halved := (getDie s x).halved + halvingsDue s x * halfLife s x } s with
      hotRows := s.hotRows.map fun y =>
        if rowStack y.1 / 2 = x then (y.1, y.2.1 / 2 ^ halvingsDue s x, y.2.2) else y } := if_neg h

/-! ## Self-test (R229) -/

section
variable (hboot : s.bootPhase ≠ 0) (hposted : s.posted = [])
include hboot hposted

theorem exec_bistctlGo {code : Nat} (hargs : s.args = [x, code]) :
    exec .bistctlGo s = .next (writeBistctl x (code ||| 2 ^ 63) s) := by
  show execBistctlGo s = _
  rw [execBistctlGo, inHostOrder_of_none_posted hboot hposted, arg_zero hargs, arg_succ hargs]
  rfl

end

theorem writeBistctl_of_running (h : (getDie s x).bistRunning = true) (val : Nat) : writeBistctl x val s = hostErr s :=
  if_pos h

/-- With go set, the self-test starts on the whole die that no region holds or on a retired unit, and on no other. -/
theorem writeBistctl_go {code : Nat} (hcode : code < 2 ^ 24) (h : (getDie s x).bistRunning = false) :
    writeBistctl x (code ||| 2 ^ 63) s =
      if (code == 0 && !dieBound s x) || (unitExists code && unitRetired code s) then
        setDie x { getDie s x with bistUnit := code, bistRunning := true, bistResult := 0, bistStatUnit := code } s
      else setDie x { getDie s x with bistUnit := code, bistResult := 2, bistStatUnit := code } s := by
  have hunit : (code ||| 2 ^ 63) % 2 ^ 24 = code := by rw [or_go_mod _ (by omega), Nat.mod_eq_of_lt hcode]
  unfold writeBistctl
  simp only [h, hunit, bitAt_or_go, Bool.false_eq_true, if_false, Bool.not_true]

theorem unitExists_zero : unitExists 0 = false := by decide

theorem exec_bistComplete {unit : Nat} (hargs : s.args = [x, unit]) (h : (getDie s x).bistRunning = true) :
    exec .bistComplete s = .next (signalMsix 10 (setDie x { getDie s x with
      bistRunning := false
      bistResult := if unit = 0 then 0 else 1
      bistStatUnit := if unit = 0 then (getDie s x).bistStatUnit else unit % 2 ^ 24 } (failedUnit (unit % 2 ^ 24) s))) := by
  show execBistComplete s = _
  unfold execBistComplete
  rw [arg_zero hargs, arg_succ hargs]
  simp only [h, if_true]
  rfl

theorem signalMsix_getLsbD (n : Nat) (s : State) (j : Nat) :
    (signalMsix n s).msix.getLsbD j = (s.msix.getLsbD j || (decide (j < 11) && decide (n = j))) := by
  show (s.msix ||| BitVec.ofNat 11 (2 ^ n)).getLsbD j = _
  rw [BitVec.getLsbD_or, BitVec.getLsbD_ofNat, Nat.testBit_two_pow]

theorem signalMsix_getLsbD_self {n : Nat} (hn : n < 11) (s : State) : (signalMsix n s).msix.getLsbD n = true := by
  simp [signalMsix_getLsbD, hn]

theorem signalMsix_getLsbD_of_ne {n j : Nat} (hj : j ≠ n) (s : State) : (signalMsix n s).msix.getLsbD j = s.msix.getLsbD j := by
  simp [signalMsix_getLsbD, Ne.symm hj]

@[simp] theorem getDie_signalMsix (n : Nat) (s : State) (d : Nat) : getDie (signalMsix n s) d = getDie s d := rfl

/-! ## RETREQ and RETROW (R230, R231) -/

section
variable (hboot : s.bootPhase ≠ 0) (hposted : s.posted = [])
include hboot hposted

/-- The event of a unit that exists and can be retired stores the request and retires the unit. -/
theorem retreqOf_go {val kind : Nat} (hargs : s.args = [x, val]) (hexists : unitExists (val % 2 ^ 24) = true)
    (hval : val / 2 ^ 20 % 16 = kind) (hkind : kind = 2 ∨ kind = 3 ∨ kind = 7) :
    retreqOf kind s = .next (retireUnit (val ||| 2 ^ 63) (setDie x { getDie s x with retreq := val % 2 ^ 28 } s)) := by
  have hbits : bitsGet (val ||| 2 ^ 63) 20 4 = kind := by rw [bitsGet_or_go _ (by omega), bitsGet_eq_div_mod]; exact hval
  have hlisted : (kind != 2 && kind != 3 && kind != 7) = false := by rcases hkind with rfl | rfl | rfl <;> rfl
  have harg : arg s 1 = val := arg_succ hargs 0
  unfold retreqOf
  rw [harg, arg_zero hargs]
  simp only [hbits, if_true, inHostOrder_of_none_posted hboot hposted, writeRetreq, or_go_mod val (n := 24) (by omega),
    or_go_mod val (n := 28) (by omega), hexists, hlisted, bitAt_or_go, Bool.not_true, Bool.or_false, Bool.false_eq_true,
    if_false]

theorem exec_retrowGo {val : Nat} (hargs : s.args = [x, val]) (hdram : val / 2 ^ 40 % 32 ≤ 23) :
    exec .retrowGo s = .next (retireRow ((2 * x + val / 2 ^ 45 % 2) * 2 ^ 45 + val % 2 ^ 45)
      (setDie x { getDie s x with retrow := val % 2 ^ 46 } s)) := by
  have hbits : ¬ 23 < bitsGet val 40 5 := by rw [bitsGet_eq_div_mod]; omega
  have harg : arg s 1 = val := arg_succ hargs 0
  show execRetrowGo s = _
  rw [execRetrowGo, inHostOrder_of_none_posted hboot hposted, arg_zero hargs, harg, writeRetrow]
  simp only [bitsGet_or_go val (pos := 40) (len := 5) (by omega), bitsGet_or_go val (pos := 45) (len := 1) (by omega), hbits,
    or_go_mod val (n := 45) (by omega), or_go_mod val (n := 46) (by omega), bitAt_or_go, if_false, if_true,
    bitsGet_eq_div_mod val 45 1, pow_one]

end

section
variable {val : Nat} (hexists : unitExists (val % 2 ^ 24) = true)
include hexists

theorem retireUnit_laneGroup (hkind : val / 2 ^ 20 % 16 = 2) (s : State) : retireUnit (val ||| 2 ^ 63) s =
    retireGroup (codeCore (val % 2 ^ 24)) (val / 2 ^ 7 % 8) s := by
  have hbits : bitsGet (val % 2 ^ 24) 20 4 = 2 := by rw [bitsGet_eq_div_mod]; omega
  have hgroup : bitsGet (val % 2 ^ 24) 7 3 = val / 2 ^ 7 % 8 := by rw [bitsGet_eq_div_mod]; omega
  simp only [retireUnit, or_go_mod val (n := 24) (by omega), hexists, hbits, hgroup, Bool.not_true,
    Bool.false_eq_true, if_false]

theorem retireUnit_sliceWay (hkind : val / 2 ^ 20 % 16 = 3) (s : State) : retireUnit (val ||| 2 ^ 63) s =
    retireWay (val / 2 ^ 17 % 8) (val % 2 ^ 6) (val / 2 ^ 24 % 16) s := by
  have hbits : bitsGet (val % 2 ^ 24) 20 4 = 3 := by rw [bitsGet_eq_div_mod]; omega
  have hdie : bitsGet (val % 2 ^ 24) 17 3 = val / 2 ^ 17 % 8 := by rw [bitsGet_eq_div_mod]; omega
  have hslice : bitsGet (val % 2 ^ 24) 0 6 = val % 2 ^ 6 := by rw [bitsGet_eq_div_mod]; omega
  have hway : bitsGet (val ||| 2 ^ 63) 24 4 = val / 2 ^ 24 % 16 :=
    (bitsGet_or_go val (by omega)).trans (bitsGet_eq_div_mod ..)
  simp only [retireUnit, or_go_mod val (n := 24) (by omega), hexists, hbits, hdie, hslice, hway,
    Bool.not_true, Bool.false_eq_true, if_false]

theorem retireUnit_linkPort (hkind : val / 2 ^ 20 % 16 = 7) (s : State) :
    retireUnit (val ||| 2 ^ 63) s = retirePort (val % 2 ^ 7) s := by
  have hbits : bitsGet (val % 2 ^ 24) 20 4 = 7 := by rw [bitsGet_eq_div_mod]; omega
  have hport : bitsGet (val % 2 ^ 24) 0 7 = val % 2 ^ 7 := by rw [bitsGet_eq_div_mod]; omega
  simp only [retireUnit, or_go_mod val (n := 24) (by omega), hexists, hbits, hport, Bool.not_true,
    Bool.false_eq_true, if_false]

/-- A code of kind 7 that names a unit names one of the 72 ports. -/
theorem port_lt_of_unitExists (hkind : val / 2 ^ 20 % 16 = 7) : val % 2 ^ 7 < 72 := by
  have hbits : bitsGet (val % 2 ^ 24) 20 4 = 7 := by rw [bitsGet_eq_div_mod]; omega
  simp only [unitExists, hbits, Bool.and_eq_true, decide_eq_true_eq, bitsGet_eq_div_mod] at hexists
  omega

end

/-! ## Ports (R233, R430) -/

section
variable (hargs : s.args = x :: l) (hboot : s.bootPhase ≠ 0) (hposted : s.posted = [])
include hargs hboot hposted

theorem exec_portctlRetire : exec .portctlRetire s = .next (retirePort x s) := by
  show execPortctlRetire s = _
  rw [execPortctlRetire, inHostOrder_of_none_posted hboot hposted, arg_zero hargs]
  rfl

theorem exec_portctlTrain : exec .portctlTrain s = .next
    (if (getPort s x).state = 3 then setPort x { getPort s x with state := 1, enable := true } s else s) := by
  show execPortctlTrain s = _
  rw [execPortctlTrain, inHostOrder_of_none_posted hboot hposted, arg_zero hargs]
  rfl

end

theorem exec_portTrainingDone {up dev port : Nat} (hargs : s.args = [x, up, dev, port]) (h : (getPort s x).state = 1) :
    exec .portTrainingDone s = .next (if up = 0 then setPort x { getPort s x with state := 0 } s
      else setPort x { getPort s x with
        state := 2, peerDev := if dev ≤ 72 then dev else 0xFF, peerPort := port % 2 ^ 7 } s) := by
  show execPortTrainingDone s = _
  unfold execPortTrainingDone
  simp only [arg, hargs, List.getD_cons_zero, List.getD_cons_succ, h, if_true]

theorem exec_portDown (hargs : s.args = x :: l) (h : (getPort s x).state = 1 ∨ (getPort s x).state = 2) :
    exec .portDown s = .next (reroute x (setPort x { getPort s x with state := 0 } s)) := by
  show execPortDown s = _
  unfold execPortDown
  simp only [arg_zero hargs, h, if_true]

/-- The times of the flits sent again within the last second. -/
def recentRetries (s : State) (p : Nat) : List Nat := (getPort s p).recent.filter fun t => timerOf s 0 - t < 1000000000

theorem exec_flitCrcRetry (hargs : s.args = x :: l) (h : (recentRetries s x).length + 1 < 2 ^ 20) :
    exec .flitCrcRetry s = .next (setPort x { getPort s x with
      retries := ((getPort s x).retries + 1) % 2 ^ 32, recent := recentRetries s x ++ [timerOf s 0] } s) := by
  show execFlitCrcRetry s = _
  unfold execFlitCrcRetry
  rw [arg_zero hargs]
  refine congrArg _ (if_neg ?_)
  rw [List.length_append]
  exact Nat.not_le.2 h

end Sys2Proof.Machine

namespace Sys2Proof

open Machine

/-- Settles O49: each clause is what its step's lemma says of it, and a write of the host needs the port's link. -/
theorem serviceStepsComplete : Obligations.ServiceStepsComplete := by
  unfold Obligations.ServiceStepsComplete
  intro s x l hargs hposted k p
  refine ⟨?scrub, ?halving, ?bist, ?bistEnds, ?retreq, ?retrow, ?noLink, ?retire, ?train, ?noTrain, ?trained, ?down, ?retry⟩
  case scrub =>
    rintro row rfl ctl key
    have hexec : exec .scrubRow s = .next (if ctl % 2 = 1 then rowScrubbed key s else s) := exec_scrubRow hargs
    refine ⟨fun hon => ?_, fun hoff => ?_⟩
    · obtain ⟨hkept, hcorrected, hpoisoned⟩ := rowScrubbed_scrubs key s
      exact ⟨_, hexec.trans (by rw [if_pos hon]), hkept.mem, hcorrected, hkept.correctable, hpoisoned, hkept.poison,
        hkept.others⟩
    · rw [hexec, if_neg (by omega)]
  case halving =>
    intro hx life n
    rw [exec_scoreHalving hargs hx]
    exact ⟨fun hn => congrArg _ (halveScores_of_none_due hn), fun hn => congrArg _ (halveScores_of_due hn)⟩
  case bist =>
    rintro code rfl hcode
    have hexec (hboot : s.bootPhase ≠ 0) := exec_bistctlGo hboot hposted hargs
    refine ⟨fun hboot hrun => ?_, fun hboot hidle hexists hretired => ?_, fun hboot hidle hne hserves => ?_,
      fun hboot hidle hzero => ?_⟩
    · rw [hexec hboot, writeBistctl_of_running hrun]
    · rw [hexec hboot, writeBistctl_go hcode hidle, if_pos (by simp [hexists, hretired])]
      exact ⟨_, rfl, rfl⟩
    · rw [hexec hboot, writeBistctl_go hcode hidle, if_neg (by simp [hne, hserves])]
      exact ⟨_, rfl, rfl⟩
    · subst hzero
      refine ⟨_, by rw [hexec hboot, writeBistctl_go hcode hidle], ?_⟩
      cases hbound : dieBound s x with
      | false => simp
      | true => simpa [unitExists_zero] using hidle
  case bistEnds =>
    rintro unit rfl hrun
    refine ⟨_, exec_bistComplete hargs hrun, ?_, signalMsix_getLsbD_self (by omega) _, ?_, ?_⟩ <;>
      rw [getDie_signalMsix, getDie_setDie]
  case retreq =>
    rintro val rfl hboot hexists written kind
    have hexec (hkind : kind = 2 ∨ kind = 3 ∨ kind = 7) := retreqOf_go hboot hposted hargs hexists rfl hkind
    refine ⟨fun hkind => ?_, fun hkind => ?_, fun hkind => ?_⟩
    · have hgo := hexec (.inl hkind)
      rw [retireUnit_laneGroup hexists hkind, show val / 2 ^ 20 % 16 = 2 from hkind] at hgo
      exact ⟨_, hgo, retireGroup_retires (by omega) _ _⟩
    · have hgo := hexec (.inr (.inl hkind))
      rw [retireUnit_sliceWay hexists hkind, show val / 2 ^ 20 % 16 = 3 from hkind] at hgo
      exact hgo
    · have hgo := hexec (.inr (.inr hkind))
      rw [retireUnit_linkPort hexists hkind, show val / 2 ^ 20 % 16 = 7 from hkind] at hgo
      exact ⟨_, hgo, retirePort_state (port_lt_of_unitExists hexists hkind) _⟩
  case retrow =>
    rintro val rfl hboot hdram
    exact exec_retrowGo hboot hposted hargs hdram
  case noLink =>
    intro hboot
    exact ⟨congrArg _ (inHostOrder_of_no_link hboot ..), congrArg _ (inHostOrder_of_no_link hboot ..),
      congrArg _ (inHostOrder_of_no_link hboot ..), congrArg _ (inHostOrder_of_no_link hboot ..)⟩
  case retire =>
    intro hx hboot
    exact ⟨_, exec_portctlRetire hargs hboot hposted, retirePort_state hx s, retirePort_mem x s⟩
  case train =>
    intro hboot hstate
    rw [exec_portctlTrain hargs hboot hposted, if_pos hstate]
  case noTrain =>
    intro hstate
    by_cases hboot : s.bootPhase = 0
    · exact congrArg _ (inHostOrder_of_no_link hboot ..)
    · rw [exec_portctlTrain hargs hboot hposted, if_neg hstate]
  case trained =>
    rintro up dev port rfl hstate
    rw [exec_portTrainingDone hargs hstate]
    exact ⟨fun hup => by rw [if_pos hup], fun hup hdev => by rw [if_neg hup, if_pos hdev]⟩
  case down =>
    intro hstate
    obtain ⟨hports, hmem⟩ := reroute_keeps x (setPort x { getPort s x with state := 0 } s)
    refine ⟨_, exec_portDown hargs hstate, ?_, hmem⟩
    rw [getPort, hports]
    exact congrArg Port.state (getPort_setPort ..)
  case retry =>
    intro hfew
    refine ⟨_, exec_flitCrcRetry hargs hfew, ?_, ?_, rfl⟩ <;> rw [getPort_setPort]

end Sys2Proof
end

section
/-! Register writes of the host and of supervisor harts (R221, R223, R225, R227), and snapshots (R215, R232, R434). -/

namespace Sys2Proof.Machine

variable {s : State} {x : Nat} {l : List Nat}

/-! ## Where a write of eight aligned bytes goes (R220, R221) -/

theorem bar0Write_of_not_aligned {off n : Nat} (h : n ≠ 8 ∨ off % 8 ≠ 0) (val : Nat) (s : State) :
    bar0Write off n val s = hostErr s := if_neg (by omega)

theorem bar0Write_global {off : Nat} (hoff : off < 0x100000) (haligned : off % 8 = 0) (val : Nat) (s : State) :
    bar0Write off 8 val s = hostGlobalWrite off (val % 2 ^ 64) s := by
  rw [bar0Write, if_pos ⟨rfl, haligned⟩, hostRegWrite, if_pos hoff]

theorem bar0Write_die {d off : Nat} (hd : d < 8) (hoff : off < 0x100000) (haligned : off % 8 = 0) (val : Nat) (s : State) :
    bar0Write (dieBlock d + off) 8 val s = hostDieWrite d off (val % 2 ^ 64) s := by
  have hblock : dieBlock d + off = 0x1000000 + d * 0x100000 + off := rfl
  have hdie : (dieBlock d + off - 0x1000000) / 0x100000 = d := by omega
  have hregister : (dieBlock d + off) % 0x100000 = off := by omega
  rw [bar0Write, if_pos ⟨rfl, by omega⟩, hostRegWrite, if_neg (by omega), if_pos (by omega), hdie, hregister]

/-! ## The mailbox (R225) -/

theorem writeLaunch_of_full (h : (getDie s x).launch ≠ 0) (val : Nat) :
    writeLaunch x val s = setDie x { getDie s x with overrun := true } s := if_pos h

theorem writeLaunch_of_empty (h : (getDie s x).launch = 0) (val : Nat) : writeLaunch x val s =
    if val ≠ 0 ∧ val % 256 = 0 ∧ val < 2 ^ 48 ∧ isDevicePa val then
      setDie x { getDie s x with launch := val, accepted := ((getDie s x).accepted + 1) % 2 ^ 32 } s
    else setDie x { getDie s x with code := 2 } s := if_neg (not_not_intro h)

/-- A supervisor hart's load of LTAKE empties the mailbox into a register of the hart. -/
theorem exec_ltakeLoad {d r : Nat} (hargs : s.args = [x, d, r]) (hsuper : isSuper (getHart s x) = true) (hpos : 0 < r)
    (hr : r < 32) : exec .ltakeLoad s = .next (takeLaunch d (setHart x { getHart s x with
      x := (getHart s x).x.set r (BitVec.ofNat 64 (getDie s d).launch) } s)) := by
  have hset (v : Word) : (getHart s x).x.setIfInBounds r v = (getHart s x).x.set r v :=
    Vector.toArray_inj.1 (dif_pos (by simpa using hr))
  show execLtakeLoad s = _
  unfold execLtakeLoad
  simp only [arg, hargs, List.getD_cons_zero, List.getD_cons_succ, hsuper, if_true, Nat.mod_eq_of_lt hr,
    Nat.ne_of_gt hpos, if_false, hset, word]

theorem getHart_takeLaunch (d n : Nat) (s : State) : getHart (takeLaunch d s) n = getHart s n := rfl

/-! ## LDONE and ERROWN (R225, R227) -/

theorem exec_ldoneWrite {val : Nat} (hargs : s.args = [x, val]) : exec .ldoneWrite s = .next (writeLdone x val s) := by
  show execLdoneWrite s = _
  rw [execLdoneWrite, arg_zero hargs, arg_succ hargs]
  rfl

theorem writeErrown_keeps (d : Nat) (b : Bool) (s : State) :
    getDie (writeErrown d b s) d = { getDie s d with errOwn := b } ∧ (writeErrown d b s).mem = s.mem := by
  unfold writeErrown
  dsimp only
  split <;> simp

/-- A queue that holds a record and passes to the host raises MSI-X 8. -/
theorem writeErrown_signals (hown : (getDie s x).errOwn = false) (hrecord : (getDie s x).errs ≠ []) :
    (writeErrown x true s).msix.getLsbD 8 = true := by
  have hsignals : (true && !(getDie s x).errOwn && !(getDie s x).errs.isEmpty) = true := by simp [hown, hrecord]
  rw [writeErrown, if_pos hsignals]
  exact signalMsix_getLsbD_self (by omega) _

/-! ## Writes of the host that nothing holds back -/

section
variable (hboot : s.bootPhase ≠ 0) (hposted : s.posted = [])
include hboot hposted

theorem hostWrite_of_none_posted (off n val : Nat) : hostWrite off n val s = bar0Write off n val s :=
  inHostOrder_of_none_posted hboot hposted ..

theorem hostWrite_die {off : Nat} (hx : x < 8) (hoff : off < 0x100000) (haligned : off % 8 = 0) (val : Nat) :
    hostWrite (dieBlock x + off) 8 val s = hostDieWrite x off (val % 2 ^ 64) s := by
  rw [hostWrite_of_none_posted hboot hposted, bar0Write_die hx hoff haligned]

theorem hostWrite_global {off : Nat} (hoff : off < 0x100000) (haligned : off % 8 = 0) (val : Nat) :
    hostWrite off 8 val s = hostGlobalWrite off (val % 2 ^ 64) s := by
  rw [hostWrite_of_none_posted hboot hposted, bar0Write_global hoff haligned]

theorem exec_launchWrite {val : Nat} (hargs : s.args = [x, val]) (hval : val < 2 ^ 64) (hx : x < 8) :
    exec .launchWrite s = .next (writeLaunch x val s) := by
  show execLaunchWrite s = _
  have hwrite := hostWrite_die hboot hposted hx (off := 0) (by omega) rfl val
  rw [Nat.mod_eq_of_lt hval, Nat.add_zero, hostDieWrite, if_pos rfl] at hwrite
  rw [execLaunchWrite, arg_zero hargs, arg_succ hargs, List.getD_cons_zero, hwrite]

theorem exec_lstatOverrunClear (hargs : s.args = x :: l) (hx : x < 8) :
    exec .lstatOverrunClear s = .next (setDie x { getDie s x with overrun := false } s) := by
  show execLstatOverrunClear s = _
  rw [execLstatOverrunClear, arg_zero hargs, hostWrite_die hboot hposted hx (by omega) (by omega)]
  rfl

theorem exec_errpopWrite (hargs : s.args = x :: l) (hx : x < 8) : exec .errpopWrite s = .next
    (if (getDie s x).errOwn then setDie x { getDie s x with errs := (getDie s x).errs.tail } s else hostErr s) := by
  show execErrpopWrite s = _
  rw [execErrpopWrite, arg_zero hargs, hostWrite_die hboot hposted hx (by omega) (by omega), ← List.drop_one]
  rfl

theorem exec_errownWrite {val : Nat} (hargs : s.args = [x, val]) :
    exec .errownWrite s = .next (writeErrown x (decide (val % 2 = 1)) s) := by
  show execErrownWrite s = _
  unfold execErrownWrite
  simp only [arg, hargs, List.getD_cons_zero, List.getD_cons_succ, List.getD_nil, if_true, bitAt, Nat.testBit_zero,
    inHostOrder_of_none_posted hboot hposted]

theorem exec_hosterrWrite : exec .hosterrWrite s = .next { s with hosterr := 0 } := by
  show execHosterrWrite s = _
  rw [execHosterrWrite, hostWrite_global hboot hposted (by omega) (by omega)]
  rfl

theorem exec_snaptrigWrite (hargs : s.args = x :: l) :
    exec .snaptrigWrite s = .next (if x % 2 = 1 then fireSnapshot s else s) := by
  have hbit : bitAt (x % 2 ^ 64) 0 = decide (x % 2 = 1) := by
    rw [bitAt, Nat.testBit_zero]; congr 2; omega
  show execSnaptrigWrite s = _
  rw [execSnaptrigWrite, arg_zero hargs, hostWrite_global hboot hposted (by omega) (by omega)]
  show Host.Outcome.next (if bitAt (x % 2 ^ 64) 0 = true then fireSnapshot s else s) = _
  rw [hbit]
  simp only [decide_eq_true_eq]

theorem exec_registerWrite {n val : Nat} (hargs : s.args = [x, n, val]) :
    exec .registerWrite s = .next (bar0Write x n val s) := by
  show execRegisterWrite s = _
  rw [execRegisterWrite, hostWrite_of_none_posted hboot hposted]
  simp only [arg, hargs, List.getD_cons_zero, List.getD_cons_succ]

end

theorem hostWrite_of_no_link (h : s.bootPhase = 0) (off n val : Nat) : hostWrite off n val s = s :=
  inHostOrder_of_no_link h ..

/-- Before the port trains, each write of the host leaves the state as it is. -/
theorem exec_hostWrite_of_no_link (h : s.bootPhase = 0) : ∀ i ∈ [Instr.launchWrite, .lstatOverrunClear, .errpopWrite,
    .hosterrWrite, .snaptrigWrite, .registerWrite], exec i s = .next s := by
  intro i hi
  simp only [List.mem_cons, List.not_mem_nil, or_false] at hi
  rcases hi with rfl | rfl | rfl | rfl | rfl | rfl <;> exact congrArg _ (hostWrite_of_no_link h ..)

/-! ## PWRLIM and SNAPSEL (R223, R232) -/

theorem bar0Write_pwrlim {val : Nat} (hval : val < 2 ^ 16) (s : State) : bar0Write 0x100 8 val s =
    if 1500 ≤ val ∧ val ≤ 4200 then { s with pwrlim := val } else hostErr s := by
  have hfield : val % 2 ^ 64 % 2 ^ 16 = val := by omega
  rw [bar0Write_global (by omega) (by omega)]
  show (if 1500 ≤ val % 2 ^ 64 % 2 ^ 16 ∧ val % 2 ^ 64 % 2 ^ 16 ≤ 4200 then
    { s with pwrlim := val % 2 ^ 64 % 2 ^ 16 } else hostErr s) = _
  rw [hfield]

theorem bar0Write_snapsel (val : Nat) (s : State) : bar0Write 0x210 8 val s = { s with snapSel := val % 2 ^ 24 } := by
  have hfield : val % 2 ^ 64 % 2 ^ 24 = val % 2 ^ 24 := by omega
  rw [bar0Write_global (by omega) (by omega), ← hfield]
  rfl

/-! ## Snapshots (R215, R434) -/

theorem any_snapEn_iff (s : State) : ((upTo 8).any fun d => (getDie s d).snapEn.getLsbD 1) = true ↔
    ∃ d, d < 8 ∧ (getDie s d).snapEn.getLsbD 1 = true := by
  simp only [upTo, List.any_eq_true, List.mem_range]

/-- One die that enables the input is enough. -/
theorem exec_snapinTrigger_of_enabled (h : ∃ d, d < 8 ∧ (getDie s d).snapEn.getLsbD 1 = true) :
    exec .snapinTrigger s = .next (fireSnapshot s) := congrArg _ (if_pos ((any_snapEn_iff s).2 h))

theorem exec_snapinTrigger_of_disabled (h : ∀ d, d < 8 → (getDie s d).snapEn.getLsbD 1 = false) :
    exec .snapinTrigger s = .next s := by
  refine congrArg _ (if_neg fun hany => ?_)
  obtain ⟨d, hd, hon⟩ := (any_snapEn_iff s).1 hany
  exact Bool.false_ne_true ((h d hd).symm.trans hon)

theorem exec_snapshotLatch {t : Nat} {q : List Nat} (h : s.snapPending = t :: q) : exec .snapshotLatch s =
    .next (if t ≤ timerOf s 0 then { s with snapPending := q, snapData := snapWords s } else s) := by
  show execSnapshotLatch s = _
  simp only [execSnapshotLatch, h]

end Sys2Proof.Machine

namespace Sys2Proof

open Machine

/-- Settles O50: the snapshots, and each write by the register it goes to. -/
theorem registerStepsComplete : Obligations.RegisterStepsComplete := by
  unfold Obligations.RegisterStepsComplete
  refine ⟨fun s => ⟨exec_snapinTrigger_of_enabled, exec_snapinTrigger_of_disabled, fun t q hpending => ?_⟩, ?_⟩
  · rw [exec_snapshotLatch hpending]
    exact ⟨fun hdue => by rw [if_pos hdue], fun hearly => by rw [if_neg (by omega)]⟩
  intro s x l hargs hposted k
  refine ⟨exec_hostWrite_of_no_link, ?ltake, ?ldone, fun hboot => ⟨fun hx => ⟨?launch, ?overrun, ?popped, ?notOwned⟩,
    ?errown, exec_hosterrWrite hboot hposted, exec_snaptrigWrite hboot hposted hargs, ?register⟩⟩
  case ltake =>
    rintro d r rfl hsuper hpos hr
    refine ⟨_, exec_ltakeLoad hargs hsuper hpos hr, ?_, ?_, ?_⟩
    · exact congrArg Die.launch (getDie_setDie ..)
    · exact (getHart_takeLaunch ..).trans (getHart_setHart ..)
    · exact setHart_mem ..
  case ldone =>
    rintro val rfl hval hx
    refine ⟨_, exec_ldoneWrite hargs, ?_, signalMsix_getLsbD_self (by omega) _,
      fun j hj => signalMsix_getLsbD_of_ne hj _, rfl⟩
    rw [writeLdone, getDie_signalMsix, getDie_setDie]
    exact Nat.mod_eq_of_lt hval
  case launch =>
    rintro val rfl hval
    rw [exec_launchWrite hboot hposted hargs hval hx]
    refine ⟨fun hempty h0 h256 h48 hdevice => ?_, fun hfull => ?_, fun hempty hbad => ?_⟩
    · rw [writeLaunch_of_empty hempty, if_pos ⟨h0, h256, h48, hdevice⟩]
    · rw [writeLaunch_of_full hfull]
    · rw [writeLaunch_of_empty hempty, if_neg]
      rintro ⟨h0, h256, h48, hdevice⟩
      rcases hbad with h | h | h | h
      · exact h0 h
      · exact h h256
      · exact absurd h48 (Nat.not_lt.2 h)
      · exact absurd hdevice (by simp [h])
  case overrun => exact exec_lstatOverrunClear hboot hposted hargs hx
  case popped =>
    intro hown
    rw [exec_errpopWrite hboot hposted hargs hx, if_pos hown]
  case notOwned =>
    intro hown
    rw [exec_errpopWrite hboot hposted hargs hx, if_neg (by simpa using hown)]
  case errown =>
    rintro val rfl
    obtain ⟨hdie, hmem⟩ := writeErrown_keeps x (decide (val % 2 = 1)) s
    refine ⟨_, exec_errownWrite hboot hposted hargs, by rw [hdie], by rw [hdie],
      fun hset hown hrecord => ?_, hmem⟩
    rw [decide_eq_true hset]
    exact writeErrown_signals hown hrecord
  case register =>
    rintro n val rfl
    rw [exec_registerWrite hboot hposted hargs]
    refine ⟨fun h => by rw [bar0Write_of_not_aligned h], ?_, ?_⟩
    · rintro rfl rfl hval
      rw [bar0Write_pwrlim hval]
    · rintro rfl rfl
      rw [bar0Write_snapsel]

end Sys2Proof
end
